-- ==== Sys2Proof/Word.lean ====
section
/-! DEFINITION. The word types of a Lanhal tile and their plainest arithmetic (spec/00, 02, 05, 07). -/

namespace Sys2Proof

/-- One byte (02:R36, R3: stored little-endian). -/
abbrev Byte := BitVec 8

/-- One instruction word, one vector lane (02:R36, 07:R137). -/
abbrev W32 := BitVec 32

/-- A scalar register x0-x31, a guard mask, a branch target (05:R88). -/
abbrev X := BitVec 64

/-- A vector register: lane i is bits 32i+31:32i (07:R137). -/
abbrev VReg := BitVec 2048

end Sys2Proof
end

