-- ==== Sys2Proof/Syntax.lean ====
section
/-! DEFINITION. The instructions and events of the Camrak Lanhal, one constructor for each row of
spec/opcode_table.json: 199 instructions (spec/02, R45) and 74 events of the part (spec/95). -/

namespace Sys2Proof

/-- The guard fields GN and G of every first word (02:R37). -/
structure Guard where
  neg : Bool
  reg : BitVec 3
  deriving DecidableEq, Repr

/-- The access types of the memory layout, field T (02:R38). -/
inductive MemTy where
  | i8 | i16 | i32 | i64 | n8 | n16 | n32 | n64
  deriving DecidableEq, Repr

/-- The word types of ATOM and MATOM (05:R99, 16:R250). -/
inductive AtomTy where
  | i32 | i64 | n32 | n64
  deriving DecidableEq, Repr

/-- The integer lane types (07:R139). -/
inductive IntTy where
  | i32 | n32
  deriving DecidableEq, Repr

/-- The lane types of compares, reductions and scans (07:R139, R150). -/
inductive LaneTy where
  | i32 | n32 | f32
  deriving DecidableEq, Repr

/-- The shared-exponent block formats (03:R63). -/
inductive SeTy where
  | se2 | se4 | se7
  deriving DecidableEq, Repr

/-- The type codes of 02:R44. -/
inductive Ty where
  | i8 | i16 | i32 | i64 | n8 | n16 | n32 | n64
  | f32 | f16 | bf16 | e4m3 | e5m2 | e2m1 | se2 | se4 | se7 | lut4
  deriving DecidableEq, Repr

/-- The rounding modes of the field RND (02:R41, 03:R60). -/
inductive Rnd where
  | ne | tz | dn | up
  deriving DecidableEq, Repr

/-- The value types of XACC (16:R250). -/
inductive XaccTy where
  | f32 | bf16
  deriving DecidableEq, Repr

/-- How a host read uses the read buffer (17:R279): whether a line may come from it, and how many of the lines that follow are
fetched into it. -/
structure BufferUse where
  buffered : Bool
  prefetch : Nat
  deriving DecidableEq, Repr

/-- The scopes of fences and posts (02:R43, 01:R11). -/
inductive Scope where
  | tile | cluster | die | package | system
  deriving DecidableEq, Repr

/-- Instructions and events. Fields follow the order guard, types and options, destination, sources, immediates;
`_lit` rows carry the 64-bit literal of LEN 01 or 11 (02:R40). An event's arguments are the choices the manual
leaves open at that event, or the names of the parties it concerns. -/
inductive Instr where
  -- scalar (05)
  | add (g : Guard) (d a b : BitVec 5)
  | sub (g : Guard) (d a b : BitVec 5)
  | and (g : Guard) (d a b : BitVec 5)
  | or (g : Guard) (d a b : BitVec 5)
  | xor (g : Guard) (d a b : BitVec 5)
  | andn (g : Guard) (d a b : BitVec 5)
  | shl (g : Guard) (d a b : BitVec 5)
  | shr (g : Guard) (d a b : BitVec 5)
  | sar (g : Guard) (d a b : BitVec 5)
  | rol (g : Guard) (d a b : BitVec 5)
  | min (g : Guard) (d a b : BitVec 5)
  | max (g : Guard) (d a b : BitVec 5)
  | minn (g : Guard) (d a b : BitVec 5)
  | maxn (g : Guard) (d a b : BitVec 5)
  | slt (g : Guard) (d a b : BitVec 5)
  | sltn (g : Guard) (d a b : BitVec 5)
  | seq (g : Guard) (d a b : BitVec 5)
  | clz (g : Guard) (d a : BitVec 5)
  | popc (g : Guard) (d a : BitVec 5)
  | sel (g : Guard) (d a b : BitVec 5)
  | addi (g : Guard) (d a : BitVec 5) (imm : BitVec 10)
  | addiLit (g : Guard) (d a : BitVec 5) (lit : X)
  | li (g : Guard) (d : BitVec 5) (imm : BitVec 10)
  | liLit (g : Guard) (d : BitVec 5) (lit : X)
  | shli (g : Guard) (d a : BitVec 5) (sh : BitVec 6)
  | shri (g : Guard) (d a : BitVec 5) (sh : BitVec 6)
  | sari (g : Guard) (d a : BitVec 5) (sh : BitVec 6)
  | roli (g : Guard) (d a : BitVec 5) (sh : BitVec 6)
  | mul (g : Guard) (d a b : BitVec 5)
  | mulh (g : Guard) (d a b : BitVec 5)
  | mulhn (g : Guard) (d a b : BitVec 5)
  | div (g : Guard) (d a b : BitVec 5)
  | divn (g : Guard) (d a b : BitVec 5)
  | rem (g : Guard) (d a b : BitVec 5)
  | remn (g : Guard) (d a b : BitVec 5)
  | geq (g : Guard) (d : BitVec 3) (a b : BitVec 5)
  | gne (g : Guard) (d : BitVec 3) (a b : BitVec 5)
  | glt (g : Guard) (d : BitVec 3) (a b : BitVec 5)
  | gle (g : Guard) (d : BitVec 3) (a b : BitVec 5)
  | gltn (g : Guard) (d : BitVec 3) (a b : BitVec 5)
  | glen (g : Guard) (d : BitVec 3) (a b : BitVec 5)
  | gand (g : Guard) (d a b : BitVec 3)
  | gor (g : Guard) (d a b : BitVec 3)
  | gxor (g : Guard) (d a b : BitVec 3)
  | gnot (g : Guard) (d a : BitVec 3)
  | gmov (g : Guard) (d a : BitVec 3)
  | gseti (g : Guard) (d : BitVec 3) (lit : X)
  | ld (g : Guard) (t : MemTy) (d a : BitVec 5) (imm : BitVec 7)
  | ldLit (g : Guard) (t : MemTy) (d a : BitVec 5) (lit : X)
  | st (g : Guard) (t : MemTy) (d a : BitVec 5) (imm : BitVec 7)
  | stLit (g : Guard) (t : MemTy) (d a : BitVec 5) (lit : X)
  | atomAdd (g : Guard) (t : AtomTy) (d a b : BitVec 5)
  | atomMin (g : Guard) (t : AtomTy) (d a b : BitVec 5)
  | atomMax (g : Guard) (t : AtomTy) (d a b : BitVec 5)
  | atomXchg (g : Guard) (t : AtomTy) (d a b : BitVec 5)
  | atomCmpxchg (g : Guard) (t : AtomTy) (d a b : BitVec 5)
  | pbr (g : Guard) (d : BitVec 2) (imm : BitVec 10)
  | pbrLit (g : Guard) (d : BitVec 2) (lit : X)
  | br (g : Guard) (d : BitVec 2)
  | call (g : Guard) (d : BitVec 2)
  | ret (g : Guard) (d : BitVec 5)
  | loop (g : Guard) (d : BitVec 5) (imm : BitVec 10)
  | period
  | resync (d : BitVec 5)
  | resyncT (d : BitVec 5)
  | nopn (g : Guard) (imm : BitVec 10)
  | slot (g : Guard) (d : BitVec 5)
  | tbase (g : Guard) (d : BitVec 5)
  | sysr (g : Guard) (d : BitVec 5) (num : BitVec 12)
  | sysw (g : Guard) (d : BitVec 5) (num : BitVec 12)
  | trap (g : Guard) (code : BitVec 10)
  | eret
  | halt (g : Guard)
  -- vector (07)
  | vadd (g : Guard) (t : IntTy) (sat : Bool) (d a b : BitVec 5)
  | vsub (g : Guard) (t : IntTy) (sat : Bool) (d a b : BitVec 5)
  | vand (g : Guard) (t : IntTy) (d a b : BitVec 5)
  | vor (g : Guard) (t : IntTy) (d a b : BitVec 5)
  | vxor (g : Guard) (t : IntTy) (d a b : BitVec 5)
  | vandn (g : Guard) (t : IntTy) (d a b : BitVec 5)
  | vshl (g : Guard) (t : IntTy) (d a b : BitVec 5)
  | vshr (g : Guard) (t : IntTy) (d a b : BitVec 5)
  | vsar (g : Guard) (t : IntTy) (d a b : BitVec 5)
  | vmin (g : Guard) (t : IntTy) (d a b : BitVec 5)
  | vmax (g : Guard) (t : IntTy) (d a b : BitVec 5)
  | vmul (g : Guard) (t : IntTy) (sat : Bool) (d a b : BitVec 5)
  | vmulh (g : Guard) (t : IntTy) (d a b : BitVec 5)
  | vabs (g : Guard) (t : IntTy) (sat : Bool) (d a : BitVec 5)
  | vneg (g : Guard) (t : IntTy) (sat : Bool) (d a : BitVec 5)
  | vfadd (g : Guard) (d a b : BitVec 5)
  | vfsub (g : Guard) (d a b : BitVec 5)
  | vfmul (g : Guard) (d a b : BitVec 5)
  | vfma (g : Guard) (d a b c : BitVec 5)
  | vfmin (g : Guard) (d a b : BitVec 5)
  | vfmax (g : Guard) (d a b : BitVec 5)
  | vfabs (g : Guard) (d a : BitVec 5)
  | vfneg (g : Guard) (d a : BitVec 5)
  | vfdiv (g : Guard) (d a b : BitVec 5)
  | vfsqrt (g : Guard) (d a : BitVec 5)
  | vfexp2 (g : Guard) (d a : BitVec 5)
  | vflog2 (g : Guard) (d a : BitVec 5)
  | vcmpEq (g : Guard) (t : LaneTy) (gd : BitVec 3) (a b : BitVec 5)
  | vcmpNe (g : Guard) (t : LaneTy) (gd : BitVec 3) (a b : BitVec 5)
  | vcmpLt (g : Guard) (t : LaneTy) (gd : BitVec 3) (a b : BitVec 5)
  | vcmpLe (g : Guard) (t : LaneTy) (gd : BitVec 3) (a b : BitVec 5)
  | vsel (g : Guard) (d a b : BitVec 5)
  | vmov (g : Guard) (d a : BitVec 5)
  | vbcast (g : Guard) (d a : BitVec 5)
  | vbcastLit (g : Guard) (d : BitVec 5) (lit : X)
  | vlaneget (g : Guard) (d a : BitVec 5) (n : BitVec 6)
  | vlaneset (g : Guard) (d a : BitVec 5) (n : BitVec 6)
  | vcvt (g : Guard) (td ta : Ty) (rnd : Rnd) (d a : BitVec 5)
  | vpackse (g : Guard) (t : SeTy) (d a : BitVec 5)
  | vunpackse (g : Guard) (t : SeTy) (d a : BitVec 5)
  | vredSum (g : Guard) (t : LaneTy) (sat : Bool) (d a : BitVec 5)
  | vredMin (g : Guard) (t : LaneTy) (d a : BitVec 5)
  | vredMax (g : Guard) (t : LaneTy) (d a : BitVec 5)
  | vredArgmax (g : Guard) (t : LaneTy) (d a : BitVec 5)
  | vredArgmin (g : Guard) (t : LaneTy) (d a : BitVec 5)
  | vredAnd (g : Guard) (d a : BitVec 5)
  | vredOr (g : Guard) (d a : BitVec 5)
  | vredXor (g : Guard) (d a : BitVec 5)
  | vredXsum (g : Guard) (d a : BitVec 5)
  | vscanSum (g : Guard) (t : LaneTy) (sat : Bool) (d a : BitVec 5)
  | vscanMin (g : Guard) (t : LaneTy) (d a : BitVec 5)
  | vscanMax (g : Guard) (t : LaneTy) (d a : BitVec 5)
  | vperm (g : Guard) (d a b : BitVec 5)
  | vrot (g : Guard) (d a : BitVec 5) (n : BitVec 6)
  | vld (g : Guard) (t : Ty) (d a : BitVec 5) (imm : BitVec 32)
  | vst (g : Guard) (t : Ty) (d a : BitVec 5) (imm : BitVec 32)
  | vgather (g : Guard) (t : Ty) (d a b : BitVec 5)
  | vscatter (g : Guard) (t : Ty) (d a b : BitVec 5)
  | vatomAdd (g : Guard) (t : IntTy) (d a b c : BitVec 5)
  | vatomMin (g : Guard) (t : IntTy) (d a b c : BitVec 5)
  | vatomMax (g : Guard) (t : IntTy) (d a b c : BitVec 5)
  | vatomXchg (g : Guard) (t : IntTy) (d a b c : BitVec 5)
  | philox (g : Guard) (d a : BitVec 5) (j : BitVec 2)
  | sample (g : Guard) (d : BitVec 5) (gd : BitVec 3) (a b c : BitVec 5) (v : BitVec 32)
  | vmaskLd (g : Guard) (gd : BitVec 3) (a : BitVec 5) (imm : BitVec 32)
  | vmaskSt (g : Guard) (a : BitVec 5) (b : BitVec 3) (imm : BitVec 32)
  | vmaskCnt (g : Guard) (d : BitVec 5) (b : BitVec 3)
  | vmaskFirst (g : Guard) (d : BitVec 5) (b : BitVec 3)
  -- matrix (09)
  | ashape (g : Guard) (m : BitVec 4)
  | wfill (g : Guard) (a b : BitVec 5) (nrow : BitVec 8) (spoff : BitVec 21)
  | wload (g : Guard) (t : Ty) (d a b : BitVec 5) (spoff : BitVec 21)
  | ctab (g : Guard) (a : BitVec 5) (spoff : BitVec 21)
  | mma (g : Guard) (t : Ty) (acc swap : Bool) (h : BitVec 3) (a : BitVec 5) (arow nrow : BitVec 8)
      (spoff : BitVec 21)
  | accrd (g : Guard) (t : Ty) (a : BitVec 5) (arow nrow : BitVec 8) (spoff : BitVec 21)
  | accwr (g : Guard) (t : Ty) (a : BitVec 5) (arow nrow : BitVec 8) (spoff : BitVec 21)
  | accz (g : Guard) (arow nrow : BitVec 8)
  | accsave (g : Guard) (a : BitVec 5) (arow nrow : BitVec 8) (spoff : BitVec 21)
  | accrest (g : Guard) (a : BitVec 5) (arow nrow : BitVec 8) (spoff : BitVec 21)
  -- fabric (13)
  | post (g : Guard) (sc : Scope) (n : BitVec 5) (d : BitVec 5)
  | postScratch (g : Guard) (sc : Scope) (n : BitVec 5) (a : BitVec 5)
  | peek (g : Guard) (d : BitVec 5) (n : BitVec 6)
  | seqMirror (g : Guard) (d : BitVec 5) (n : BitVec 6)
  | age (g : Guard) (d : BitVec 5) (n : BitVec 6)
  | mbind (g : Guard) (a : BitVec 5) (n : BitVec 6)
  | mquery (g : Guard) (d : BitVec 5) (n : BitVec 6)
  -- device memory (16)
  | cpy (g : Guard) (d a b : BitVec 5) (count land : BitVec 21)
  | cpyLit (g : Guard) (d : BitVec 5) (lit : X) (b : BitVec 5) (count land : BitVec 21)
  | cpyw (g : Guard) (d a b : BitVec 5) (count : BitVec 21)
  | cpywLit (g : Guard) (d : BitVec 5) (lit : X) (b : BitVec 5) (count : BitVec 21)
  | fence (g : Guard) (sc : Scope) (succ pred : BitVec 9)
  | matomAdd (g : Guard) (t : AtomTy) (d a b : BitVec 5) (land : BitVec 21)
  | matomMin (g : Guard) (t : AtomTy) (d a b : BitVec 5) (land : BitVec 21)
  | matomMax (g : Guard) (t : AtomTy) (d a b : BitVec 5) (land : BitVec 21)
  | matomXchg (g : Guard) (t : AtomTy) (d a b : BitVec 5) (land : BitVec 21)
  | matomCmpxchg (g : Guard) (t : AtomTy) (d a b : BitVec 5) (land : BitVec 21)
  | matomAnd (g : Guard) (t : AtomTy) (d a b : BitVec 5) (land : BitVec 21)
  | matomOr (g : Guard) (t : AtomTy) (d a b : BitVec 5) (land : BitVec 21)
  | matomXor (g : Guard) (t : AtomTy) (d a b : BitVec 5) (land : BitVec 21)
  | matomAddLit (g : Guard) (t : AtomTy) (d : BitVec 5) (lit : X) (b : BitVec 5) (land : BitVec 21)
  | matomMinLit (g : Guard) (t : AtomTy) (d : BitVec 5) (lit : X) (b : BitVec 5) (land : BitVec 21)
  | matomMaxLit (g : Guard) (t : AtomTy) (d : BitVec 5) (lit : X) (b : BitVec 5) (land : BitVec 21)
  | matomXchgLit (g : Guard) (t : AtomTy) (d : BitVec 5) (lit : X) (b : BitVec 5) (land : BitVec 21)
  | matomCmpxchgLit (g : Guard) (t : AtomTy) (d : BitVec 5) (lit : X) (b : BitVec 5) (land : BitVec 21)
  | matomAndLit (g : Guard) (t : AtomTy) (d : BitVec 5) (lit : X) (b : BitVec 5) (land : BitVec 21)
  | matomOrLit (g : Guard) (t : AtomTy) (d : BitVec 5) (lit : X) (b : BitVec 5) (land : BitVec 21)
  | matomXorLit (g : Guard) (t : AtomTy) (d : BitVec 5) (lit : X) (b : BitVec 5) (land : BitVec 21)
  | xacc (g : Guard) (t : XaccTy) (d a b : BitVec 5)
  | xaccLit (g : Guard) (t : XaccTy) (d : BitVec 5) (lit : X) (b : BitVec 5)
  | xfin (g : Guard) (d a b : BitVec 5) (land : BitVec 21)
  | xfinLit (g : Guard) (d : BitVec 5) (lit : X) (b : BitVec 5) (land : BitVec 21)
  | xclr (g : Guard) (d a : BitVec 5)
  | xclrLit (g : Guard) (d : BitVec 5) (lit : X)
  | tlook (g : Guard) (d a : BitVec 5)
  | tset (g : Guard) (a b : BitVec 5)
  | tclr (g : Guard) (a : BitVec 5)
  | touch (g : Guard) (d a : BitVec 5)
  | landq (g : Guard) (d a : BitVec 5)
  -- leases (21)
  | leaseSd (g : Guard) (d a : BitVec 5)
  | leaseRv (g : Guard) (d a : BitVec 5)
  | renew (g : Guard) (d a : BitVec 5)
  | lfree (g : Guard) (d : BitVec 5)
  | ecmd (g : Guard) (d a : BitVec 5)
  -- privileged (25)
  | preempt (g : Guard) (a : BitVec 5)
  | kill (g : Guard) (a : BitVec 5)
  | mapset (g : Guard) (a b : BitVec 5)
  | keysel (g : Guard) (a b : BitVec 5)
  -- events of a tile (95)
  | resultLanding
  | trapEntry
  | escalation
  | haltComplete
  | holdEnd (t : Nat)
  | resyncTRestart (t : Nat)
  | bandAwake
  | shadowPlaneLoad
  | mmaRowLanding
  -- events of the fabric: `id` names the post, `k` its k-th destination; a commit's tile and Relaxed Ordering bit
  | postDelivery (id k : Nat)
  | postRelease (id : Nat)
  -- events of device memory: `id` names the operation
  | fencedRelease (id : Nat)
  | homeStationPerform (id line : Nat)
  | copyDataArrival (id line : Nat)
  | touchWalk (id : Nat)
  -- events of kennel `k`: `id` names the lease
  | ringSlot (t : Nat)
  | leaseArrival (k : Nat)
  | renewArrival (k : Nat)
  | lfreeArrival (k : Nat)
  | ecmdArrival (k : Nat)
  | grant (k : Nat)
  | wakeDone (k id : Nat)
  | leaseExpiry (k id : Nat)
  | endingLeash (k id : Nat)
  | fullnessReport (k : Nat)
  | capRecovery (k : Nat)
  | gather (k id : Nat)
  | scatter (k id : Nat)
  | loadg (k id : Nat)
  | mask (k id : Nat)
  | step (k id : Nat)
  | snap (k id : Nat)
  | restore (k id : Nat)
  | engineResult (k id : Nat)
  -- launch, bind, save, kill: `ctx` is the context ID the firmware gives, `idx` the pack index of the bound tile
  | lseqReread (ctx : BitVec 16)
  | tileStart (t : Nat)
  | lstatRunning (ctx : BitVec 16)
  | saveComplete (t : Nat)
  | killTileStop (t : Nat)
  | killComplete (ctx : BitVec 16)
  -- package, boot, host and management core
  | readBufferInvalidate (loc : Nat)
  | dieReset (d : Nat)
  | dieReturn (d : Nat)
  -- landings at a tile
  | cpyLanding
  | matomLanding
  | xfinLanding
  -- events that the environment begins: host, firmware, sensors (a reading in °C), alarms (a die and its OCCAUSE source
  -- bit), links, debug
  | notify (v : X)
  | serveNotify (ctx : BitVec 16)
  | controlWordWrite (t idx : Nat) (record : List Byte)
  | thermalSensorRead (t temp : Nat)
  | currentAlarm (d : Nat) (src : BitVec 4)
  | occauseClear (v : X)
  | freqRequest (f : Nat)
  | powerOnReset
  | bootgo
  | ago
  | attestReportReady
  | voltageRampDone
  | changeoverEnd
  | hostMemoryWrite (off : Nat) (bytes : List Byte) (ro : Bool)
  | hostMemoryRead (off len : Nat) (buf : BufferUse)
  | debugWindowWrite (t off : Nat) (v : X)
  | registerWrite (win off : Nat) (v : X)
  | firmwarePriorityEviction (k id : Nat)
  | camrakLinkDown (l : Nat)
  | camrakLinkUp (l : Nat)
  | registerFileParity (t : Nat) (file : BitVec 2) (r : BitVec 5)
  | managementCoreMemoryWrite (d dpa : Nat) (bytes : List Byte)
  | frozenResume (t : Nat)
  | frozenHandlerEntry (t : Nat)
  | droopStretch (t : Nat)
  | hostCommit (t : Nat) (ro : Bool)
  | stationInvalidation (ctx : BitVec 16) (page : Option Nat)
  | stationReport (id : Nat)
  deriving DecidableEq, Repr

end Sys2Proof
end

