-- ==== Sys2Proof/WellFormed.lean ====
section
/-! DEFINITION. Which operand values an instruction of Sys2Proof.Syntax may carry: the formats each instruction
accepts (07:R139, 08:R175, 09:R198), the system-register numbers (05:R111, R113), and the field values that 02:R46
calls reserved. -/

namespace Sys2Proof

/-- The type code of 02:R44. -/
def Ty.code : Ty → BitVec 5
  | .i8 => 0x00 | .i16 => 0x01 | .i32 => 0x02 | .i64 => 0x03 | .n8 => 0x04 | .n16 => 0x05 | .n32 => 0x06
  | .n64 => 0x07 | .f32 => 0x08 | .f16 => 0x09 | .bf16 => 0x0A | .e4m3 => 0x0B | .e5m2 => 0x0C | .e2m1 => 0x0D
  | .se2 => 0x0E | .se4 => 0x0F | .se7 => 0x10 | .lut4 => 0x11

/-- The format a type code names; codes 0x12-0x1F name none (02:R44). -/
def Ty.ofCode (c : BitVec 5) : Option Ty :=
  match c.toNat with
  | 0x00 => some .i8 | 0x01 => some .i16 | 0x02 => some .i32 | 0x03 => some .i64 | 0x04 => some .n8
  | 0x05 => some .n16 | 0x06 => some .n32 | 0x07 => some .n64 | 0x08 => some .f32 | 0x09 => some .f16
  | 0x0A => some .bf16 | 0x0B => some .e4m3 | 0x0C => some .e5m2 | 0x0D => some .e2m1 | 0x0E => some .se2
  | 0x0F => some .se4 | 0x10 => some .se7 | 0x11 => some .lut4 | _ => none

/-- The twelve formats of VCVT (07:R139). -/
def Ty.isCvt : Ty → Bool
  | .i8 | .i16 | .i32 | .n8 | .n16 | .n32 | .f32 | .f16 | .bf16 | .e4m3 | .e5m2 | .e2m1 => true
  | .i64 | .n64 | .se2 | .se4 | .se7 | .lut4 => false

/-- The formats of VGATHER and VSCATTER: every code of VCVT except .e2m1 (07:R139). -/
def Ty.isElem (t : Ty) : Bool := t.isCvt && t != .e2m1

/-- The shared-exponent formats (03:R63). -/
def Ty.isSe : Ty → Bool
  | .se2 | .se4 | .se7 => true
  | .i8 | .i16 | .i32 | .i64 | .n8 | .n16 | .n32 | .n64 | .f32 | .f16 | .bf16 | .e4m3 | .e5m2 | .e2m1 | .lut4 => false

/-- The formats of VLD and VST (07:R139). -/
def Ty.isVmem (t : Ty) : Bool := t.isElem || t.isSe

/-- The weight formats of the array (08:R175). -/
def Ty.isWeight : Ty → Bool
  | .bf16 | .f16 | .i16 | .n16 | .e4m3 | .e5m2 | .i8 | .n8 | .se7 | .se4 | .lut4 | .se2 => true
  | .i32 | .i64 | .n32 | .n64 | .f32 | .e2m1 => false

/-- The activation formats of the array (08:R175). -/
def Ty.isAct (t : Ty) : Bool := t.isWeight && t != .lut4

/-- The row formats of ACCRD and ACCWR (09:R198). -/
def Ty.isAcc (t : Ty) : Bool := t.isVmem

/-- The user system registers (05:R111). -/
def sysUser (n : BitVec 12) : Bool :=
  match n.toNat with
  | 0x000 | 0x001 | 0x002 | 0x010 | 0x011 | 0x012 | 0x013 | 0x014 | 0x020 | 0x021 | 0x022 | 0x023 | 0x024 => true
  | 0x030 | 0x031 | 0x032 | 0x040 | 0x041 | 0x050 | 0x060 | 0x070 => true
  | _ => false

/-- The privileged system registers: 0x800-0x805 (05:R113). -/
def sysPriv (n : BitVec 12) : Bool := decide (0x800 ≤ n.toNat) && decide (n.toNat ≤ 0x805)

/-- The operand values 02:R46 admits. Every constructor not listed admits every value of its fields' types. -/
def Instr.wellFormed : Instr → Bool
  | .loop _ _ imm => imm != 0
  | .sysr _ _ n | .sysw _ _ n => sysUser n || sysPriv n
  | .vcvt _ td ta _ _ _ => td.isCvt && ta.isCvt
  | .vredSum _ t sat _ _ | .vscanSum _ t sat _ _ => !(sat && t == .f32)
  | .vld _ t _ _ _ | .vst _ t _ _ _ => t.isVmem
  | .vgather _ t _ _ _ | .vscatter _ t _ _ _ => t.isElem
  | .wload _ t _ _ _ _ => t.isWeight
  | .mma _ t _ _ _ _ _ _ _ => t.isAct
  | .accrd _ t _ _ _ _ | .accwr _ t _ _ _ _ => t.isAcc
  | _ => true

end Sys2Proof
end

