-- ==== Sys2Proof/Decode.lean ====
section
/-! DEFINITION. The word layouts (02:R35-R43), the decoder with the checks of 02:R46 and R47, and the encoder. -/

namespace Sys2Proof

/-! ### First-word layouts (02:R37, R38) -/

/-- Bits 31:22, 21:17, 16:12 and the common fields GN, G, MAJ, LEN of a first word. -/
structure First where
  hi : BitVec 10
  a : BitVec 5
  d : BitVec 5
  g : Guard
  maj : BitVec 6
  len : BitVec 2
  deriving DecidableEq, Repr

/-- A first word from its fields (02:R37, R38). -/
def First.word (f : First) : W32 :=
  f.hi ++ f.a ++ f.d ++ BitVec.ofBool f.g.neg ++ f.g.reg ++ f.maj ++ f.len

/-- The fields of a first word (02:R37, R38). -/
def First.split (w : W32) : First :=
  { hi := w.extractLsb' 22 10, a := w.extractLsb' 17 5, d := w.extractLsb' 12 5
    g := { neg := w.getLsbD 11, reg := w.extractLsb' 8 3 }
    maj := w.extractLsb' 2 6, len := w.extractLsb' 0 2 }

/-- Register layout: the function F, bits 31:27. -/
def First.fn (f : First) : BitVec 5 := f.hi.extractLsb' 5 5
/-- Register layout: B, bits 26:22. -/
def First.b (f : First) : BitVec 5 := f.hi.extractLsb' 0 5
/-- Memory layout: imm7, bits 31:25. -/
def First.imm7 (f : First) : BitVec 7 := f.hi.extractLsb' 3 7
/-- Memory layout: T, bits 24:22. -/
def First.t (f : First) : BitVec 3 := f.hi.extractLsb' 0 3
/-- Sampling layout: FN, bits 31:28. -/
def First.sfn (f : First) : BitVec 4 := f.hi.extractLsb' 6 4
/-- Sampling layout: N, bits 27:22. -/
def First.n (f : First) : BitVec 6 := f.hi.extractLsb' 0 6
/-- System layout: NUM, bits 29:18. -/
def First.num (f : First) : BitVec 12 := f.hi.extractLsb' 0 8 ++ f.a.extractLsb' 1 4
/-- System layout: W, bit 17. -/
def First.w (f : First) : Bool := f.a.getLsbD 0

/-! ### Extended words (02:R41-R43) -/

/-- Word 1 of the vector class (02:R41). -/
structure Vec1 where
  opt : BitVec 6 := 0
  sat : Bool := false
  rnd : BitVec 2 := 0
  gd : BitVec 3 := 0
  c : BitVec 5 := 0
  tb : BitVec 5 := 0
  ta : BitVec 5 := 0
  td : BitVec 5 := 0
  deriving DecidableEq, Repr

/-- Word 1 of the vector class from its fields. -/
def Vec1.word (v : Vec1) : W32 :=
  v.opt ++ BitVec.ofBool v.sat ++ v.rnd ++ v.gd ++ v.c ++ v.tb ++ v.ta ++ v.td

/-- The fields of word 1 of the vector class. -/
def Vec1.split (w : W32) : Vec1 :=
  { opt := w.extractLsb' 26 6, sat := w.getLsbD 25, rnd := w.extractLsb' 23 2, gd := w.extractLsb' 20 3
    c := w.extractLsb' 15 5, tb := w.extractLsb' 10 5, ta := w.extractLsb' 5 5, td := w.extractLsb' 0 5 }

/-- Word 1 of the matrix class; `z` are the bits marked zero (02:R42). -/
structure Mat1 where
  fl : BitVec 4 := 0
  arow : BitVec 8 := 0
  z : BitVec 2 := 0
  nrow : BitVec 8 := 0
  tout : BitVec 5 := 0
  ti : BitVec 5 := 0
  deriving DecidableEq, Repr

/-- Word 1 of the matrix class from its fields. -/
def Mat1.word (m : Mat1) : W32 := m.fl ++ m.arow ++ m.z ++ m.nrow ++ m.tout ++ m.ti

/-- The fields of word 1 of the matrix class. -/
def Mat1.split (w : W32) : Mat1 :=
  { fl := w.extractLsb' 28 4, arow := w.extractLsb' 20 8, z := w.extractLsb' 18 2, nrow := w.extractLsb' 10 8
    tout := w.extractLsb' 5 5, ti := w.extractLsb' 0 5 }

/-- Word 1 of the memory class; `z` are the bits marked zero (02:R43). -/
structure Mem1 where
  z : BitVec 3 := 0
  ty : BitVec 5 := 0
  scope : BitVec 3 := 0
  count : BitVec 21 := 0
  deriving DecidableEq, Repr

/-- Word 1 of the memory class from its fields. -/
def Mem1.word (m : Mem1) : W32 := m.z ++ m.ty ++ m.scope ++ m.count

/-- The fields of word 1 of the memory class. -/
def Mem1.split (w : W32) : Mem1 :=
  { z := w.extractLsb' 29 3, ty := w.extractLsb' 24 5, scope := w.extractLsb' 21 3, count := w.extractLsb' 0 21 }

/-- Word 1 of FENCE; `z1`, `z0` are the bits marked zero (02:R43). -/
structure Fence1 where
  z1 : BitVec 8 := 0
  scope : BitVec 3 := 0
  z0 : BitVec 3 := 0
  succ : BitVec 9 := 0
  pred : BitVec 9 := 0
  deriving DecidableEq, Repr

/-- Word 1 of FENCE from its fields. -/
def Fence1.word (m : Fence1) : W32 := m.z1 ++ m.scope ++ m.z0 ++ m.succ ++ m.pred

/-- The fields of word 1 of FENCE. -/
def Fence1.split (w : W32) : Fence1 :=
  { z1 := w.extractLsb' 24 8, scope := w.extractLsb' 21 3, z0 := w.extractLsb' 18 3, succ := w.extractLsb' 9 9
    pred := w.extractLsb' 0 9 }

/-- Word 2 of the matrix and memory classes: bits 31:21 zero, then SPOFF or LAND (02:R42, R43). -/
def low21 (v : BitVec 21) : W32 := (0 : BitVec 11) ++ v

/-! ### Operand codes -/

def MemTy.code : MemTy → BitVec 3
  | .i8 => 0 | .i16 => 1 | .i32 => 2 | .i64 => 3 | .n8 => 4 | .n16 => 5 | .n32 => 6 | .n64 => 7

/-- Field T (02:R38). -/
def MemTy.ofCode (c : BitVec 3) : MemTy :=
  match c.toNat with
  | 0 => .i8 | 1 => .i16 | 2 => .i32 | 3 => .i64 | 4 => .n8 | 5 => .n16 | 6 => .n32 | _ => .n64

/-- The field ty of ATOM (05:R99). -/
def AtomTy.code : AtomTy → BitVec 2
  | .i32 => 0 | .i64 => 1 | .n32 => 2 | .n64 => 3

def AtomTy.ofCode (c : BitVec 2) : AtomTy :=
  match c.toNat with
  | 0 => .i32 | 1 => .i64 | 2 => .n32 | _ => .n64

/-- The type code of a MATOM (16:R250). -/
def AtomTy.ty : AtomTy → Ty
  | .i32 => .i32 | .i64 => .i64 | .n32 => .n32 | .n64 => .n64

def AtomTy.ofTy : BitVec 5 → Option AtomTy
  | 0x02 => some .i32 | 0x03 => some .i64 | 0x06 => some .n32 | 0x07 => some .n64 | _ => none

def IntTy.ty : IntTy → Ty
  | .i32 => .i32 | .n32 => .n32

def IntTy.ofTy : BitVec 5 → Option IntTy
  | 0x02 => some .i32 | 0x06 => some .n32 | _ => none

def LaneTy.ty : LaneTy → Ty
  | .i32 => .i32 | .n32 => .n32 | .f32 => .f32

def LaneTy.ofTy : BitVec 5 → Option LaneTy
  | 0x02 => some .i32 | 0x06 => some .n32 | 0x08 => some .f32 | _ => none

def SeTy.ty : SeTy → Ty
  | .se2 => .se2 | .se4 => .se4 | .se7 => .se7

def SeTy.ofTy : BitVec 5 → Option SeTy
  | 0x0E => some .se2 | 0x0F => some .se4 | 0x10 => some .se7 | _ => none

def XaccTy.ty : XaccTy → Ty
  | .f32 => .f32 | .bf16 => .bf16

def XaccTy.ofTy : BitVec 5 → Option XaccTy
  | 0x08 => some .f32 | 0x0A => some .bf16 | _ => none

def Rnd.code : Rnd → BitVec 2
  | .ne => 0 | .tz => 1 | .dn => 2 | .up => 3

def Rnd.ofCode (c : BitVec 2) : Rnd :=
  match c.toNat with
  | 0 => .ne | 1 => .tz | 2 => .dn | _ => .up

def Scope.code : Scope → BitVec 3
  | .tile => 0 | .cluster => 1 | .die => 2 | .package => 3 | .system => 4

/-- Scope codes 5-7 name none (02:R43, R46). -/
def Scope.ofCode (c : BitVec 3) : Option Scope :=
  match c.toNat with
  | 0 => some .tile | 1 => some .cluster | 2 => some .die | 3 => some .package | 4 => some .system | _ => none

/-- A guard field uses its low three bits (02:R39). -/
def g3 (r : BitVec 5) : BitVec 3 := r.extractLsb' 0 3
/-- A branch-target field uses its low two bits (02:R39). -/
def b2 (r : BitVec 5) : BitVec 2 := r.extractLsb' 0 2
/-- The bits of a guard field that must be zero. -/
def g3bad (r : BitVec 5) : Bool := r.extractLsb' 3 2 != 0
/-- The bits of a branch-target field that must be zero. -/
def b2bad (r : BitVec 5) : Bool := r.extractLsb' 2 3 != 0
def g3up (g : BitVec 3) : BitVec 5 := (0 : BitVec 2) ++ g
def b2up (b : BitVec 2) : BitVec 5 := (0 : BitVec 3) ++ b

/-! ### The checks of 02:R46 -/

/-- An encoding that is no instruction: its cause and the number of the word that holds the failing field (R47). -/
structure Reject where
  cause : BitVec 8
  word : BitVec 2
  deriving DecidableEq, Repr

/-- What the fields of one major and function make: the checks of cause 0x01 that need the other fields, whether it
is privileged, the checks of cause 0x02, and the instruction. Each check is paired with its word's number, lower
words first. -/
structure Cand where
  ill : List (Bool × BitVec 2) := []
  priv : Bool := false
  resv : List (Bool × BitVec 2) := []
  ins : Instr

/-- The lowest word number among the failing checks. -/
def failing : List (Bool × BitVec 2) → Option (BitVec 2)
  | [] => none
  | (true, n) :: _ => some n
  | (false, _) :: r => failing r

/-- R46's order: 0x01, then 0x03, then 0x02. At privileged level nothing is privileged (25:R356). A privileged word
with no other failure is decoded; executing it takes cause 0x03 at user level. -/
def verdict (privLevel : Bool) : Option Cand → Except Reject Instr
  | none => .error ⟨0x01, 0⟩
  | some c =>
    match failing c.ill with
    | some n => .error ⟨0x01, n⟩
    | none =>
      match failing c.resv with
      | some n => if c.priv && !privLevel then .error ⟨0x03, 0⟩ else .error ⟨0x02, n⟩
      | none => .ok c.ins

/-- A type field that names no format (02:R44). -/
def badCode (t : BitVec 5) : Bool := decide (0x12 ≤ t.toNat)

/-- Which type fields a vector instruction reads (07:R139). -/
inductive TyUse where
  | none | td | tdTa | ta
  deriving DecidableEq, Repr

/-- Which optional fields a vector instruction uses (07:R139): the bits of OPT and IMM32, SAT, RND, GD, C, types. -/
structure VecUse where
  opt : BitVec 6 := 0
  sat : Bool := false
  rnd : Bool := false
  gd : Bool := false
  c : Bool := false
  imm : BitVec 32 := 0
  tys : TyUse := .none
  deriving DecidableEq, Repr

/-- 07:R139: a type field that repeats a read one must equal it; one the instruction gives no type must be zero. -/
def tyRepeat (u : TyUse) (v : Vec1) : Bool :=
  match u with
  | .none => v.td != 0 || v.ta != 0 || v.tb != 0
  | .td => v.ta != v.td || v.tb != v.td
  | .tdTa => v.tb != v.ta
  | .ta => v.tb != v.ta || v.td != v.ta

/-- The candidate of a vector instruction: `z0` are the first word's must-be-zero failures, `ok` whether the type
fields it reads name formats it accepts. -/
def vecCand (u : VecUse) (v : Vec1) (imm : W32) (z0 : Bool) (ok : Bool) (ins : Instr) : Option Cand :=
  some
    { ill := [(badCode v.td || badCode v.ta || badCode v.tb || !ok, 1)]
      resv := [(z0, 0),
        ((v.opt &&& ~~~u.opt) != 0 || (v.sat && !u.sat) || (v.rnd != 0 && !u.rnd) || (v.gd != 0 && !u.gd)
          || (v.c != 0 && !u.c) || tyRepeat u.tys v, 1),
        ((imm &&& ~~~u.imm) != 0, 2)]
      ins := ins }

/-- The candidate of a matrix instruction: `z0`, `z1` the must-be-zero failures of words 0 and 1, `ok` the accepted
types, `off` whether SPOFF must be zero (09:R185). -/
def matCand (m : Mat1) (w2 : W32) (z0 z1 ok : Bool) (off : Bool) (ins : Instr) : Option Cand :=
  some
    { ill := [(badCode m.tout || badCode m.ti || !ok, 1)]
      resv := [(z0, 0), (m.z != 0 || z1, 1), (w2.extractLsb' 21 11 != 0 || (off && w2.extractLsb' 0 21 != 0), 2)]
      ins := ins }

/-- The candidate of a memory-class instruction other than FENCE: which of TY, COUNT and LAND it uses (16:R250). -/
def memCand (m : Mem1) (w2 : W32) (z0 ok : Bool) (useTy useCount useLand : Bool) (ins : Instr) : Option Cand :=
  some
    { ill := [(badCode m.ty || !ok, 1)]
      resv := [(z0, 0), (m.z != 0 || m.scope != 0 || (!useTy && m.ty != 0) || (!useCount && m.count != 0), 1),
        (w2.extractLsb' 21 11 != 0 || (!useLand && w2.extractLsb' 0 21 != 0), 2)]
      ins := ins }

/-- A candidate whose only remaining checks are must-be-zero bits of the first word. -/
def plain (z0 : Bool) (ins : Instr) : Option Cand := some { resv := [(z0, 0)], ins := ins }

/-! ### One function for each major opcode or group of majors (02:R45) -/

/-- Major 0x00 (05:R90). -/
def decAlu (f : First) : Option Cand :=
  match f.fn.toNat with
  | 0x00 => plain false (.add f.g f.d f.a f.b)
  | 0x01 => plain false (.sub f.g f.d f.a f.b)
  | 0x02 => plain false (.and f.g f.d f.a f.b)
  | 0x03 => plain false (.or f.g f.d f.a f.b)
  | 0x04 => plain false (.xor f.g f.d f.a f.b)
  | 0x05 => plain false (.andn f.g f.d f.a f.b)
  | 0x06 => plain false (.shl f.g f.d f.a f.b)
  | 0x07 => plain false (.shr f.g f.d f.a f.b)
  | 0x08 => plain false (.sar f.g f.d f.a f.b)
  | 0x09 => plain false (.rol f.g f.d f.a f.b)
  | 0x0a => plain false (.min f.g f.d f.a f.b)
  | 0x0b => plain false (.max f.g f.d f.a f.b)
  | 0x0c => plain false (.minn f.g f.d f.a f.b)
  | 0x0d => plain false (.maxn f.g f.d f.a f.b)
  | 0x0e => plain false (.slt f.g f.d f.a f.b)
  | 0x0f => plain false (.sltn f.g f.d f.a f.b)
  | 0x10 => plain false (.seq f.g f.d f.a f.b)
  | 0x11 => plain (f.b != 0) (.clz f.g f.d f.a)
  | 0x12 => plain (f.b != 0) (.popc f.g f.d f.a)
  | 0x13 => plain false (.sel f.g f.d f.a f.b)
  | _ => none

/-- Majors 0x01 and 0x02 (05:R91). -/
def decAddi (f : First) (lit : X) : Option Cand :=
  match f.maj.toNat, f.len.toNat with
  | 0x01, 0 => plain false (.addi f.g f.d f.a f.hi)
  | 0x01, 1 => plain (f.hi != 0) (.addiLit f.g f.d f.a lit)
  | 0x02, 0 => plain (f.a != 0) (.li f.g f.d f.hi)
  | 0x02, 1 => plain (f.a != 0 || f.hi != 0) (.liLit f.g f.d lit)
  | _, _ => none

/-- Major 0x03 (05:R92): the selector is imm10 bits 9:8, bits 7:6 are zero. -/
def decShift (f : First) : Option Cand :=
  let z := f.hi.extractLsb' 6 2 != 0
  let sh := f.hi.extractLsb' 0 6
  match (f.hi.extractLsb' 8 2).toNat with
  | 0 => plain z (.shli f.g f.d f.a sh)
  | 1 => plain z (.shri f.g f.d f.a sh)
  | 2 => plain z (.sari f.g f.d f.a sh)
  | _ => plain z (.roli f.g f.d f.a sh)

/-- Major 0x04 (05:R93). -/
def decMul (f : First) : Option Cand :=
  match f.fn.toNat with
  | 0 => plain false (.mul f.g f.d f.a f.b)
  | 1 => plain false (.mulh f.g f.d f.a f.b)
  | 2 => plain false (.mulhn f.g f.d f.a f.b)
  | 3 => plain false (.div f.g f.d f.a f.b)
  | 4 => plain false (.divn f.g f.d f.a f.b)
  | 5 => plain false (.rem f.g f.d f.a f.b)
  | 6 => plain false (.remn f.g f.d f.a f.b)
  | _ => none

/-- Major 0x05 (05:R94). -/
def decGcmp (f : First) : Option Cand :=
  let z := g3bad f.d
  match f.fn.toNat with
  | 0 => plain z (.geq f.g (g3 f.d) f.a f.b)
  | 1 => plain z (.gne f.g (g3 f.d) f.a f.b)
  | 2 => plain z (.glt f.g (g3 f.d) f.a f.b)
  | 3 => plain z (.gle f.g (g3 f.d) f.a f.b)
  | 4 => plain z (.gltn f.g (g3 f.d) f.a f.b)
  | 5 => plain z (.glen f.g (g3 f.d) f.a f.b)
  | _ => none

/-- Major 0x06 (05:R95). -/
def decGlog (f : First) (lit : X) : Option Cand :=
  match f.len.toNat, f.fn.toNat with
  | 0, 0 => plain (g3bad f.d || g3bad f.a || g3bad f.b) (.gand f.g (g3 f.d) (g3 f.a) (g3 f.b))
  | 0, 1 => plain (g3bad f.d || g3bad f.a || g3bad f.b) (.gor f.g (g3 f.d) (g3 f.a) (g3 f.b))
  | 0, 2 => plain (g3bad f.d || g3bad f.a || g3bad f.b) (.gxor f.g (g3 f.d) (g3 f.a) (g3 f.b))
  | 0, 3 => plain (g3bad f.d || g3bad f.a || f.b != 0) (.gnot f.g (g3 f.d) (g3 f.a))
  | 0, 4 => plain (g3bad f.d || g3bad f.a || f.b != 0) (.gmov f.g (g3 f.d) (g3 f.a))
  | 1, 5 => plain (g3bad f.d || f.a != 0 || f.b != 0) (.gseti f.g (g3 f.d) lit)
  | _, _ => none

/-- Majors 0x07 and 0x08 (05:R96). -/
def decLdst (f : First) (lit : X) : Option Cand :=
  match f.maj.toNat, f.len.toNat with
  | 0x07, 0 => plain false (.ld f.g (.ofCode f.t) f.d f.a f.imm7)
  | 0x07, 1 => plain (f.imm7 != 0) (.ldLit f.g (.ofCode f.t) f.d f.a lit)
  | 0x08, 0 => plain false (.st f.g (.ofCode f.t) f.d f.a f.imm7)
  | 0x08, 1 => plain (f.imm7 != 0) (.stLit f.g (.ofCode f.t) f.d f.a lit)
  | _, _ => none

/-- Major 0x09 (05:R101-R103); FN is the field at bits 21:17. -/
def decFlow (f : First) (lit : X) : Option Cand :=
  match f.len.toNat, f.a.toNat with
  | 0, 0 => plain (b2bad f.d) (.pbr f.g (b2 f.d) f.hi)
  | 1, 0 => plain (b2bad f.d || f.hi != 0) (.pbrLit f.g (b2 f.d) lit)
  | 0, 1 => plain (b2bad f.d || f.hi != 0) (.br f.g (b2 f.d))
  | 0, 2 => plain (b2bad f.d || f.hi != 0) (.call f.g (b2 f.d))
  | 0, 3 => plain (f.hi != 0) (.ret f.g f.d)
  | 0, 4 => plain (f.hi == 0) (.loop f.g f.d f.hi)
  | _, _ => none

/-- The guard field is not the unguarded form (02:R37). -/
def guarded (f : First) : Bool := f.g.neg || f.g.reg != 0

/-- Major 0x0A (05:R104-R109). -/
def decTime (f : First) : Option Cand :=
  match f.a.toNat with
  | 0 => plain (f.d != 0 || f.hi != 0 || guarded f) .period
  | 1 => plain (f.hi != 0 || guarded f) (.resync f.d)
  | 2 => plain (f.hi != 0 || guarded f) (.resyncT f.d)
  | 3 => plain (f.d != 0) (.nopn f.g f.hi)
  | 4 => plain (f.hi != 0) (.slot f.g f.d)
  | 5 => plain (f.hi != 0) (.tbase f.g f.d)
  | _ => none

/-- Major 0x0B (05:R110-R113): NUM names a register, a privileged one or none. -/
def decSys (f : First) : Option Cand :=
  some
    { ill := [(!(sysUser f.num || sysPriv f.num), 0)]
      priv := sysPriv f.num
      resv := [(f.hi.extractLsb' 8 2 != 0, 0)]
      ins := if f.w then .sysw f.g f.d f.num else .sysr f.g f.d f.num }

/-- Major 0x0C (05:R114-R116). -/
def decTrap (f : First) : Option Cand :=
  match f.a.toNat with
  | 0 => plain (f.d != 0) (.trap f.g f.hi)
  | 1 => plain (f.d != 0 || f.hi != 0 || guarded f) .eret
  | 2 => plain (f.d != 0 || f.hi != 0) (.halt f.g)
  | _ => none

/-- Major 0x10 (07:R141). -/
def decValu (f : First) (v : Vec1) (imm : W32) : Option Cand :=
  let t := (IntTy.ofTy v.td).getD .i32
  let ok := (IntTy.ofTy v.td).isSome
  let u : VecUse := { tys := .td }
  let us : VecUse := { tys := .td, sat := true }
  match f.fn.toNat with
  | 0 => vecCand us v imm (false) ok (.vadd f.g t v.sat f.d f.a f.b)
  | 1 => vecCand us v imm (false) ok (.vsub f.g t v.sat f.d f.a f.b)
  | 2 => vecCand u v imm (false) ok (.vand f.g t f.d f.a f.b)
  | 3 => vecCand u v imm (false) ok (.vor f.g t f.d f.a f.b)
  | 4 => vecCand u v imm (false) ok (.vxor f.g t f.d f.a f.b)
  | 5 => vecCand u v imm (false) ok (.vandn f.g t f.d f.a f.b)
  | 6 => vecCand u v imm (false) ok (.vshl f.g t f.d f.a f.b)
  | 7 => vecCand u v imm (false) ok (.vshr f.g t f.d f.a f.b)
  | 8 => vecCand u v imm (false) ok (.vsar f.g t f.d f.a f.b)
  | 9 => vecCand u v imm (false) ok (.vmin f.g t f.d f.a f.b)
  | 10 => vecCand u v imm (false) ok (.vmax f.g t f.d f.a f.b)
  | 11 => vecCand us v imm (false) ok (.vmul f.g t v.sat f.d f.a f.b)
  | 12 => vecCand u v imm (false) ok (.vmulh f.g t f.d f.a f.b)
  | 13 => vecCand us v imm (f.b != 0) ok (.vabs f.g t v.sat f.d f.a)
  | 14 => vecCand us v imm (f.b != 0) ok (.vneg f.g t v.sat f.d f.a)
  | _ => none

/-- Major 0x11 (07:R142). -/
def decVfpu (f : First) (v : Vec1) (imm : W32) : Option Cand :=
  let ok := v.td == Ty.f32.code
  let u : VecUse := { tys := .td }
  match f.fn.toNat with
  | 0 => vecCand u v imm (false) ok (.vfadd f.g f.d f.a f.b)
  | 1 => vecCand u v imm (false) ok (.vfsub f.g f.d f.a f.b)
  | 2 => vecCand u v imm (false) ok (.vfmul f.g f.d f.a f.b)
  | 3 => vecCand { u with c := true } v imm (false) ok (.vfma f.g f.d f.a f.b v.c)
  | 4 => vecCand u v imm (false) ok (.vfmin f.g f.d f.a f.b)
  | 5 => vecCand u v imm (false) ok (.vfmax f.g f.d f.a f.b)
  | 6 => vecCand u v imm (f.b != 0) ok (.vfabs f.g f.d f.a)
  | 7 => vecCand u v imm (f.b != 0) ok (.vfneg f.g f.d f.a)
  | 8 => vecCand u v imm (false) ok (.vfdiv f.g f.d f.a f.b)
  | 9 => vecCand u v imm (f.b != 0) ok (.vfsqrt f.g f.d f.a)
  | 10 => vecCand u v imm (f.b != 0) ok (.vfexp2 f.g f.d f.a)
  | 11 => vecCand u v imm (f.b != 0) ok (.vflog2 f.g f.d f.a)
  | _ => none

/-- Major 0x12 (07:R145). -/
def decVcmp (f : First) (v : Vec1) (imm : W32) : Option Cand :=
  let t := (LaneTy.ofTy v.ta).getD .i32
  let ok := (LaneTy.ofTy v.ta).isSome
  let u : VecUse := { tys := .ta, gd := true }
  match f.fn.toNat with
  | 0 => vecCand u v imm (f.d != 0) ok (.vcmpEq f.g t v.gd f.a f.b)
  | 1 => vecCand u v imm (f.d != 0) ok (.vcmpNe f.g t v.gd f.a f.b)
  | 2 => vecCand u v imm (f.d != 0) ok (.vcmpLt f.g t v.gd f.a f.b)
  | 3 => vecCand u v imm (f.d != 0) ok (.vcmpLe f.g t v.gd f.a f.b)
  | _ => none

/-- Major 0x13 (07:R146); only VBCAST has a form of LEN 11. -/
def decVmov (f : First) (v : Vec1) (imm : W32) (lit : X) : Option Cand :=
  let u : VecUse := {}
  let un : VecUse := { imm := 0x3F }
  match f.len.toNat, f.fn.toNat with
  | 2, 0 => vecCand u v imm false true (.vsel f.g f.d f.a f.b)
  | 2, 1 => vecCand u v imm (f.b != 0) true (.vmov f.g f.d f.a)
  | 2, 2 => vecCand u v imm (f.b != 0) true (.vbcast f.g f.d f.a)
  | 3, 2 => vecCand u v imm (f.a != 0 || f.b != 0) true (.vbcastLit f.g f.d lit)
  | 2, 3 => vecCand un v imm (f.b != 0) true (.vlaneget f.g f.d f.a (imm.extractLsb' 0 6))
  | 2, 4 => vecCand un v imm (f.b != 0) true (.vlaneset f.g f.d f.a (imm.extractLsb' 0 6))
  | _, _ => none

/-- Major 0x14 (07:R147). -/
def decVcvt (f : First) (v : Vec1) (imm : W32) : Option Cand :=
  let td := (Ty.ofCode v.td).getD .i8
  let ta := (Ty.ofCode v.ta).getD .i8
  match f.fn.toNat with
  | 0 => vecCand { tys := .tdTa, rnd := true } v imm (f.b != 0) (td.isCvt && ta.isCvt)
      (.vcvt f.g td ta (.ofCode v.rnd) f.d f.a)
  | _ => none

/-- Major 0x15 (07:R148). -/
def decVse (f : First) (v : Vec1) (imm : W32) : Option Cand :=
  let u : VecUse := { tys := .tdTa }
  match f.fn.toNat with
  | 0 => vecCand u v imm (f.b != 0) ((SeTy.ofTy v.td).isSome && v.ta == Ty.f32.code)
      (.vpackse f.g ((SeTy.ofTy v.td).getD .se2) f.d f.a)
  | 1 => vecCand u v imm (f.b != 0) ((SeTy.ofTy v.ta).isSome && v.td == Ty.f32.code)
      (.vunpackse f.g ((SeTy.ofTy v.ta).getD .se2) f.d f.a)
  | _ => none

/-- Major 0x16 (07:R149-R151): SAT is allowed on integer sums alone. -/
def decVred (f : First) (v : Vec1) (imm : W32) : Option Cand :=
  let t := (LaneTy.ofTy v.td).getD .i32
  let ok := (LaneTy.ofTy v.td).isSome
  let u : VecUse := { tys := .td }
  let z := f.b != 0
  match f.fn.toNat with
  | 0 => vecCand { tys := .td, sat := t != .f32 } v imm z ok (.vredSum f.g t v.sat f.d f.a)
  | 1 => vecCand u v imm z ok (.vredMin f.g t f.d f.a)
  | 2 => vecCand u v imm z ok (.vredMax f.g t f.d f.a)
  | 3 => vecCand u v imm z ok (.vredArgmax f.g t f.d f.a)
  | 4 => vecCand u v imm z ok (.vredArgmin f.g t f.d f.a)
  | 5 => vecCand u v imm z (v.td == Ty.n32.code) (.vredAnd f.g f.d f.a)
  | 6 => vecCand u v imm z (v.td == Ty.n32.code) (.vredOr f.g f.d f.a)
  | 7 => vecCand u v imm z (v.td == Ty.n32.code) (.vredXor f.g f.d f.a)
  | 8 => vecCand u v imm z (v.td == Ty.f32.code) (.vredXsum f.g f.d f.a)
  | _ => none

/-- Major 0x17 (07:R152). -/
def decVscan (f : First) (v : Vec1) (imm : W32) : Option Cand :=
  let t := (LaneTy.ofTy v.td).getD .i32
  let ok := (LaneTy.ofTy v.td).isSome
  let z := f.b != 0
  match f.fn.toNat with
  | 0 => vecCand { tys := .td, sat := t != .f32 } v imm z ok (.vscanSum f.g t v.sat f.d f.a)
  | 1 => vecCand { tys := .td } v imm z ok (.vscanMin f.g t f.d f.a)
  | 2 => vecCand { tys := .td } v imm z ok (.vscanMax f.g t f.d f.a)
  | _ => none

/-- Major 0x18 (07:R153). -/
def decVperm (f : First) (v : Vec1) (imm : W32) : Option Cand :=
  match f.fn.toNat with
  | 0 => vecCand {} v imm false true (.vperm f.g f.d f.a f.b)
  | 1 => vecCand { imm := 0x3F } v imm (f.b != 0) true (.vrot f.g f.d f.a (imm.extractLsb' 0 6))
  | _ => none

/-- Major 0x19 (07:R154). -/
def decVmem (f : First) (v : Vec1) (imm : W32) : Option Cand :=
  let t := (Ty.ofCode v.td).getD .e2m1
  let u : VecUse := { tys := .td, imm := 0xFFFFFFFF }
  match f.fn.toNat with
  | 0 => vecCand u v imm (f.b != 0) t.isVmem (.vld f.g t f.d f.a imm)
  | 1 => vecCand u v imm (f.b != 0) t.isVmem (.vst f.g t f.d f.a imm)
  | _ => none

/-- Major 0x1A (07:R156). -/
def decVgs (f : First) (v : Vec1) (imm : W32) : Option Cand :=
  let t := (Ty.ofCode v.td).getD .e2m1
  match f.fn.toNat with
  | 0 => vecCand { tys := .td } v imm false t.isElem (.vgather f.g t f.d f.a f.b)
  | 1 => vecCand { tys := .td } v imm false t.isElem (.vscatter f.g t f.d f.a f.b)
  | _ => none

/-- Major 0x1B (07:R157). -/
def decVatom (f : First) (v : Vec1) (imm : W32) : Option Cand :=
  let t := (IntTy.ofTy v.td).getD .i32
  let ok := (IntTy.ofTy v.td).isSome
  let u : VecUse := { tys := .td, c := true }
  match f.fn.toNat with
  | 0 => vecCand u v imm false ok (.vatomAdd f.g t f.d f.a f.b v.c)
  | 1 => vecCand u v imm false ok (.vatomMin f.g t f.d f.a f.b v.c)
  | 2 => vecCand u v imm false ok (.vatomMax f.g t f.d f.a f.b v.c)
  | 3 => vecCand u v imm false ok (.vatomXchg f.g t f.d f.a f.b v.c)
  | _ => none

/-- Majors 0x1C and 0x1D (07:R160, R161). -/
def decDraw (f : First) (v : Vec1) (imm : W32) : Option Cand :=
  match f.maj.toNat, f.fn.toNat with
  | 0x1C, 0 => vecCand { opt := 3 } v imm (f.b != 0) true (.philox f.g f.d f.a (v.opt.extractLsb' 0 2))
  | 0x1D, 0 => vecCand { gd := true, c := true, imm := 0xFFFFFFFF } v imm false true
      (.sample f.g f.d v.gd f.a f.b v.c imm)
  | _, _ => none

/-- Major 0x1E (07:R159). -/
def decVmask (f : First) (v : Vec1) (imm : W32) : Option Cand :=
  match f.fn.toNat with
  | 0 => vecCand { gd := true, imm := 0xFFFFFFFF } v imm (f.d != 0 || f.b != 0) true (.vmaskLd f.g v.gd f.a imm)
  | 1 => vecCand { imm := 0xFFFFFFFF } v imm (f.d != 0 || g3bad f.b) true (.vmaskSt f.g f.a (g3 f.b) imm)
  | 2 => vecCand {} v imm (f.a != 0 || g3bad f.b) true (.vmaskCnt f.g f.d (g3 f.b))
  | 3 => vecCand {} v imm (f.a != 0 || g3bad f.b) true (.vmaskFirst f.g f.d (g3 f.b))
  | _ => none

/-- Majors 0x21-0x26 (09:R185). -/
def decMatrix (f : First) (m : Mat1) (w2 : W32) : Option Cand :=
  let ti := (Ty.ofCode m.ti).getD .e2m1
  let tout := (Ty.ofCode m.tout).getD .e2m1
  let off := w2.extractLsb' 0 21
  match f.maj.toNat, f.fn.toNat with
  | 0x21, 0 => matCand m w2 (f.d != 0) (m.fl != 0 || m.arow != 0 || m.tout != 0 || m.ti != 0) true false
      (.wfill f.g f.a f.b m.nrow off)
  | 0x22, 0 => matCand m w2 false (m.fl != 0 || m.arow != 0 || m.nrow != 0 || m.tout != 0) ti.isWeight false
      (.wload f.g ti f.d f.a f.b off)
  | 0x23, 0 => matCand m w2 (f.d != 0 || f.b != 0)
      (m.fl != 0 || m.arow != 0 || m.nrow != 0 || m.tout != 0 || m.ti != 0) true false (.ctab f.g f.a off)
  | 0x24, 0 => matCand m w2 (f.d.extractLsb' 3 2 != 0 || f.b != 0) (m.fl.extractLsb' 2 2 != 0 || m.tout != 0)
      ti.isAct false
      (.mma f.g ti (m.fl.getLsbD 1) (m.fl.getLsbD 0) (f.d.extractLsb' 0 3) f.a m.arow m.nrow off)
  | 0x25, 0 => matCand m w2 (f.d != 0 || f.b != 0) (m.fl != 0 || m.ti != 0) tout.isAcc false
      (.accrd f.g tout f.a m.arow m.nrow off)
  | 0x25, 1 => matCand m w2 (f.d != 0 || f.b != 0) (m.fl != 0 || m.tout != 0) ti.isAcc false
      (.accwr f.g ti f.a m.arow m.nrow off)
  | 0x25, 2 => matCand m w2 (f.d != 0 || f.a != 0 || f.b != 0) (m.fl != 0 || m.tout != 0 || m.ti != 0) true true
      (.accz f.g m.arow m.nrow)
  | 0x26, 0 => matCand m w2 (f.d != 0 || f.b != 0) (m.fl != 0 || m.tout != 0 || m.ti != 0) true false
      (.accsave f.g f.a m.arow m.nrow off)
  | 0x26, 1 => matCand m w2 (f.d != 0 || f.b != 0) (m.fl != 0 || m.tout != 0 || m.ti != 0) true false
      (.accrest f.g f.a m.arow m.nrow off)
  | _, _ => none

/-- Majors 0x28-0x2B (13:R222): a POST's bits 31:29 are the scope and bit 28 is SRC. -/
def decFabric (f : First) : Option Cand :=
  match f.maj.toNat with
  | 0x28 =>
    let sc := Scope.ofCode (f.sfn.extractLsb' 1 3)
    let ill := [(sc.isNone || f.n.getLsbD 5, (0 : BitVec 2))]
    let n := f.n.extractLsb' 0 5
    if f.sfn.getLsbD 0 then
      some { ill := ill, resv := [(f.d != 0, 0)], ins := .postScratch f.g (sc.getD .tile) n f.a }
    else some { ill := ill, resv := [(f.a != 0, 0)], ins := .post f.g (sc.getD .tile) n f.d }
  | 0x29 => if f.sfn = 0 then plain (f.a != 0) (.peek f.g f.d f.n) else none
  | 0x2A =>
    if f.sfn = 0 then plain (f.a != 0) (.seqMirror f.g f.d f.n)
    else if f.sfn = 1 then plain (f.a != 0) (.age f.g f.d f.n) else none
  | 0x2B =>
    if f.sfn = 0 then some { priv := true, resv := [(f.d != 0, 0)], ins := .mbind f.g f.a f.n }
    else if f.sfn = 1 then plain (f.a != 0) (.mquery f.g f.d f.n) else none
  | _ => none

/-- Majors 0x2C and 0x2D (16:R250). -/
def decCopy (f : First) (m : Mem1) (w2 : W32) (lit : X) : Option Cand :=
  let land := w2.extractLsb' 0 21
  match f.maj.toNat, f.len.toNat, f.fn.toNat with
  | 0x2C, 2, 0 => memCand m w2 false true false true true (.cpy f.g f.d f.a f.b m.count land)
  | 0x2C, 3, 0 => memCand m w2 (f.a != 0) true false true true (.cpyLit f.g f.d lit f.b m.count land)
  | 0x2D, 2, 0 => memCand m w2 false true false true false (.cpyw f.g f.d f.a f.b m.count)
  | 0x2D, 3, 0 => memCand m w2 (f.a != 0) true false true false (.cpywLit f.g f.d lit f.b m.count)
  | _, _, _ => none

/-- Major 0x2E (02:R43, 16:R250). -/
def decFence (f : First) (m : Fence1) (w2 : W32) : Option Cand :=
  if f.fn = 0 then
    some
      { ill := [((Scope.ofCode m.scope).isNone, 1)]
        resv := [(f.d != 0 || f.a != 0 || f.b != 0, 0), (m.z1 != 0 || m.z0 != 0, 1), (w2 != 0, 2)]
        ins := .fence f.g ((Scope.ofCode m.scope).getD .tile) m.succ m.pred }
  else none

/-- Major 0x2F (16:R260). -/
def decMatom (f : First) (m : Mem1) (w2 : W32) (lit : X) : Option Cand :=
  let land := w2.extractLsb' 0 21
  let t := (AtomTy.ofTy m.ty).getD .i32
  let ok := (AtomTy.ofTy m.ty).isSome
  let c := fun (z0 : Bool) (i : Instr) => memCand m w2 z0 ok true false true i
  match f.len.toNat, f.fn.toNat with
  | 2, 0 => c false (.matomAdd f.g t f.d f.a f.b land)
  | 2, 1 => c false (.matomMin f.g t f.d f.a f.b land)
  | 2, 2 => c false (.matomMax f.g t f.d f.a f.b land)
  | 2, 3 => c false (.matomXchg f.g t f.d f.a f.b land)
  | 2, 4 => c false (.matomCmpxchg f.g t f.d f.a f.b land)
  | 2, 5 => c false (.matomAnd f.g t f.d f.a f.b land)
  | 2, 6 => c false (.matomOr f.g t f.d f.a f.b land)
  | 2, 7 => c false (.matomXor f.g t f.d f.a f.b land)
  | 3, 0 => c (f.a != 0) (.matomAddLit f.g t f.d lit f.b land)
  | 3, 1 => c (f.a != 0) (.matomMinLit f.g t f.d lit f.b land)
  | 3, 2 => c (f.a != 0) (.matomMaxLit f.g t f.d lit f.b land)
  | 3, 3 => c (f.a != 0) (.matomXchgLit f.g t f.d lit f.b land)
  | 3, 4 => c (f.a != 0) (.matomCmpxchgLit f.g t f.d lit f.b land)
  | 3, 5 => c (f.a != 0) (.matomAndLit f.g t f.d lit f.b land)
  | 3, 6 => c (f.a != 0) (.matomOrLit f.g t f.d lit f.b land)
  | 3, 7 => c (f.a != 0) (.matomXorLit f.g t f.d lit f.b land)
  | _, _ => none

/-- Majors 0x30 and 0x31 (16:R261-R263). -/
def decExact (f : First) (m : Mem1) (w2 : W32) (lit : X) : Option Cand :=
  let land := w2.extractLsb' 0 21
  let t := (XaccTy.ofTy m.ty).getD .f32
  let okA := (XaccTy.ofTy m.ty).isSome
  let okF := m.ty == Ty.f32.code
  match f.maj.toNat, f.len.toNat, f.fn.toNat with
  | 0x30, 2, 0 => memCand m w2 false okA true false false (.xacc f.g t f.d f.a f.b)
  | 0x30, 3, 0 => memCand m w2 (f.a != 0) okA true false false (.xaccLit f.g t f.d lit f.b)
  | 0x31, 2, 0 => memCand m w2 false okF true false true (.xfin f.g f.d f.a f.b land)
  | 0x31, 3, 0 => memCand m w2 (f.a != 0) okF true false true (.xfinLit f.g f.d lit f.b land)
  | 0x31, 2, 1 => memCand m w2 (f.b != 0) true false false false (.xclr f.g f.d f.a)
  | 0x31, 3, 1 => memCand m w2 (f.a != 0 || f.b != 0) true false false false (.xclrLit f.g f.d lit)
  | _, _, _ => none

/-- Majors 0x32-0x37 and 0x3F (16:R268-R270, 21:R308, 05:R99, 25:R356). -/
def decTail (f : First) : Option Cand :=
  match f.maj.toNat, f.fn.toNat with
  | 0x32, 0 => plain (f.b != 0) (.tlook f.g f.d f.a)
  | 0x32, 1 => plain (f.d != 0) (.tset f.g f.a f.b)
  | 0x32, 2 => plain (f.d != 0 || f.b != 0) (.tclr f.g f.a)
  | 0x33, 0 => plain (f.b != 0) (.touch f.g f.d f.a)
  | 0x33, 1 => plain (f.b != 0) (.landq f.g f.d f.a)
  | 0x34, 0 => plain (f.b != 0) (.leaseSd f.g f.d f.a)
  | 0x34, 1 => plain (f.b != 0) (.leaseRv f.g f.d f.a)
  | 0x35, 0 => plain (f.b != 0) (.renew f.g f.d f.a)
  | 0x35, 1 => plain (f.a != 0 || f.b != 0) (.lfree f.g f.d)
  | 0x36, 0 => plain (f.b != 0) (.ecmd f.g f.d f.a)
  | 0x3F, 0 => some { priv := true, resv := [(f.d != 0 || f.b != 0, 0)], ins := .preempt f.g f.a }
  | 0x3F, 1 => some { priv := true, resv := [(f.d != 0 || f.b != 0, 0)], ins := .kill f.g f.a }
  | 0x3F, 2 => some { priv := true, resv := [(f.d != 0, 0)], ins := .mapset f.g f.a f.b }
  | 0x3F, 3 => some { priv := true, resv := [(f.d != 0, 0)], ins := .keysel f.g f.a f.b }
  | _, _ => none

/-- ATOM, F = 4 × op + ty (05:R99). -/
def decAtom (f : First) : Option Cand :=
  let t := AtomTy.ofCode (f.fn.extractLsb' 0 2)
  match (f.fn.extractLsb' 2 3).toNat with
  | 0 => plain false (.atomAdd f.g t f.d f.a f.b)
  | 1 => plain false (.atomMin f.g t f.d f.a f.b)
  | 2 => plain false (.atomMax f.g t f.d f.a f.b)
  | 3 => plain false (.atomXchg f.g t f.d f.a f.b)
  | 4 => plain false (.atomCmpxchg f.g t f.d f.a f.b)
  | _ => none

/-- ASHAPE (09:R189): imm10 bits 3:0 are the mask. -/
def decAshape (f : First) : Option Cand :=
  plain (f.d != 0 || f.a != 0 || f.hi.extractLsb' 4 6 != 0) (.ashape f.g (f.hi.extractLsb' 0 4))

/-- The opcode map (02:R45): what the words of an instruction make, or none where MAJ is reserved, LEN is not
permitted or the function is unassigned. `w3`, `w4` are the literal's words under LEN 11, `w1`, `w2` under LEN 01. -/
def candidate (w0 w1 w2 w3 w4 : W32) : Option Cand :=
  let f := First.split w0
  let lit1 : X := w2 ++ w1
  let lit3 : X := w4 ++ w3
  let v := Vec1.split w1
  match f.len.toNat with
  | 0 =>
    match f.maj.toNat with
    | 0x00 => decAlu f
    | 0x01 | 0x02 => decAddi f 0
    | 0x03 => decShift f
    | 0x04 => decMul f
    | 0x05 => decGcmp f
    | 0x06 => decGlog f 0
    | 0x07 | 0x08 => decLdst f 0
    | 0x09 => decFlow f 0
    | 0x0A => decTime f
    | 0x0B => decSys f
    | 0x0C => decTrap f
    | 0x20 => decAshape f
    | 0x28 | 0x29 | 0x2A | 0x2B => decFabric f
    | 0x32 | 0x33 | 0x34 | 0x35 | 0x36 | 0x3F => decTail f
    | 0x37 => decAtom f
    | _ => none
  | 1 =>
    match f.maj.toNat with
    | 0x01 | 0x02 => decAddi f lit1
    | 0x06 => decGlog f lit1
    | 0x07 | 0x08 => decLdst f lit1
    | 0x09 => decFlow f lit1
    | _ => none
  | 2 =>
    match f.maj.toNat with
    | 0x10 => decValu f v w2
    | 0x11 => decVfpu f v w2
    | 0x12 => decVcmp f v w2
    | 0x13 => decVmov f v w2 0
    | 0x14 => decVcvt f v w2
    | 0x15 => decVse f v w2
    | 0x16 => decVred f v w2
    | 0x17 => decVscan f v w2
    | 0x18 => decVperm f v w2
    | 0x19 => decVmem f v w2
    | 0x1A => decVgs f v w2
    | 0x1B => decVatom f v w2
    | 0x1C | 0x1D => decDraw f v w2
    | 0x1E => decVmask f v w2
    | 0x21 | 0x22 | 0x23 | 0x24 | 0x25 | 0x26 => decMatrix f (Mat1.split w1) w2
    | 0x2C | 0x2D => decCopy f (Mem1.split w1) w2 0
    | 0x2E => decFence f (Fence1.split w1) w2
    | 0x2F => decMatom f (Mem1.split w1) w2 0
    | 0x30 | 0x31 => decExact f (Mem1.split w1) w2 0
    | _ => none
  | _ =>
    match f.maj.toNat with
    | 0x13 => decVmov f v w2 lit3
    | 0x2C | 0x2D => decCopy f (Mem1.split w1) w2 lit3
    | 0x2F => decMatom f (Mem1.split w1) w2 lit3
    | 0x30 | 0x31 => decExact f (Mem1.split w1) w2 lit3
    | _ => none

/-- The number of words of an instruction, from LEN (02:R35). -/
def lenWords (len : BitVec 2) : Nat :=
  match len.toNat with
  | 0 => 1 | 1 => 3 | 2 => 3 | _ => 5

/-- Decoding the words of one instruction, the first of them `w0`, at user or privileged level (02:R46, R47). Total:
a word that is not there reads as zero, which only matters to an instruction cut short, which R36 refuses first. -/
def decodeWords (privLevel : Bool) (ws : List W32) : Except Reject Instr :=
  match ws with
  | [] => .error ⟨0x01, 0⟩
  | w0 :: r =>
    if r.length + 1 < lenWords (First.split w0).len then .error ⟨0x01, 0⟩
    else verdict privLevel (candidate w0 (r.getD 0 0) (r.getD 1 0) (r.getD 2 0) (r.getD 3 0))

/-- One 32-bit word from four bytes, little-endian (02:R36). -/
def wordOfBytes (b0 b1 b2 b3 : Byte) : W32 := b3 ++ b2 ++ b1 ++ b0

/-- The whole 32-bit words of a list of bytes; a part word at the end is dropped. -/
def wordsOfBytes : List Byte → List W32
  | b0 :: b1 :: b2 :: b3 :: r => wordOfBytes b0 b1 b2 b3 :: wordsOfBytes r
  | _ => []

/-- The bytes of a list of words, little-endian (02:R36). -/
def bytesOfWords : List W32 → List Byte
  | [] => []
  | w :: r =>
    w.extractLsb' 0 8 :: w.extractLsb' 8 8 :: w.extractLsb' 16 8 :: w.extractLsb' 24 8 :: bytesOfWords r

/-- Decoding any bytes: the instruction at their head and its length in bytes, or why they are none. -/
def decode (privLevel : Bool) (bs : List Byte) : Except Reject (Instr × Nat) :=
  match decodeWords privLevel (wordsOfBytes bs) with
  | .error r => .error r
  | .ok i => .ok (i, 4 * lenWords (First.split ((wordsOfBytes bs).getD 0 0)).len)

/-- The k words of a number, the first word its lowest 32 bits. -/
def wordsOfNat : Nat → Nat → List W32
  | 0, _ => []
  | k + 1, w => BitVec.ofNat 32 w :: wordsOfNat k (w / 2 ^ 32)

/-- The instruction the decoder reads from the bits of one row of the opcode table: bit 0 is the least significant
bit of the first word, later words count on from it, and every bit above nbits is zero. -/
def decodeTableWord (nbits w : Nat) : Option Instr :=
  match decode true (bytesOfWords (wordsOfNat 5 (w % 2 ^ nbits))) with
  | .ok (i, _) => some i
  | .error _ => none

/-! ### The encoder -/

/-- A first word of the register layout. -/
def encReg (maj : BitVec 6) (len : BitVec 2) (fn : BitVec 5) (g : Guard) (d a b : BitVec 5) : W32 :=
  First.word { hi := fn ++ b, a := a, d := d, g := g, maj := maj, len := len }

/-- A first word of the immediate or flow layout (FN stands where A does). -/
def encImm (maj : BitVec 6) (len : BitVec 2) (g : Guard) (d a : BitVec 5) (imm : BitVec 10) : W32 :=
  First.word { hi := imm, a := a, d := d, g := g, maj := maj, len := len }

/-- A first word of the memory layout. -/
def encMem (maj : BitVec 6) (len : BitVec 2) (g : Guard) (t : MemTy) (d a : BitVec 5) (imm : BitVec 7) : W32 :=
  First.word { hi := imm ++ t.code, a := a, d := d, g := g, maj := maj, len := len }

/-- A first word of the sampling layout. -/
def encSamp (maj : BitVec 6) (fn : BitVec 4) (g : Guard) (d a : BitVec 5) (n : BitVec 6) : W32 :=
  First.word { hi := fn ++ n, a := a, d := d, g := g, maj := maj, len := 0 }

/-- A first word of the system layout. -/
def encSys (w : Bool) (g : Guard) (d : BitVec 5) (num : BitVec 12) : W32 :=
  First.word { hi := (0 : BitVec 2) ++ num.extractLsb' 4 8, a := num.extractLsb' 0 4 ++ BitVec.ofBool w, d := d, g := g
               maj := 0x0B, len := 0 }

/-- The two words of a 64-bit literal, low half first (02:R35). -/
def litWords (l : X) : List W32 := [l.extractLsb' 0 32, l.extractLsb' 32 32]

/-- The unguarded form (02:R37). -/
def noGuard : Guard := { neg := false, reg := 0 }

/-- The words of an instruction, from the encoding tables of the manual; an event has none. -/
def encode : Instr → List W32
  | .add g d a b => [encReg 0x00 0 0x00 g d a b]
  | .sub g d a b => [encReg 0x00 0 0x01 g d a b]
  | .and g d a b => [encReg 0x00 0 0x02 g d a b]
  | .or g d a b => [encReg 0x00 0 0x03 g d a b]
  | .xor g d a b => [encReg 0x00 0 0x04 g d a b]
  | .andn g d a b => [encReg 0x00 0 0x05 g d a b]
  | .shl g d a b => [encReg 0x00 0 0x06 g d a b]
  | .shr g d a b => [encReg 0x00 0 0x07 g d a b]
  | .sar g d a b => [encReg 0x00 0 0x08 g d a b]
  | .rol g d a b => [encReg 0x00 0 0x09 g d a b]
  | .min g d a b => [encReg 0x00 0 0x0a g d a b]
  | .max g d a b => [encReg 0x00 0 0x0b g d a b]
  | .minn g d a b => [encReg 0x00 0 0x0c g d a b]
  | .maxn g d a b => [encReg 0x00 0 0x0d g d a b]
  | .slt g d a b => [encReg 0x00 0 0x0e g d a b]
  | .sltn g d a b => [encReg 0x00 0 0x0f g d a b]
  | .seq g d a b => [encReg 0x00 0 0x10 g d a b]
  | .clz g d a => [encReg 0x00 0 0x11 g d a 0]
  | .popc g d a => [encReg 0x00 0 0x12 g d a 0]
  | .sel g d a b => [encReg 0x00 0 0x13 g d a b]
  | .addi g d a imm => [encImm 0x01 0 g d a imm]
  | .addiLit g d a lit => encImm 0x01 1 g d a 0 :: litWords lit
  | .li g d imm => [encImm 0x02 0 g d 0 imm]
  | .liLit g d lit => encImm 0x02 1 g d 0 0 :: litWords lit
  | .shli g d a sh => [encImm 0x03 0 g d a ((0 : BitVec 2) ++ (0 : BitVec 2) ++ sh)]
  | .shri g d a sh => [encImm 0x03 0 g d a ((1 : BitVec 2) ++ (0 : BitVec 2) ++ sh)]
  | .sari g d a sh => [encImm 0x03 0 g d a ((2 : BitVec 2) ++ (0 : BitVec 2) ++ sh)]
  | .roli g d a sh => [encImm 0x03 0 g d a ((3 : BitVec 2) ++ (0 : BitVec 2) ++ sh)]
  | .mul g d a b => [encReg 0x04 0 0 g d a b]
  | .mulh g d a b => [encReg 0x04 0 1 g d a b]
  | .mulhn g d a b => [encReg 0x04 0 2 g d a b]
  | .div g d a b => [encReg 0x04 0 3 g d a b]
  | .divn g d a b => [encReg 0x04 0 4 g d a b]
  | .rem g d a b => [encReg 0x04 0 5 g d a b]
  | .remn g d a b => [encReg 0x04 0 6 g d a b]
  | .geq g d a b => [encReg 0x05 0 0 g (g3up d) a b]
  | .gne g d a b => [encReg 0x05 0 1 g (g3up d) a b]
  | .glt g d a b => [encReg 0x05 0 2 g (g3up d) a b]
  | .gle g d a b => [encReg 0x05 0 3 g (g3up d) a b]
  | .gltn g d a b => [encReg 0x05 0 4 g (g3up d) a b]
  | .glen g d a b => [encReg 0x05 0 5 g (g3up d) a b]
  | .gand g d a b => [encReg 0x06 0 0 g (g3up d) (g3up a) (g3up b)]
  | .gor g d a b => [encReg 0x06 0 1 g (g3up d) (g3up a) (g3up b)]
  | .gxor g d a b => [encReg 0x06 0 2 g (g3up d) (g3up a) (g3up b)]
  | .gnot g d a => [encReg 0x06 0 3 g (g3up d) (g3up a) 0]
  | .gmov g d a => [encReg 0x06 0 4 g (g3up d) (g3up a) 0]
  | .gseti g d lit => encReg 0x06 1 5 g (g3up d) 0 0 :: litWords lit
  | .ld g t d a imm => [encMem 0x07 0 g t d a imm]
  | .ldLit g t d a lit => encMem 0x07 1 g t d a 0 :: litWords lit
  | .st g t d a imm => [encMem 0x08 0 g t d a imm]
  | .stLit g t d a lit => encMem 0x08 1 g t d a 0 :: litWords lit
  | .atomAdd g t d a b => [encReg 0x37 0 ((0 : BitVec 3) ++ t.code) g d a b]
  | .atomMin g t d a b => [encReg 0x37 0 ((1 : BitVec 3) ++ t.code) g d a b]
  | .atomMax g t d a b => [encReg 0x37 0 ((2 : BitVec 3) ++ t.code) g d a b]
  | .atomXchg g t d a b => [encReg 0x37 0 ((3 : BitVec 3) ++ t.code) g d a b]
  | .atomCmpxchg g t d a b => [encReg 0x37 0 ((4 : BitVec 3) ++ t.code) g d a b]
  | .pbr g d imm => [encImm 0x09 0 g (b2up d) 0 imm]
  | .pbrLit g d lit => encImm 0x09 1 g (b2up d) 0 0 :: litWords lit
  | .br g d => [encImm 0x09 0 g (b2up d) 1 0]
  | .call g d => [encImm 0x09 0 g (b2up d) 2 0]
  | .ret g d => [encImm 0x09 0 g d 3 0]
  | .loop g d imm => [encImm 0x09 0 g d 4 imm]
  | .period => [encImm 0x0A 0 noGuard 0 0 0]
  | .resync d => [encImm 0x0A 0 noGuard d 1 0]
  | .resyncT d => [encImm 0x0A 0 noGuard d 2 0]
  | .nopn g imm => [encImm 0x0A 0 g 0 3 imm]
  | .slot g d => [encImm 0x0A 0 g d 4 0]
  | .tbase g d => [encImm 0x0A 0 g d 5 0]
  | .sysr g d num => [encSys false g d num]
  | .sysw g d num => [encSys true g d num]
  | .trap g code => [encImm 0x0C 0 g 0 0 code]
  | .eret => [encImm 0x0C 0 noGuard 0 1 0]
  | .halt g => [encImm 0x0C 0 g 0 2 0]
  | .vadd g t sat d a b => [encReg 0x10 2 0 g d a b, Vec1.word { sat := sat, tb := t.ty.code, ta := t.ty.code, td := t.ty.code }, 0]
  | .vsub g t sat d a b => [encReg 0x10 2 1 g d a b, Vec1.word { sat := sat, tb := t.ty.code, ta := t.ty.code, td := t.ty.code }, 0]
  | .vand g t d a b => [encReg 0x10 2 2 g d a b, Vec1.word { tb := t.ty.code, ta := t.ty.code, td := t.ty.code }, 0]
  | .vor g t d a b => [encReg 0x10 2 3 g d a b, Vec1.word { tb := t.ty.code, ta := t.ty.code, td := t.ty.code }, 0]
  | .vxor g t d a b => [encReg 0x10 2 4 g d a b, Vec1.word { tb := t.ty.code, ta := t.ty.code, td := t.ty.code }, 0]
  | .vandn g t d a b => [encReg 0x10 2 5 g d a b, Vec1.word { tb := t.ty.code, ta := t.ty.code, td := t.ty.code }, 0]
  | .vshl g t d a b => [encReg 0x10 2 6 g d a b, Vec1.word { tb := t.ty.code, ta := t.ty.code, td := t.ty.code }, 0]
  | .vshr g t d a b => [encReg 0x10 2 7 g d a b, Vec1.word { tb := t.ty.code, ta := t.ty.code, td := t.ty.code }, 0]
  | .vsar g t d a b => [encReg 0x10 2 8 g d a b, Vec1.word { tb := t.ty.code, ta := t.ty.code, td := t.ty.code }, 0]
  | .vmin g t d a b => [encReg 0x10 2 9 g d a b, Vec1.word { tb := t.ty.code, ta := t.ty.code, td := t.ty.code }, 0]
  | .vmax g t d a b => [encReg 0x10 2 10 g d a b, Vec1.word { tb := t.ty.code, ta := t.ty.code, td := t.ty.code }, 0]
  | .vmul g t sat d a b => [encReg 0x10 2 11 g d a b, Vec1.word { sat := sat, tb := t.ty.code, ta := t.ty.code, td := t.ty.code }, 0]
  | .vmulh g t d a b => [encReg 0x10 2 12 g d a b, Vec1.word { tb := t.ty.code, ta := t.ty.code, td := t.ty.code }, 0]
  | .vabs g t sat d a => [encReg 0x10 2 13 g d a 0, Vec1.word { sat := sat, tb := t.ty.code, ta := t.ty.code, td := t.ty.code }, 0]
  | .vneg g t sat d a => [encReg 0x10 2 14 g d a 0, Vec1.word { sat := sat, tb := t.ty.code, ta := t.ty.code, td := t.ty.code }, 0]
  | .vfadd g d a b => [encReg 0x11 2 0 g d a b, Vec1.word { tb := 8, ta := 8, td := 8 }, 0]
  | .vfsub g d a b => [encReg 0x11 2 1 g d a b, Vec1.word { tb := 8, ta := 8, td := 8 }, 0]
  | .vfmul g d a b => [encReg 0x11 2 2 g d a b, Vec1.word { tb := 8, ta := 8, td := 8 }, 0]
  | .vfma g d a b c => [encReg 0x11 2 3 g d a b, Vec1.word { c := c, tb := 8, ta := 8, td := 8 }, 0]
  | .vfmin g d a b => [encReg 0x11 2 4 g d a b, Vec1.word { tb := 8, ta := 8, td := 8 }, 0]
  | .vfmax g d a b => [encReg 0x11 2 5 g d a b, Vec1.word { tb := 8, ta := 8, td := 8 }, 0]
  | .vfabs g d a => [encReg 0x11 2 6 g d a 0, Vec1.word { tb := 8, ta := 8, td := 8 }, 0]
  | .vfneg g d a => [encReg 0x11 2 7 g d a 0, Vec1.word { tb := 8, ta := 8, td := 8 }, 0]
  | .vfdiv g d a b => [encReg 0x11 2 8 g d a b, Vec1.word { tb := 8, ta := 8, td := 8 }, 0]
  | .vfsqrt g d a => [encReg 0x11 2 9 g d a 0, Vec1.word { tb := 8, ta := 8, td := 8 }, 0]
  | .vfexp2 g d a => [encReg 0x11 2 10 g d a 0, Vec1.word { tb := 8, ta := 8, td := 8 }, 0]
  | .vflog2 g d a => [encReg 0x11 2 11 g d a 0, Vec1.word { tb := 8, ta := 8, td := 8 }, 0]
  | .vcmpEq g t gd a b => [encReg 0x12 2 0 g 0 a b, Vec1.word { gd := gd, tb := t.ty.code, ta := t.ty.code, td := t.ty.code }, 0]
  | .vcmpNe g t gd a b => [encReg 0x12 2 1 g 0 a b, Vec1.word { gd := gd, tb := t.ty.code, ta := t.ty.code, td := t.ty.code }, 0]
  | .vcmpLt g t gd a b => [encReg 0x12 2 2 g 0 a b, Vec1.word { gd := gd, tb := t.ty.code, ta := t.ty.code, td := t.ty.code }, 0]
  | .vcmpLe g t gd a b => [encReg 0x12 2 3 g 0 a b, Vec1.word { gd := gd, tb := t.ty.code, ta := t.ty.code, td := t.ty.code }, 0]
  | .vsel g d a b => [encReg 0x13 2 0 g d a b, 0, 0]
  | .vmov g d a => [encReg 0x13 2 1 g d a 0, 0, 0]
  | .vbcast g d a => [encReg 0x13 2 2 g d a 0, 0, 0]
  | .vbcastLit g d lit => encReg 0x13 3 2 g d 0 0 :: 0 :: 0 :: litWords lit
  | .vlaneget g d a n => [encReg 0x13 2 3 g d a 0, 0, (0 : BitVec 26) ++ n]
  | .vlaneset g d a n => [encReg 0x13 2 4 g d a 0, 0, (0 : BitVec 26) ++ n]
  | .vcvt g td ta rnd d a => [encReg 0x14 2 0 g d a 0, Vec1.word { rnd := rnd.code, tb := ta.code, ta := ta.code, td := td.code }, 0]
  | .vpackse g t d a => [encReg 0x15 2 0 g d a 0, Vec1.word { tb := 8, ta := 8, td := t.ty.code }, 0]
  | .vunpackse g t d a => [encReg 0x15 2 1 g d a 0, Vec1.word { tb := t.ty.code, ta := t.ty.code, td := 8 }, 0]
  | .vredSum g t sat d a => [encReg 0x16 2 0 g d a 0, Vec1.word { sat := sat, tb := t.ty.code, ta := t.ty.code, td := t.ty.code }, 0]
  | .vredMin g t d a => [encReg 0x16 2 1 g d a 0, Vec1.word { tb := t.ty.code, ta := t.ty.code, td := t.ty.code }, 0]
  | .vredMax g t d a => [encReg 0x16 2 2 g d a 0, Vec1.word { tb := t.ty.code, ta := t.ty.code, td := t.ty.code }, 0]
  | .vredArgmax g t d a => [encReg 0x16 2 3 g d a 0, Vec1.word { tb := t.ty.code, ta := t.ty.code, td := t.ty.code }, 0]
  | .vredArgmin g t d a => [encReg 0x16 2 4 g d a 0, Vec1.word { tb := t.ty.code, ta := t.ty.code, td := t.ty.code }, 0]
  | .vredAnd g d a => [encReg 0x16 2 5 g d a 0, Vec1.word { tb := 6, ta := 6, td := 6 }, 0]
  | .vredOr g d a => [encReg 0x16 2 6 g d a 0, Vec1.word { tb := 6, ta := 6, td := 6 }, 0]
  | .vredXor g d a => [encReg 0x16 2 7 g d a 0, Vec1.word { tb := 6, ta := 6, td := 6 }, 0]
  | .vredXsum g d a => [encReg 0x16 2 8 g d a 0, Vec1.word { tb := 8, ta := 8, td := 8 }, 0]
  | .vscanSum g t sat d a => [encReg 0x17 2 0 g d a 0, Vec1.word { sat := sat, tb := t.ty.code, ta := t.ty.code, td := t.ty.code }, 0]
  | .vscanMin g t d a => [encReg 0x17 2 1 g d a 0, Vec1.word { tb := t.ty.code, ta := t.ty.code, td := t.ty.code }, 0]
  | .vscanMax g t d a => [encReg 0x17 2 2 g d a 0, Vec1.word { tb := t.ty.code, ta := t.ty.code, td := t.ty.code }, 0]
  | .vperm g d a b => [encReg 0x18 2 0 g d a b, 0, 0]
  | .vrot g d a n => [encReg 0x18 2 1 g d a 0, 0, (0 : BitVec 26) ++ n]
  | .vld g t d a imm => [encReg 0x19 2 0 g d a 0, Vec1.word { tb := t.code, ta := t.code, td := t.code }, imm]
  | .vst g t d a imm => [encReg 0x19 2 1 g d a 0, Vec1.word { tb := t.code, ta := t.code, td := t.code }, imm]
  | .vgather g t d a b => [encReg 0x1A 2 0 g d a b, Vec1.word { tb := t.code, ta := t.code, td := t.code }, 0]
  | .vscatter g t d a b => [encReg 0x1A 2 1 g d a b, Vec1.word { tb := t.code, ta := t.code, td := t.code }, 0]
  | .vatomAdd g t d a b c => [encReg 0x1B 2 0 g d a b, Vec1.word { c := c, tb := t.ty.code, ta := t.ty.code, td := t.ty.code }, 0]
  | .vatomMin g t d a b c => [encReg 0x1B 2 1 g d a b, Vec1.word { c := c, tb := t.ty.code, ta := t.ty.code, td := t.ty.code }, 0]
  | .vatomMax g t d a b c => [encReg 0x1B 2 2 g d a b, Vec1.word { c := c, tb := t.ty.code, ta := t.ty.code, td := t.ty.code }, 0]
  | .vatomXchg g t d a b c => [encReg 0x1B 2 3 g d a b, Vec1.word { c := c, tb := t.ty.code, ta := t.ty.code, td := t.ty.code }, 0]
  | .philox g d a j => [encReg 0x1C 2 0 g d a 0, Vec1.word { opt := (0 : BitVec 4) ++ j }, 0]
  | .sample g d gd a b c v => [encReg 0x1D 2 0 g d a b, Vec1.word { gd := gd, c := c }, v]
  | .vmaskLd g gd a imm => [encReg 0x1E 2 0 g 0 a 0, Vec1.word { gd := gd }, imm]
  | .vmaskSt g a b imm => [encReg 0x1E 2 1 g 0 a (g3up b), 0, imm]
  | .vmaskCnt g d b => [encReg 0x1E 2 2 g d 0 (g3up b), 0, 0]
  | .vmaskFirst g d b => [encReg 0x1E 2 3 g d 0 (g3up b), 0, 0]
  | .ashape g m => [encImm 0x20 0 g 0 0 ((0 : BitVec 6) ++ m)]
  | .wfill g a b nrow spoff => [encReg 0x21 2 0 g 0 a b, Mat1.word { nrow := nrow }, low21 spoff]
  | .wload g t d a b spoff => [encReg 0x22 2 0 g d a b, Mat1.word { ti := t.code }, low21 spoff]
  | .ctab g a spoff => [encReg 0x23 2 0 g 0 a 0, 0, low21 spoff]
  | .mma g t acc swap h a arow nrow spoff => [encReg 0x24 2 0 g ((0 : BitVec 2) ++ h) a 0, Mat1.word { fl := (0 : BitVec 2) ++ BitVec.ofBool acc ++ BitVec.ofBool swap, arow := arow, nrow := nrow, ti := t.code }, low21 spoff]
  | .accrd g t a arow nrow spoff => [encReg 0x25 2 0 g 0 a 0, Mat1.word { arow := arow, nrow := nrow, tout := t.code }, low21 spoff]
  | .accwr g t a arow nrow spoff => [encReg 0x25 2 1 g 0 a 0, Mat1.word { arow := arow, nrow := nrow, ti := t.code }, low21 spoff]
  | .accz g arow nrow => [encReg 0x25 2 2 g 0 0 0, Mat1.word { arow := arow, nrow := nrow }, 0]
  | .accsave g a arow nrow spoff => [encReg 0x26 2 0 g 0 a 0, Mat1.word { arow := arow, nrow := nrow }, low21 spoff]
  | .accrest g a arow nrow spoff => [encReg 0x26 2 1 g 0 a 0, Mat1.word { arow := arow, nrow := nrow }, low21 spoff]
  | .post g sc n d => [encSamp 0x28 (sc.code ++ (0 : BitVec 1)) g d 0 ((0 : BitVec 1) ++ n)]
  | .postScratch g sc n a => [encSamp 0x28 (sc.code ++ (1 : BitVec 1)) g 0 a ((0 : BitVec 1) ++ n)]
  | .peek g d n => [encSamp 0x29 0 g d 0 n]
  | .seqMirror g d n => [encSamp 0x2A 0 g d 0 n]
  | .age g d n => [encSamp 0x2A 1 g d 0 n]
  | .mbind g a n => [encSamp 0x2B 0 g 0 a n]
  | .mquery g d n => [encSamp 0x2B 1 g d 0 n]
  | .cpy g d a b count land => [encReg 0x2C 2 0 g d a b, Mem1.word { count := count }, low21 land]
  | .cpyLit g d lit b count land => encReg 0x2C 3 0 g d 0 b :: Mem1.word { count := count } :: low21 land :: litWords lit
  | .cpyw g d a b count => [encReg 0x2D 2 0 g d a b, Mem1.word { count := count }, 0]
  | .cpywLit g d lit b count => encReg 0x2D 3 0 g d 0 b :: Mem1.word { count := count } :: 0 :: litWords lit
  | .fence g sc succ pred => [encReg 0x2E 2 0 g 0 0 0, Fence1.word { scope := sc.code, succ := succ, pred := pred }, 0]
  | .matomAdd g t d a b land => [encReg 0x2F 2 0 g d a b, Mem1.word { ty := t.ty.code }, low21 land]
  | .matomMin g t d a b land => [encReg 0x2F 2 1 g d a b, Mem1.word { ty := t.ty.code }, low21 land]
  | .matomMax g t d a b land => [encReg 0x2F 2 2 g d a b, Mem1.word { ty := t.ty.code }, low21 land]
  | .matomXchg g t d a b land => [encReg 0x2F 2 3 g d a b, Mem1.word { ty := t.ty.code }, low21 land]
  | .matomCmpxchg g t d a b land => [encReg 0x2F 2 4 g d a b, Mem1.word { ty := t.ty.code }, low21 land]
  | .matomAnd g t d a b land => [encReg 0x2F 2 5 g d a b, Mem1.word { ty := t.ty.code }, low21 land]
  | .matomOr g t d a b land => [encReg 0x2F 2 6 g d a b, Mem1.word { ty := t.ty.code }, low21 land]
  | .matomXor g t d a b land => [encReg 0x2F 2 7 g d a b, Mem1.word { ty := t.ty.code }, low21 land]
  | .matomAddLit g t d lit b land => encReg 0x2F 3 0 g d 0 b :: Mem1.word { ty := t.ty.code } :: low21 land :: litWords lit
  | .matomMinLit g t d lit b land => encReg 0x2F 3 1 g d 0 b :: Mem1.word { ty := t.ty.code } :: low21 land :: litWords lit
  | .matomMaxLit g t d lit b land => encReg 0x2F 3 2 g d 0 b :: Mem1.word { ty := t.ty.code } :: low21 land :: litWords lit
  | .matomXchgLit g t d lit b land => encReg 0x2F 3 3 g d 0 b :: Mem1.word { ty := t.ty.code } :: low21 land :: litWords lit
  | .matomCmpxchgLit g t d lit b land => encReg 0x2F 3 4 g d 0 b :: Mem1.word { ty := t.ty.code } :: low21 land :: litWords lit
  | .matomAndLit g t d lit b land => encReg 0x2F 3 5 g d 0 b :: Mem1.word { ty := t.ty.code } :: low21 land :: litWords lit
  | .matomOrLit g t d lit b land => encReg 0x2F 3 6 g d 0 b :: Mem1.word { ty := t.ty.code } :: low21 land :: litWords lit
  | .matomXorLit g t d lit b land => encReg 0x2F 3 7 g d 0 b :: Mem1.word { ty := t.ty.code } :: low21 land :: litWords lit
  | .xacc g t d a b => [encReg 0x30 2 0 g d a b, Mem1.word { ty := t.ty.code }, 0]
  | .xaccLit g t d lit b => encReg 0x30 3 0 g d 0 b :: Mem1.word { ty := t.ty.code } :: 0 :: litWords lit
  | .xfin g d a b land => [encReg 0x31 2 0 g d a b, Mem1.word { ty := 8 }, low21 land]
  | .xfinLit g d lit b land => encReg 0x31 3 0 g d 0 b :: Mem1.word { ty := 8 } :: low21 land :: litWords lit
  | .xclr g d a => [encReg 0x31 2 1 g d a 0, 0, 0]
  | .xclrLit g d lit => encReg 0x31 3 1 g d 0 0 :: 0 :: 0 :: litWords lit
  | .tlook g d a => [encReg 0x32 0 0 g d a 0]
  | .tset g a b => [encReg 0x32 0 1 g 0 a b]
  | .tclr g a => [encReg 0x32 0 2 g 0 a 0]
  | .touch g d a => [encReg 0x33 0 0 g d a 0]
  | .landq g d a => [encReg 0x33 0 1 g d a 0]
  | .leaseSd g d a => [encReg 0x34 0 0 g d a 0]
  | .leaseRv g d a => [encReg 0x34 0 1 g d a 0]
  | .renew g d a => [encReg 0x35 0 0 g d a 0]
  | .lfree g d => [encReg 0x35 0 1 g d 0 0]
  | .ecmd g d a => [encReg 0x36 0 0 g d a 0]
  | .preempt g a => [encReg 0x3F 0 0 g 0 a 0]
  | .kill g a => [encReg 0x3F 0 1 g 0 a 0]
  | .mapset g a b => [encReg 0x3F 0 2 g 0 a b]
  | .keysel g a b => [encReg 0x3F 0 3 g 0 a b]
  | .resultLanding => []
  | .trapEntry => []
  | .escalation => []
  | .frozenResume _ => []
  | .frozenHandlerEntry _ => []
  | .haltComplete => []
  | .holdEnd _ => []
  | .droopStretch _ => []
  | .resyncTRestart _ => []
  | .bandAwake => []
  | .shadowPlaneLoad => []
  | .mmaRowLanding => []
  | .postDelivery _ _ => []
  | .postRelease _ => []
  | .hostCommit _ _ => []
  | .fencedRelease _ => []
  | .homeStationPerform _ _ => []
  | .copyDataArrival _ _ => []
  | .cpyLanding => []
  | .matomLanding => []
  | .xfinLanding => []
  | .stationReport _ => []
  | .touchWalk _ => []
  | .stationInvalidation _ _ => []
  | .ringSlot _ => []
  | .leaseArrival _ => []
  | .renewArrival _ => []
  | .lfreeArrival _ => []
  | .ecmdArrival _ => []
  | .grant _ => []
  | .wakeDone _ _ => []
  | .leaseExpiry _ _ => []
  | .endingLeash _ _ => []
  | .fullnessReport _ => []
  | .capRecovery _ => []
  | .gather _ _ => []
  | .scatter _ _ => []
  | .loadg _ _ => []
  | .mask _ _ => []
  | .step _ _ => []
  | .snap _ _ => []
  | .restore _ _ => []
  | .engineResult _ _ => []
  | .notify _ => []
  | .serveNotify _ => []
  | .lseqReread _ => []
  | .controlWordWrite _ _ _ => []
  | .tileStart _ => []
  | .lstatRunning _ => []
  | .saveComplete _ => []
  | .killTileStop _ => []
  | .killComplete _ => []
  | .thermalSensorRead _ _ => []
  | .currentAlarm _ _ => []
  | .occauseClear _ => []
  | .freqRequest _ => []
  | .voltageRampDone => []
  | .changeoverEnd => []
  | .dieReset _ => []
  | .dieReturn _ => []
  | .powerOnReset => []
  | .bootgo => []
  | .ago => []
  | .attestReportReady => []
  | .hostMemoryWrite _ _ _ => []
  | .hostMemoryRead _ _ _ => []
  | .readBufferInvalidate _ => []
  | .debugWindowWrite _ _ _ => []
  | .registerWrite _ _ _ => []
  | .firmwarePriorityEviction _ _ => []
  | .camrakLinkDown _ => []
  | .camrakLinkUp _ => []
  | .registerFileParity _ _ _ => []
  | .managementCoreMemoryWrite _ _ _ => []

/-- An event of the part: no words encode it. -/
def Instr.isEvent (i : Instr) : Bool := (encode i).isEmpty

end Sys2Proof
end

