-- ==== Sys2Proof/Machine/Sources.lean ====
section
/-! DEFINITION. The registers that each instruction reads at its issue (05, 07, 09, 13, 16, 21), for 06:R123. -/

namespace Sys2Proof.Machine

/-- A register that an instruction reads. -/
inductive Src where
  | x (r : BitVec 5)
  | g (r : BitVec 3)
  | b (r : BitVec 2)
  | v (r : BitVec 5)
  deriving DecidableEq, Repr

/-- The registers that an instruction reads at its issue: its guard, its address and value sources. A NOPN's guard has no
effect (05:R105); the words of the debug window alone read no register of the tile (25:R355), and events read none. -/
def sources : Instr → List Src
  | .add g _ a b | .sub g _ a b | .and g _ a b | .or g _ a b | .xor g _ a b | .andn g _ a b
  | .shl g _ a b | .shr g _ a b | .sar g _ a b | .rol g _ a b | .min g _ a b | .max g _ a b
  | .minn g _ a b | .maxn g _ a b | .slt g _ a b | .sltn g _ a b | .seq g _ a b | .sel g _ a b
  | .mul g _ a b | .mulh g _ a b | .mulhn g _ a b | .div g _ a b | .divn g _ a b | .rem g _ a b
  | .remn g _ a b | .geq g _ a b | .gne g _ a b | .glt g _ a b | .gle g _ a b | .gltn g _ a b
  | .glen g _ a b | .atomAdd g _ _ a b | .atomMin g _ _ a b | .atomMax g _ _ a b
  | .atomXchg g _ _ a b | .wfill g a b _ _ | .cpy g _ a b _ _ | .cpyw g _ a b _
  | .matomAdd g _ _ a b _ | .matomMin g _ _ a b _ | .matomMax g _ _ a b _ | .matomXchg g _ _ a b _
  | .matomCmpxchg g _ _ a b _ | .matomAnd g _ _ a b _ | .matomOr g _ _ a b _
  | .matomXor g _ _ a b _ | .xacc g _ _ a b | .xfin g _ a b _ | .tset g a b => [.g g.reg, .x a, .x b]
  | .clz g _ a | .popc g _ a | .addi g _ a _ | .addiLit g _ a _ | .shli g _ a _ | .shri g _ a _
  | .sari g _ a _ | .roli g _ a _ | .ld g _ _ a _ | .ldLit g _ _ a _ | .vbcast g _ a
  | .vlaneset g _ a _ | .vld g _ _ a _ | .vmaskLd g _ a _ | .ctab g a _ | .mma g _ _ _ _ a _ _ _
  | .accrd g _ a _ _ _ | .accwr g _ a _ _ _ | .accsave g a _ _ _ | .accrest g a _ _ _
  | .postScratch g _ _ a | .xclr g _ a | .tlook g _ a | .tclr g a | .touch g _ a | .landq g _ a
  | .leaseSd g _ a | .leaseRv g _ a | .renew g _ a | .ecmd g _ a => [.g g.reg, .x a]
  | .li g _ _ | .liLit g _ _ | .gseti g _ _ | .pbr g _ _ | .pbrLit g _ _ | .tbase g _ | .sysr g _ _
  | .trap g _ | .halt g | .vbcastLit g _ _ | .ashape g _ | .accz g _ _ | .peek g _ _
  | .seqMirror g _ _ | .age g _ _ | .mquery g _ _ | .fence g _ _ _ | .xclrLit g _ _ | .lfree g _ => [.g g.reg]
  | .gand g _ a b | .gor g _ a b | .gxor g _ a b => [.g g.reg, .g a, .g b]
  | .gnot g _ a | .gmov g _ a => [.g g.reg, .g a]
  | .st g _ d a _ | .stLit g _ d a _ => [.g g.reg, .x d, .x a]
  | .atomCmpxchg g _ d a b | .wload g _ d a b _ => [.g g.reg, .x d, .x a, .x b]
  | .br g d | .call g d => [.g g.reg, .b d]
  | .ret g d | .loop g d _ | .slot g d | .sysw g d _ => [.g g.reg, .x d]
  | .period | .nopn _ _ | .eret | .mbind _ _ _ | .preempt _ _ | .kill _ _ | .mapset _ _ _
  | .keysel _ _ _ | .resultLanding | .trapEntry | .escalation | .haltComplete | .holdEnd _
  | .resyncTRestart _ | .bandAwake | .shadowPlaneLoad | .mmaRowLanding | .postDelivery _ _
  | .postRelease _ | .fencedRelease _ | .homeStationPerform _ _ | .copyDataArrival _ _
  | .touchWalk _ | .ringSlot _ | .leaseArrival _ | .renewArrival _ | .lfreeArrival _
  | .ecmdArrival _ | .grant _ | .wakeDone _ _ | .leaseExpiry _ _ | .endingLeash _ _
  | .fullnessReport _ | .capRecovery _ | .gather _ _ | .scatter _ _ | .loadg _ _ | .mask _ _
  | .step _ _ | .snap _ _ | .restore _ _ | .engineResult _ _ | .lseqReread _ | .tileStart _
  | .lstatRunning _ | .saveComplete _ | .killTileStop _ | .killComplete _ | .readBufferInvalidate _
  | .dieReset _ | .dieReturn _ | .cpyLanding | .matomLanding | .xfinLanding | .notify _
  | .serveNotify _ | .controlWordWrite _ _ _ | .thermalSensorRead _ _ | .currentAlarm _ _
  | .occauseClear _ | .freqRequest _ | .powerOnReset | .bootgo | .ago | .attestReportReady
  | .voltageRampDone | .changeoverEnd | .hostMemoryWrite _ _ _ | .hostMemoryRead _ _ _
  | .debugWindowWrite _ _ _ | .registerWrite _ _ _ | .firmwarePriorityEviction _ _
  | .camrakLinkDown _ | .camrakLinkUp _ | .registerFileParity _ _ _
  | .managementCoreMemoryWrite _ _ _ | .frozenResume _ | .frozenHandlerEntry _ | .droopStretch _
  | .hostCommit _ _ | .stationInvalidation _ _ | .stationReport _ => []
  | .resync d | .resyncT d => [.x d]
  | .vadd g _ _ _ a b | .vsub g _ _ _ a b | .vand g _ _ a b | .vor g _ _ a b | .vxor g _ _ a b
  | .vandn g _ _ a b | .vshl g _ _ a b | .vshr g _ _ a b | .vsar g _ _ a b | .vmin g _ _ a b
  | .vmax g _ _ a b | .vmul g _ _ _ a b | .vmulh g _ _ a b | .vfadd g _ a b | .vfsub g _ a b
  | .vfmul g _ a b | .vfmin g _ a b | .vfmax g _ a b | .vfdiv g _ a b | .vcmpEq g _ _ a b
  | .vcmpNe g _ _ a b | .vcmpLt g _ _ a b | .vcmpLe g _ _ a b | .vsel g _ a b | .vperm g _ a b => [.g g.reg, .v a, .v b]
  | .vabs g _ _ _ a | .vneg g _ _ _ a | .vfabs g _ a | .vfneg g _ a | .vfsqrt g _ a | .vfexp2 g _ a
  | .vflog2 g _ a | .vmov g _ a | .vlaneget g _ a _ | .vcvt g _ _ _ _ a | .vpackse g _ _ a
  | .vunpackse g _ _ a | .vredSum g _ _ _ a | .vredMin g _ _ a | .vredMax g _ _ a
  | .vredArgmax g _ _ a | .vredArgmin g _ _ a | .vredAnd g _ a | .vredOr g _ a | .vredXor g _ a
  | .vredXsum g _ a | .vscanSum g _ _ _ a | .vscanMin g _ _ a | .vscanMax g _ _ a | .vrot g _ a _
  | .philox g _ a _ => [.g g.reg, .v a]
  | .vfma g _ a b c => [.g g.reg, .v a, .v b, .v c]
  | .vst g _ d a _ => [.g g.reg, .v d, .x a]
  | .vgather g _ _ a b => [.g g.reg, .x a, .v b]
  | .vscatter g _ d a b => [.g g.reg, .v d, .x a, .v b]
  | .vatomAdd g _ _ a b c | .vatomMin g _ _ a b c | .vatomMax g _ _ a b c | .vatomXchg g _ _ a b c => [.g g.reg, .x a, .v b, .v c]
  | .sample g _ _ a b c _ => [.g g.reg, .x a, .x b, .v c]
  | .vmaskSt g a b _ => [.g g.reg, .x a, .g b]
  | .vmaskCnt g _ b | .vmaskFirst g _ b => [.g g.reg, .g b]
  | .post g _ _ d => [.g g.reg, .v d]
  | .cpyLit g _ _ b _ _ | .cpywLit g _ _ b _ | .matomAddLit g _ _ _ b _ | .matomMinLit g _ _ _ b _
  | .matomMaxLit g _ _ _ b _ | .matomXchgLit g _ _ _ b _ | .matomCmpxchgLit g _ _ _ b _
  | .matomAndLit g _ _ _ b _ | .matomOrLit g _ _ _ b _ | .matomXorLit g _ _ _ b _
  | .xaccLit g _ _ _ b | .xfinLit g _ _ b _ => [.g g.reg, .x b]

end Sys2Proof.Machine
end

