-- ==== Sys2Proof/Config.lean ====
section
/-! DEFINITION. What one part fixes and the manual leaves open: constants of no stated value, so that no proof can
see one. Each is named in a row of notes/assumptions. -/

namespace Sys2Proof.Config

/-- The k-th value the manual leaves undefined in a run (07:R164; assumption 9). -/
opaque freeValue : Nat → BitVec 64

/-- A line of another package at the k-th look at such memory, which this machine does not hold: k, the line by context
and DVA (15:R239; assumption 12). -/
opaque remoteLine : Nat → Nat → BitVec 512

/-- Another package holds a live context of an ID at the k-th look: k, the package, the ID (15:R239; assumption 12). -/
opaque remoteContext : Nat → Nat → Nat → Bool

/-- The k-th line whose contents the manual leaves open (23:R326; assumption 56). -/
opaque freeLine : Nat → BitVec 512

/-- The translation station, 0-15 of its die, that serves a physical tile (15:R241; assumption 51). -/
opaque stationOf : Nat → Nat

/-- What the fuses give the least rail voltage at a frequency in MHz, in millivolts less one (25:R338, R345;
assumption 8). -/
opaque vminFused : Nat → Nat

/-- The least rail voltage in millivolts at a frequency in MHz: some positive number (25:R338; assumption 8). -/
def vmin (f : Nat) : Nat := vminFused f + 1

/-- The 32 random bytes of the k-th signature of a report (25:R354, FIPS 204; assumption 11). -/
opaque signRandom : Nat → Nat

/-- Bytes of the fuse values that no rule names: the fused key hash from 0, the others from 32 (25:R353, R354;
assumption 11). -/
opaque fuseByte : Nat → BitVec 8

/-- How many fuse bytes follow those that rules name (25:R354; assumption 11). -/
opaque fuseRest : Nat

/-- The 32-byte seed from which the identity key pair was generated at manufacture (25:R354; assumption 11). -/
opaque idSeed : Nat

end Sys2Proof.Config
end

