-- ==== Sys2Proof/Machine/Tile.lean ====
section
/-! DEFINITION. The state of one physical tile, as plain data: what spec/01 to spec/25 give a tile, and what its
timetable holds between cycles (04:R72, R86). -/

namespace Sys2Proof.Machine

/-- A finite map with a default: the first entry of a key counts. -/
abbrev Table (α : Type) := List (Nat × α)

/-- Bytes by address in one canonical form: addresses strictly rising, no entry equal to 0, which an unlisted
address reads as (01:R24 clears the tile's stores to zero; for device memory see assumption 7). -/
abbrev Memory := List Host.Cell

/-- A 64-byte line; byte k is bits 8k+7:8k (04:R85). -/
abbrev Line := BitVec 512

/-- One event of the tile that a FENCE can name (02:R43): its kind's bit, and the identifier of the operation, post or
command, or the tile's bind and the counted cycle of it after which the event is complete. -/
structure Ev where
  kind : Nat
  id : Nat
  cyc : Nat
  deriving DecidableEq, Repr

/-- A fenced predecessor that an event waits for, with the fence's scope (16:R264, R266). -/
structure Wait where
  scope : Scope
  ev : Ev
  deriving DecidableEq, Repr

/-- Where a result is written (04:R72, R75): the lanes of a vector register or the bits of a guard it writes. -/
inductive Dest where
  | x (r : BitVec 5)
  | g (r : BitVec 3) (bits : BitVec 64)
  | b (r : BitVec 2)
  | v (r : BitVec 5) (lanes : BitVec 64)
  deriving DecidableEq, Repr

/-- A result in flight: written at the end of counted cycle `due` (04:R72). -/
structure Pending where
  due : Nat
  order : Nat
  unit : Nat
  dest : Dest
  val : VReg
  deriving DecidableEq, Repr

/-- The read-modify-write operations of ATOM, VATOM and MATOM (05:R99, 07:R157, 16:R260). -/
inductive RmwOp where
  | add | min | max | xchg | cmpxchg | and | or | xor
  deriving DecidableEq, Repr

/-- What a bank use or a timed cycle of an instruction carries (04:R86, 06:R119). Addresses are tile-port addresses,
0x00_0000-0x10_FFFF. -/
inductive JobOp where
  /-- a held or nullified use, which moves nothing -/
  | idle
  /-- the landing banks of a nullified or refused copy, MATOM or XFIN (04:R77, 16:R255), which move nothing -/
  | idleLand
  /-- LD: the register, size in bytes, sign extension, address -/
  | load (d : BitVec 5) (size : Nat) (signed : Bool) (addr : Nat)
  /-- byte writes, in order -/
  | writes (l : List Host.Cell)
  /-- ATOM's read at c+1: the result register, width in bytes, signedness, operation, operand, compare value -/
  | atomRead (d : BitVec 5) (w : Nat) (signed : Bool) (op : RmwOp) (addr : Nat) (b cmp : X)
  /-- VLD and VGATHER: the register, the element width, whether the format is signed, the enabled lanes with their
  addresses, the latency left after this cycle -/
  | vload (d : BitVec 5) (w : Nat) (signed : Bool) (lanes : List (Nat × Nat)) (after : Nat)
  /-- VLD of shared-exponent blocks: the register, the block's bytes, the slots with their addresses -/
  | vloadSe (d : BitVec 5) (w : Nat) (slots : List (Nat × Nat))
  /-- VATOM's read at c+1: the result register, signedness, operation, enabled lanes (lane, address, operand) -/
  | vatomRead (d : BitVec 5) (signed : Bool) (op : RmwOp) (lanes : List (Nat × Nat × W32))
  /-- VMASK.LD -/
  | maskLoad (gd : BitVec 3) (addr : Nat)
  /-- one read of SAMPLE: its pass and group (07:R164) -/
  | sampleRead (pass grp : Nat)
  /-- SAMPLE's end, at c+4G+23 -/
  | sampleEnd
  /-- MMA's read of row m at c+1+m: the row's address and lines -/
  | mmaRead (m addr lines : Nat)
  /-- MMA's landing of row m -/
  | mmaLand (m : Nat)
  /-- WFILL's record: the WSRAM byte address and the source address -/
  | wfill (dst src : Nat)
  /-- WLOAD's list lines read in one cycle: the index of the first line, the address of each -/
  | listRead (l : Nat) (addrs : List Nat)
  /-- WLOAD's end -/
  | shadowLoad
  /-- CTAB -/
  | ctab (addr : Nat)
  /-- ACCRD and ACCSAVE: read accumulator row and give the scratchpad write at the next cycle -/
  | accRead (row : Nat) (fmt : Option Ty) (addr : Nat)
  /-- ACCWR and ACCREST: read the row's lines -/
  | rowRead (row : Nat) (fmt : Option Ty) (addr lines : Nat)
  /-- a whole accumulator row, element n at bits 32n+31:32n -/
  | accWrite (row : Nat) (val : BitVec 4096)
  /-- POST from the scratchpad: the post, its out-slot, address, stamp -/
  | postRead (id : Nat) (n : BitVec 5) (addr : Nat) (stamp : X)
  /-- POST from a vector register, at the end of its cycle: the post, its out-slot, payload, stamp -/
  | postWrite (id : Nat) (n : BitVec 5) (payload : Line) (stamp : X)
  /-- ECMD's line read: status register, address, command identifier, and one more than the log's offset at its issue, 0
  when a replayed log gave its status word -/
  | ecmdRead (d : BitVec 5) (addr : Nat) (id : Nat) (logAt : Nat)
  /-- CPYW's read of source lines: the operation, the first line's index, the addresses -/
  | cpywRead (op : Nat) (first : Nat) (addrs : List Nat)
  /-- MATOM's operand line read: the operation, the address -/
  | matomRead (op : Nat) (addr : Nat)
  /-- CPY's landing of up to eight lines: the operation, the first line's index, the addresses -/
  | cpyLand (op : Nat) (first : Nat) (addrs : List Nat)
  /-- MATOM's landing: bytes 0-7 of the line at the address -/
  | matomLand (op : Nat) (addr : Nat)
  /-- XFIN's landing: bytes 0-3 of the line at the address -/
  | xfinLand (op : Nat) (addr : Nat)
  /-- PEEK, SEQ, AGE and MQUERY sample at the start of c+1, the end of c (13:R224) -/
  | sampleMirror (kind : Nat) (d : BitVec 5) (n : BitVec 6) (waits : List Wait)
  /-- LANDQ samples the ticket state at the start of c+1 -/
  | landq (d : BitVec 5) (ticket : BitVec 16)
  deriving DecidableEq, Repr

/-- One bank use or timed cycle: the counted cycle, the issue order and unit of its instruction, the banks used (bit b
scratchpad bank b, bit 16+b engine-window bank b; 04:R85), and what it carries. -/
structure Job where
  cyc : Nat
  order : Nat
  unit : Nat
  banks : BitVec 32
  op : JobOp
  deriving DecidableEq, Repr

/-- A SAMPLE under way (07:R161-R164): its operands, the lines of the first pass, whether a later pass saw another
value, and whether a read was cancelled. -/
structure SampleRun where
  order : Nat
  d : BitVec 5
  gd : BitVec 3
  a : Nat
  b : Nat
  ctl : VReg
  v : Nat
  lines : Table Line
  changed : Bool
  cancelled : Bool
  deriving DecidableEq, Repr

/-- An MMA under way (09:R197): its fields, the plane it reads, the bands named at its issue, and the activation
rows read so far (row m's bytes as one number). -/
structure MmaRun where
  order : Nat
  fmt : Ty
  acc : Bool
  h : Nat
  arow : Nat
  rows : Nat
  plane1 : Bool
  bands : BitVec 4
  act : Table Nat
  lastLand : Nat
  deriving DecidableEq, Repr

/-- A WLOAD under way (09:R192): what it latched and the outlier entries read so far. -/
structure WloadRun where
  order : Nat
  fmt : Ty
  set : Nat
  codes : List (BitVec 16)
  bands : BitVec 4
  nout : Nat
  outl : Table X
  failed : Bool
  plane1 : Bool
  deriving DecidableEq, Repr

/-- The architectural registers (05:R88, 07:R137). -/
structure Regs where
  x : Vector X 32
  g : Vector X 8
  b : Vector X 4
  v : Vector VReg 32
  deriving DecidableEq, Repr

/-- The trap registers and trap mode (05:R111, 06:R121, R124). -/
structure Trap where
  mode : Bool
  entered : Bool
  vec : X
  cause : X
  slot : X
  pc : X
  info : X
  deriving DecidableEq, Repr

/-- A slip whose drain runs: what will be reported, whether it escalates, whether it arose in trap mode, and the
NOPN cycles it cut off (06:R117-R121, 05:R105). -/
structure Slip where
  cause : BitVec 8
  slot : Nat
  pc : X
  info : X
  escal : Bool
  nested : Bool
  nopnLeft : Nat
  deriving DecidableEq, Repr

/-- The escalation record (06:R125). -/
structure EscRec where
  cause : BitVec 8
  nested : Bool
  slot : X
  pc : X
  info : X
  deriving DecidableEq, Repr

/-- One array plane (08:R171, 06:R133): the column records byte by byte (column n's record at 512n), the bands whose
rows hold weights, the latched format, code table and outlier entries, the WSRAM offset, whether that range has been
written since, whether a WLOAD has loaded the plane since bind (06:R132), and the WSRAM offsets of the bytes that read as
failing in the plane (08:R182). -/
structure Plane where
  weights : Memory
  loaded : BitVec 4
  fmt : Ty
  codes : List (BitVec 16)
  outl : List X
  woff : Nat
  stale : Bool
  latched : Bool
  bad : List Nat
  deriving DecidableEq, Repr

/-- The state of a band (08:R166); `waking` counts the cycles still to pass. -/
inductive Band where
  | asleep | waking (left : Nat) | awake
  deriving DecidableEq, Repr

/-- The weight-stationary array (08, 09): WSRAM, accumulators (row r, element n at byte 512r+4n), the planes, the
staging table, the bands with the cycle each is free from (08:R167), and what is held (resource, first and last counted
cycle; 09:R187). `badBytes` lists what reads as failing (08:R182): a WSRAM offset, or 2^22 + an accumulator row. -/
structure ArraySt where
  wsram : Memory
  wsramDirty : Bool
  acc : Memory
  plane0 : Plane
  plane1 : Plane
  active1 : Bool
  stage : List (BitVec 16)
  ashape : BitVec 4
  bandOk : BitVec 4
  band : Vector Band 4
  bandUse : List Nat
  holds : List (Nat × Nat × Nat)
  mmas : List MmaRun
  wloads : List WloadRun
  badBytes : List Nat
  deriving DecidableEq, Repr

/-- An out-slot (12:R205). -/
structure OutSlot where
  payload : Line
  seq : BitVec 32
  stamp : X
  deriving DecidableEq, Repr

/-- What a sample of a mirror returns as one post (12:R211): whether one has been written, payload, sequence, writer stamp,
arrival stamp, and the engine writes behind a result (16:R265). -/
structure MirPost where
  seen : Bool
  payload : Line
  seq : BitVec 32
  stamp : X
  arrival : X
  wrote : List Nat
  deriving DecidableEq, Repr

/-- An in-mirror: its latest post and its binding word (12:R207, R209); `wrote` lists the engine writes behind a
result (16:R265); `sampled` is one more than the tick in which a sample returned a post of that same tick, after which no
later post may arrive in it (12:R212); `writer` is the writer's pack index while that tile of the pack is off the device
(12:R218, log entry 53); `before` is what the mirror held before the first post of the latest arrival's tick (R211). -/
structure Mirror where
  seen : Bool
  payload : Line
  seq : BitVec 32
  stamp : X
  arrival : X
  binding : X
  wrote : List Nat
  sampled : Nat
  writer : Option Nat
  before : Option MirPost := none
  deriving DecidableEq, Repr

/-- A message to the kennel (21:R300): 0 LEASE, 1 RENEW, 2 LFREE, 3 ECMD. `ready` is false while an ECMD's line is
not read yet; `due` is the instant by which the message reaches the kennel. -/
structure Msg where
  id : Nat
  kind : BitVec 2
  cls : Bool
  term : X
  gen : BitVec 32
  line : Line
  ready : Bool
  waits : List Wait
  due : Nat
  deriving DecidableEq, Repr

/-- The lease port (21:R300, R307, R309); `slotAt` is the instant from which the tile's next ring slot may come. -/
structure Port where
  gen : BitVec 32
  eng : BitVec 5
  outst : BitVec 3
  cls : Bool
  state : BitVec 3
  queue : List Msg
  fullSd : Bool
  fullRv : Bool
  slotAt : Nat
  deriving DecidableEq, Repr

/-- A bind record (01:R21, R22); `packIdx` is the tile's pack index, which the save address holds (06:R129). -/
structure BindRec where
  ctx : BitVec 16
  logtile : BitVec 9
  key : BitVec 12
  perlen : BitVec 21
  routine : X
  memquota : BitVec 32
  packid : BitVec 16
  packsize : BitVec 10
  diemask : BitVec 4
  replay : BitVec 2
  seed : X
  start : X
  savearea : X
  params : List X
  bindlist : X
  nbind : BitVec 16
  routlen : BitVec 32
  deriving DecidableEq, Repr

/-- An active loop: its first and last instruction's addresses and the passes left, the running one included
(04:R80, R81). -/
structure LoopRec where
  start : X
  last : X
  left : Nat
  deriving DecidableEq, Repr

/-- Delay slots still to issue, and the target if the branch was enabled (04:R78). -/
structure Redirect where
  slots : Nat
  target : Option X
  deriving DecidableEq, Repr

/-- A running NOPN: its address, its cycles still to come, its hold on SYS (05:R105). -/
structure NopnRun where
  pc : X
  left : Nat
  deriving DecidableEq, Repr

/-- The tile's clock (01:R28, R29), instants in sub-ticks: the start of the current cycle, whether it is stretched,
the cycles since the last stretched one, the frequency, the number of the latest changeover it made (25:R344), the
stretched cycles counted, the instant T(n-1), and whether the next cycle is to be stretched. -/
structure Clock where
  start : Nat
  stretched : Bool
  since : Nat
  mhz : Nat
  chg : Nat
  count : Nat
  prev : Nat
  perstamp : X
  stretch : X
  holds : X
  droop : Bool := false
  deriving DecidableEq, Repr

/-- What the tile is doing (01:R23, 06). -/
inductive Phase where
  /-- no context, or one that issues nothing: the slot-table STATE says which -/
  | off
  /-- running: the next instruction is due at the current cycle -/
  | run
  /-- draining after a slip -/
  | drain
  /-- draining after HALT -/
  | halting
  /-- waiting for T of RESYNC.T, to restart at the address (05:R109) at the instant of T -/
  | waitT (addr : X) (at_ : Nat)
  /-- held, or waiting for its START, until the event that ends the wait -/
  | held
  /-- a save is under way (06:R129) -/
  | saving
  deriving DecidableEq, Repr

/-- A migration that waits for a PERIOD (25:R339, R340): of a hot tile, or MAPSET's, to a physical tile, with a hot tile's
behind it. -/
inductive Move where
  | thermal
  | mapset (q : Nat) (hot : Bool)
  deriving DecidableEq, Repr

/-- One ticket's state (16:R253, R270); `lost` says that a line of its landing was not written (04:R86). -/
structure Ticket where
  no : BitVec 16
  op : Nat
  performed : Bool
  arrived : Bool
  landed : Bool
  abandoned : Bool
  failed : Bool
  lost : Bool := false
  deriving DecidableEq, Repr

/-- A FENCE with its predecessors' identifiers or cycles (16:R264). -/
structure FenceRec where
  scope : Scope
  succ : BitVec 9
  preds : List Ev
  deriving DecidableEq, Repr

/-- A page entry at the tile's station (15:R241): context, level of the page (its size in bytes), page number, device
physical base, flags, exact. Least recently used last. -/
structure PageEntry where
  ctx : BitVec 16
  size : Nat
  vpn : Nat
  entry : X
  deriving DecidableEq, Repr

/-- Record and replay (25:R357, R358): the write or read pointer, entries, flags, the period number, and in replay mode the
engine results that have arrived at mirror 62 (sequence and payload, in order of arrival), which the log's are compared
with. -/
structure Replay where
  ptr : Nat
  count : Nat
  full : Bool
  diverged : Bool
  divCount : Nat
  live : Bool
  period : Nat
  results : List (Nat × Line) := []
  deriving DecidableEq, Repr

/-- The debug window's registers (25:R355). -/
structure Dbg where
  xa : X
  xb : X
  xd : X
  res : X
  info : X
  deriving DecidableEq, Repr

/-- One physical tile. `life` is the number of the context's life it serves (a context ID may be given again), `bindNo` the
number of its latest bind, which migration keeps (21:R306), `killed` whether a kill has stopped it (06:R136), `badWin` the
engine-window lines that read as failing at the engine port (22:R315), `seen` the registers and the instruction's words as a slip
of cause 0x01 or 0x16 found them, `again` the cause and TRAPINFO of a slip that occurs again and the counted cycle in which it
does (06:R123). -/
structure Tile where
  -- registers and stores
  regs : Regs
  pc : X
  imem : Memory
  mem : Memory
  arr : ArraySt
  tags : Table X
  outs : Table OutSlot
  mirs : Table Mirror
  hostSeq : BitVec 32
  pcCtlSeq : BitVec 32
  resultSeq : BitVec 32
  leashSeq : BitVec 32
  -- timetable
  cyc : Nat
  cycNext : Option Nat
  abs : Nat
  perlen : Nat
  perlenNext : Nat
  issued : Bool
  phase : Phase
  order : Nat
  units : Table Nat
  pend : List Pending
  jobs : List Job
  landed : List Dest
  samples : List SampleRun
  loops : List LoopRec
  redirect : Option Redirect
  nopn : Option NopnRun
  slip : Option Slip
  resumeNopn : Nat
  perEnd : Bool
  saveDue : Bool
  clk : Clock
  -- traps
  trap : Trap
  esc : EscRec
  escCause : List (BitVec 8 × X)
  reports : List (BitVec 8 × X)
  -- quotas, counters, tickets, order
  memused : Nat
  collide : X
  nextTicket : BitVec 16
  tickets : List Ticket
  evs : List Ev
  fences : List FenceRec
  fenced : BitVec 9
  pages : List PageEntry
  -- leases, binding, control
  port : Port
  state : BitVec 3
  bind : BindRec
  packIdx : BitVec 10
  pcseq : BitVec 32
  migrateTo : Option Move
  resumed : Bool
  replay : Replay
  dbg : Dbg
  rail : List Nat
  -- identity and condition
  life : Nat
  bindNo : Nat
  killed : Bool
  badWin : List Nat
  seen : Option (Regs × List W32) := none
  again : Option (BitVec 8 × X × Nat) := none
  deriving DecidableEq, Repr

/-- An empty plane: format .bf16, sixteen +0 entries, no outliers, no band loaded (09:R194, 06:R133). -/
def planeInit : Plane :=
  { weights := [], loaded := 0, fmt := .bf16, codes := List.replicate 16 0, outl := [], woff := 0, stale := false
    latched := false, bad := [] }

/-- A mirror that is never-written and unbound (12:R207). -/
def mirrorInit : Mirror :=
  { seen := false, payload := 0, seq := 0, stamp := 0, arrival := 0, binding := 0, wrote := [], sampled := 0
    writer := none }

/-- Mirrors 60-63, which the hardware binds (12:R208, R209): the host, the management core, the kennel twice.
Their KIND stands from power-on, as their BOUND and SCOPE do (DESIGN CHOICE, log entry 100). -/
def hwMirrors : Table Mirror :=
  [(60, { mirrorInit with binding := 0xB400000000000000 }), (61, { mirrorInit with binding := 0xB800000000000000 }),
   (62, { mirrorInit with binding := 0x9C00000000000000 }), (63, { mirrorInit with binding := 0x9C00000000000000 })]

/-- An out-slot after bind (12:R205). -/
def outInit : OutSlot := { payload := 0, seq := 0, stamp := 0 }

/-- The port after bind (21:R306, R307). -/
def portInit : Port :=
  { gen := 0, eng := 0, outst := 0, cls := false, state := 0, queue := [], fullSd := false, fullRv := false
    slotAt := 0 }

/-- A bind record before any bind (01:R22 gives its reset values; the fields it leaves open are zero, assumption 4). -/
def bindInit : BindRec :=
  { ctx := 0, logtile := 0, key := 0, perlen := 0, routine := 0, memquota := 0, packid := 0, packsize := 0
    diemask := 0, replay := 0, seed := 0, start := 0, savearea := 0, params := List.replicate 8 0, bindlist := 0
    nbind := 0, routlen := 0 }

/-- The array after bind and at power-on (01:R24, 08:R166, 09:R194); every band functional (assumption 5). -/
def arrInit : ArraySt :=
  { wsram := [], wsramDirty := true, acc := [], plane0 := planeInit, plane1 := planeInit, active1 := false
    stage := List.replicate 16 0, ashape := 0, bandOk := 0xF, band := Vector.replicate 4 .asleep
    bandUse := [0, 0, 0, 0], holds := [], mmas := [], wloads := [], badBytes := [] }

/-- The registers after bind (01:R24). -/
def regsInit : Regs :=
  { x := Vector.replicate 32 0, g := Vector.replicate 8 0, b := Vector.replicate 4 0, v := Vector.replicate 32 0 }

/-- A tile at power-on: a spare with nothing bound (01:R22). -/
def tileInit : Tile :=
  { regs := regsInit, pc := 0, imem := [], mem := [], arr := arrInit, tags := [], outs := [], mirs := hwMirrors, hostSeq := 0
    pcCtlSeq := 0, resultSeq := 0, leashSeq := 0, cyc := 0, cycNext := none, abs := 0, perlen := 0, perlenNext := 0, issued := false
    phase := .off, order := 0, units := [], pend := [], jobs := [], landed := [], samples := [], loops := []
    redirect := none, nopn := none, slip := none, resumeNopn := 0, perEnd := false, saveDue := false
    clk := { start := 0, stretched := false, since := 16, mhz := 425, chg := 0, count := 0, prev := 0, perstamp := 0
             stretch := 0, holds := 0 }
    trap := { mode := false, entered := false, vec := 0, cause := 0, slot := 0, pc := 0, info := 0 }
    esc := { cause := 0, nested := false, slot := 0, pc := 0, info := 0 }
    escCause := [], reports := [], memused := 0, collide := 0, nextTicket := 0, tickets := [], evs := [], fences := []
    fenced := 0
    pages := [], port := portInit, state := 5, bind := bindInit, packIdx := 0, pcseq := 0, migrateTo := none
    resumed := false
    replay := { ptr := 0, count := 0, full := false, diverged := false, divCount := 0, live := false, period := 0 }
    dbg := { xa := 0, xb := 0, xd := 0, res := 0, info := 0 }, rail := [400, 400, 400, 400], life := 0
    bindNo := 0, killed := false, badWin := [] }

end Sys2Proof.Machine
end

