-- ==== Sys2Proof/Machine/Package.lean ====
section
/-! DEFINITION. The state of the package around the tiles, as plain data: contexts, posts, memory operations, kennels,
launch service, power, host interface (spec/01, 12, 15-17, 21-23, 25). -/

namespace Sys2Proof.Machine

/-- The tile of a context: context ID and pack index, which a move or a resume keeps (01:R13, R14), and the number of the
context's life, since a context ID may be given again once its context is over. -/
structure Who where
  ctx : BitVec 16
  idx : Nat
  life : Nat := 0
  deriving DecidableEq, Repr

/-- What stays of a tile off the device beside its image: its pack index, the number of its latest bind, its record or
replay as it stood (25:R357-R359), and the mirrors whose writer is off the device too, with its pack index (12:R218). -/
structure Kept where
  idx : Nat
  bindNo : Nat
  replay : Replay
  writers : List (Nat × Nat)
  deriving DecidableEq, Repr

/-- A live context (01:R13): the number of its life, launch slot, pack, key, seed, mask, save area, the logical tiles its
tiles are bound to, the pack indices of saved tiles with what is kept of them and of tiles that have executed HALT (R19), the
earliest START in ticks once known, the state of its kill, posts discarded for want of a path or a live route (25:R347,
R351). -/
structure Ctx where
  id : BitVec 16
  life : Nat
  slot : Option Nat
  packid : BitVec 16
  ntiles : Nat
  key : BitVec 12
  seed : X
  mask : BitVec 4
  save : X
  bound : List (Nat × Nat)
  saved : List Nat
  kept : List Kept
  halted : List Nat := []
  start : Option Nat
  killing : Bool
  lost : Nat
  deriving DecidableEq, Repr

/-- Where a post goes: the tile, the mirror, the delivery class in ticks (12:R214), whether it has arrived or been
discarded, and the package for a mirror of another one (25:R351). -/
structure PostDst where
  who : Who
  mirror : Nat
  bound : Nat
  done : Bool
  far : Option (BitVec 13) := none
  deriving DecidableEq, Repr

/-- A post under way (12:R206, 13:R226): `src` is the out-slot's tile and number for a tile's post; `waits` the fenced
predecessors that hold it; `sent` is false for a POST whose scratchpad line is not read yet; `wrote` the engine writes
behind a result; `home` the physical tile at which a tile issued it, a tile of the host's die for the host's and the management
core's, of the kennel's cluster for its own; `freed` the instant at which its fenced predecessors were complete before it was
sent, `scope` the POST's scope code (12:R214), `at_` its issue instant (17:R272). -/
structure Post where
  id : Nat
  src : Option (Who × Nat)
  payload : Line
  seq : BitVec 32
  stamp : X
  dsts : List PostDst
  waits : List Wait
  held : Bool
  sent : Bool
  wrote : List Nat
  home : Nat := 0
  freed : Option Nat := none
  scope : Scope := .tile
  at_ : Nat := 0
  deriving DecidableEq, Repr

/-- Where a translated line lies: a device address with its key and the number of its line, or another package. -/
inductive Place where
  | home (da key line : Nat)
  | remote (pkg : BitVec 13)
  deriving DecidableEq, Repr

/-- Where a line of an operation goes (15:R241, R242): not translated yet, to a place, or stopped with a cause. -/
inductive Route where
  | unset
  | to (p : Place)
  | stop (cause : BitVec 8)
  deriving DecidableEq, Repr

/-- The kinds of memory operation (16). -/
inductive OpKind where
  | cpy | cpyw | matom (op : RmwOp) (t : AtomTy) | xacc (t : XaccTy) | xfin | xclr | touch
  | engWrite
  deriving DecidableEq, Repr

/-- One 64-byte line of an operation: its data (read, or to be written), whether the data to write has been read at
the tile, whether it is performed at its home station, whether its data has arrived, whether it is dropped (a fault, a
cancelled read, a kill), and where its translation at the issue sends it. -/
structure LineSt where
  data : Line
  ready : Bool
  performed : Bool
  arrived : Bool
  dropped : Bool
  route : Route := .unset
  deriving DecidableEq, Repr

/-- A memory operation of a tile (16:R250-R263) from issue until nothing of it is left: its station's die, operands,
destination address, fence waits, whether it was issued in trap mode, whether its translations were held at issue and
its landing is assured (15:R246) and by how many cycles more than it needs, the first line missing of a landing that a replayed log calls late (25:R358), the fault its
station met and whether that was reported, for an engine's write where the engine's page entry places it (22:R315), and its
issue instant (17:R272). -/
structure MemOp where
  id : Nat
  who : Who
  die : Nat
  kind : OpKind
  dva : X
  lines : List LineSt
  b : X
  cmp : X
  ticket : BitVec 16
  waits : List Wait
  held : Bool
  dst : Nat
  inTrap : Bool
  pagesHeld : Bool
  assured : Bool
  late : Option Nat
  fault : Option (BitVec 8 × X)
  reported : Bool
  place : Option Place := none
  slack : Nat := 0
  at_ : Nat := 0
  deriving DecidableEq, Repr

/-- A message on its way from a tile's ring slot to the kennel (21:R300), with the number of the tile's bind (R306). -/
structure RingMsg where
  who : Who
  bindNo : Nat := 0
  msg : Msg
  deriving DecidableEq, Repr

/-- One action of an engine command (22:R315, R316; 23:R332): reading a table line, a table line that could not be read with
its cause, zeroing a window line, writing a window line to the table where its row's translation placed it, writing a line into
the window, writing a snapshot line; `row` is the row. -/
inductive Work where
  | gather (row : Nat) (dva : X) (win : Nat)
  | lost (cause : BitVec 8) (dva : X)
  | zero (row win : Nat)
  | scatter (row win : Nat) (dva : X) (place : Place)
  | maskLine (win : Nat) (data : Line)
  | snapLine (dva : X) (data : Line)
  deriving DecidableEq, Repr

/-- A loaded grammar and configuration (23:R321, R324): stack top first. -/
structure Gram where
  gbase : X
  vocab : Nat
  endtok : Nat
  nstate : Nat
  nsym : Nat
  startsym : Nat
  startstate : Nat
  gsize : Nat
  indexoff : Nat
  accoff : Nat
  edgeoff : Nat
  nedge : Nat
  acc : Memory
  s : Nat
  stack : List Nat
  finished : Bool
  steps : X
  deriving DecidableEq, Repr

/-- A command an engine works on (22:R315, 23:R325): its block, the tick it began, the instant by which its result is
sent (22:R319, 23:R333), the work left, the indices of the rows left and of all rows, rows done, the result's fields (error
code, failing index and address, mask counts), the writes issued with the row of each, and, while a Sheepdog's command reads,
the lines read so far: address, the cause that stopped the read or 0, bytes. -/
structure CmdRun where
  line : Line
  started : Nat
  due : Nat
  work : List Work
  rows : List X
  idxs : List X := []
  done : Nat
  ecode : BitVec 8
  failidx : W32
  faildva : X
  nlegal : Nat
  token : W32
  wrote : List (Nat × Nat)
  got : Option (List (X × BitVec 8 × Line)) := none
  deriving DecidableEq, Repr

/-- The life of a lease (21:R299, R301, R303): waiting, waking, held, ended with its ending post still to come. -/
inductive LeaseSt where
  | queued | waking | held | ended
  deriving DecidableEq, Repr

/-- A lease at its kennel (21:R301-R306): stamps in ticks; `bindNo` is the number of the tile's bind at its LEASE. -/
structure Lease where
  id : Nat
  who : Who
  bindNo : Nat := 0
  cls : Bool
  gen : BitVec 32
  term : Nat
  accept : Nat
  st : LeaseSt
  eng : Nat
  granted : Nat
  wakeDone : Nat
  expiry : Nat
  endAt : Nat
  endCode : BitVec 8
  cause : BitVec 8
  qpos : Nat
  cmds : List (Nat × Line × List Wait)
  run : Option CmdRun
  pages : List PageEntry
  gram : Option Gram
  deriving DecidableEq, Repr

/-- One kennel (21:R299-R304): its cap, the tick of its last shed or rise, messages on the ring, leases in order of
acceptance. -/
structure Kennel where
  cap : Nat
  capAt : Nat
  ring : List RingMsg
  leases : List Lease
  deriving DecidableEq, Repr

/-- A launch in service: the notify value, the re-reads left, the instant of the next one (01:R20). -/
structure Serving where
  value : X
  left : Nat
  at_ : Nat
  deriving DecidableEq, Repr

/-- FREQ (25:R343), the rail voltage in millivolts, and the number and instant of the latest changeover (R344). -/
structure Freq where
  target : Nat
  current : Nat
  phase : Nat
  pending : Nat
  rail : Nat
  rampFrom : Nat
  chg : Nat
  since : Nat
  deriving DecidableEq, Repr

/-- Boot and attestation (25:R352-R354). -/
structure Boot where
  stat : BitVec 8
  flash : Memory
  window : Memory
  minSvn : Nat
  svn : Nat
  digest : List Byte
  attest : Memory
  astat : BitVec 2
  nonce : List Byte
  deriving DecidableEq, Repr

/-- One entry of a management core's log (16:R257, 22:R318, 25:R348); `stack` is the physical memory stack of a failing
line (25:R346). -/
structure LogEntry where
  ctx : BitVec 16
  cause : BitVec 8
  dva : X
  gen : BitVec 32
  stack : Option Nat := none
  deriving DecidableEq, Repr

/-- A kennel at power-on (21:R299). -/
def kennelInit : Kennel := { cap := 6, capAt := 0, ring := [], leases := [] }

end Sys2Proof.Machine
end

