-- ==== Sys2Proof/Machine/State.lean ====
section
/-! DEFINITION. The state of the machine: one package (spec/01, 25), with every tile, and what its environment is
about to do. -/

namespace Sys2Proof.Machine

/-- Why a step stops with a fault. Every cause code of 06:R117 is a next state, so none of them stands here. -/
inductive Fault where
  /-- raised by step when the agenda, which lists events of the part, holds an instruction; safe -/
  | strayInstruction
  deriving DecidableEq, Repr

/-- Why a step has no meaning. -/
inductive Refusal where
  /-- raised by exec for an instruction that has no meaning yet; safe -/
  | notModelled (mnemonic : String)
  deriving DecidableEq, Repr

/-- The package. Instants are in sub-ticks since power-on (Ops.subTick of them make one tick of 01:R27); tiles are
keyed by physical number 34·cluster + place, clusters 4·die + PCLUS. `mcRes` is the cause with which the latest write
to a control word or FREQ was refused, 0 when it was not (01:R23, 25:R343); `drain` the dies whose routes are
about to switch (25:R347); `mapPend` the physical tile to which a MAPSET moves a logical tile that runs nothing yet
(25:R356); `latest` the number of the latest bind of each logical tile (12:R220); `routes` the links that lead to a package, `farMirs` the mirrors of other packages that are
bound to an out-slot here: logical tile, out-slot, package (25:R351). -/
structure State where
  now : Nat
  turn : Nat
  level : Bool
  agenda : List (Nat × Instr)
  timers : List (Nat × Instr)
  nextId : Nat
  freeCount : Nat
  skew : List Nat
  tiles : Table Tile
  clusterMap : List Nat
  l2p : Table Byte
  mapPend : Table Nat
  latest : Table Nat
  live : BitVec 4
  up : BitVec 4
  links : BitVec 16
  drain : BitVec 4
  routes : Table (BitVec 16)
  farMirs : List (Nat × Nat × BitVec 13)
  ctxs : List Ctx
  posts : List Post
  ops : List MemOp
  mem : Memory
  lineKeys : Table (Nat × Nat)
  badLines : List Nat
  keys : Table (Nat × Nat)
  cdtbase : Nat
  kennels : Table Kennel
  fwin : Memory
  hostBuf : List (Nat × Line)
  hostInval : List (Nat × Nat)
  hostReads : List (Nat × Option (List Byte))
  bar2 : Table (BitVec 16 × X)
  notifies : List X
  notifyDrop : X
  serving : Option Serving
  boot : Boot
  freq : Freq
  mcRes : BitVec 8
  occause : X
  boostEn : Bool
  temps : Table Nat
  pkg : BitVec 13
  mclog : List LogEntry
  aer : List LogEntry
  msix : List Nat
  events : List Nat
  deriving DecidableEq, Repr

/-- The package right after power-on: booting, no tile bound, time 0 (25:R353, 01:R22, R27; log entries 1, 4-8). -/
def State.reset : State :=
  { now := 0, turn := 0, level := false, agenda := [], timers := [], nextId := 1, freeCount := 0
    skew := List.replicate 16 0, tiles := [], clusterMap := List.range 16, l2p := [], mapPend := [], latest := [], live := 0xF, up := 0xF
    links := 0xFFFF, drain := 0, routes := [], farMirs := [], ctxs := [], posts := [], ops := [], mem := []
    lineKeys := [], badLines := [], keys := [], cdtbase := 0, kennels := [], fwin := [], hostBuf := [], hostInval := [], hostReads := [], bar2 := [], notifies := []
    notifyDrop := 0, serving := none
    boot := { stat := 0, flash := [], window := [], minSvn := 0, svn := 0, digest := List.replicate 32 0, attest := []
              astat := 0, nonce := List.replicate 32 0 }
    freq := { target := 425, current := 425, phase := 0, pending := 0, rail := Config.vmin 425, rampFrom := 0
              chg := 0, since := 0 }, mcRes := 0
    occause := 0, boostEn := false, temps := [], pkg := 0, mclog := [], aer := [], msix := [], events := [] }

end Sys2Proof.Machine
end

