-- ==== Sys2Proof/Machine/Ops.lean ====
section
/-! DEFINITION. The named operations over tables, memory, registers and time, the checks at an issue slot, taking an
exception and returning from one (spec/04, spec/06). -/

namespace Sys2Proof.Machine

/-! ### Tables and memory -/

/-- The value stored under a key. -/
def tfind {α : Type} : Table α → Nat → Option α
  | [], _ => none
  | (j, v) :: r, k => if j = k then some v else tfind r k

/-- The value of a key, with the table's default. -/
def tget {α : Type} (d : α) (t : Table α) (k : Nat) : α := (tfind t k).getD d

/-- Storing a value under a key, keys in rising order. -/
def tset {α : Type} : Table α → Nat → α → Table α
  | [], k, v => [(k, v)]
  | (j, w) :: r, k, v =>
    if j = k then (k, v) :: r else if k < j then (k, v) :: (j, w) :: r else (j, w) :: tset r k v

/-- Forgetting a key. -/
def tdel {α : Type} (t : Table α) (k : Nat) : Table α := t.filter (fun e => e.1 != k)

/-- One byte; an unlisted address reads 0. -/
def mread : Memory → Nat → Byte
  | [], _ => 0
  | (b, v) :: r, a => if b = a then v else mread r a

/-- The cells without one address. -/
def merase (m : Memory) (a : Nat) : Memory := m.filter (fun c => c.1 != a)

/-- A cell put in its place, addresses rising. -/
def minsert : Memory → Nat → Byte → Memory
  | [], a, v => [(a, v)]
  | (b, w) :: r, a, v => if a < b then (a, v) :: (b, w) :: r else (b, w) :: minsert r a v

/-- Writing one byte; writing 0 removes the cell, which keeps the canonical form. -/
def mwrite (m : Memory) (a : Nat) (v : Byte) : Memory :=
  if v = 0 then merase m a else minsert (merase m a) a v

/-- The canonical form: addresses strictly rising, no zero cell. -/
def Memory.wf : Memory → Bool
  | [] => true
  | [(_, v)] => v != 0
  | (a, v) :: (b, w) :: r => decide (a < b) && v != 0 && Memory.wf ((b, w) :: r)

/-- n bytes from an address as one number, little-endian (03:R54). -/
def mreadLE (m : Memory) (a : Nat) : Nat → Nat
  | 0 => 0
  | n + 1 => (mread m a).toNat + 256 * mreadLE m (a + 1) n

/-- Writing a number as n bytes, little-endian. -/
def mwriteLE (m : Memory) (a : Nat) : Nat → Nat → Memory
  | 0, _ => m
  | n + 1, v => mwriteLE (mwrite m a (BitVec.ofNat 8 v)) (a + 1) n (v / 256)

/-- Byte writes in order. -/
def mwrites (m : Memory) : List Host.Cell → Memory
  | [] => m
  | (a, v) :: r => mwrites (mwrite m a v) r

/-- The cells of a number's n bytes at an address. -/
def cellsLE (a : Nat) : Nat → Nat → List Host.Cell
  | 0, _ => []
  | n + 1, v => (a, BitVec.ofNat 8 v) :: cellsLE (a + 1) n (v / 256)

/-- A 64-byte line. -/
def mreadLine (m : Memory) (a : Nat) : Line := BitVec.ofNat 512 (mreadLE m a 64)

/-- The cells of a line at an address. -/
def lineCells (a : Nat) (l : Line) : List Host.Cell := cellsLE a 64 l.toNat

/-! ### Registers (04:R72, 05:R88, 02:R37) -/

/-- x[r]; x0 reads zero. -/
def rx (t : Tile) (r : BitVec 5) : X := if r = 0 then 0 else t.regs.x[r.toNat]

/-- Writing x[r]; a write to x0 is discarded. -/
def wx (t : Tile) (r : BitVec 5) (v : X) : Tile :=
  if r = 0 then t else { t with regs := { t.regs with x := t.regs.x.set r.toNat v } }

/-- g[r]; g0 reads all ones. -/
def rg (t : Tile) (r : BitVec 3) : X := if r = 0 then BitVec.allOnes 64 else t.regs.g[r.toNat]

/-- Writing the named bits of g[r]; a write to g0 is discarded. -/
def wg (t : Tile) (r : BitVec 3) (bits v : X) : Tile :=
  if r = 0 then t
  else { t with regs := { t.regs with g := t.regs.g.set r.toNat ((t.regs.g[r.toNat] &&& ~~~bits) ||| (v &&& bits)) } }

/-- b[r]. -/
def rb (t : Tile) (r : BitVec 2) : X := t.regs.b[r.toNat]

/-- Writing b[r]. -/
def wb (t : Tile) (r : BitVec 2) (v : X) : Tile := { t with regs := { t.regs with b := t.regs.b.set r.toNat v } }

/-- v[r]. -/
def rv (t : Tile) (r : BitVec 5) : VReg := t.regs.v[r.toNat]

/-- Lane i of a vector register (07:R137). -/
def lane (v : VReg) (i : Nat) : W32 := v.extractLsb' (32 * i) 32

/-- The number whose 32-bit digits are the first n lanes. -/
def lanesNat (f : Nat → W32) : Nat → Nat
  | 0 => 0
  | n + 1 => lanesNat f n + (f n).toNat * 2 ^ (32 * n)

/-- A vector register from its lanes. -/
def ofLanes (f : Nat → W32) : VReg := BitVec.ofNat 2048 (lanesNat f 64)

/-- Lane i from the new value where the mask's bit i is set, else from the old. -/
def mergeLanes (mask : X) (old new : VReg) : VReg :=
  ofLanes (fun i => if mask.getLsbD i then lane new i else lane old i)

/-- Writing the named lanes of v[r]. -/
def wv (t : Tile) (r : BitVec 5) (lanes : X) (v : VReg) : Tile :=
  { t with regs := { t.regs with v := t.regs.v.set r.toNat (mergeLanes lanes t.regs.v[r.toNat] v) } }

/-- The effective guard (02:R37). -/
def effGuard (t : Tile) (g : Guard) : X := if g.neg then ~~~(rg t g.reg) else rg t g.reg

/-- Bit 0 of the effective guard: a scalar instruction is enabled (04:R77). -/
def enabled (t : Tile) (g : Guard) : Bool := (effGuard t g).getLsbD 0

/-- Writing a destination. -/
def wdest (t : Tile) (d : Dest) (v : VReg) : Tile :=
  match d with
  | .x r => wx t r (v.extractLsb' 0 64)
  | .g r bits => wg t r bits (v.extractLsb' 0 64)
  | .b r => wb t r (v.extractLsb' 0 64)
  | .v r lanes => wv t r lanes v

/-- A scalar value as a result's value. -/
def val64 (v : X) : VReg := v.setWidth 2048

/-! ### The turn tile -/

/-- The tile whose turn it is. -/
def State.tl (s : State) : Tile := tget tileInit s.tiles s.turn

/-- Replacing the turn tile. -/
def State.setTl (s : State) (t : Tile) : State := { s with tiles := tset s.tiles s.turn t }

/-- Changing the turn tile. -/
def State.onTl (s : State) (f : Tile → Tile) : State := s.setTl (f s.tl)

/-- Any tile by physical number. -/
def State.tile (s : State) (p : Nat) : Tile := tget tileInit s.tiles p

/-- Changing a tile by physical number. -/
def State.onTile (s : State) (p : Nat) (f : Tile → Tile) : State := { s with tiles := tset s.tiles p (f (s.tile p)) }

/-! ### Time (01:R27-R29) -/

/-- Sub-ticks of one tick, divisible by every k up to 40, so that a cycle at 25·k MHz is a whole number of them. -/
def subTick : Nat := 5342931457063200

/-- The length of a cycle: 1000/f ticks, twice that when stretched (01:R28). -/
def cycLen (mhz : Nat) (stretched : Bool) : Nat := 1000 * subTick / mhz * (if stretched then 2 else 1)

/-- The physical cluster of a physical tile (01:R9). -/
def clusterOf (p : Nat) : Nat := p / 34

/-- The die of a physical tile: four clusters on each die. -/
def dieOf (p : Nat) : Nat := p / 136

/-- The time base as a tile reads it at an instant (01:R27): whole ticks, with its cluster's skew. -/
def timeBase (s : State) (p instant : Nat) : X := BitVec.ofNat 64 (instant / subTick + s.skew.getD (clusterOf p) 0)

/-- The instant at which the tile's current cycle ends. -/
def cycEnd (t : Tile) : Nat := t.clk.start + cycLen t.clk.mhz t.clk.stretched

/-- The frequency at which a tile begins to issue (25:R344). -/
def joinMhz (s : State) : Nat := if s.freq.phase = 2 then s.freq.target else s.freq.current

/-- The clock of a tile that begins to issue: it is part of the latest changeover. -/
def joinClock (s : State) (c : Clock) : Clock := { c with mhz := joinMhz s, chg := s.freq.chg }

/-- The time base at the start of the turn tile's current cycle. -/
def cycTime (s : State) : X := timeBase s s.turn s.tl.clk.start

/-! ### Instruction fetch (02:R36) -/

/-- The word at an instruction-store address. -/
def fetchWord (t : Tile) (a : Nat) : W32 := BitVec.ofNat 32 (mreadLE t.imem a 4)

/-- The length in bytes of the instruction at an address. -/
def instrLen (t : Tile) (a : Nat) : Nat := 4 * lenWords (First.split (fetchWord t a)).len

/-- The words of the instruction at an address, no word beyond byte 0x1_FFFF among them. -/
def fetchWords (t : Tile) (a : Nat) : List W32 :=
  if 0x20000 < a + instrLen t a then [] else
  (List.range (lenWords (First.split (fetchWord t a)).len)).map (fun k => fetchWord t (a + 4 * k))

/-- The instruction at an address, or why there is none. -/
def fetch (t : Tile) (privLevel : Bool) : Except Reject Instr := decodeWords privLevel (fetchWords t t.pc.toNat)

/-- TRAPINFO of causes 0x01-0x03 (02:R47): the first word and the number of the failing word. Beyond byte 0x1_FFFF the
store has no word, and the model gives zero there (log entry 41). -/
def wordInfo (t : Tile) (n : BitVec 2) : X := (0 : BitVec 30) ++ n ++ fetchWord t t.pc.toNat

/-! ### Banks (04:R85, R86) -/

/-- The bank of a tile-port address: 0-15 scratchpad, 16-31 engine window. -/
def bankOf (a : Nat) : Nat := if a < 0x100000 then a / 64 % 16 else 16 + a / 64 % 16

/-- The set of one bank. -/
def bankBit (b : Nat) : BitVec 32 := BitVec.ofNat 32 (2 ^ (b % 32))

/-- The banks of the lines of a list of addresses. -/
def banksOf : List Nat → BitVec 32
  | [] => 0
  | a :: r => bankBit (bankOf a) ||| banksOf r

/-- The banks with one use, and with two or more, among the jobs of a cycle. -/
def bankUse (c : Nat) : List Job → BitVec 32 × BitVec 32
  | [] => (0, 0)
  | j :: r =>
    let u := bankUse c r
    if j.cyc = c then (u.1 ||| j.banks, u.2 ||| (u.1 &&& j.banks)) else u

/-- The banks on which two uses fall in the tile's current cycle. -/
def collided (t : Tile) : BitVec 32 := (bankUse t.abs t.jobs).2

/-- The lowest set bit among the first n, from bit k on. -/
def lowBitFrom (w : BitVec 32) (k : Nat) : Nat → Nat
  | 0 => k
  | n + 1 => if w.getLsbD k then k else lowBitFrom w (k + 1) n

/-- TRAPINFO of cause 0x13 (04:R86): the lowest scratchpad bank, else the lowest engine-window bank. -/
def bankInfo (w : BitVec 32) : X := BitVec.ofNat 64 (lowBitFrom w 0 32)

/-! ### The checks at an issue slot (04:R84) -/

/-- Where a memory operation stands. -/
def State.op (s : State) (id : Nat) : Option MemOp := s.ops.find? (fun o => o.id == id)

/-- The operation that lands at a job's cycle, if the job is the landing slot of one (16:R258, R260, R262). -/
def landingOf : JobOp → Option Nat
  | .cpyLand op 0 _ => some op
  | .matomLand op _ => some op
  | .xfinLand op _ => some op
  | _ => none

/-- The operations whose landing slot is the turn tile's current cycle. -/
def landingNow (s : State) : List MemOp :=
  (s.tl.jobs.filter (fun j => j.cyc == s.tl.abs)).filterMap (fun j => (landingOf j.op).bind s.op)

/-- The escalated causes due at the current cycle: the tile's own, faults reported at a landing slot, and at a PERIOD
the station reports that have reached the tile (16:R257). -/
def escalatedNow (isPeriod : Bool) (s : State) : List (BitVec 8 × X) :=
  s.tl.escCause ++ (landingNow s).filterMap (fun o => o.fault)
    ++ (if isPeriod && !s.tl.trap.mode then s.tl.reports else [])

/-- The order among escalated causes: 0x22, 0x21, 0x20, 0x23 (06:R117). Of two operations that report one cause in one cycle
the first issued gives the address (DESIGN CHOICE, log entry 72). -/
def pickEscalated (l : List (BitVec 8 × X)) : Option (BitVec 8 × X) :=
  [0x22#8, 0x21#8, 0x20#8, 0x23#8].findSome? (fun c => l.find? (fun e => e.1 == c))

/-- The first line of an operation whose data has not arrived (16:R258). -/
def firstAbsent : List LineSt → Nat → Option Nat
  | [], _ => none
  | l :: r, j => if l.arrived then firstAbsent r (j + 1) else some j

/-- A late landing of the current cycle: the scratchpad address of the first line not present (16:R258, 06:R117), of the first
issued where two are late at once (DESIGN CHOICE, log entry 72). In trap mode only operations issued there are checked, and
none while the tile drains or halts (06:R119, R122). -/
def lateNow (s : State) : Option X :=
  (landingNow s).findSome? (fun o =>
    if s.tl.trap.mode && !o.inTrap then none
    else (o.late.or (firstAbsent o.lines 0)).map (fun j => BitVec.ofNat 64 (o.dst + 64 * j)))

/-- The number of entries K_set of a weight set: 128·p_w rows (08:R170, R179). -/
def packing : Ty → Nat
  | .bf16 | .f16 | .i16 | .n16 => 1
  | .e4m3 | .e5m2 | .i8 | .n8 | .se7 => 2
  | .se4 | .lut4 => 4
  | .se2 => 8
  | .i32 | .i64 | .n32 | .n64 | .f32 | .e2m1 => 1

/-- The first outlier entry of a WLOAD list line that fails its check (09:R192): a bit of 63:49 set, or a row K at or
beyond the set's rows. `row` extracts K. -/
def badEntry (t : Tile) (r : WloadRun) (addr : Nat) (j : Nat) : Nat → Option Nat
  | 0 => none
  | n + 1 =>
    let e : X := BitVec.ofNat 64 (mreadLE t.mem addr 8)
    if j < r.nout then
      if e.extractLsb' 49 15 != 0 || decide (128 * packing r.fmt ≤ (e.extractLsb' 32 10).toNat) then some j
      else badEntry t r (addr + 8) (j + 1) n
    else none

/-- An outlier fault of the current cycle (09:R192): the lines a WLOAD reads now from banks that serve them. -/
def outlierNow (t : Tile) : Option X :=
  (t.jobs.filter (fun j => j.cyc == t.abs)).findSome? (fun j =>
    match j.op with
    | .listRead l addrs =>
      match t.arr.wloads.find? (fun r => r.order == j.order) with
      | none => none
      | some r =>
        (addrs.zipIdx.findSome? (fun (a, k) =>
          if (collided t).getLsbD (bankOf a) then none else badEntry t r a (8 * (l + k)) 8)).map (BitVec.ofNat 64)
    | _ => none)

/-- What an instruction asks of its issue slot: why its words are no instruction (R46), whether it may not stand in a delay slot (R79), a placement fault of
its own (R79, R81, trap mode), a privileged form at user level, the first cause 0x17 of its section with its TRAPINFO,
its unit and occupancy, whether it names the next instruction itself, a conflict of array resources (09:R187), sleeping
bands (0x15), the period checks (0x10, 0x11, 0x14), a TRAP's code, and an uncorrectable error that an array instruction
meets (0x21; 08:R182). -/
structure Plan where
  bad : Option (BitVec 8 × X) := none
  flow : Bool := false
  place : Bool := false
  priv : Bool := false
  c17 : Option X := none
  unit : Option Nat := none
  occ : Nat := 1
  jump : Bool := false
  arr : Bool := false
  c15 : Option X := none
  late : Option X := none
  early : Option X := none
  c14 : Option X := none
  code : Option X := none
  esc : Option X := none
  isPeriod : Bool := false

/-- The cycle PERLEN−1 without its PERIOD (04:R82), outside trap mode (06:R122). -/
def overrun (t : Tile) (isPeriod : Bool) : Bool := !t.trap.mode && !isPeriod && t.cyc + 1 == t.perlen

/-- The unit is held in the current cycle (04:R74). -/
def unitHeld (t : Tile) (u : Nat) : Bool := decide (t.abs < tget 0 t.units u)

/-- A condition with its cause and TRAPINFO. -/
def causeIf (b : Bool) (c : BitVec 8) (info : X) : Option (BitVec 8 × X) := if b then some (c, info) else none

/-- The TRAPINFO with which the slip of a cause occurs again in the current cycle, the one after a return from its trap
(06:R123). -/
def recurs (t : Tile) (c : BitVec 8) : Option X :=
  t.again.bind (fun e => if e.1 = c ∧ e.2.2 = t.abs then some e.2.1 else none)

/-- The conditions of one cycle in R84's order, those of the state alone and those of the instruction due. Within item 2
of R84 the causes of R46 stand before cause 0x01 of R79, R81 and trap mode: the model's choice (log entry 42). Within item 1 the
overrun stands before a SLOT's own check, so that TRAPINFO is PERLEN−1 (DESIGN CHOICE, log entry 96). -/
def slotCauses (p : Plan) (s : State) : List (Option (BitVec 8 × X)) :=
  let t := s.tl
  [ pickEscalated ((p.esc.map (fun i => (0x21#8, i))).toList ++ escalatedNow p.isPeriod s),
    causeIf (overrun t p.isPeriod) 0x10 (BitVec.ofNat 64 (t.perlen - 1)),
    p.late.map (fun i => (0x10, i)),
    p.bad,
    causeIf ((p.flow && t.redirect.isSome) || p.place) 0x01 (wordInfo t 0),
    (recurs t 0x01).map (fun i => (0x01, i)),
    causeIf p.priv 0x03 (wordInfo t 0),
    (outlierNow t).map (fun i => (0x17, i)),
    p.c17.map (fun i => (0x17, i)),
    p.unit.bind (fun u => causeIf (unitHeld t u) 0x16 (BitVec.ofNat 64 u)),
    causeIf p.arr 0x16 11,
    (recurs t 0x16).map (fun i => (0x16, i)),
    p.c15.map (fun i => (0x15, i)),
    p.early.map (fun i => (0x11, i)),
    p.c14.map (fun i => (0x14, i)),
    causeIf (collided t != 0) 0x13 (bankInfo (collided t)),
    (lateNow s).map (fun i => (0x12, i)),
    p.code.map (fun i => (0x30, i)) ]

/-- The condition reported at the slot, if any holds. -/
def slotCause (p : Plan) (s : State) : Option (BitVec 8 × X) := (slotCauses p s).findSome? id

/-! ### Taking an exception (06:R117-R125) -/

/-- The causes that escalate by their own row (06:R117). -/
def isEscalated (c : BitVec 8) : Bool := c == 0x20 || c == 0x21 || c == 0x22 || c == 0x23

/-- A job that lands lines of a copy (06:R120). -/
def jobLands : JobOp → Option Nat
  | .cpyLand op _ _ => some op
  | .matomLand op _ => some op
  | .xfinLand op _ => some op
  | _ => none

/-- A landing bank cycle, of an accepted form or of a nullified or refused one (04:R77, 16:R255). -/
def isLanding (op : JobOp) : Bool := op == .idleLand || (jobLands op).isSome

/-- A job once its tile slips: a landing due in the slipping cycle moves nothing, and its banks count there only for the
uses that R86 cancels (log entry 43); one due later is gone (06:R119, R120). -/
def dropLanding (now : Nat) (j : Job) : Option Job :=
  if isLanding j.op && decide (now ≤ j.cyc) then (if j.cyc = now then some { j with op := .idle } else none) else some j

/-- The landing cycles due now or later are not used, nullified and refused ones included (06:R120). The copies whose landing slot
is this cycle or a later one are abandoned, and their tickets say so; one whose landing slot has passed only loses the lines
still to come. -/
def abandonCopies (t : Tile) : Tile :=
  let gone := t.jobs.filterMap (fun j => if t.abs ≤ j.cyc then landingOf j.op else none)
  { t with
    jobs := t.jobs.filterMap (dropLanding t.abs)
    tickets := t.tickets.map (fun k => if gone.contains k.op && !k.landed then { k with abandoned := true } else k) }

/-- The slip at the current cycle (06:R119): nothing is issued from here on, the period and landing checks are off, a
running NOPN ends (05:R105), and the copies still to land are abandoned. The address reported is the instruction due,
or the NOPN within whose cycles the slip falls. What arises in the drain that follows is reported after it (log entry
74). -/
def beginSlip (c : BitVec 8) (info : X) (t : Tile) : Tile :=
  let pc := match t.nopn with | some n => n.pc | none => t.pc
  let left := match t.nopn with | some n => n.left | none => 0
  abandonCopies
    { t with
      slip := some { cause := c, slot := t.cyc, pc := pc, info := info
                     escal := isEscalated c || t.trap.vec == 0 || t.trap.mode, nested := t.trap.mode
                     nopnLeft := left }
      units := if t.nopn.isSome then tset t.units 4 t.abs else t.units
      nopn := none, escCause := [], phase := .drain, issued := true }

/-- Everything issued has left the tile at the start of the current cycle (06:R121). The source reads that a CPYW issued before the
slip still owes are bank cycles that 06:R119 step 3 has used, up to 2,048 of them, and the drain lasts until they have passed, longer
than the 512 cycles that R121 names (DESIGN CHOICE, log entry 95). -/
def drained (t : Tile) : Bool :=
  t.pend.isEmpty && t.jobs.all (fun j => decide (j.cyc < t.abs)) && t.units.all (fun u => decide (u.2 ≤ t.abs))
    && t.arr.holds.all (fun h => decide (h.2.2 < t.abs)) && t.samples.isEmpty

/-- The causes whose condition the drain and the entry to the handler take away, and which the re-issued instruction takes again
all the same (06:R123): a placement, which an empty loop stack or a cancelled redirect would permit, and a unit or resource, which
the drain has freed (DEDUCED, log entry 44). -/
def takenAgain (c : BitVec 8) : Bool := c == 0x01 || c == 0x16

/-- The four trap registers (06:R121). Of a slip that occurs again the registers and the instruction's words are kept beside them,
for 06:R123. -/
def saveTrap (sl : Slip) (t : Tile) : Tile :=
  { t with trap := { t.trap with cause := sl.cause.setWidth 64, slot := BitVec.ofNat 64 sl.slot, pc := sl.pc
                                 info := sl.info }
           resumeNopn := sl.nopnLeft, seen := if takenAgain sl.cause then some (t.regs, fetchWords t sl.pc.toNat) else none }

/-- Entry to the tile's own handler at the start of cycle e (06:R121): the registers are written, the loop stack is
emptied, a pending redirect is cancelled, trap mode begins, and the instruction at TRAPVEC is due. -/
def enterTrap (sl : Slip) (t : Tile) : Tile :=
  let t := saveTrap sl t
  { t with trap := { t.trap with mode := true, entered := true }, loops := [], redirect := none, pc := t.trap.vec
           slip := none, phase := .run, issued := false }

/-- Escalation at the end of the drain (06:R125): STATE 011, the escalation record, and for a cause that is not
nested the trap registers; trap mode ends (06:R122). The loop stack is emptied and a pending redirect cancelled here too, of
which 06:R121 speaks for causes that the tile handles (DESIGN CHOICE, log entry 81). The cycles of the freeze are none that
R166 of 08 counts towards a wake (DESIGN CHOICE, log entry 82). -/
def escalate (sl : Slip) (t : Tile) : Tile :=
  let t := if sl.nested then t else saveTrap sl t
  { t with trap := { t.trap with mode := false }
           esc := { cause := sl.cause, nested := sl.nested, slot := BitVec.ofNat 64 sl.slot, pc := sl.pc, info := sl.info }
           loops := [], redirect := none, state := 3, slip := none, phase := .off, issued := false }

/-- Two register files agree on a register that is read. -/
def sameSrc (old new : Regs) : Src → Bool
  | .x r => r == 0 || old.x[r.toNat] == new.x[r.toNat]
  | .g r => r == 0 || old.g[r.toNat] == new.g[r.toNat]
  | .b r => old.b[r.toNat] == new.b[r.toNat]
  | .v r => old.v[r.toNat] == new.v[r.toNat]

/-- The instruction at TRAPPC is the one that slipped, and nothing that it reads has changed since (06:R123); words that are no
instruction read nothing. -/
def unchanged (t : Tile) : Bool :=
  match t.seen with
  | none => false
  | some old =>
    fetchWords t t.trap.pc.toNat == old.2
      && (match fetch { t with pc := t.trap.pc } false with | .ok i => sources i | .error _ => []).all (sameSrc old.1 t.regs)

/-- A slip of cause 0x01 or 0x16 occurs again after ERET unless the handler has changed what the instruction reads (06:R123): in
the counted cycle of the re-issue (DEDUCED, log entry 44). -/
def slipAgain (next : Nat) (t : Tile) : Tile :=
  { t with seen := none
           again := if t.resumeNopn = 0 && unchanged t then some (t.trap.cause.setWidth 8, t.trap.info, next) else none }

/-- ERET's restart (05:R115) at a counted cycle: after a TRAP the next instruction at the next cycle number, else the
instruction that slipped at its own cycle number, a NOPN with its remaining cycles and its hold on SYS (05:R105). -/
def returnFromTrap (next : Nat) (t : Tile) : Tile :=
  let tr := t.trap
  let t' := { slipAgain next t with trap := { tr with mode := false }, loops := [], redirect := none, resumeNopn := 0 }
  if tr.cause = 0x30 then { t' with pc := tr.pc + 4, cycNext := some (tr.slot.toNat + 1) }
  else if t.resumeNopn = 0 then { t' with pc := tr.pc, cycNext := some tr.slot.toNat }
  else
    { t' with pc := tr.pc + 4, cycNext := some tr.slot.toNat, nopn := some { pc := tr.pc, left := t.resumeNopn }
              units := tset t'.units 4 (next + t.resumeNopn) }

/-! ### Issue -/

/-- Completing passes of loops whose last instruction issued (04:R80, R81): the next address and the stack. The innermost
of the active loops that end here goes first; a loop inside it that a branch has left stays active. -/
def loopNext (pc next : X) : List LoopRec → X × List LoopRec
  | [] => (next, [])
  | l :: r =>
    if l.last = pc then
      if 1 < l.left then (l.start, { l with left := l.left - 1 } :: r) else loopNext pc next r
    else
      let n := loopNext pc next r
      (n.1, l :: n.2)

/-- Moving past an instruction of `len` bytes: loop passes, then a redirect whose delay slots have issued (04:R78). A NOPN
counts as one delay-slot instruction whatever its cycles (log entry 45). -/
def advance (len : Nat) (t : Tile) : Tile :=
  let n := loopNext t.pc (t.pc + BitVec.ofNat 64 len) t.loops
  match t.redirect with
  | none => { t with pc := n.1, loops := n.2 }
  | some r =>
    if r.slots ≤ 1 then
      { t with pc := r.target.getD n.1, loops := n.2, redirect := none }
    else { t with pc := n.1, loops := n.2, redirect := some { r with slots := r.slots - 1 } }

/-- Holding a unit from the current cycle (04:R72). -/
def holdUnit (u : Option Nat) (occ : Nat) (t : Tile) : Tile :=
  match u with
  | none => t
  | some u => { t with units := tset t.units u (t.abs + occ) }

/-- The end of an issue: its order number is used, its slot is over, the next instruction is known. -/
def endIssue (jump : Bool) (len : Nat) (t : Tile) : Tile :=
  let t := { t with order := t.order + 1, issued := true }
  if jump then t else advance len t

/-- The reports that a PERIOD's escalation took in (16:R257): each is in the management core's log already. -/
def dropReports (isPeriod : Bool) (c : BitVec 8) (t : Tile) : Tile :=
  if isPeriod && isEscalated c then { t with reports := [] } else t

/-- One instruction at its issue slot: the slip of R84's first condition, or its effect. -/
def issue (p : Plan) (len : Nat) (eff : State → State) (s : State) : Host.Outcome State Fault Refusal :=
  match slotCause p s with
  | some (c, info) => .next (s.onTl (fun t => dropReports p.isPeriod c (beginSlip c info t)))
  | none => .next ((eff (s.onTl (holdUnit p.unit p.occ))).onTl (endIssue p.jump len))

/-- A result written at the end of the issue cycle (L 1): no instruction reads it before the next cycle. -/
def write1 (d : Dest) (v : VReg) (t : Tile) : Tile := { wdest t d v with landed := d :: t.landed }

/-- A result with latency L (04:R72). -/
def writeL (l unit : Nat) (d : Dest) (v : VReg) (t : Tile) : Tile :=
  { t with pend := { due := t.abs + l - 1, order := t.order, unit := unit, dest := d, val := v } :: t.pend }

/-- A bank use or timed cycle k cycles after the issue. -/
def addJob (k unit : Nat) (banks : BitVec 32) (op : JobOp) (t : Tile) : Tile :=
  { t with jobs := t.jobs ++ [{ cyc := t.abs + k, order := t.order, unit := unit, banks := banks, op := op }] }

/-- A free value of the manual, a new one each time (assumption 9). -/
def State.free (s : State) : BitVec 64 × State := (Config.freeValue s.freeCount, { s with freeCount := s.freeCount + 1 })

end Sys2Proof.Machine
end

