-- ==== Sys2Proof/Machine/Flags.lean ====
section
/-! DEFINITION. Compares. The machine has no condition flags (05:R88): a compare gives a guard mask, a 0 or 1, or the
smaller and larger of two values. -/

namespace Sys2Proof.Machine

/-- All 64 bits of a guard from one relation (05:R94). -/
def guardOf (b : Bool) : X := if b then BitVec.allOnes 64 else 0

/-- 1 when the relation holds, else 0 (05:R90). -/
def oneIf (b : Bool) : X := if b then 1 else 0

/-- a < b, signed or unsigned. -/
def ltBy {w : Nat} (signed : Bool) (a b : BitVec w) : Bool := if signed then a.slt b else a.ult b

/-- The smaller of two values. -/
def minBy {w : Nat} (signed : Bool) (a b : BitVec w) : BitVec w := if ltBy signed b a then b else a

/-- The larger of two values. -/
def maxBy {w : Nat} (signed : Bool) (a b : BitVec w) : BitVec w := if ltBy signed a b then b else a

/-- The new word of a read-modify-write (05:R99, 07:R157, 16:R260). -/
def rmw {w : Nat} (op : RmwOp) (signed : Bool) (old b cmp : BitVec w) : BitVec w :=
  match op with
  | .add => old + b
  | .min => minBy signed old b
  | .max => maxBy signed old b
  | .xchg => b
  | .cmpxchg => if old = cmp then b else old
  | .and => old &&& b
  | .or => old ||| b
  | .xor => old ^^^ b

/-- The number of one bits among the first n. -/
def popFrom {w : Nat} (v : BitVec w) : Nat → Nat
  | 0 => 0
  | n + 1 => popFrom v n + (if v.getLsbD n then 1 else 0)

/-- Leading zero bits, counted down from bit n−1 (05:R90). -/
def clzFrom {w : Nat} (v : BitVec w) : Nat → Nat
  | 0 => 0
  | n + 1 => if v.getLsbD n then 0 else 1 + clzFrom v n

/-- The lowest one bit at k or above among n bits, or k + n (07:R159). -/
def firstFrom {w : Nat} (v : BitVec w) (k : Nat) : Nat → Nat
  | 0 => k
  | n + 1 => if v.getLsbD k then k else firstFrom v (k + 1) n

end Sys2Proof.Machine
end

