-- ==== Sys2Proof/Machine/Operands.lean ====
section
/-! DEFINITION. Operand forms: scratchpad and engine-window addresses with their checks (05:R89, R96; 07:R154-R159;
09:R185, R198), widths and signs of the access types. -/

namespace Sys2Proof.Machine

/-- Bytes of an access type (02:R38). -/
def memSize : MemTy → Nat
  | .i8 | .n8 => 1
  | .i16 | .n16 => 2
  | .i32 | .n32 => 4
  | .i64 | .n64 => 8

/-- .i types sign-extend, .n types zero-extend (05:R97). -/
def memSigned : MemTy → Bool
  | .i8 | .i16 | .i32 | .i64 => true
  | .n8 | .n16 | .n32 | .n64 => false

/-- Bytes of an atomic's word (05:R99). -/
def atomSize : AtomTy → Nat
  | .i32 | .n32 => 4
  | .i64 | .n64 => 8

/-- The .i atomics are signed. -/
def atomSigned : AtomTy → Bool
  | .i32 | .i64 => true
  | .n32 | .n64 => false

/-- Bytes of an element of the vector memory formats (03:R54). -/
def elemSize : Ty → Nat
  | .i8 | .n8 | .e4m3 | .e5m2 | .e2m1 | .lut4 => 1
  | .i16 | .n16 | .f16 | .bf16 => 2
  | .i32 | .n32 | .f32 => 4
  | .i64 | .n64 => 8
  | .se2 => 6
  | .se4 => 10
  | .se7 => 16

/-- .i8 and .i16 are sign-extended into a lane (07:R137). -/
def laneSigned : Ty → Bool
  | .i8 | .i16 | .i32 | .i64 => true
  | .n8 | .n16 | .n32 | .n64 | .f32 | .f16 | .bf16 | .e4m3 | .e5m2 | .e2m1 | .se2 | .se4 | .se7 | .lut4 => false

/-- Blocks of a shared-exponent format in one line (03:R67). -/
def blocksPerLine : Ty → Nat
  | .se2 => 10
  | .se4 => 6
  | .se7 => 4
  | .i8 | .i16 | .i32 | .i64 | .n8 | .n16 | .n32 | .n64 | .f32 | .f16 | .bf16 | .e4m3 | .e5m2 | .e2m1 | .lut4 => 0

/-- n bytes extended to 64 bits. -/
def extend (signed : Bool) (n : Nat) (v : Nat) : X :=
  if signed then (BitVec.ofNat (8 * n) v).signExtend 64 else BitVec.ofNat 64 (v % 2 ^ (8 * n))

/-- n bytes extended to a 32-bit lane. -/
def extend32 (signed : Bool) (n : Nat) (v : Nat) : W32 :=
  if signed then (BitVec.ofNat (8 * n) v).signExtend 32 else BitVec.ofNat 32 (v % 2 ^ (8 * n))

/-- The address of LD and ST with an immediate: x[A] + imm7 × size (05:R96). -/
def ldstAddr (t : Tile) (ty : MemTy) (a : BitVec 5) (imm : BitVec 7) : X :=
  rx t a + imm.signExtend 64 * BitVec.ofNat 64 (memSize ty)

/-- A naturally aligned access of n bytes in either region, or cause 0x17 with its address (05:R96, R99). -/
def checkAddr (addr : X) (n : Nat) : Option X :=
  if decide (0x10FFFF < addr.toNat) || addr.toNat % n != 0 then some addr else none

/-- The range of n bytes lies wholly within the scratchpad or wholly within the engine window. -/
def inOneRegion (addr n : Nat) : Bool :=
  decide (addr + n ≤ 0x100000) || (decide (0x100000 ≤ addr) && decide (addr + n ≤ 0x110000))

/-- The 64-byte lines a range of n bytes touches, from its first line on. -/
def linesFrom (line : Nat) : Nat → List Nat
  | 0 => []
  | n + 1 => line :: linesFrom (line + 64) n

/-- The lines touched by n ≥ 1 bytes at an address. -/
def linesOf (addr n : Nat) : List Nat := linesFrom (addr / 64 * 64) ((addr + n - 1) / 64 - addr / 64 + 1)

/-- The banks of the lines touched by n bytes at an address. -/
def rangeBanks (addr n : Nat) : BitVec 32 := banksOf (linesOf addr n)

/-- The first failing check of a list, in order. -/
def firstFail (l : List (Bool × X)) : Option X := (l.find? (fun c => c.1)).map (fun c => c.2)

/-- A scratchpad access of this instruction, complete when its last bank cycle, k cycles on, has passed (16:R265). -/
def accessEvent (k : Nat) (t : Tile) : Tile := { t with evs := { kind := 0, id := t.bindNo, cyc := t.abs + k } :: t.evs }

end Sys2Proof.Machine
end

