-- ==== Sys2Proof/Machine/Crypt.lean ====
section
/-! DEFINITION. The ciphers and hashes that the spec names by their standards: AES-256 and the XTS mode in which device
memory holds a line (15:R243; FIPS 197, IEEE 1619; log entry 10), SHA3-256 and ML-DSA-44 (25:R352; FIPS 202, FIPS 204; log
entry 11). -/

namespace Sys2Proof.Machine

/-! ### The block cipher -/

/-- The substitution box, sixteen bytes a row, the first lowest. -/
def aesSbox : List (BitVec 128) :=
  [0x76ABD7FE2B670130C56F6BF27B777C63, 0xC072A49CAFA2D4ADF04759FA7DC982CA,
   0x1531D871F1E5A534CCF73F362693FDB7, 0x75B227EBE28012079A059618C323C704,
   0x842FE329B3D63B52A05A6E1B1A2C8309, 0xCF584C4A39BECB6A5BB1FC20ED00D153,
   0xA89F3C507F02F94585334D43FBAAEFD0, 0xD2F3FF1021DAB6BCF5389D928F40A351]
  ++ [0x73195D643D7EA7C41744975FEC130CCD, 0xDB0B5EDE14B8EE4688902A22DC4F8160,
   0x79E4959162ACD3C25C2406490A3A32E0, 0x08AE7A65EAF4566CA94ED58D6D37C8E7,
   0x8A8BBD4B1F74DDE8C6B4A61C2E2578BA, 0x9E1DC186B95735610EF6034866B53E70,
   0xDF2855CEE9871E9B948ED9691198F8E1, 0x16BB54B00F2D99416842E6BF0D89A18C]

/-- The inverse box. -/
def aesInvSbox : List (BitVec 128) :=
  [0xFBD7F3819EA340BF38A53630D56A0952, 0xCBE9DEC444438E3487FF2F9B8239E37C,
   0x4EC3FA420B954CEE3D23C2A632947B54, 0x25D18B6D49A25B76B224D92866A12E08,
   0x92B6655DCC5CA4D41698688664F6F872, 0x849D8DA75746155EDAB9EDFD5048706C,
   0x0645B3B80558E4F70AD3BC8C00ABD890, 0x6B8A130103BDAFC1020F3FCA8F1E2CD0]
  ++ [0x73E6B4F0CECFF297EADC674F4111913A, 0x6EDF751CE837F9E28535ADE72274AC96,
   0x1BBE18AA0E62B76F89C5291D711AF147, 0xF45ACD78FEC0DB9A2079D2C64B3E56FC,
   0x5FEC8027591012B131C7078833A8DD1F, 0xEF9CC9939F7AE52D0D4AB519A97F5160,
   0x619953833CBBEBC8B0F52AAE4D3BE0A0, 0x7D0C2155631469E126D677BA7E042B17]

/-- One byte through a box. -/
def boxByte (box : List (BitVec 128)) (b : Byte) : Byte := (box.getD (b.toNat / 16) 0).extractLsb' (8 * (b.toNat % 16)) 8

/-- Doubling in the field of AES. -/
def aesTwice (b : Byte) : Byte := (b <<< 1) ^^^ (if b.getLsbD 7 then 0x1B else 0)

/-- Multiplying by a constant below 16. -/
def aesMul (c : BitVec 4) (b : Byte) : Byte :=
  let t := aesTwice b
  let q := aesTwice t
  (if c.getLsbD 0 then b else 0) ^^^ (if c.getLsbD 1 then t else 0) ^^^ (if c.getLsbD 2 then q else 0)
    ^^^ (if c.getLsbD 3 then aesTwice q else 0)

/-- Byte i of a list. -/
def byteAt (l : List Byte) (i : Nat) : Byte := l.getD i 0

/-- Two lists of bytes added. -/
def xorBytes (a b : List Byte) : List Byte := List.zipWith (fun x y => x ^^^ y) a b

/-- Row r of a block moves by r columns, to the left or back. -/
def aesShift (back : Bool) (s : List Byte) : List Byte :=
  (List.range 16).map (fun i => byteAt s (4 * ((i / 4 + (if back then 4 - i % 4 else i % 4)) % 4) + i % 4))

/-- Each column times a circulant matrix. -/
def aesMix (c0 c1 c2 c3 : BitVec 4) (s : List Byte) : List Byte :=
  (List.range 16).map (fun i =>
    let at_ (k : Nat) : Byte := byteAt s (4 * (i / 4) + (i + k) % 4)
    aesMul c0 (at_ 0) ^^^ aesMul c1 (at_ 1) ^^^ aesMul c2 (at_ 2) ^^^ aesMul c3 (at_ 3))

/-- Key word i follows the eight before it. -/
def keyWord (w : List (List Byte)) (i : Nat) : List (List Byte) :=
  let last := w.getD (i - 1) []
  let sub (l : List Byte) : List Byte := l.map (boxByte aesSbox)
  let t := if i % 8 = 0 then xorBytes (sub (last.drop 1 ++ last.take 1)) [BitVec.ofNat 8 (2 ^ (i / 8 - 1)), 0, 0, 0]
    else if i % 8 = 4 then sub last else last
  w ++ [xorBytes (w.getD (i - 8) []) t]

/-- The bytes of a number, the lowest first. -/
def bytesOf (n v : Nat) : List Byte := (cellsLE 0 n v).map (fun c => c.2)

/-- The sixty key words of a 256-bit key, byte 0 lowest. -/
def keyWords (key : Nat) : List (List Byte) :=
  (List.range 52).foldl (fun w j => keyWord w (j + 8)) ((List.range 8).map (fun i => bytesOf 4 (key / 2 ^ (32 * i))))

/-- Round key r. -/
def roundKey (w : List (List Byte)) (r : Nat) : List Byte := ((w.drop (4 * r)).take 4).flatten

/-- Encrypting a block of sixteen bytes. -/
def aesEncrypt (w : List (List Byte)) (b : List Byte) : List Byte :=
  let sub (s : List Byte) : List Byte := aesShift false (s.map (boxByte aesSbox))
  let s := (List.range 13).foldl (fun s r => xorBytes (aesMix 2 3 1 1 (sub s)) (roundKey w (r + 1))) (xorBytes b (roundKey w 0))
  xorBytes (sub s) (roundKey w 14)

/-- Decrypting a block. -/
def aesDecrypt (w : List (List Byte)) (b : List Byte) : List Byte :=
  let sub (s : List Byte) : List Byte := (aesShift true s).map (boxByte aesInvSbox)
  let s := (List.range 13).foldl (fun s r => aesMix 14 11 13 9 (xorBytes (sub s) (roundKey w (13 - r)))) (xorBytes b (roundKey w 14))
  xorBytes (sub s) (roundKey w 0)

/-! ### A line -/

/-- The number of a list of bytes, the lowest first. -/
def bytesNat : List Byte → Nat
  | [] => 0
  | b :: r => b.toNat + 256 * bytesNat r

/-- The mask of the next block of a data unit. -/
def xtsNext (t : BitVec 128) : BitVec 128 := (t <<< 1) ^^^ (if t.getLsbD 127 then 0x87 else 0)

/-- The blocks of a line through a block function, from a mask on. -/
def xtsBlocks (f : List Byte → List Byte) (t : BitVec 128) (v : Nat) : Nat → Nat
  | 0 => 0
  | n + 1 =>
    let b := f (bytesOf 16 ((BitVec.ofNat 128 v) ^^^ t).toNat)
    ((BitVec.ofNat 128 (bytesNat b)) ^^^ t).toNat + 2 ^ 128 * xtsBlocks f (xtsNext t) (v / 2 ^ 128) n

/-- A line under key 1, key 2 and its tweak, encrypted or decrypted. -/
def xtsLine (back : Bool) (key1 key2 tweak v : Nat) : Nat :=
  let t := BitVec.ofNat 128 (bytesNat (aesEncrypt (keyWords key2) (bytesOf 16 tweak)))
  let w := keyWords key1
  xtsBlocks (if back then aesDecrypt w else aesEncrypt w) t v 4

/-! ### Keccak: SHA3-256 and SHAKE (25:R352; FIPS 202) -/

/-- The round constants of Keccak-f[1600]. -/
def keccakRc : List X :=
  [0x0000000000000001, 0x0000000000008082, 0x800000000000808A, 0x8000000080008000, 0x000000000000808B, 0x0000000080000001,
   0x8000000080008081, 0x8000000000008009, 0x000000000000008A, 0x0000000000000088, 0x0000000080008009, 0x000000008000000A]
  ++ [0x000000008000808B, 0x800000000000008B, 0x8000000000008089, 0x8000000000008003, 0x8000000000008002, 0x8000000000000080,
   0x000000000000800A, 0x800000008000000A, 0x8000000080008081, 0x8000000000008080, 0x0000000080000001, 0x8000000080008008]

/-- The rotation of lane x + 5y. -/
def keccakRot : List Nat :=
  [0, 1, 62, 28, 27, 36, 44, 6, 55, 20, 3, 10, 43, 25, 39, 41, 45, 15, 21, 8, 18, 2, 61, 56, 14]

/-- Lane i of a state. -/
def kl (a : List X) (i : Nat) : X := a.getD i 0

/-- One round. -/
def keccakRound (a : List X) (rc : X) : List X :=
  let c := (List.range 5).map (fun x => kl a x ^^^ kl a (x + 5) ^^^ kl a (x + 10) ^^^ kl a (x + 15) ^^^ kl a (x + 20))
  let d := (List.range 5).map (fun x => kl c ((x + 4) % 5) ^^^ (kl c ((x + 1) % 5)).rotateLeft 1)
  let t := (List.range 25).map (fun i => kl a i ^^^ kl d (i % 5))
  -- lane (x, y) moves to (y, 2x + 3y): lane (x, y) of the result comes from (x + 3y, x)
  let b := (List.range 25).map (fun i =>
    let x := i % 5
    let y := i / 5
    let j := (x + 3 * y) % 5 + 5 * x
    (kl t j).rotateLeft (keccakRot.getD j 0))
  let e := (List.range 25).map (fun i =>
    let x := i % 5
    let y := 5 * (i / 5)
    kl b (x + y) ^^^ (~~~(kl b ((x + 1) % 5 + y)) &&& kl b ((x + 2) % 5 + y)))
  (kl e 0 ^^^ rc) :: e.drop 1

/-- Keccak-f[1600]. -/
def keccakF (a : List X) : List X := keccakRc.foldl keccakRound a

/-- Absorbing n blocks of `rate` bytes of a message, its bytes as one number. -/
def absorb (rate : Nat) (a : List X) (v : Nat) : Nat → List X
  | 0 => a
  | n + 1 =>
    let b := (List.range 25).map (fun i => kl a i ^^^ (if i < rate / 8 then BitVec.ofNat 64 (v / 2 ^ (64 * i)) else 0))
    absorb rate (keccakF b) (v / 2 ^ (8 * rate)) n

/-- The state after a message of n bytes, byte 0 lowest, with its suffix and padding. -/
def sponge (rate suffix v n : Nat) : List X :=
  let blocks := n / rate + 1
  absorb rate (List.replicate 25 0) (v % 2 ^ (8 * n) + suffix * 2 ^ (8 * n) + 2 ^ (8 * rate * blocks - 1)) blocks

/-- The output of n blocks as a number. -/
def squeeze (rate : Nat) (a : List X) : Nat → Nat
  | 0 => 0
  | n + 1 =>
    (a.take (rate / 8)).foldr (fun x v => x.toNat + 2 ^ 64 * v) 0 + 2 ^ (8 * rate) * squeeze rate (keccakF a) n

/-- SHA3-256 of n bytes: the 32-byte digest as a number. -/
def sha3 (v n : Nat) : Nat := squeeze 136 (sponge 136 0x06 v n) 1 % 2 ^ 256

/-- SHAKE256 of n bytes: `out` bytes as a number. -/
def shake256 (v n out : Nat) : Nat := squeeze 136 (sponge 136 0x1F v n) (out / 136 + 1) % 2 ^ (8 * out)

/-! ### ML-DSA-44: verifying a signature (25:R352, R353; FIPS 204) -/

/-- The modulus. -/
def dsaQ : Nat := 8380417

/-- A polynomial: 256 coefficients below the modulus. -/
abbrev Poly := List Nat

/-- The sum, difference and product of coefficients. -/
def polyAdd (a b : Poly) : Poly := List.zipWith (fun x y => (x + y) % dsaQ) a b
/-- The difference. -/
def polySub (a b : Poly) : Poly := List.zipWith (fun x y => (x + dsaQ - y) % dsaQ) a b
/-- The product, coefficient by coefficient. -/
def polyMul (a b : Poly) : Poly := List.zipWith (fun x y => x * y % dsaQ) a b

/-- n fields of w bits. -/
def fields (w n v : Nat) : List Nat := (List.range n).map (fun i => v / 2 ^ (w * i) % 2 ^ w)

/-- Fields of w bits as one number. -/
def packed (w : Nat) (l : List Nat) : Nat := l.foldr (fun x v => x + 2 ^ w * v) 0

/-- The eight bits of a number in the other order. -/
def rev8 (k : Nat) : Nat := (List.range 8).foldl (fun v i => 2 * v + k / 2 ^ i % 2) 0

/-- The transform of a block of 2^n coefficients, block k of its layer counted from a power of two. -/
def ntt (k : Nat) : Nat → Poly → Poly
  | 0, l => l
  | n + 1, l =>
    let lo := l.take (2 ^ n)
    let hi := (l.drop (2 ^ n)).map (fun x => x * (1753 ^ rev8 k % dsaQ) % dsaQ)
    ntt (2 * k) n (polyAdd lo hi) ++ ntt (2 * k + 1) n (polySub lo hi)

/-- The inverse transform, without its last factor. -/
def nttBack (k : Nat) : Nat → Poly → Poly
  | 0, l => l
  | n + 1, l =>
    let lo := nttBack (2 * k) n (l.take (2 ^ n))
    let hi := nttBack (2 * k + 1) n (l.drop (2 ^ n))
    polyAdd lo hi ++ (polySub lo hi).map (fun x => x * (1753 ^ (512 - rev8 k) % dsaQ) % dsaQ)

/-- Entry (r, s) of the public matrix, transformed. -/
def dsaEntry (rho r s : Nat) : Poly :=
  let out := squeeze 168 (sponge 168 0x1F (rho + 2 ^ 256 * s + 2 ^ 264 * r) 34) 6
  ((fields 24 336 out).map (fun v => v % 2 ^ 23)).filter (fun v => decide (v < dsaQ)) |>.take 256

/-- Placing the signs of a challenge: the bytes of the stream still to read, and the coefficients so far. -/
def ballStep (st : List Nat × Poly) (i : Nat) (neg : Bool) : List Nat × Poly :=
  match st.1.dropWhile (fun j => decide (i < j)) with
  | [] => st
  | j :: r => (r, (st.2.set i (st.2.getD j 0)).set j (if neg then dsaQ - 1 else 1))

/-- The challenge of a commitment hash: 39 coefficients are 1 or -1. -/
def dsaBall (c : Nat) : Poly :=
  let out := shake256 c 32 272
  ((List.range 39).foldl (fun st i => ballStep st (217 + i) (out.testBit i))
    ((fields 8 264 (out / 2 ^ 64)), List.replicate 256 0)).2

/-- The hint of each polynomial: positions, or none where its encoding is not the one form. -/
def dsaHint (y : List Nat) : Option (List (List Nat)) :=
  let last (i : Nat) : Nat := if i = 0 then 0 else y.getD (79 + i) 0
  let rows := (List.range 4).map (fun i => (y.take (last (i + 1))).drop (last i))
  let rising (l : List Nat) : Bool := (List.range (l.length - 1)).all (fun j => decide (l.getD j 0 < l.getD (j + 1) 0))
  if (List.range 4).all (fun i => decide (last i ≤ last (i + 1)) && decide (last (i + 1) ≤ 80)) && rows.all rising
    && ((y.take 80).drop (last 4)).all (fun v => v == 0) then some rows else none

/-- A coefficient's high part as its hint corrects it. -/
def useHint (hint : Bool) (r : Nat) : Nat :=
  -- r is 190464·r1 + r0 with r0 above -95232 and at most 95232; at the top r1 is 0 and r0 is -1 or less
  let hi := (r + 95231) / 190464
  let pos := decide (190464 * hi < r)
  let r1 := hi % 44
  if !hint then r1 else if pos && hi < 44 then (r1 + 1) % 44 else (r1 + 43) % 44

/-- Row i of the commitment that a signature answers for. -/
def dsaRow (pk : Nat) (z : List Poly) (c : Poly) (hints : List (List Nat)) (i : Nat) : Poly :=
  let az := ((List.range 4).map (fun s => polyMul (dsaEntry (pk % 2 ^ 256) i s) (z.getD s []))).foldl polyAdd
    (List.replicate 256 0)
  let t1 := (fields 10 256 (pk / 2 ^ (256 + 2560 * i))).map (fun v => v * 2 ^ 13)
  let w := (nttBack 1 8 (polySub az (polyMul c (ntt 1 8 t1)))).map (fun x => x * 8347681 % dsaQ)
  w.zipIdx.map (fun (x, j) => useHint ((hints.getD i []).contains j) x)

/-- A signature of ML-DSA-44 over a message of n bytes, with an empty context, verifies under a public key of 1,312 bytes. -/
def dsaVerify (pk msg n sig : Nat) : Bool :=
  let z := (List.range 4).map (fun i =>
    (fields 18 256 (sig / 2 ^ (256 + 4608 * i))).map (fun v => (131072 + dsaQ - v) % dsaQ))
  match dsaHint (fields 8 84 (sig / 2 ^ 18688)) with
  | none => false
  | some hints =>
    let c := ntt 1 8 (dsaBall (sig % 2 ^ 256))
    let rows := (List.range 4).map (dsaRow pk (z.map (ntt 1 8)) c hints)
    let mu := shake256 (shake256 pk 1312 64 + 2 ^ 528 * (msg % 2 ^ (8 * n))) (66 + n) 64
    z.all (fun p => p.all (fun x => decide (x < 130994) || decide (dsaQ - 130994 < x)))
      && shake256 (mu + 2 ^ 512 * packed 6 rows.flatten) (64 + 768) 32 == sig % 2 ^ 256

/-! ### ML-DSA-44: keys and signing (25:R354; FIPS 204) -/

/-- A transformed polynomial back in its plain form. -/
def nttInv (p : Poly) : Poly := (nttBack 1 8 p).map (fun x => x * 8347681 % dsaQ)

/-- The four plain products of the public matrix and a transformed vector. -/
def dsaTimes (m : List (List Poly)) (v : List Poly) : List Poly :=
  m.map (fun row => nttInv ((List.zipWith polyMul row v).foldl polyAdd (List.replicate 256 0)))

/-- The public matrix of a seed. -/
def dsaMatrix (rho : Nat) : List (List Poly) :=
  (List.range 4).map (fun r => (List.range 4).map (fun s => dsaEntry rho r s))

/-- A secret polynomial: coefficients from -2 to 2. -/
def dsaShort (seed r : Nat) : Poly :=
  let out := squeeze 136 (sponge 136 0x1F (seed + 2 ^ 512 * r) 66) 4
  (((fields 4 1088 out).filter (fun z => decide (z < 15))).take 256).map (fun z => (2 + dsaQ - z % 5) % dsaQ)

/-- The high part of a coefficient in units of 2^13, and the rest. -/
def power2High (r : Nat) : Nat := (r + 4095) / 8192
/-- The rest. -/
def power2Low (r : Nat) : Nat := (r + dsaQ - 8192 * power2High r) % dsaQ

/-- The low part of a coefficient that useHint's high part leaves. -/
def lowBits (r : Nat) : Nat :=
  let hi := (r + 95231) / 190464
  if hi = 44 then r else (r + dsaQ - 190464 * hi) % dsaQ

/-- Every coefficient lies below a bound in size. -/
def dsaBelow (bound : Nat) (l : List Poly) : Bool :=
  l.all (fun p => p.all (fun x => decide (x < bound) || decide (dsaQ - bound < x)))

/-- A key pair: the public key as it is encoded, the public matrix, the seed of the masks, the transformed secrets. -/
structure DsaKey where
  pk : Nat
  mat : List (List Poly)
  kseed : Nat
  s1 : List Poly
  s2 : List Poly
  t0 : List Poly

/-- The key pair of a 32-byte seed. -/
def dsaKeyGen (seed : Nat) : DsaKey :=
  let h := shake256 (seed % 2 ^ 256 + 4 * 2 ^ 256 + 4 * 2 ^ 264) 34 128
  let rho := h % 2 ^ 256
  let short (r : Nat) : Poly := dsaShort (h / 2 ^ 256 % 2 ^ 512) r
  let mat := dsaMatrix rho
  let s1 := (List.range 4).map (fun r => ntt 1 8 (short r))
  let s2 := (List.range 4).map (fun r => short (4 + r))
  let t := List.zipWith polyAdd (dsaTimes mat s1) s2
  { pk := rho + 2 ^ 256 * packed 10 (t.flatten.map power2High), mat := mat, kseed := h / 2 ^ 768, s1 := s1
    s2 := s2.map (ntt 1 8), t0 := t.map (fun p => ntt 1 8 (p.map power2Low)) }

/-- The masks of one attempt. -/
def dsaMask (seed k r : Nat) : Poly :=
  (fields 18 256 (shake256 (seed + 2 ^ 512 * (k + r)) 66 576)).map (fun v => (131072 + dsaQ - v) % dsaQ)

/-- The encoding of a hint: the positions of its bits, then how many each polynomial and those before it have. -/
def hintNat (h : List (List Nat)) : Nat :=
  let pos := h.flatten
  packed 8 pos + packed 8 ((List.range 4).map (fun i => (h.take (i + 1)).flatten.length)) * 2 ^ 640

/-- One attempt at a signature of a message digest; none where it is rejected. -/
def dsaTry (key : DsaKey) (mu seed k : Nat) : Option Nat :=
  let y := (List.range 4).map (dsaMask seed k)
  let w := dsaTimes key.mat (y.map (ntt 1 8))
  let high (l : List Poly) : List Poly := l.map (fun p => p.map (useHint false))
  let ch := shake256 (mu + 2 ^ 512 * packed 6 (high w).flatten) (64 + 768) 32
  let c := ntt 1 8 (dsaBall ch)
  let times (l : List Poly) : List Poly := l.map (fun p => nttInv (polyMul c p))
  let z := List.zipWith polyAdd y (times key.s1)
  let r := List.zipWith polySub w (times key.s2)
  let ct0 := times key.t0
  let h := List.zipWith (fun a b => (List.range 256).filter (fun i => a.getD i 0 != b.getD i 0))
    (high (List.zipWith polyAdd r ct0)) (high r)
  if dsaBelow 130994 z && dsaBelow 95154 (r.map (fun p => p.map lowBits)) && dsaBelow 95232 ct0
      && decide (h.flatten.length ≤ 80) then
    some (ch + 2 ^ 256 * packed 18 (z.flatten.map (fun v => (131072 + dsaQ - v) % dsaQ)) + 2 ^ 18688 * hintNat h)
  else none

/-- The first accepted of n attempts, from counter value k on. -/
def dsaAttempts (key : DsaKey) (mu seed k : Nat) : Nat → Nat
  | 0 => 0
  | n + 1 =>
    match dsaTry key mu seed k with
    | some v => v
    | none => dsaAttempts key mu seed (k + 4) n

/-- A signature of ML-DSA-44 over a message of n bytes, with an empty context and 32 bytes of randomness, as 2,420 bytes. The
attempts are as many as the two-byte counter of the masks can number (log entry 11). -/
def dsaSign (key : DsaKey) (msg n rnd : Nat) : Nat :=
  let mu := shake256 (shake256 key.pk 1312 64 + 2 ^ 528 * (msg % 2 ^ (8 * n))) (66 + n) 64
  dsaAttempts key mu (shake256 (key.kseed + 2 ^ 256 * (rnd % 2 ^ 256) + 2 ^ 512 * mu) 128 64) 0 16384

end Sys2Proof.Machine
end

