-- ==== Sys2Proof/Machine/DevMem.lean ====
section
/-! DEFINITION. Device memory: the address hash, translation tables, key slots, stored lines, page entries of a
station, and the input log of record and replay (15:R236-R243, R249; 25:R357, R358). -/

namespace Sys2Proof.Machine

/-! ### The address hash (15:R240) -/

/-- The number of the (j+1)-th set bit of a die mask, counted from bit k over n bits. -/
def nthBit (m : BitVec 4) (j k : Nat) : Nat → Nat
  | 0 => k
  | n + 1 => if m.getLsbD k then (if j = 0 then k else nthBit m (j - 1) (k + 1) n) else nthBit m j (k + 1) n

/-- The hash byte h of a local granule number under a seed. -/
def hashByte (seed : X) (l : Nat) : Nat :=
  let x := l ^^^ (seed.extractLsb' 0 27).toNat
  let y : W32 := BitVec.ofNat 32 (x * ((seed.extractLsb' 32 32) ||| 1).toNat)
  (y.extractLsb' 24 8 ^^^ y.extractLsb' 16 8).toNat

/-- Where a DPA lies: die·2^37 + 1024·granule + byte. None at or above n·2^37. -/
def hashPlace (seed : X) (mask : BitVec 4) (dpa : Nat) : Option Nat :=
  let n := popFrom mask 4
  let g := dpa / 1024
  let q := g / 2 ^ 27
  let l := g % 2 ^ 27
  if q < n then some (nthBit mask ((q + hashByte seed l) % n) 0 4 * 2 ^ 37 + l * 1024 + dpa % 1024) else none

/-- The die that holds a device address. -/
def homeDie (da : Nat) : Nat := da / 2 ^ 37

/-- The stack of its die, 0 or 1, that holds a device address's granule (15:R240). -/
def stackBit (da : Nat) : Nat :=
  let l := da % 2 ^ 37 / 1024
  (l + l / 2 ^ 9) % 2

/-! ### Physical positions (25:R346) -/

/-- The physical lane of a logical lane on a die of a rotation. -/
def physLane (rot i : Nat) : Nat := if rot < 2 then i else 63 - i

/-- The package quadrant of a physical cluster. -/
def quadrant (rot pclus : Nat) : Nat := (pclus + rot) % 4

/-- The package's stack of local channel c of die d. -/
def physStack (rot d c : Nat) : Nat := if rot < 2 then 2 * d + c / 16 else 2 * d + 1 - c / 16

/-- The package's stack of a device address, whose granule lies on a channel of its die's stack (log entry 5: die d has
rotation d). -/
def lineStack (da : Nat) : Nat := physStack (homeDie da) (homeDie da) (16 * stackBit da)

/-! ### Stored lines (15:R243, R249) -/

/-- The tag a line is stored under: the key pair, and the tweak's line number. -/
abbrev LineTag := Nat × Nat

/-- A line's ciphertext or plaintext under a tag. -/
def tagLine (back : Bool) (t : LineTag) (l : Line) : Line :=
  BitVec.ofNat 512 (xtsLine back (t.1 / 2 ^ 256) (t.1 % 2 ^ 256) t.2 l.toNat)

/-- The stored bits of a line. The memory of State holds what was written, with the tag it was written under beside it, and
the bits themselves where no tag is (log entry 10). -/
def cipherLine (s : State) (da : Nat) : Line :=
  let raw := mreadLine s.mem (da / 64 * 64)
  match tfind s.lineKeys (da / 64) with
  | none => raw
  | some t => tagLine false t raw

/-- A line as a reader under a tag sees it (15:R243): what was written under that tag, else the stored bits decrypted. -/
def devLine (s : State) (tag : LineTag) (da : Nat) : Line :=
  if tfind s.lineKeys (da / 64) = some tag then mreadLine s.mem (da / 64 * 64) else tagLine true tag (cipherLine s da)

/-- A full-line write under a tag, which also replaces a line that read as failing. -/
def devStore (s : State) (tag : LineTag) (da : Nat) (l : Line) : State :=
  { s with mem := mwrites s.mem (lineCells (da / 64 * 64) l), lineKeys := tset s.lineKeys (da / 64) tag
           badLines := s.badLines.filter (· != da / 64) }

/-- A write by a party other than the host takes the line's copy out of the host read buffer within 2,000 ticks
(17:R279); `id` names the operation, 0 none. -/
def bufferStale (da id : Nat) (s : State) : State :=
  if s.hostBuf.any (fun e => e.1 == da / 64) && !s.hostInval.contains (da / 64, id) then
    { s with hostInval := s.hostInval ++ [(da / 64, id)]
             timers := s.timers ++ [(s.now + 2000 * subTick, .readBufferInvalidate (da / 64))] }
  else s

/-- A line with n bytes from offset k replaced by the low bytes of v. -/
def lineSplice (l : Line) (k n : Nat) (v : Nat) : Line :=
  let m : Line := BitVec.ofNat 512 ((2 ^ (8 * n) - 1) * 2 ^ (8 * k))
  (l &&& ~~~m) ||| (BitVec.ofNat 512 (v * 2 ^ (8 * k)) &&& m)

/-- n bytes of a line from offset k. -/
def lineBytes (l : Line) (k n : Nat) : Nat := l.toNat / 2 ^ (8 * k) % 2 ^ (8 * n)

/-! ### Descriptors and the walk (15:R236-R239) -/

/-- A device address lies in a line that reads as failing (15:R249). -/
def failing (s : State) (da : Nat) : Bool := s.badLines.contains (da / 64)

/-- Eight bytes of the management core's tables, placed with seed 0 and the mask of every live die, as they are stored; none
from a line that reads as failing. -/
def tableRead (s : State) (dpa : Nat) : Option X :=
  (hashPlace 0 s.live dpa).bind (fun da =>
    if failing s da then none
    else if (tfind s.lineKeys (da / 64)).isNone then some (BitVec.ofNat 64 (mreadLE s.mem da 8))
    else some (BitVec.ofNat 64 (lineBytes (cipherLine s da) (da % 64) 8)))

/-- One context's descriptor (15:R239). -/
structure Desc where
  root : Nat
  keyidx : Nat
  mask : BitVec 4
  seed : X

/-- The descriptor of a context ID. -/
def descOf (s : State) (ctx : BitVec 16) : Option Desc := do
  let base := s.cdtbase + 32 * ctx.toNat
  let root ← tableRead s base
  let w ← tableRead s (base + 8)
  let seed ← tableRead s (base + 16)
  return { root := root.toNat, keyidx := (w.extractLsb' 0 12).toNat, mask := w.extractLsb' 16 4, seed := seed }

/-- A translation entry's fields (15:R238). -/
def entryValid (e : X) : Bool := e.getLsbD 0
/-- LEAF. -/
def entryLeaf (e : X) : Bool := e.getLsbD 1
/-- W. -/
def entryW (e : X) : Bool := e.getLsbD 2
/-- RMT. -/
def entryRmt (e : X) : Bool := e.getLsbD 3
/-- PKG. -/
def entryPkg (e : X) : BitVec 13 := e.extractLsb' 51 13
/-- The DPA that ADDR names. -/
def entryAddr (e : X) : Nat := (e.extractLsb' 9 30).toNat * 512
/-- A must-be-zero bit is set. -/
def entryBad (e : X) : Bool := e.extractLsb' 39 12 != 0 || e.extractLsb' 4 5 != 0

/-- The levels of the walk: the lowest DVA bit of the index, the index's width, whether a leaf may stand here. -/
def walkLevels : List (Nat × Nat × Bool) := [(39, 13, false), (30, 9, true), (21, 9, true), (15, 6, true)]

/-- The walk from a table's DPA: the page's size and its leaf entry, or none for a translation fault. -/
def walkFrom (s : State) (dva : Nat) : List (Nat × Nat × Bool) → Nat → Option (Nat × X)
  | [], _ => none
  | (lo, w, leafOk) :: r, table =>
    match tableRead s (table + 8 * (dva / 2 ^ lo % 2 ^ w)) with
    | none => none
    | some e =>
      if !entryValid e || entryBad e then none
      else if entryLeaf e then
        if leafOk && entryAddr e % 2 ^ lo == 0 && (entryRmt e || entryPkg e == 0) then some (2 ^ lo, e) else none
      else if entryPkg e != 0 then none
      else walkFrom s dva r (entryAddr e)

/-- The walk of a DVA under a context (15:R236, R237). -/
def walk (s : State) (ctx : BitVec 16) (dva : X) : Option PageEntry :=
  if dva.extractLsb' 52 12 != 0 then none
  else
    match descOf s ctx with
    | none => none
    | some d =>
      (walkFrom s dva.toNat walkLevels d.root).map (fun (size, e) =>
        { ctx := ctx, size := size, vpn := dva.toNat / size, entry := e })

/-- Where a translated access goes: a device address with the tag of its line, or another package. -/
inductive Target where
  | home (da : Nat) (tag : LineTag)
  | remote (pkg : BitVec 13)
  deriving DecidableEq, Repr

/-- An access through a page entry (15:R238-R240, R243): W is checked for writes, the DPA is placed under the context's
descriptor, and the key slot must be provisioned. The descriptor and the key slot are read anew at every access, so that
a changed one acts at once, where R242 lets an operation use the old translation until the invalidation (log entry 79). -/
def throughPage (s : State) (e : PageEntry) (dva : X) (write : Bool) : Option Target :=
  if write && !entryW e.entry then none
  else if entryRmt e.entry && entryPkg e.entry != s.pkg then some (.remote (entryPkg e.entry))
  else
    match descOf s e.ctx with
    | none => none
    | some d =>
      let dpa := entryAddr e.entry + dva.toNat % e.size
      match hashPlace d.seed d.mask dpa, tfind s.keys d.keyidx with
      | some da, some k => some (.home da (k.1 * 2 ^ 256 + k.2, dpa / 64))
      | _, _ => none

/-- A translation without a station's entries, as firmware, the save engine and BAR2 make it. -/
def xlate (s : State) (ctx : BitVec 16) (dva : X) (write : Bool) : Option Target :=
  (walk s ctx dva).bind (fun e => throughPage s e dva write)

/-- The cause of an access whose page is not found: 0x21 when only a failing line of the tables stands in the walk's way,
else 0x20 (15:R249; log entry 50). -/
def walkCause (s : State) (ctx : BitVec 16) (dva : X) : BitVec 8 :=
  if (walk s ctx dva).isNone && (walk { s with badLines := [] } ctx dva).isSome then 0x21 else 0x20

/-- Another package holds a live context of the ID (15:R239), as this look finds it (log entry 12). -/
def remoteHas (s : State) (pkg : BitVec 13) (ctx : BitVec 16) : Bool := Config.remoteContext s.freeCount pkg.toNat ctx.toNat

/-- A line of another package, as this look finds it. -/
def remoteLineOf (s : State) (ctx : BitVec 16) (dva : X) : Line :=
  Config.remoteLine s.freeCount (ctx.toNat * 2 ^ 58 + dva.toNat / 64)

/-- The next look at another package may find anything. -/
def State.looked (s : State) : State := { s with freeCount := s.freeCount + 1 }

/-- A page entry serves an address. -/
def pageHit (ctx : BitVec 16) (dva : X) (e : PageEntry) : Bool := e.ctx == ctx && dva.toNat / e.size == e.vpn

/-- Looking an address up at a station: the entry, and the entries with it most recently used first (15:R241). A missing
page is walked; a fault loads nothing. -/
def stationLook (s : State) (ctx : BitVec 16) (dva : X) (pages : List PageEntry) :
    Option PageEntry × List PageEntry :=
  match (if dva.extractLsb' 52 12 != 0 then none else pages.find? (pageHit ctx dva)) with
  | some e => (some e, e :: pages.filter (fun q => q != e))
  | none =>
    match walk s ctx dva with
    | none => (none, pages)
    | some e => (some e, (e :: pages).take 16)

/-- The page of an address is held (15:R246). -/
def pageHeld (ctx : BitVec 16) (dva : X) (pages : List PageEntry) : Bool :=
  dva.extractLsb' 52 12 == 0 && pages.any (pageHit ctx dva)

/-! ### Bytes of a context's memory -/

/-- The byte at a DVA; none where its page does not translate, its line reads as failing, or its package has no such
context. -/
def dvaByte (s : State) (ctx : BitVec 16) (dva : X) : Option Nat :=
  match xlate s ctx dva false with
  | some (.home da tag) => if failing s da then none else some (lineBytes (devLine s tag da) (da % 64) 1)
  | some (.remote pkg) =>
    if remoteHas s pkg ctx then some (lineBytes (remoteLineOf s ctx dva) (dva.toNat % 64) 1) else none
  | none => none

/-- n bytes at a DVA as one number, byte by byte; none where one of them cannot be read. -/
def dvaRead (s : State) (ctx : BitVec 16) (dva : X) : Nat → Option Nat
  | 0 => some 0
  | n + 1 =>
    match dvaByte s ctx dva with
    | some b => (dvaRead s ctx (dva + 1) n).map (fun r => b + 256 * r)
    | none => none

/-- A line that a write covers whole reads as failing no more (15:R249). -/
def lineRenewed (da : Nat) (s : State) : State := { s with badLines := s.badLines.filter (fun b => b != da / 64) }

/-- The offsets of the whole lines among n bytes from an address. -/
def wholeLines (a n : Nat) : List Nat :=
  (List.range (n / 64)).filterMap (fun j =>
    let off := (64 - a % 64) % 64 + 64 * j
    if off + 64 ≤ n then some off else none)

/-- Writing n bytes at a DVA, byte by byte; a byte whose page does not translate is not written. -/
def dvaBytes (ctx : BitVec 16) (dva : X) : Nat → Nat → State → State
  | 0, _, s => s
  | n + 1, v, s =>
    match xlate s ctx dva true with
    | some (.home da tag) =>
      dvaBytes ctx (dva + 1) n (v / 256)
        (bufferStale da 0 { devStore s tag da (lineSplice (devLine s tag da) (da % 64) 1 v) with badLines := s.badLines })
    | _ => dvaBytes ctx (dva + 1) n (v / 256) s

/-- Writing n bytes at a DVA. -/
def dvaWrite (ctx : BitVec 16) (dva : X) (n v : Nat) (s : State) : State :=
  (wholeLines dva.toNat n).foldl (fun s off =>
    match xlate s ctx (dva + BitVec.ofNat 64 off) true with
    | some (.home da _) => lineRenewed da s
    | _ => s) (dvaBytes ctx dva n v s)

/-! ### Record and replay (25:R357, R358) -/

/-- One step of CRC-32C (Castagnoli, reflected). -/
def crcStep (c : W32) : W32 := if c.getLsbD 0 then (c >>> 1) ^^^ 0x82F63B78#32 else c >>> 1

/-- CRC-32C of n bytes, the low byte of v first. -/
def crcFrom (c : W32) (v : Nat) : Nat → W32
  | 0 => c
  | n + 1 =>
    let b := c ^^^ BitVec.ofNat 32 (v % 256)
    crcFrom (crcStep (crcStep (crcStep (crcStep (crcStep (crcStep (crcStep (crcStep b)))))))) (v / 256) n

/-- CRC-32C of n bytes. -/
def crc32c (v n : Nat) : W32 := ~~~(crcFrom 0xFFFFFFFF v n)

/-- LOGBASE of a tile (25:R357). -/
def logBase (t : Tile) : X :=
  t.bind.savearea - BitVec.ofNat 64 (t.packIdx.toNat * 0x600000)
    + BitVec.ofNat 64 ((t.bind.packsize.toNat + 1) * 0x600000 + t.packIdx.toNat * 0x4000000)

/-- The log's length. -/
def logSize : Nat := 0x4000000

/-- An entry's header for an input of the tile's current cycle. -/
def logHeader (t : Tile) (kind len : Nat) : BitVec 128 :=
  BitVec.ofNat 64 t.replay.period ++ (0 : BitVec 27) ++ BitVec.ofBool t.trap.mode ++ BitVec.ofNat 20 t.cyc
    ++ BitVec.ofNat 8 len ++ BitVec.ofNat 8 kind

/-- The entry's length in 16-byte units for a payload of n bytes. -/
def logLen (n : Nat) : Nat := 1 + (n + 15) / 16

/-- The first 64 bytes of the log: WRPTR, COUNT, FLAGS, DIVCOUNT. -/
def logHead (r : Replay) : Nat :=
  r.ptr + r.count * 2 ^ 64 + ((if r.full then 1 else 0) + (if r.diverged then 2 else 0)) * 2 ^ 128 + r.divCount * 2 ^ 192

/-- Appending an entry in record mode. -/
def logAppend (kind n v : Nat) (s : State) : State :=
  let t := s.tl
  let len := logLen n
  let base := logBase t
  let ctx := t.bind.ctx
  if t.replay.full then s
  else if logSize < t.replay.ptr + 16 * len then
    let r := { t.replay with full := true }
    (dvaWrite ctx base 64 (logHead r) s).onTl (fun t => { t with replay := r })
  else
    let s := dvaWrite ctx (base + BitVec.ofNat 64 t.replay.ptr) (16 * len) ((logHeader t kind len).toNat + v * 2 ^ 128) s
    let r := { t.replay with ptr := t.replay.ptr + 16 * len, count := t.replay.count + 1 }
    (dvaWrite ctx base 64 (logHead r) s).onTl (fun t => { t with replay := r })

/-- Divergence: DIVERGED is set and counted, and live inputs follow (25:R358); the log keeps its other fields. -/
def diverge (s : State) : State :=
  let t := s.tl
  let r := { t.replay with diverged := true, divCount := t.replay.divCount + 1, live := true }
  let old := (dvaRead s t.bind.ctx (logBase t) 17).getD 0
  (dvaWrite t.bind.ctx (logBase t) 64
    (old % 2 ^ 128 + (old / 2 ^ 128 % 2 + 2) * 2 ^ 128 + r.divCount * 2 ^ 192) s).onTl (fun t => { t with replay := r })

/-- The next entry of a replayed log as header and payload number, or none past the log's end. -/
def logNext (s : State) (n : Nat) : Option (BitVec 128 × Nat) :=
  let t := s.tl
  let wr := (dvaRead s t.bind.ctx (logBase t) 8).getD 0
  if wr < t.replay.ptr + 16 then none
  else
    (dvaRead s t.bind.ctx (logBase t + BitVec.ofNat 64 t.replay.ptr) (16 * logLen n)).map (fun v =>
      (BitVec.ofNat 128 v, v / 2 ^ 128 % 2 ^ (8 * n)))

/-- An input of the turn tile's instruction: its live value, recorded, or the value its log gives (25:R357, R358). The
payload has n bytes. -/
def logInput (kind n live : Nat) (s : State) : Nat × State :=
  let t := s.tl
  if t.bind.replay = 1 then (live, logAppend kind n live s)
  else if t.bind.replay = 2 && !t.replay.live then
    match logNext s n with
    | none => (live, s.onTl (fun t => { t with replay := { t.replay with live := true } }))
    | some (h, v) =>
      if h = logHeader t kind (logLen n) then
        (v, s.onTl (fun t => { t with replay := { t.replay with ptr := t.replay.ptr + 16 * logLen n } }))
      else (live, diverge s)
  else (live, s)

/-- A replayed log gave an input: its pointer moved. -/
def fromLog (s s' : State) : Bool := s.tl.bind.replay == 2 && s.tl.replay.ptr != s'.tl.replay.ptr

/-- What the padding of an entry notes of a post at mirror 62: its sequence plus 1, or 0 before the first (25:R357 gives padding
no value; log entry 16). -/
def resultNote (seen : Bool) (seq : BitVec 32) : Nat := if seen then seq.toNat + 1 else 0

/-- What the padding of an entry notes of a lease: the latest result at mirror 62, and the port's STATE plus 1 (log entry 16). -/
def leaseNote (t : Tile) : Nat :=
  let m := tget mirrorInit t.mirs 62
  resultNote m.seen m.seq + (t.port.state.toNat + 1) * 2 ^ 33

/-- A replayed entry notes a result that has not arrived, or an idle port where the live engine is held (25:R359; log entry
16). -/
def noteMissing (note : Nat) (t : Tile) : Bool :=
  (note % 2 ^ 33 != 0 && !t.replay.results.any (fun e => e.1 + 1 == note % 2 ^ 33))
    || (note / 2 ^ 33 % 8 == 1 && t.port.state == 4)

/-- An input of n bytes, n mod 16 = 8, from which the tile may infer what its engine has done: the entry's padding has a note of
it. With the value, whether a replayed entry notes what has not happened live. -/
def logNoted (kind n live note : Nat) (s : State) : Nat × Bool × State :=
  let r := logInput kind (n + 8) (live + note * 2 ^ (8 * n)) s
  if fromLog s r.2 then (r.1 % 2 ^ (8 * n), noteMissing (r.1 / 2 ^ (8 * n)) s.tl, r.2) else (live, false, r.2)

/-- An input of eight bytes. -/
def logX (live : X) (s : State) : X × State :=
  let r := logInput 2 8 live.toNat s
  (BitVec.ofNat 64 r.1, r.2)

end Sys2Proof.Machine
end

