-- ==== Sys2Proof/Machine/System.lean ====
section
/-! DEFINITION. TBASE, SYSR and SYSW with every system register (05:R107, R110-R113; 21:R307; 25:R341, R342, R346), and
the outcome of an instruction of the debug window (25:R355, R356). -/

namespace Sys2Proof.Machine

/-! ### The debug window's outcome (25:R355, R356) -/

/-- A debug instruction done: DBGRES reads 0. -/
def dbgOk (s : State) : State := s.onTl (fun t => { t with dbg := { t.dbg with res := 0, info := 0 } })

/-- A debug instruction's result. -/
def dbgResult (v : X) (s : State) : State := s.onTl (fun t => { t with dbg := { t.dbg with xd := v, res := 0, info := 0 } })

/-- A debug instruction's fault. -/
def dbgFault (c : BitVec 8) (info : X) (s : State) : State :=
  s.onTl (fun t => { t with dbg := { t.dbg with res := c.setWidth 64, info := info } })

/-! ### Values -/

/-- LEASEPORT (21:R307). -/
def leasePort (p : Port) : X :=
  p.gen ++ (0 : BitVec 11) ++ p.eng ++ (0 : BitVec 9) ++ p.outst ++ BitVec.ofBool p.cls ++ p.state

/-- The bands that are Awake (08:R166). -/
def bandAwakeMask (t : Tile) : BitVec 4 :=
  (List.range 4).foldl (fun m k => if t.arr.band.toList.getD k .asleep = .awake then m ||| BitVec.ofNat 4 (2 ^ k) else m) 0

/-- OCCAUSE counts as clear (25:R341). -/
def occClear (s : State) : Bool := s.occause.extractLsb' 0 12 == 0

/-- BOOSTEN (25:R342). -/
def boostReg (s : State) : X :=
  (0 : BitVec 62) ++ BitVec.ofBool (s.boostEn && occClear s) ++ BitVec.ofBool s.boostEn

/-- ORIENT of a physical tile (25:R346; log entry 5: die d has rotation d). -/
def orientReg (s : State) (p : Nat) : X :=
  (0 : BitVec 48) ++ s.live ++ (0 : BitVec 2) ++ BitVec.ofNat 2 (clusterOf p % 4) ++ (0 : BitVec 4)
    ++ BitVec.ofNat 2 (dieOf p) ++ BitVec.ofNat 2 (dieOf p)

/-- The value of a system register at the turn tile (05:R111, R113). -/
def sysValue (s : State) (n : BitVec 12) : X :=
  let t := s.tl
  match n.toNat with
  | 0x000 => t.bind.logtile.setWidth 64
  | 0x001 => t.bind.packid.setWidth 64
  | 0x002 => t.bind.packsize.setWidth 64 + 1
  | 0x010 => BitVec.ofNat 64 t.perlenNext
  | 0x011 => BitVec.ofNat 64 t.cyc
  | 0x012 => t.clk.perstamp
  | 0x013 => t.clk.stretch
  | 0x014 => t.clk.holds
  | 0x020 => t.trap.vec
  | 0x021 => t.trap.cause
  | 0x022 => t.trap.slot
  | 0x023 => t.trap.pc
  | 0x024 => t.trap.info
  | 0x030 => t.arr.ashape.setWidth 64
  | 0x031 => t.arr.bandOk.setWidth 64
  | 0x032 => (bandAwakeMask t).setWidth 64
  | 0x040 => t.bind.memquota.setWidth 64
  | 0x041 => BitVec.ofNat 64 t.memused
  | 0x050 => leasePort t.port
  | 0x060 => t.collide
  | 0x070 => t.bind.replay.setWidth 64
  | 0x800 => t.bind.ctx.setWidth 64
  | 0x801 => t.bind.seed
  | 0x802 => t.bind.diemask.setWidth 64
  | 0x803 => orientReg s s.turn
  | 0x804 => s.occause
  | 0x805 => boostReg s
  | _ => 0

/-- The registers whose reads are inputs of record and replay (05:R112). -/
def sysLogged (n : BitVec 12) : Bool :=
  n == 0x012 || n == 0x013 || n == 0x014 || n == 0x031 || n == 0x032 || n == 0x050

/-- A replayed LEASEPORT shows another generation, a lease held that has ended live, or fewer commands without a result than the
live port has (25:R359; log entry 16). -/
def portBehind (v : X) (p : Port) : Bool :=
  v.extractLsb' 32 32 != p.gen || (v.extractLsb' 0 3 == 4#3 && p.state == 0) || decide ((v.extractLsb' 4 3).toNat < p.outst.toNat)

/-- The value of a system register as a SYSR gives it: live, or from a replayed log. LEASEPORT lets engine results be inferred,
and is compared. -/
def sysInput (num : BitVec 12) (s : State) : X × State :=
  let live := sysValue s num
  if !sysLogged num then (live, s)
  else if num = 0x050 then
    let r := logNoted 2 8 live.toNat (leaseNote s.tl) s
    let v := BitVec.ofNat 64 r.1
    (v, if r.2.1 || (fromLog s r.2.2 && portBehind v s.tl.port) then diverge r.2.2 else r.2.2)
  else logX live s

/-- TBASE (05:R107): the time base at the start of the cycle. -/
def execTbase (g : Guard) (d : BitVec 5) (s : State) : Host.Outcome State Fault Refusal :=
  issue { unit := some 4 } 4
    (fun s =>
      if enabled s.tl g then
        let r := logX (cycTime s) s
        r.2.onTl (writeL 2 4 (.x d) (val64 r.1))
      else s) s

/-- SYSR (05:R110): the register's value at c. Through the debug window the result goes to DBGXD (25:R356). -/
def execSysr (g : Guard) (d : BitVec 5) (num : BitVec 12) (s : State) : Host.Outcome State Fault Refusal :=
  if s.level then .next (if enabled s.tl g then dbgResult (sysValue s num) s else dbgOk s)
  else
    issue { unit := some 4, priv := sysPriv num } 4
      (fun s =>
        if enabled s.tl g then
          let r := sysInput num s
          r.2.onTl (writeL 2 4 (.x d) (val64 r.1))
        else s) s

/-- Why a SYSW is not permitted (05:R110): TRAPINFO NUM for a read-only register, the value when out of range. -/
def sysWriteBad (num : BitVec 12) (v : X) : Option X :=
  match num.toNat with
  | 0x010 => if decide (v.toNat < 64) || decide (1048576 < v.toNat) then some v else none
  | 0x020 => if v.toNat % 4 != 0 || decide (0x20000 ≤ v.toNat) then some v else none
  | 0x060 | 0x804 | 0x805 => none
  | _ => some (num.setWidth 64)

/-- The bits of OCCAUSE that a write of ones clears: DIE, DROOP, IO, HBM, CORE (25:R341). -/
def occWritten (old v : X) : X := old &&& ~~~(v &&& 0xF0F)

/-- Writing a system register. -/
def sysWrite (num : BitVec 12) (v : X) (s : State) : State :=
  match num.toNat with
  | 0x010 => s.onTl (fun t => { t with perlenNext := v.toNat })
  | 0x020 => s.onTl (fun t => { t with trap := { t.trap with vec := v } })
  | 0x060 => s.onTl (fun t => { t with collide := v })
  | 0x804 => { s with occause := occWritten s.occause v }
  | 0x805 => { s with boostEn := v.getLsbD 0 }
  | _ => s

/-- SYSW (05:R110). Through the debug window it reads DBGXA and acts only in STATE 011 or 000 (25:R355, R356). -/
def execSysw (g : Guard) (d : BitVec 5) (num : BitVec 12) (s : State) : Host.Outcome State Fault Refusal :=
  if s.level then
    .next (
      if s.tl.state != 3 && s.tl.state != 0 then dbgFault 0x17 0 s
      else if !enabled s.tl g then dbgOk s
      else
        match sysWriteBad num s.tl.dbg.xa with
        | some info => dbgFault 0x17 info s
        | none => dbgOk (sysWrite num s.tl.dbg.xa s))
  else
    let v := rx s.tl d
    issue { unit := some 4, priv := sysPriv num
            c17 := if enabled s.tl g then sysWriteBad num v else none } 4
      (fun s => if enabled s.tl g then sysWrite num v s else s) s

end Sys2Proof.Machine
end

