-- ==== Sys2Proof/Machine/Fabric.lean ====
section
/-! DEFINITION. Fences' bookkeeping, the sampling fabric and its instructions (spec/12, spec/13; 16:R264-R266). -/

namespace Sys2Proof.Machine

/-! ### Who and where -/

/-- The tile of a physical tile's context. -/
def whoOf (t : Tile) : Who := { ctx := t.bind.ctx, idx := t.packIdx.toNat, life := t.life }

/-- The physical tile that carries a tile of a context, if one does. A tile that halted in an earlier life of the context
ID is another one. -/
def physOf (s : State) (w : Who) : Option Nat :=
  if w.ctx = 0 then none
  else (s.tiles.find? (fun e => e.2.bind.ctx == w.ctx && e.2.packIdx.toNat == w.idx && e.2.life == w.life)).map (fun e => e.1)

/-- A tile of a context in this life of its ID. -/
def ofCtx (c : Ctx) (t : Tile) : Bool := t.bind.ctx == c.id && t.life == c.life

/-- A party at physical tile q lies in the scope of one at p (01:R11). -/
def inScope (sc : Scope) (p q : Nat) : Bool :=
  match sc with
  | .tile => p == q
  | .cluster => clusterOf p == clusterOf q
  | .die => dieOf p == dieOf q
  | .package | .system => true

/-- An instant by which something must happen. -/
def State.timer (s : State) (at_ : Nat) (i : Instr) : State := { s with timers := s.timers ++ [(at_, i)] }

/-- A new identifier. -/
def State.fresh (s : State) : Nat × State := (s.nextId, { s with nextId := s.nextId + 1 })

/-! ### Paths between dies (25:R347) -/

/-- The dies are neighbours in the ring 0-1-2-3-0. -/
def dieNear (a b : Nat) : Bool := (a + 1) % 4 == b || (b + 1) % 4 == a

/-- A die is up. -/
def dieUp (s : State) (d : Nat) : Bool := s.up.getLsbD d

/-- A path from a die to another. -/
def pathUp (s : State) (a b : Nat) : Bool :=
  dieUp s b && (a == b || dieNear a b || (List.range 4).any (fun i => i != a && i != b && dieUp s i))

/-- A live route from a die to another package (25:R351): one of the links that the routing tables name for it is up, and a
path leads to the die that carries it. -/
def routeUp (s : State) (d : Nat) (pkg : BitVec 13) : Bool :=
  (List.range 16).any (fun l => (s.links &&& tget 0 s.routes pkg.toNat).getLsbD l && pathUp s d (l / 4))

/-! ### Where an operation's line goes (15:R241, R242) -/

/-- The DVA of line j. -/
def lineDva (o : MemOp) (j : Nat) : X := o.dva + BitVec.ofNat 64 (64 * j)

/-- An operation writes its line, which needs W (15:R238). -/
def opWrites : OpKind → Bool
  | .cpyw | .matom .. | .xacc _ | .xclr | .engWrite => true
  | .cpy | .xfin | .touch => false

/-- The station's look at a line's page: the entry and the tile's entries after (15:R241). -/
def opLook (s : State) (o : MemOp) (j : Nat) : Option PageEntry × State :=
  match physOf s o.who with
  | some p =>
    let r := stationLook s o.who.ctx (lineDva o j) (s.tile p).pages
    (r.1, s.onTile p (fun t => { t with pages := r.2 }))
  | none => (walk s o.who.ctx (lineDva o j), s)

/-- The target of a place. -/
def Place.target : Place → Target
  | .home da key line => .home da (key, line)
  | .remote pkg => .remote pkg

/-- The place of a target. -/
def Target.place : Target → Place
  | .home da tag => .home da tag.1 tag.2
  | .remote pkg => .remote pkg

/-- A translation through a page entry that a look found, or the cause that stops it. Where a page entry is held and the context's
descriptor lies on a failing line, the cause is 0x20, while a walk over that line takes 0x21 (DESIGN CHOICE, log entry 114). -/
def lookTarget (s : State) (ctx : BitVec 16) (dva : X) (write : Bool) : Option PageEntry → Except (BitVec 8) Target
  | none => .error (walkCause s ctx dva)
  | some e => match throughPage s e dva write with | some t => .ok t | none => .error 0x20

/-- Where a line goes by the station's entries, or by a walk, as they stand (15:R241, R242): an operation is translated at its
issue, and keeps that translation (DESIGN CHOICE, log entry 91). -/
def routeOf (s : State) (w : Who) (dva : X) (write : Bool) : Route :=
  let pages := match physOf s w with | some p => (s.tile p).pages | none => []
  match lookTarget s w.ctx dva write (stationLook s w.ctx dva pages).1 with
  | .ok t => .to t.place
  | .error c => .stop c

/-- The route of line j of an operation: an engine's write goes where the engine's entry placed it (22:R315). -/
def lineRoute (o : MemOp) (j : Nat) : Route :=
  if o.kind = .engWrite then (match o.place with | some p => .to p | none => .stop 0x20)
  else match o.lines[j]? with | some l => l.route | none => .unset

/-- Where line j of an operation goes when it is performed, or the cause that stops it. The page of a tile's operation is
loaded then (15:R241); a line that was never translated goes by what that look finds. -/
def opTarget (o : MemOp) (j : Nat) (s : State) : Except (BitVec 8) Target × State :=
  let r : Option PageEntry × State := if o.kind = .engWrite then (none, s) else opLook s o j
  match lineRoute o j with
  | .to p => (.ok p.target, r.2)
  | .stop c => (.error c, r.2)
  | .unset => (lookTarget r.2 o.who.ctx (lineDva o j) (opWrites o.kind) r.1, r.2)

/-! ### When a fenced predecessor is complete (16:R265) -/

/-- A line of an operation is at its end. -/
def lineDone (l : LineSt) : Bool := l.performed || l.dropped

/-- Line j of an operation is homed on a die; a line that goes nowhere counts as at home. -/
def lineAt (o : MemOp) (d j : Nat) : Bool :=
  match lineRoute o j with
  | .to (.home da ..) => homeDie da == d
  | .to (.remote _) => false
  | .stop _ | .unset => true

/-- Line j of an operation lies in this package. -/
def lineHere (o : MemOp) (j : Nat) : Bool :=
  match lineRoute o j with
  | .to (.remote _) => false
  | .to (.home ..) | .stop _ | .unset => true

/-- A memory operation is complete at a scope (16:R265; 17:R279). A line homed beyond the scope's part has left once its
data has been read at the tile and nothing holds the operation: its route is fixed, so that it is performed there. -/
def opDone (s : State) (sc : Scope) (o : MemOp) : Bool :=
  match sc with
  | .tile | .cluster | .die => !o.held && o.lines.zipIdx.all (fun (l, j) => lineDone l || (l.ready && !lineAt o o.die j))
  | .package =>
    !o.held && o.lines.zipIdx.all (fun (l, j) => lineDone l || (l.ready && !lineHere o j))
      && s.hostInval.all (fun e => e.2 != o.id)
  | .system => !o.held && o.lines.all lineDone && s.hostInval.all (fun e => e.2 != o.id)

/-- A destination of a tile's post lies in a scope (01:R11), as seen from where the post was issued; another tile's mirror in
an image lies in no cluster and on no die (log entry 78). -/
def dstIn (s : State) (who : Who) (sc : Scope) (p : Post) (d : PostDst) : Bool :=
  match sc with
  | .tile => d.far.isNone && d.who == who
  | .cluster | .die =>
    d.far.isNone && (d.who == who || (match physOf s d.who with | some q => inScope sc p.home q | none => false))
  | .package => d.far.isNone
  | .system => true

/-- A post is complete for a FENCE of a scope once it has arrived at every bound mirror whose tile lies in the FENCE's scope
(16:R265) or in the scope that the POST names (12:R214), which is the wider of the two (DEDUCED, log entry 71). -/
def postDone (s : State) (who : Who) (sc : Scope) (p : Post) : Bool :=
  p.sent && p.dsts.all (fun d => d.done || !(dstIn s who sc p d || dstIn s who p.scope p d))

/-- An engine command is neither delivered nor dropped yet (21:R311). -/
def cmdPending (s : State) (id : Nat) : Bool :=
  s.tiles.any (fun e => e.2.port.queue.any (fun m => m.id == id))
    || s.kennels.any (fun e => e.2.ring.any (fun m => m.msg.id == id)
        || e.2.leases.any (fun l => l.cmds.any (fun c => c.1 == id && !c.2.2.isEmpty)))

/-- A fenced predecessor of a tile is complete at a scope. The bank cycles and samples of an earlier bind are
over. Those that a kill cuts off are over when KILL_COMPLETE clears the tile (DESIGN CHOICE, log entry 102). -/
def evDone (s : State) (who : Who) (sc : Scope) (e : Ev) : Bool :=
  match e.kind with
  | 0 | 6 =>
    (match physOf s who with
      | some p => (s.tile p).bindNo != e.id || decide (e.cyc < (s.tile p).abs)
      | none => true)
  | 5 => (match s.posts.find? (fun p => p.id == e.id) with | some p => postDone s who sc p | none => true)
  | 7 => !cmdPending s e.id
  | _ => (match s.op e.id with | some o => opDone s sc o | none => true)

/-- Every predecessor a successor waits for is complete. -/
def waitsDone (s : State) (who : Who) (ws : List Wait) : Bool := ws.all (fun w => evDone s who w.scope w.ev)

/-- The incomplete predecessors that constrain a new event of the turn tile of a kind (16:R264). -/
def waitsFor (s : State) (kind : Nat) : List Wait :=
  (s.tl.fences.filter (fun f => f.succ.getLsbD kind)).flatMap (fun f =>
    (f.preds.filter (fun e => !evDone s (whoOf s.tl) f.scope e)).map (fun e => { scope := f.scope, ev := e }))

/-- Recording an event that a later FENCE can name. -/
def addEv (kind id cyc : Nat) (t : Tile) : Tile := { t with evs := { kind := kind, id := id, cyc := cyc } :: t.evs }

/-! ### Posts (12:R206, R211-R214) -/

/-- The class of delivery between physical tiles, in ticks (12:R214). -/
def deliveryBound (p q : Nat) : Nat :=
  if clusterOf p = clusterOf q then 150 else if dieOf p = dieOf q then 400 else 1500

/-- Fields of a binding word (12:R209). -/
def bindBound (w : X) : Bool := w.getLsbD 63
/-- KIND. -/
def bindKind (w : X) : BitVec 2 := w.extractLsb' 58 2
/-- PKG. -/
def bindPkg (w : X) : BitVec 13 := w.extractLsb' 45 13
/-- TILE. -/
def bindTile (w : X) : Nat := (w.extractLsb' 32 9).toNat
/-- SLOT. -/
def bindSlot (w : X) : Nat := (w.extractLsb' 0 5).toNat

/-- A binding word names an out-slot of this package's logical tile. -/
def bindsTo (s : State) (w : X) (logtile slot : Nat) : Bool :=
  bindBound w && bindKind w == 0 && bindPkg w == s.pkg && bindTile w == logtile && bindSlot w == slot

/-- The image address of a tile off the device (06:R129). -/
def imageBase (c : Ctx) (idx : Nat) : X := c.save + BitVec.ofNat 64 (idx * 0x600000)

/-- The image's mirrors of tiles off the device that are bound to an out-slot (06:R129, 12:R218). The reader has no place, and a
post may take the bound of different dies, 1,500 ticks (DESIGN CHOICE, log entry 86). A kill discards posts to its saved tiles from its request on, within the 1,500 ticks of 06:R136
(log entry 104). -/
def savedDsts (s : State) (logtile slot : Nat) : List PostDst :=
  (s.ctxs.filter (fun c => !c.killing)).flatMap (fun c => c.saved.flatMap (fun idx =>
    (List.range 60).filterMap (fun m =>
      match dvaRead s c.id (imageBase c idx + BitVec.ofNat 64 (0x5800 + 128 * m + 88)) 8 with
      | some w =>
        if bindsTo s (BitVec.ofNat 64 w) logtile slot then
          some { who := { ctx := c.id, idx := idx, life := c.life }, mirror := m, bound := 1500, done := false } else none
      | none => none)))

/-- The mirrors of other packages that are bound to an out-slot (25:R351; log entry 12). -/
def farDsts (s : State) (logtile slot : Nat) : List PostDst :=
  (s.farMirs.filter (fun e => e.1 == logtile && e.2.1 == slot)).map (fun e =>
    { who := { ctx := 0, idx := 0 }, mirror := 0, bound := 25000, done := false, far := some e.2.2 })

/-- Every mirror bound to an out-slot of the turn tile, each with the class of delivery that its reader's place and the writer's
give when the post is sent. The class stays when a fence holds the post and either of them moves or resumes elsewhere before its
release (DESIGN CHOICE, log entry 105). -/
def boundMirrors (s : State) (slot : Nat) : List PostDst :=
  let lt := s.tl.bind.logtile.toNat
  s.tiles.flatMap (fun (p, t) =>
    (t.mirs.filter (fun (m, x) => decide (m < 60) && t.bind.ctx != 0 && bindsTo s x.binding lt slot)).map (fun (m, _) =>
      { who := whoOf t, mirror := m, bound := deliveryBound s.turn p, done := false }))
    ++ savedDsts s lt slot ++ farDsts s lt slot

/-- The timers that bound the deliveries of a post, counted in whole ticks from an instant's tick (12:R214). -/
def deliveryTimers (from_ : Nat) (p : Post) : List (Nat × Instr) :=
  p.dsts.zipIdx.map (fun (d, k) => (from_ / subTick * subTick + d.bound * subTick, .postDelivery p.id k))

/-- Sending a post that is ready (12:R206): its mirrors are those bound at this moment; a fence or an earlier held post
of its out-slot holds it (13:R226). `stamped` is the instant its bound runs from, unless fenced predecessors have been
completed since (12:R214): then its bound runs from their completion. -/
def sendPost (id slot : Nat) (payload : Line) (seq : BitVec 32) (stamp : X) (stamped : Nat) (s : State) : State :=
  match s.posts.find? (fun p => p.id == id) with
  | none => s
  | some p0 =>
    let p := { p0 with payload := payload, seq := seq, stamp := stamp, dsts := boundMirrors s slot, sent := true
                       held := !waitsDone s (whoOf s.tl) p0.waits }
    if p.dsts.isEmpty && !p.held then { s with posts := s.posts.filter (fun q => q.id != id) }
    else
      { s with posts := s.posts.map (fun q => if q.id == id then p else q)
               timers := if p.held then s.timers
                 else s.timers ++ deliveryTimers (if p0.waits.isEmpty then p0.freed.getD stamped else s.now) p }

/-- The waits of a new post: its own, and those of earlier posts of its out-slot that are still held (13:R226). A post that only
an earlier one holds back takes that one's waits, so that its bound runs from their completion (DESIGN CHOICE, log entry 87). -/
def postWaits (s : State) (slot : Nat) : List Wait :=
  waitsFor s 5 ++ (s.posts.filter (fun p => p.src == some (whoOf s.tl, slot) && (p.held || !p.sent))).flatMap (fun p => p.waits)

/-- A new post of the turn tile, not sent yet. -/
def newPost (sc : Scope) (slot : Nat) (s : State) : Nat × State :=
  let r := s.fresh
  let p : Post := { id := r.1, src := some (whoOf s.tl, slot), payload := 0, seq := 0, stamp := 0, dsts := []
                    waits := postWaits s slot, held := false, sent := false, wrote := [], home := s.turn, scope := sc
                    at_ := s.now }
  (r.1, { r.2 with posts := s.posts ++ [p] })

/-- The out-slot's next state. -/
def nextOut (t : Tile) (slot : Nat) (payload : Line) (stamp : X) : OutSlot :=
  { payload := payload, seq := (tget outInit t.outs slot).seq + 1, stamp := stamp }

/-- The out-slot changes and its post is sent (12:R206, 13:R225). -/
def postOut (id slot : Nat) (payload : Line) (stamp : X) (stamped : Nat) (s : State) : State :=
  let o := nextOut s.tl slot payload stamp
  sendPost id slot payload o.seq stamp stamped (s.onTl (fun t => { t with outs := tset t.outs slot o }))

/-- POST from a vector register (13:R225): the out-slot changes at the end of c, after any older post of that moment. -/
def execPost (g : Guard) (sc : Scope) (n : BitVec 5) (d : BitVec 5) (s : State) : Host.Outcome State Fault Refusal :=
  issue { unit := some 12 } 4
    (fun s =>
      if enabled s.tl g then
        let stamp := cycTime s
        let r := newPost sc n.toNat s
        r.2.onTl (fun t => addEv 5 r.1 0 (addJob 0 12 0 (.postWrite r.1 n ((rv t d).extractLsb' 0 512) stamp) t))
      else s) s

/-- POST from the scratchpad (13:R225): its line is read at c+1. -/
def execPostScratch (g : Guard) (sc : Scope) (n : BitVec 5) (a : BitVec 5) (s : State) :
    Host.Outcome State Fault Refusal :=
  let addr := rx s.tl a
  let bank := bankBit (bankOf addr.toNat)
  issue { unit := some 12, c17 := if addr.toNat % 64 != 0 || decide (0x10FFC0 < addr.toNat) then some addr else none } 4
    (fun s =>
      if enabled s.tl g then
        let stamp := cycTime s
        let r := newPost sc n.toNat s
        r.2.onTl (fun t => accessEvent 1 (addEv 5 r.1 0 (addJob 1 12 bank (.postRead r.1 n addr.toNat stamp) t)))
      else s.onTl (addJob 1 12 bank .idle)) s

/-- The instant of a writer stamp of the turn tile. -/
def stampInstant (s : State) (stamp : X) : Nat := (stamp.toNat - s.skew.getD (clusterOf s.turn) 0) * subTick

/-- The line of a POST is read, or its read was cancelled: then nothing changes and nothing is sent (06:R119). -/
def postRead (cancelled : Bool) (id : Nat) (n : BitVec 5) (addr : Nat) (stamp : X) (s : State) : State :=
  if cancelled then { s with posts := s.posts.filter (fun q => q.id != id) }
  else
    postOut id n.toNat (mreadLine s.tl.mem addr) stamp (stampInstant s stamp) s

/-- A POST of a tile that stops is sent as it was issued (06:R136); a line still to be read is read now. -/
def sendIssued (j : Job) (s : State) : State :=
  match j.op with
  | .postRead id n addr stamp => postRead false id n addr stamp s
  | .postWrite id n payload stamp => postOut id n.toNat payload stamp (stampInstant s stamp) s
  | _ => s

/-- Every POST of the turn tile that is issued and not sent yet, in order of issue. -/
def sendPosts (s : State) : State := s.tl.jobs.foldl (fun s j => sendIssued j s) s

/-! ### Delivery -/

/-- The engine of a leash record while it has one (21:R305, R307). -/
def leashEng (p : Line) : Option (BitVec 5) :=
  let e := p.extractLsb' 48 8
  if e = 0xFF then none else some (e.extractLsb' 0 5)

/-- The port after a leash record arrives at mirror 63 (21:R307). -/
def portLeash (p : Line) (q : Port) : Port :=
  if p.extractLsb' 0 32 != q.gen then q
  else
    match (p.extractLsb' 32 8).toNat with
    | 1 => { q with state := 2, eng := (leashEng p).getD q.eng }
    | 2 => { q with state := 3, eng := (leashEng p).getD q.eng }
    | 3 => { q with state := 4, eng := (leashEng p).getD q.eng }
    | 4 | 5 | 6 | 7 => { q with state := 0, outst := 0, eng := 0 }
    | _ => q

/-- The port after a result arrives at mirror 62 (21:R307). -/
def portResult (p : Line) (q : Port) : Port :=
  if p.extractLsb' 0 32 != q.gen || q.outst == 0 then q else { q with outst := q.outst - 1 }

/-- The post that a mirror holds. -/
def Mirror.post (x : Mirror) : MirPost :=
  { seen := x.seen, payload := x.payload, seq := x.seq, stamp := x.stamp, arrival := x.arrival, wrote := x.wrote }

/-- Writing a post into a mirror (12:R207, R211); what the mirror held before the first post of the tick stays known. -/
def mirrorWrite (arrival : X) (m : Nat) (p : Post) (t : Tile) : Tile :=
  let x := tget mirrorInit t.mirs m
  let x' := { x with seen := true, payload := p.payload, seq := p.seq, stamp := p.stamp, arrival := arrival
                     wrote := if m = 62 then x.wrote ++ p.wrote else x.wrote
                     before := if x.seen && x.arrival == arrival then x.before else some x.post }
  let t := { t with mirs := tset t.mirs m x' }
  let t := if m = 62 && t.bind.replay == 2 then
      { t with replay := { t.replay with results := t.replay.results ++ [(p.seq.toNat, p.payload)] } } else t
  if m = 63 then { t with port := portLeash p.payload t.port }
  else if m = 62 then { t with port := portResult p.payload t.port }
  else t

/-- The mirror part of an image (06:R130) with a later post in it; the higher sequence wins (06:R129). -/
def imagePost (c : Ctx) (idx m : Nat) (arrival : X) (p : Post) (s : State) : State :=
  let a := imageBase c idx + BitVec.ofNat 64 (0x5800 + 128 * m)
  match dvaRead s c.id a 96 with
  | none => s
  | some old =>
    let oldSeq : BitVec 32 := BitVec.ofNat 32 (old / 2 ^ 512)
    let oldStamp := old / 2 ^ 576 % 2 ^ 64
    let later := oldStamp = 0 || (p.seq - oldSeq).toNat - 1 < 2 ^ 31 - 1
    if p.seq != oldSeq && later || oldStamp = 0 then
      dvaWrite c.id (a + 80) 8 arrival.toNat
        (dvaWrite c.id a 80 (p.payload.toNat + p.seq.toNat * 2 ^ 512 + p.stamp.toNat * 2 ^ 576) s)
    else s

/-- A destination of a post is over. -/
def dstDone (id k : Nat) (s : State) : State :=
  { s with posts := (s.posts.map (fun p =>
      if p.id == id then { p with dsts := p.dsts.zipIdx.map (fun (d, j) => if j = k then { d with done := true } else d) }
      else p)).filter (fun p => !(p.sent && !p.held && p.dsts.all (fun d => d.done))) }

/-- Two destinations are one mirror, or mirrors of one other package. -/
def sameDst (e d : PostDst) : Bool := e.who == d.who && e.mirror == d.mirror && e.far == d.far

/-- An earlier post of the same source still has to reach the destination (12:R212). -/
def earlierPost (s : State) (p : Post) (d : PostDst) : Bool :=
  s.posts.any (fun q => decide (q.id < p.id) && q.src == p.src && (p.src.isSome || q.dsts.any (fun e => e.mirror == d.mirror))
    && (!q.sent || q.dsts.any (fun e => !e.done && sameDst e d)))

/-- A tile is bound and has not halted. -/
def carries (t : Tile) : Bool := t.state == 1 || t.state == 2 || t.state == 3 || t.state == 4

/-- A tile whose mirrors take posts: it is bound and has neither halted nor been stopped by a kill (12:R218). While it is
being saved its mirrors are the image's mirror state (06:R129). -/
def takesPosts (t : Tile) : Bool := carries t && !t.killed

/-- The arrived engine results of a tile off the device, for the replay that goes on with its resume (25:R358). -/
def keepResult (c : Ctx) (idx : Nat) (p : Post) (s : State) : State :=
  { s with ctxs := s.ctxs.map (fun d => if d.id == c.id then
      { d with kept := d.kept.map (fun k => if k.idx = idx then
          { k with replay := { k.replay with results := k.replay.results ++ [(p.seq.toNat, p.payload)] } } else k) } else d) }

/-- Where a delivered post lands: the tile that carries the destination, its image, or nowhere (12:R218, 06:R129). Posts to a
saved tile of a context that is being killed are discarded. -/
def land (p : Post) (d : PostDst) (s : State) : State :=
  match physOf s d.who with
  | some q => if takesPosts (s.tile q) then s.onTile q (mirrorWrite (timeBase s q s.now) d.mirror p) else s
  | none =>
    match s.ctxs.find? (fun c => c.id == d.who.ctx && c.life == d.who.life && !c.killing && c.saved.contains d.who.idx) with
    | some c =>
      let s := if d.mirror = 62 then keepResult c d.who.idx p s else s
      imagePost c d.who.idx d.mirror (BitVec.ofNat 64 (s.now / subTick)) p s
    | none => s

/-- No path leads from where a post was issued (log entry 90) to a destination's tile, or no live route to its package (25:R347,
R351). A mirror in an image lies at no place. -/
def noPath (s : State) (p : Post) (d : PostDst) : Bool :=
  match d.far with
  | some pkg => !routeUp s (dieOf p.home) pkg
  | none =>
    match physOf s d.who with
    | some b => !pathUp s (dieOf p.home) (dieOf b)
    | none => false

/-- The context in whose log a discarded post counts: the reader's, or the writer's towards another package. -/
def lostOf (p : Post) (d : PostDst) : BitVec 16 :=
  match d.far, p.src with
  | some _, some (w, _) => w.ctx
  | _, _ => d.who.ctx

/-- A discarded post counts in its context's log (25:R347). -/
def countLost (ctx : BitVec 16) (s : State) : State :=
  { s with ctxs := s.ctxs.map (fun c => if c.id == ctx then { c with lost := c.lost + 1 } else c) }

/-- A sample of this tick returned the post that a mirror holds, which arrived in the same tick: no later post arrives before
the next tick (12:R212). -/
def sampledNow (s : State) (d : PostDst) : Bool :=
  match physOf s d.who with
  | some q => (tget mirrorInit (s.tile q).mirs d.mirror).sampled == s.now / subTick + 1
  | none => false

/-! ### Posts that another package sends (25:R351) -/

/-- A binding word names an out-slot of another package, and that package (12:R209). -/
def peerOf (s : State) (w : X) : Option (BitVec 13) :=
  if bindBound w && bindKind w == 0 && bindPkg w != s.pkg then some (bindPkg w) else none

/-- A mirror that takes posts of another package: its destination, that package, and the sequence it holds once it has been
written. -/
structure PeerDst where
  dst : PostDst
  pkg : BitVec 13
  held : Option (BitVec 32)

/-- The mirrors of live tiles that are bound to another package. -/
def peerLive (s : State) : List PeerDst :=
  s.tiles.flatMap (fun (_, t) =>
    (t.mirs.filter (fun (m, _) => decide (m < 60) && t.bind.ctx != 0 && takesPosts t)).filterMap (fun (m, x) =>
      (peerOf s x.binding).map (fun pkg =>
        { dst := { who := whoOf t, mirror := m, bound := 25000, done := false }, pkg := pkg
          held := if x.seen then some x.seq else none })))

/-- The mirrors of saved images that are bound to another package. -/
def peerSaved (s : State) : List PeerDst :=
  (s.ctxs.filter (fun c => !c.killing)).flatMap (fun c => c.saved.flatMap (fun idx =>
    (List.range 60).filterMap (fun m =>
      (dvaRead s c.id (imageBase c idx + BitVec.ofNat 64 (0x5800 + 128 * m)) 96).bind (fun v =>
        (peerOf s (BitVec.ofNat 64 (v / 2 ^ 704))).map (fun pkg =>
          { dst := { who := { ctx := c.id, idx := idx, life := c.life }, mirror := m, bound := 25000, done := false }, pkg := pkg
            held := if v / 2 ^ 576 % 2 ^ 64 = 0 then none else some (BitVec.ofNat 32 (v / 2 ^ 512)) })))))

/-- A live route leads from a package to a mirror's tile; an image lies on no die. -/
def peerRoute (s : State) (r : PeerDst) : Bool :=
  match physOf s r.dst.who with
  | some q => routeUp s (dieOf q) r.pkg
  | none => (List.range 4).any (fun d => dieUp s d && routeUp s d r.pkg)

/-- The time base where a mirror's arrival stamp is taken. -/
def arrivalAt (s : State) (w : Who) : X :=
  match physOf s w with
  | some q => timeBase s q s.now
  | none => BitVec.ofNat 64 (s.now / subTick)

/-- What another package posts to a mirror: a payload that this package does not know, a sequence that 12:R212 lets follow the
one held, a writer stamp within 40 ticks of the arrival or earlier (R215; log entry 106). -/
def peerContents (s : State) (r : PeerDst) : Post :=
  let v := Config.freeValue (s.freeCount + 1)
  let at_ := arrivalAt s r.dst.who
  { id := 0, src := none, payload := Config.freeLine s.freeCount
    seq := match r.held with
      | some q => q + 1 + BitVec.ofNat 32 (v.toNat % (2 ^ 31 - 1))
      | none => v.setWidth 32
    stamp := BitVec.ofNat 64 (1 + (Config.freeValue (s.freeCount + 2)).toNat % (at_.toNat + 40))
    dsts := [r.dst], waits := [], held := false, sent := true, wrote := [] }

/-- A post of another package arrives at the k-th mirror that is bound to one, when a live route leads there. -/
def peerPost (k : Nat) (s : State) : State :=
  match (peerLive s ++ peerSaved s)[k]? with
  | none => s
  | some r =>
    if !peerRoute s r || sampledNow s r.dst then s
    else land (peerContents s r) r.dst { s with freeCount := s.freeCount + 3 }

/-- A post that no fence holds may arrive at a destination now: after its issue instant (17:R272), in sequence (12:R212). -/
def canArrive (s : State) (p : Post) (d : PostDst) : Bool :=
  p.sent && !p.held && !d.done && decide (p.at_ < s.now) && !earlierPost s p d && !sampledNow s d

/-- POST_DELIVERY (12:R211-R214): the k-th destination of a post; number 0, which no post has, is the arrival of a post that
another package sent to the k-th mirror bound to one of it (25:R351). -/
def execPostDelivery (id k : Nat) (s : State) : Host.Outcome State Fault Refusal :=
  if id = 0 then .next (peerPost k s)
  else
    match s.posts.find? (fun p => p.id == id) with
    | none => .next s
    | some p =>
      match p.dsts[k]? with
      | none => .next s
      | some d =>
        if canArrive s p d then .next (dstDone id k (if noPath s p d then countLost (lostOf p d) s else land p d s))
        else .next s

/-- A tile's post whose fenced predecessors are complete: a sent one that they held, or one still to be sent. -/
def releasable (s : State) (p : Post) : Bool :=
  (if p.sent then p.held else !p.waits.isEmpty)
    && (match p.src with | some (who, _) => waitsDone s who p.waits | none => false)

/-- POST_RELEASE (13:R226): its fenced predecessors are complete, so its delivery bounds begin; of a post that is not sent yet
the instant is kept. -/
def execPostRelease (id : Nat) (s : State) : Host.Outcome State Fault Refusal :=
  match s.posts.find? (fun p => p.id == id) with
  | none => .next s
  | some p =>
    if !releasable s p then .next s
    else if !p.sent then
      .next { s with posts := s.posts.map (fun q => if q.id == id then { q with waits := [], freed := some s.now } else q) }
    else
        let posts := s.posts.map (fun q => if q.id == id then { q with held := false } else q)
        .next { s with posts := posts.filter (fun q => !(q.sent && !q.held && q.dsts.all (fun d => d.done)))
                       timers := s.timers ++ deliveryTimers s.now p }

/-! ### Samples (13:R224, R227, R228) -/

/-- A peek of the turn tile's current cycle with its fence waits. -/
def sampleInstr (kind : Nat) (ev : Bool) (g : Guard) (d : BitVec 5) (n : BitVec 6) (s : State) :
    Host.Outcome State Fault Refusal :=
  issue { unit := some 12 } 4
    (fun s =>
      if enabled s.tl g then
        let w := waitsFor s 6
        s.onTl (fun t =>
          let t' := addJob 0 12 0 (.sampleMirror kind d n w) t
          if ev then addEv 6 t.bindNo t.abs t' else t')
      else s) s

/-- PEEK (13:R227). -/
def execPeek (g : Guard) (d : BitVec 5) (n : BitVec 6) (s : State) : Host.Outcome State Fault Refusal :=
  sampleInstr 0 true g d n s
/-- SEQ (13:R228). -/
def execSeqMirror (g : Guard) (d : BitVec 5) (n : BitVec 6) (s : State) : Host.Outcome State Fault Refusal :=
  sampleInstr 1 true g d n s
/-- AGE (13:R228). -/
def execAge (g : Guard) (d : BitVec 5) (n : BitVec 6) (s : State) : Host.Outcome State Fault Refusal :=
  sampleInstr 2 true g d n s
/-- MQUERY (13:R228). -/
def execMquery (g : Guard) (d : BitVec 5) (n : BitVec 6) (s : State) : Host.Outcome State Fault Refusal :=
  sampleInstr 3 false g d n s

/-- The lanes of a PEEK as a number (13:R227). -/
def peekValue (m : MirPost) (unordered : Bool) : Nat :=
  m.payload.toNat + m.seq.toNat * 2 ^ 512 + ((if m.seen then 0 else 1) + (if unordered then 2 else 0)) * 2 ^ 544
    + m.stamp.toNat * 2 ^ 576 + m.arrival.toNat * 2 ^ 640

/-- The scalar samples (13:R228) at an instant of the time base. -/
def sampleValue (kind : Nat) (m : MirPost) (binding : X) (unordered : Bool) (now : X) : X :=
  match kind with
  | 1 => (0 : BitVec 30) ++ BitVec.ofBool unordered ++ BitVec.ofBool (!m.seen) ++ m.seq
  | 2 => if !m.seen then BitVec.allOnes 64 else if now.toNat < m.stamp.toNat then 0 else now - m.stamp
  | _ => binding

/-- Adding a result in flight for a job's instruction. -/
def pushPend (due : Nat) (j : Job) (d : Dest) (v : VReg) (t : Tile) : Tile :=
  { t with pend := { due := due, order := j.order, unit := j.unit, dest := d, val := v } :: t.pend }

/-- A replayed sample of mirror 62 returns a result of a sequence number, with its payload where it is a PEEK's: the live one
must have arrived and be the same (25:R358, R359; log entry 16). -/
def checkResult (seq : Nat) (payload : Option Nat) (s : State) : State :=
  match s.tl.replay.results.dropWhile (fun e => e.1 != seq) with
  | [] => diverge s
  | e :: r =>
    let s := s.onTl (fun t => { t with replay := { t.replay with results := e :: r } })
    if payload.all (fun v => v == e.2.toNat) then s else diverge s

/-- A replayed PEEK or SEQ of mirror 62 gave a value: the result it shows is checked. -/
def checkSample (kind v : Nat) (s : State) : State :=
  if kind = 0 then (if v.testBit 544 then s else checkResult (v / 2 ^ 512 % 2 ^ 32) (some (v % 2 ^ 512)) s)
  else if kind = 1 then (if v.testBit 32 then s else checkResult (v % 2 ^ 32) none s)
  else s

/-- A replayed PEEK of mirror 63 shows a lease that is over, where the live engine is held and goes on with its commands. -/
def leashBehind (kind v : Nat) (p : Port) : Bool :=
  kind == 0 && decide (4 ≤ v / 2 ^ 32 % 2 ^ 8) && decide (v / 2 ^ 32 % 2 ^ 8 ≤ 7) && p.state == 4

/-- A sample of mirror n as an input: its live value, or the one a replayed log gives. A PEEK or SEQ of mirror 62 shows its
result; an AGE of it lets a result be inferred, the samples of mirror 63 the end of the lease too (25:R358, R359; log entry
16). -/
def sampleInput (kind : Nat) (n : BitVec 6) (m : MirPost) (live : Nat) (s : State) : Nat × State :=
  let p := if kind = 0 then (1, 88) else (2, 8)
  if n = 63 || (n = 62 && kind = 2) then
    let r := logNoted p.1 p.2 live (if n = 63 then leaseNote s.tl else resultNote m.seen m.seq) s
    (r.1, if r.2.1 || (n = 63 && fromLog s r.2.2 && leashBehind kind r.1 s.tl.port) then diverge r.2.2 else r.2.2)
  else
    let r := logInput p.1 p.2 live s
    (r.1, if n = 62 && fromLog s r.2 then checkSample kind r.1 r.2 else r.2)

/-- A post is under way to a mirror of the turn tile. -/
def underWay (s : State) (m : Nat) : Bool :=
  s.posts.any (fun p => p.dsts.any (fun d => !d.done && d.far.isNone && d.who == whoOf s.tl && d.mirror == m))

/-- The post that a sample of a mirror returns at the instant s.now (12:R211): the latest. Of posts that arrive exactly then it
returns the one before them while another is under way to the mirror, so that no sample delays a post (R212; DESIGN CHOICE, log
entry 67). -/
def sampledPost (s : State) (n : BitVec 6) : MirPost :=
  let m := tget mirrorInit s.tl.mirs n.toNat
  if m.seen && m.arrival == timeBase s s.turn s.now && underWay s n.toNat then m.before.getD m.post else m.post

/-- A sample returns a mirror's post at the instant s.now: in the tick of its arrival no later one may follow. -/
def noteSample (n : BitVec 6) (s : State) : State :=
  let m := tget mirrorInit s.tl.mirs n.toNat
  if (sampledPost s n).seen && (sampledPost s n).arrival == timeBase s s.turn s.now then
    s.onTl (fun t => { t with mirs := tset t.mirs n.toNat { m with sampled := s.now / subTick + 1 } })
  else s

/-- The sample of a PEEK, SEQ, AGE or MQUERY at the instant s.now, the start of the next cycle (13:R224); its result lands at
the end of c+2. -/
def sampleMirror (j : Job) (kind : Nat) (d : BitVec 5) (n : BitVec 6) (ws : List Wait) (s : State) : State :=
  let t := s.tl
  let m := sampledPost s n
  let binding := (tget mirrorInit t.mirs n.toNat).binding
  let unordered := !waitsDone { s with tiles := tset s.tiles s.turn { t with abs := t.abs + 1 } } (whoOf t) ws
  let s := if kind = 3 then s else noteSample n s
  let s := if n = 62 && kind != 3 then s.onTl (fun t => m.wrote.foldl (fun t id => addEv 8 id 0 t) t) else s
  if kind = 0 then
    let r := sampleInput 0 n m (peekValue m unordered) s
    r.2.onTl (pushPend (t.abs + 2) j (.v d (BitVec.allOnes 64)) (BitVec.ofNat 2048 r.1))
  else
    let r := sampleInput kind n m (sampleValue kind m binding unordered (timeBase s s.turn s.now)).toNat s
    r.2.onTl (pushPend (t.abs + 2) j (.x d) (val64 (BitVec.ofNat 64 r.1)))

/-! ### MBIND (13:R229, R230) -/

/-- SCOPE of a binding: 0 same tile, 1 same cluster, 3 other cluster, 4 other package (12:R209). -/
def bindScope (s : State) (t : Tile) (w : X) : BitVec 3 :=
  if bindPkg w != s.pkg then 4
  else if bindTile w = t.bind.logtile.toNat then 0
  else if bindTile w / 32 = t.bind.logtile.toNat / 32 then 1
  else 3

/-- A binding word as the hardware keeps it. -/
def bindWord (s : State) (t : Tile) (w : X) : X :=
  if bindBound w then (w &&& 0x83FFE1FF0000001F) ||| ((bindScope s t w).setWidth 64 <<< 60) else 0

/-- The bits of MBIND's operand that must be zero. -/
def mbindBad (w : X) : Bool := if bindBound w then w &&& 0x7C001E00FFFFFFE0 != 0 else w != 0

/-- Binding or unbinding a mirror of a physical tile (12:R210, 13:R230): it is never-written, and posts under way to it
are discarded. -/
def rebind (p m : Nat) (w : X) (s : State) : State :=
  let who := whoOf (s.tile p)
  let s := s.onTile p (fun t => { t with mirs := tset t.mirs m { mirrorInit with binding := w } })
  let drop (d : PostDst) : PostDst :=
    if d.far.isNone && d.who == who && d.mirror == m then { d with done := true } else d
  let posts := s.posts.map (fun q => { q with dsts := q.dsts.map drop })
  { s with posts := posts.filter (fun q => !(q.sent && !q.held && q.dsts.all (fun d => d.done))) }

/-- Live dies. -/
def liveDies (s : State) : Nat := popFrom s.live 4

/-- MBIND (13:R229), only through the debug window; a routine takes cause 0x03. -/
def execMbind (g : Guard) (a : BitVec 5) (n : BitVec 6) (s : State) : Host.Outcome State Fault Refusal :=
  let _ := a
  if s.level then
    let w := s.tl.dbg.xa
    .next (
      if !enabled s.tl g then dbgOk s
      else if 60 ≤ n.toNat then dbgFault 0x17 (n.setWidth 64) s
      else if mbindBad w then dbgFault 0x17 w s
      else if bindBound w && bindPkg w == s.pkg && decide (128 * liveDies s ≤ bindTile w) then dbgFault 0x17 w s
      else dbgOk (rebind s.turn n.toNat (bindWord s s.tl w) s))
  else issue { priv := true, unit := none } 4 (fun s => s) s

end Sys2Proof.Machine
end

