-- ==== Sys2Proof/Machine/Numeric.lean ====
section
/-! DEFINITION. Number formats to the bit: values, exact sums, rounding, shared-exponent blocks, correctly rounded
FP32 functions, Philox (spec/00 R6, R7; spec/03; 07:R142-R144, R160, R163). -/

namespace Sys2Proof.Machine

/-! ### Extended values -/

/-- A value: NaN, an infinity, or (−1)^neg · m · 2^e, where m = 0 is a zero with its sign. -/
inductive Ext where
  | nan
  | inf (neg : Bool)
  | fin (neg : Bool) (m : Nat) (e : Int)
  deriving DecidableEq, Repr

/-- 2^k as a natural number, 1 for k < 0. -/
def pow2 (k : Int) : Nat := 2 ^ k.toNat

/-- m1·2^e1 < m2·2^e2. -/
def magLt (m1 : Nat) (e1 : Int) (m2 : Nat) (e2 : Int) : Bool :=
  decide (m1 * pow2 (e1 - min e1 e2) < m2 * pow2 (e2 - min e1 e2))

/-- The negated value. -/
def Ext.negate : Ext → Ext
  | .nan => .nan
  | .inf n => .inf (!n)
  | .fin n m e => .fin (!n) m e

/-- A zero of either sign. -/
def Ext.isZero : Ext → Bool
  | .fin _ 0 _ => true
  | .fin .. | .nan | .inf _ => false

/-- The exact product; 0 × ∞ is NaN (07:R143). -/
def mulExt : Ext → Ext → Ext
  | .nan, _ => .nan
  | .inf _, .nan => .nan
  | .inf a, .inf b => .inf (a != b)
  | .inf a, .fin b m _ => if m = 0 then .nan else .inf (a != b)
  | .fin .., .nan => .nan
  | .fin a m _, .inf b => if m = 0 then .nan else .inf (a != b)
  | .fin a m e, .fin b n f => .fin (a != b) (m * n) (e + f)

/-! ### Exact sums (R7) -/

/-- A sum under way: which special terms occurred, whether there is a term and one other than −0, and the finite
part s·2^e. -/
structure Sum where
  nan : Bool := false
  pinf : Bool := false
  ninf : Bool := false
  term : Bool := false
  nz : Bool := false
  s : Int := 0
  e : Int := 0
  deriving DecidableEq, Repr

/-- Adding a term. -/
def Sum.add (a : Sum) : Ext → Sum
  | .nan => { a with nan := true, term := true, nz := true }
  | .inf false => { a with pinf := true, term := true, nz := true }
  | .inf true => { a with ninf := true, term := true, nz := true }
  | .fin neg m e =>
    if m = 0 then { a with term := true, nz := a.nz || !neg }
    else
      let f := min a.e e
      let v : Int := (m * pow2 (e - f) : Nat)
      { a with term := true, nz := true, e := f, s := a.s * (pow2 (a.e - f) : Nat) + (if neg then -v else v) }

/-- The exact Σ (R7). -/
def Sum.value (a : Sum) : Ext :=
  if a.nan || (a.pinf && a.ninf) then .nan
  else if a.pinf then .inf false
  else if a.ninf then .inf true
  else if a.s = 0 then .fin (a.term && !a.nz) 0 0
  else .fin (decide (a.s < 0)) a.s.natAbs a.e

/-- The exact Σ of a list of terms. -/
def exactSum (l : List Ext) : Ext := (l.foldl Sum.add {}).value

/-! ### Rounding (03:R60, R61) -/

/-- m·2^(−d) rounded to an integer in a mode, for a value of the given sign. -/
def roundShift (rnd : Rnd) (neg : Bool) (m d : Nat) : Nat :=
  let q := m / 2 ^ d
  let r := m % 2 ^ d
  let up := match rnd with
    | .ne => decide (2 ^ d < 2 * r) || (decide (2 * r = 2 ^ d) && q % 2 == 1)
    | .tz => false
    | .dn => neg && r != 0
    | .up => !neg && r != 0
  if up then q + 1 else q

/-- m·2^e rounded to an integer magnitude. -/
def roundMag (rnd : Rnd) (neg : Bool) (m : Nat) (e : Int) : Nat :=
  if 0 ≤ e then m * pow2 e else roundShift rnd neg m (-e).toNat

/-- A binary floating-point format (03:R56, R58): widths, bias, +∞ if it has infinities, the largest code magnitude
that is no NaN, the largest finite one, the canonical NaN and the code of an infinite or NaN source without one. -/
structure FloatFmt where
  ebits : Nat
  mbits : Nat
  bias : Int
  hasInf : Bool
  top : Nat
  maxFin : Nat
  nanCode : Nat
  infSource : Nat
  deriving DecidableEq, Repr

/-- The format's code width. -/
def FloatFmt.width (f : FloatFmt) : Nat := 1 + f.ebits + f.mbits

/-- FP32. -/
def f32 : FloatFmt := ⟨8, 23, 127, true, 0x7F800000, 0x7F7FFFFF, 0x7FC00000, 0x7F800000⟩
/-- FP16. -/
def f16 : FloatFmt := ⟨5, 10, 15, true, 0x7C00, 0x7BFF, 0x7E00, 0x7C00⟩
/-- BF16. -/
def bf16 : FloatFmt := ⟨8, 7, 127, true, 0x7F80, 0x7F7F, 0x7FC0, 0x7F80⟩
/-- E4M3: no infinity; an infinite source gives the canonical NaN. -/
def e4m3 : FloatFmt := ⟨4, 3, 7, false, 0x7E, 0x7E, 0x7F, 0x7F⟩
/-- E5M2. -/
def e5m2 : FloatFmt := ⟨5, 2, 15, true, 0x7C, 0x7B, 0x7E, 0x7C⟩
/-- E2M1: no infinity, no NaN. -/
def e2m1 : FloatFmt := ⟨2, 1, 1, false, 0x7, 0x7, 0x0, 0x7⟩

/-- The value of a code (03:R57-R59). -/
def decodeFloat (f : FloatFmt) (code : Nat) : Ext :=
  let neg := code / 2 ^ (f.width - 1) % 2 == 1
  let mag := code % 2 ^ (f.width - 1)
  if f.top < mag then .nan
  else if f.hasInf && mag == f.top then .inf neg
  else
    let e := mag / 2 ^ f.mbits
    let m := mag % 2 ^ f.mbits
    if e = 0 then .fin neg m (1 - f.bias - f.mbits) else .fin neg (2 ^ f.mbits + m) (e - f.bias - f.mbits)

/-- A code with its sign. -/
def signed (f : FloatFmt) (neg : Bool) (mag : Nat) : Nat := mag + (if neg then 2 ^ (f.width - 1) else 0)

/-- The code beyond the largest finite magnitude (03:R61). -/
def overflowCode (f : FloatFmt) (rnd : Rnd) (neg : Bool) : Nat :=
  if !f.hasInf then signed f neg f.maxFin
  else
    match rnd with
    | .ne => signed f neg f.top
    | .tz => signed f neg f.maxFin
    | .dn => if neg then signed f neg f.top else signed f neg f.maxFin
    | .up => if neg then signed f neg f.maxFin else signed f neg f.top

/-- A finite value rounded into a format. -/
def roundFin (f : FloatFmt) (rnd : Rnd) (neg : Bool) (m : Nat) (e : Int) : Nat :=
  if m = 0 then signed f neg 0
  else
    let qmin : Int := 1 - f.bias - f.mbits
    let q := max (e + Nat.log2 m - f.mbits) qmin
    let sig := roundMag rnd neg m (e - q)
    let mag := sig + (q - qmin).toNat * 2 ^ f.mbits
    if f.maxFin < mag then overflowCode f rnd neg else signed f neg mag

/-- Rounding into a format (03:R60, R61). -/
def roundFloat (f : FloatFmt) (rnd : Rnd) : Ext → Nat
  | .nan => f.nanCode
  | .inf neg => if f.nanCode = f.infSource then f.nanCode else signed f neg f.infSource
  | .fin neg m e => roundFin f rnd neg m e

/-- round_rne_f32. -/
def rneF32 (x : Ext) : W32 := BitVec.ofNat 32 (roundFloat f32 .ne x)

/-- The value of an FP32 lane. -/
def valF32 (v : W32) : Ext := decodeFloat f32 v.toNat

/-- Rounding into an N-bit integer and clamping (03:R55, R61), as its two's-complement bits. -/
def roundToInt (sgn : Bool) (n : Nat) (rnd : Rnd) : Ext → Nat
  | .nan => 0
  | .inf neg => if neg then (if sgn then 2 ^ (n - 1) else 0) else (if sgn then 2 ^ (n - 1) - 1 else 2 ^ n - 1)
  | .fin neg m e =>
    let r := roundMag rnd neg m e
    if neg then
      if sgn then (if 2 ^ (n - 1) ≤ r then 2 ^ (n - 1) else (2 ^ n - r) % 2 ^ n) else 0
    else if sgn then min r (2 ^ (n - 1) - 1) else min r (2 ^ n - 1)

/-- The value of an N-bit integer code. -/
def intValue (sgn : Bool) (n : Nat) (code : Nat) : Ext :=
  if sgn && decide (2 ^ (n - 1) ≤ code) then .fin true (2 ^ n - code) 0 else .fin false code 0

/-! ### Formats by type code -/

/-- The float format of a type. -/
def Ty.float : Ty → Option FloatFmt
  | .f32 => some Machine.f32 | .f16 => some Machine.f16 | .bf16 => some Machine.bf16 | .e4m3 => some Machine.e4m3
  | .e5m2 => some Machine.e5m2 | .e2m1 => some Machine.e2m1
  | .i8 | .i16 | .i32 | .i64 | .n8 | .n16 | .n32 | .n64 | .se2 | .se4 | .se7 | .lut4 => none

/-- Bits of a scalar element. -/
def elemBits : Ty → Nat
  | .i8 | .n8 | .e4m3 | .e5m2 => 8
  | .i16 | .n16 | .f16 | .bf16 => 16
  | .i32 | .n32 | .f32 => 32
  | .i64 | .n64 => 64
  | .e2m1 | .lut4 => 4
  | .se2 => 3
  | .se4 => 5
  | .se7 => 8

/-- The value of a scalar code of a format. -/
def elemValue (t : Ty) (code : Nat) : Ext :=
  match Ty.float t with
  | some f => decodeFloat f code
  | none => intValue (laneSigned t) (elemBits t) code

/-- Rounding a value into a scalar format, as its code. -/
def elemRound (t : Ty) (rnd : Rnd) (x : Ext) : Nat :=
  match Ty.float t with
  | some f => roundFloat f rnd x
  | none => roundToInt (laneSigned t) (elemBits t) rnd x

/-- A code placed in a lane (07:R137). -/
def placeLane (t : Ty) (code : Nat) : W32 := extend32 (laneSigned t) (elemBits t / 8) code

/-! ### Shared-exponent blocks (03:R63-R66) -/

/-- The element width w of a block format. -/
def seWidth : SeTy → Nat
  | .se2 => 2 | .se4 => 4 | .se7 => 7

/-- Bytes of a block. -/
def seBytes : SeTy → Nat
  | .se2 => 6 | .se4 => 10 | .se7 => 16

/-- The block format of a type, if it is one. -/
def Ty.se : Ty → Option SeTy
  | .se2 => some .se2 | .se4 => some .se4 | .se7 => some .se7
  | .i8 | .i16 | .i32 | .i64 | .n8 | .n16 | .n32 | .n64 | .f32 | .f16 | .bf16 | .e4m3 | .e5m2 | .e2m1 | .lut4 => none

/-- Element i of a block (03:R64). -/
def seDecode (t : SeTy) (block i : Nat) : Ext :=
  let e := block % 256
  let w := seWidth t
  let el := block / 2 ^ (16 + w * i) % 2 ^ w
  let mu := block / 2 ^ (8 + i / 2) % 2
  if e = 255 then .nan
  else .fin (el / 2 ^ (w - 1) == 1) (el % 2 ^ (w - 1)) ((e : Int) - 127 - mu)

/-- The magnitude of a finite value and its exponent; specials count as 0 here. -/
def magOf : Ext → Nat × Int
  | .fin _ m e => (m, e)
  | .nan | .inf _ => (0, 0)

/-- The sign bit of a value; NaN counts as positive. -/
def signOf : Ext → Bool
  | .fin n _ _ => n
  | .inf n => n
  | .nan => false

/-- A finite value. -/
def Ext.isFin : Ext → Bool
  | .fin .. => true
  | .nan | .inf _ => false

/-- |x| ≤ c·2^k. -/
def magLe (x : Ext) (c : Nat) (k : Int) : Bool := !magLt c k (magOf x).1 (magOf x).2

/-- The bits of the elements from i on. -/
def seElems (t : SeTy) (e : Nat) (mu : Nat) (xs : List Ext) (i : Nat) : Nat :=
  match xs with
  | [] => 0
  | x :: r =>
    let w := seWidth t
    let mx := 2 ^ (w - 1) - 1
    let m := min (roundMag .ne false (magOf x).1 ((magOf x).2 - ((e : Int) - 127 - (mu / 2 ^ (i / 2) % 2 : Nat)))) mx
    (m + (if signOf x then 2 ^ (w - 1) else 0)) * 2 ^ (16 + w * i) + seElems t e mu r (i + 1)

/-- The micro-exponent bits. -/
def seMicro (mx : Nat) (e : Nat) : List Ext → Nat → Nat
  | a :: b :: r, j =>
    (if magLe a mx ((e : Int) - 128) && magLe b mx ((e : Int) - 128) then 2 ^ j else 0) + seMicro mx e r (j + 1)
  | _, _ => 0

/-- Encoding sixteen values into a block (03:R66), as its number. -/
def seEncode (t : SeTy) (xs : List Ext) : Nat :=
  let mx := 2 ^ (seWidth t - 1) - 1
  if xs.any (fun x => !x.isFin) then 255
  else
    let e : Nat :=
      if xs.all Ext.isZero then 0
      else ((List.range 255).find? (fun (e : Nat) => xs.all (fun x => magLe x mx ((e : Int) - 127)))).getD 254
    let mu := seMicro mx e xs 0
    e + mu * 256 + seElems t e mu xs 0

/-! ### FP32 arithmetic (07:R142-R144) -/

/-- The key of an FP32 code in R144's order; not for NaN. -/
def fpKey (v : W32) : Int :=
  if v.getLsbD 31 then -1 - ((v.toNat % 2 ^ 31 : Nat) : Int) else (v.toNat : Int)

/-- An FP32 NaN. -/
def isNan (v : W32) : Bool := decide (0x7F800000 < v.toNat % 2 ^ 31)

/-- The canonical NaN. -/
def canonNan : W32 := 0x7FC00000

/-- FP32 sum. -/
def fAdd (a b : W32) : W32 := rneF32 (exactSum [valF32 a, valF32 b])
/-- FP32 difference. -/
def fSub (a b : W32) : W32 := rneF32 (exactSum [valF32 a, (valF32 b).negate])
/-- FP32 product. -/
def fMul (a b : W32) : W32 := rneF32 (mulExt (valF32 a) (valF32 b))
/-- FP32 fused multiply-add. -/
def fMa (a b c : W32) : W32 := rneF32 (exactSum [mulExt (valF32 a) (valF32 b), valF32 c])
/-- The smaller value. -/
def fMin (a b : W32) : W32 := if isNan a || isNan b then canonNan else if fpKey b < fpKey a then b else a
/-- The larger value. -/
def fMax (a b : W32) : W32 := if isNan a || isNan b then canonNan else if fpKey a < fpKey b then b else a
/-- The magnitude. -/
def fAbs (a : W32) : W32 := if isNan a then canonNan else a &&& 0x7FFFFFFF
/-- The value with its sign inverted. -/
def fNeg (a : W32) : W32 := if isNan a then canonNan else a ^^^ 0x80000000

/-- A quotient of finite nonzero magnitudes to more than 39 bits, the lowest bit set when inexact. -/
def quotExt (neg : Bool) (m : Nat) (e : Int) (n : Nat) (f : Int) : Ext :=
  let k := Nat.log2 n + 40
  let q := m * 2 ^ k / n
  .fin neg (2 * q + (if m * 2 ^ k % n = 0 then 0 else 1)) (e - f - k - 1)

/-- FP32 quotient. -/
def fDiv (a b : W32) : W32 :=
  rneF32 (match valF32 a, valF32 b with
    | .nan, _ => .nan
    | .inf _, .nan => .nan
    | .inf _, .inf _ => .nan
    | .inf x, .fin y _ _ => .inf (x != y)
    | .fin .., .nan => .nan
    | .fin x _ _, .inf y => .fin (x != y) 0 0
    | .fin x m e, .fin y n f =>
      if n = 0 then (if m = 0 then .nan else .inf (x != y))
      else if m = 0 then .fin (x != y) 0 0
      else quotExt (x != y) m e n f)

/-- Integer square root, from bit k − 1 down. -/
def isqrtFrom (x r : Nat) : Nat → Nat
  | 0 => r
  | k + 1 => if (r + 2 ^ k) * (r + 2 ^ k) ≤ x then isqrtFrom x (r + 2 ^ k) k else isqrtFrom x r k

/-- The square root of m·2^e to more than 31 bits, the lowest bit set when inexact. -/
def sqrtExt (m : Nat) (e : Int) : Ext :=
  let s : Nat := if (e - 64) % 2 = 0 then 64 else 65
  let x := m * 2 ^ s
  let r := isqrtFrom x 0 (Nat.log2 x / 2 + 1)
  .fin false (2 * r + (if r * r = x then 0 else 1)) ((e - s) / 2 - 1)

/-- FP32 square root. -/
def fSqrt (a : W32) : W32 :=
  rneF32 (match valF32 a with
    | .nan => .nan
    | .inf neg => if neg then .nan else .inf false
    | .fin neg m e => if m = 0 then .fin neg 0 0 else if neg then .nan else sqrtExt m e)

/-- Fraction bits of the fixed-point work for 2^x and log2 x. -/
def fixBits : Nat := 256

/-- ln 2 to fixBits bits: the sum of 2^(−k)/k. -/
def ln2Fix : Nat := (List.range fixBits).foldl (fun a k => a + 2 ^ (fixBits + 16 - (k + 1)) / (k + 1)) 0 / 2 ^ 16

/-- Terms of the exponential series, the running term t after k of them. -/
def expTerms (y t k : Nat) : Nat → Nat
  | 0 => 0
  | n + 1 => let t' := t * y / 2 ^ fixBits / k; t' + expTerms y t' (k + 1) n

/-- 2^(f / 2^fixBits) in fixed point, for 0 ≤ f < 2^fixBits. -/
def exp2Fix (f : Nat) : Nat := 2 ^ fixBits + expTerms (f * ln2Fix / 2 ^ fixBits) (2 ^ fixBits) 1 80

/-- FP32 2^a. Beyond ±200 the result overflows or underflows whatever the rest. -/
def fExp2 (a : W32) : W32 :=
  rneF32 (match valF32 a with
    | .nan => .nan
    | .inf neg => if neg then .fin false 0 0 else .inf false
    | .fin neg m e =>
      if m = 0 then .fin false 1 0
      else if !magLt m e 200 0 then (if neg then .fin false 1 (-200) else .fin false 1 200)
      else
        -- x = n + f/2^fixBits, exact because e ≥ −149
        let x : Int := (m * pow2 (fixBits + e) : Nat)
        let x := if neg then -x else x
        let n := x / (2 ^ fixBits : Nat)
        let f := (x % (2 ^ fixBits : Nat)).toNat
        if f = 0 then .fin false 1 n else .fin false (2 * exp2Fix f + 1) (n - fixBits - 1))

/-- Fraction bits of log2 of y in [1, 2), y with 2·fixBits fraction bits, by repeated squaring. -/
def log2Bits (y acc : Nat) : Nat → Nat
  | 0 => acc
  | n + 1 =>
    let z := y * y / 2 ^ (2 * fixBits)
    if 2 ^ (2 * fixBits + 1) ≤ z then log2Bits (z / 2) (2 * acc + 1) n else log2Bits z (2 * acc) n

/-- FP32 log2 a. -/
def fLog2 (a : W32) : W32 :=
  rneF32 (match valF32 a with
    | .nan => .nan
    | .inf neg => if neg then .nan else .inf false
    | .fin neg m e =>
      if m = 0 then .inf true
      else if neg then .nan
      else
        let p := Nat.log2 m
        let k : Int := e + p
        if m = 2 ^ p then .fin (decide (k < 0)) k.natAbs 0
        else
          let w : Int := k * (2 ^ fixBits : Nat) + (log2Bits (m * 2 ^ (2 * fixBits) / 2 ^ p) 0 fixBits : Nat)
          if 0 ≤ w then .fin false (2 * w.toNat + 1) (-(fixBits : Int) - 1)
          else .fin true (2 * (-w - 1).toNat + 1) (-(fixBits : Int) - 1))

/-! ### Philox4x32-10 (07:R160) -/

/-- One round's words. -/
def philoxRound (x : W32 × W32 × W32 × W32) (a b : W32) : W32 × W32 × W32 × W32 :=
  let p : X := 0xD2511F53 * x.1.setWidth 64
  let q : X := 0xCD9E8D57 * x.2.2.1.setWidth 64
  (q.extractLsb' 32 32 ^^^ x.2.1 ^^^ a, q.extractLsb' 0 32, p.extractLsb' 32 32 ^^^ x.2.2.2 ^^^ b, p.extractLsb' 0 32)

/-- n rounds with keys a, b and their successors. -/
def philoxRounds (x : W32 × W32 × W32 × W32) (a b : W32) : Nat → W32 × W32 × W32 × W32
  | 0 => x
  | n + 1 => philoxRounds (philoxRound x a b) (a + 0x9E3779B9) (b + 0xBB67AE85) n

/-- The four words for a counter and a key. -/
def philox (c : BitVec 128) (k0 k1 : W32) : W32 × W32 × W32 × W32 :=
  philoxRounds (c.extractLsb' 0 32, c.extractLsb' 32 32, c.extractLsb' 64 32, c.extractLsb' 96 32) k0 k1 10

/-! ### The weight table of SAMPLE (07:R163) -/

/-- The largest n with n − 1/2 at most 2^31·2^(−j/256), from bit k − 1 down. -/
def weightFrom (j r : Nat) : Nat → Nat
  | 0 => r
  | k + 1 =>
    if (2 * (r + 2 ^ k) - 1) ^ 256 * 2 ^ j ≤ 2 ^ 8192 then weightFrom j (r + 2 ^ k) k else weightFrom j r k

/-- E[j]: the integer nearest to 2^31 × 2^(−j/256). -/
def weightE (j : Nat) : Nat := weightFrom j 0 32

end Sys2Proof.Machine
end

