-- ==== Sys2Proof/Machine/MemOps.lean ====
section
/-! DEFINITION. Device-memory operations: copies, atomics, exact cells, fences, TOUCH, LANDQ, the tag table, and what
stations do with them (15:R235, R241-R249; spec/16). -/

namespace Sys2Proof.Machine

/-! ### Tag table (16:R268) -/

/-- The lowest entry that hits an address (15:R235), from entry k on. -/
def tagHit (tags : Table X) (va : X) (k : Nat) : Nat → Option Nat
  | 0 => none
  | n + 1 =>
    let e := tget 0 tags k
    if e.getLsbD 63 && e.extractLsb' 12 40 == va.extractLsb' 12 40 then some k else tagHit tags va (k + 1) n

/-- TLOOK's result. -/
def tagLook (tags : Table X) (va : X) : X :=
  match tagHit tags va 0 256 with
  | some i => (0 : BitVec 44) ++ (tget 0 tags i).extractLsb' 0 12 ++ BitVec.ofNat 8 i
  | none => BitVec.allOnes 64

/-- TLOOK (16:R268). -/
def execTlook (g : Guard) (d a : BitVec 5) (s : State) : Host.Outcome State Fault Refusal :=
  issue { unit := some 14 } 4
    (fun s => if enabled s.tl g then
        s.onTl (fun t => writeL 2 14 (.x d) (val64 (tagLook t.tags (rx t a))) t) else s) s

/-- TSET (16:R268). -/
def execTset (g : Guard) (a b : BitVec 5) (s : State) : Host.Outcome State Fault Refusal :=
  let i := rx s.tl a
  let v := rx s.tl b
  issue { unit := some 14
          c17 := if enabled s.tl g then firstFail [(decide (255 < i.toNat), i), (v.extractLsb' 52 12 != 0, v)] else none } 4
    (fun s => if enabled s.tl g then
        s.onTl (fun t => { t with tags := tset t.tags i.toNat ((0x8000000000000000 : X) ||| v) }) else s) s

/-- TCLR (16:R268). -/
def execTclr (g : Guard) (a : BitVec 5) (s : State) : Host.Outcome State Fault Refusal :=
  let i := rx s.tl a
  issue { unit := some 14, c17 := if enabled s.tl g && decide (255 < i.toNat) then some i else none } 4
    (fun s => if enabled s.tl g then s.onTl (fun t => { t with tags := tdel t.tags i.toNat }) else s) s

/-! ### Exact cells (15:R247, R248) -/

/-- One bit of a cell set. -/
def cellFlag (c : Line) (n : Nat) : Line := c ||| BitVec.ofNat 512 (2 ^ n)

/-- I plus an integer, modulo 2^480. -/
def cellAdd (c : Line) (v : Int) : Line :=
  (c.extractLsb' 480 32) ++ (BitVec.ofInt 480 ((c.extractLsb' 0 480).toInt + v))

/-- XACC of a value (15:R248). -/
def xaccCell (v : Ext) (c : Line) : Line :=
  let c := cellFlag c 483
  match v with
  | .nan => cellFlag (cellFlag c 480) 484
  | .inf false => cellFlag (cellFlag c 481) 484
  | .inf true => cellFlag (cellFlag c 482) 484
  | .fin neg m e =>
    if m = 0 && neg then c
    else
      let i : Int := (m * pow2 (e + 149) : Nat)
      cellAdd (cellFlag c 484) (if neg then -i else i)

/-- XFIN's FP32 result (15:R248). -/
def xfinCell (c : Line) : W32 :=
  if c.getLsbD 480 || (c.getLsbD 481 && c.getLsbD 482) then canonNan
  else if c.getLsbD 481 then 0x7F800000
  else if c.getLsbD 482 then 0xFF800000
  else
    let i := (c.extractLsb' 0 480).toInt
    if i = 0 then (if c.getLsbD 483 && !c.getLsbD 484 then 0x80000000 else 0)
    else rneF32 (.fin (decide (i < 0)) i.natAbs (-149))

/-- The value of XACC's operand (16:R261). -/
def xaccValue (t : XaccTy) (v : X) : Ext :=
  match t with
  | .f32 => valF32 (v.extractLsb' 0 32)
  | .bf16 => decodeFloat bf16 (v.extractLsb' 0 16).toNat

/-! ### Tickets (16:R253, R270) -/

/-- An operation brings data back to the tile. -/
def opLands : OpKind → Bool
  | .cpy | .matom .. | .xfin => true
  | .cpyw | .xacc _ | .xclr | .touch | .engWrite => false

/-- A ticket as its operation stands. A source line of a CPYW that was cancelled is not performed (DESIGN CHOICE, log entry 103). -/
def ticketOf (o : MemOp) (k : Ticket) : Ticket :=
  { k with performed := o.lines.all (fun l => l.performed), arrived := opLands o.kind && o.lines.all (fun l => l.arrived) }

/-- Bringing the issuing tile's ticket up to an operation. -/
def syncTicket (o : MemOp) (s : State) : State :=
  match physOf s o.who with
  | some p => s.onTile p (fun t => { t with tickets := t.tickets.map (fun k => if k.op = o.id then ticketOf o k else k) })
  | none => s

/-- Replacing an operation. -/
def State.setOp (s : State) (o : MemOp) : State := { s with ops := s.ops.map (fun q => if q.id == o.id then o else q) }

/-- An operation reports its fault by a station report (16:R257). -/
def reportsLater : OpKind → Bool
  | .cpyw | .xacc _ | .xclr => true
  | .cpy | .matom .. | .xfin | .touch | .engWrite => false

/-- Data of an operation is still on its way to a tile that keeps its ticket, abandoned or not (06:R120, 16:R270). -/
def dataComing (s : State) (o : MemOp) : Bool :=
  opLands o.kind && o.lines.any (fun l => l.performed && !l.arrived)
    && s.tiles.any (fun e => e.2.tickets.any (fun k => k.op == o.id))

/-- Something of an operation is still to come. -/
def opAlive (s : State) (o : MemOp) : Bool :=
  !o.lines.all lineDone || s.hostInval.any (fun e => e.2 == o.id)
    || (o.fault.isSome && !o.reported && reportsLater o.kind) || dataComing s o
    || s.tiles.any (fun e => e.2.jobs.any (fun j => jobLands j.op == some o.id))

/-- Forgetting the operations of which nothing is left. -/
def pruneOps (s : State) : State := { s with ops := s.ops.filter (opAlive s) }

/-! ### Issue (16:R250-R255) -/

/-- The status word (16:R252). -/
def memStatus (cost : Nat) (ticket : BitVec 16) (st : BitVec 2) : X :=
  (0 : BitVec 16) ++ BitVec.ofNat 16 cost ++ ticket ++ (0 : BitVec 14) ++ st

/-- An operation of a cost is within quota (15:R244). -/
def inQuota (t : Tile) (cost : Nat) : Bool := decide (t.memused + cost ≤ t.bind.memquota.toNat)

/-- Every page of n lines from a DVA is held at the tile's station (15:R246). -/
def pagesHeld (t : Tile) (dva : X) (n : Nat) : Bool :=
  (List.range n).all (fun j => pageHeld t.bind.ctx (dva + BitVec.ofNat 64 (64 * j)) t.pages)

/-- The base of LANDMIN (15:R246): the home dies of the lines, as their operation is translated, decide it. The least one holds
only for a pack whose die mask holds one die. -/
def landBase (s : State) (dva : X) (n : Nat) : Nat :=
  let ts := (List.range n).map (fun j => routeOf s (whoOf s.tl) (dva + BitVec.ofNat 64 (64 * j)) false)
  if ts.any (fun t => match t with | .to (.remote _) => true | .to (.home ..) | .stop _ | .unset => false) then 40000
  else if popFrom s.tl.bind.diemask 4 = 1
      && ts.all (fun t => match t with
        | .to (.home da ..) => homeDie da == dieOf s.turn
        | .to (.remote _) | .stop _ | .unset => false)
  then 1400 else 2000

/-- The tile at q is served by the station of the one at p (15:R241; log entry 51). -/
def sameStation (p q : Nat) : Bool :=
  p == q || (dieOf p == dieOf q && Config.stationOf p % 16 == Config.stationOf q % 16)

/-- The sum of MEMQUOTA over the period in cycles for the bound tiles that a station serves, as a fraction; a tile frozen by a
bind that failed has no period. -/
def quotaSum (p : Nat) : Table Tile → Nat × Nat
  | [] => (0, 1)
  | (q, t) :: r =>
    let a := quotaSum p r
    if carries t && sameStation p q && t.perlen != 0 then (a.1 * t.perlen + t.bind.memquota.toNat * a.2, a.2 * t.perlen) else a

/-- The tiles of a station keep within 300 bytes per tick (15:R245), at 425 MHz. -/
def quotaFits (s : State) (p : Nat) : Bool :=
  let a := quotaSum p s.tiles
  decide (64 * 425 * a.1 ≤ 300 * 1000 * a.2)

/-- The landing bounds hold only while the tiles of a station keep within their share (15:R245): an operation under way when
they do not is assured of nothing any more. -/
def quotaCheck (s : State) : State :=
  let fits (o : MemOp) : Bool := match physOf s o.who with | some p => quotaFits s p | none => false
  { s with ops := s.ops.map (fun o => if o.assured && !fits o then { o with assured := false } else o) }

/-- What an incomplete predecessor adds to the distance that assures a landing (16:R267): nothing where the 900 cycles cover
it, else its own bound, none where no bound is given. Under a fence of system scope they cover nothing. -/
def predExtra (s : State) (w : Wait) : Option Nat :=
  let covered : Option Nat := if w.scope = .system then none else some 0
  match w.ev.kind with
  | 0 | 6 | 7 => covered
  | 5 =>
    match s.posts.find? (fun p => p.id == w.ev.id) with
    | some p => some (p.dsts.foldl (fun m d => max m d.bound) 0)
    | none => some 0
  | 8 => none
  | _ =>
    match s.op w.ev.id with
    | some o =>
      if !o.pagesHeld then none
      else if o.lines.zipIdx.all (fun (_, j) => lineHere o j) then covered else some 40000
    | none => some 0

/-- What the waits on one predecessor add: it counts once, however many fences name it. -/
def evExtra (s : State) (ws : List Wait) (e : Ev) : Option Nat :=
  (ws.filter (fun w => w.ev == e)).foldl (fun a w => a.bind (fun x => (predExtra s w).map (max x ·))) (some 0)

/-- The distance from which a landing is assured (15:R246, 16:R267): `kind` is the event kind, n the lines. -/
def assuredFrom (s : State) (kind : Nat) (dva : X) (n : Nat) (ws : List Wait) : Option Nat :=
  (ws.map (fun w => w.ev)).eraseDups.foldl (fun a e => a.bind (fun x => (evExtra s ws e).map (x + ·)))
    (some (landBase s dva n + (64 * n + 255) / 256 + (if s.tl.fenced.getLsbD kind then 900 else 0)))

/-- An empty line of an operation, its data ready or not, with its route. -/
def lineNew (ready : Bool) (r : Route) : LineSt :=
  { data := 0, ready := ready, performed := false, arrived := false, dropped := false, route := r }

/-- What a memory instruction sends (16:R250): kind, event kind, cost, number of lines, whether their data is ready, DVA,
value, destination and landing distance. -/
structure Send where
  kind : OpKind
  ev : Nat
  cost : Nat
  n : Nat
  ready : Bool
  dva : X
  b : X := 0
  dst : Nat := 0
  land : Nat := 0
  ticketed : Bool := true

/-- The operation that an accepted instruction of the turn tile sends. -/
def newOp (r : Send) (id : Nat) (s : State) : MemOp :=
  let t := s.tl
  let ws := waitsFor s r.ev
  let held := pagesHeld t r.dva r.n
  let need := assuredFrom s r.ev r.dva r.n ws
  { id := id, who := whoOf t, die := dieOf s.turn, kind := r.kind, dva := r.dva
    lines := (List.range r.n).map (fun j =>
      lineNew r.ready (routeOf s (whoOf t) (r.dva + BitVec.ofNat 64 (64 * j)) (opWrites r.kind)))
    b := r.b, cmp := 0, ticket := t.nextTicket, waits := ws, held := !waitsDone s (whoOf t) ws, dst := r.dst
    inTrap := t.trap.mode, pagesHeld := held
    assured := opLands r.kind && held && (match need with | some d => decide (d ≤ r.land) | none => false) && quotaFits s s.turn
    slack := r.land - need.getD r.land, late := none, fault := none, reported := false, at_ := s.now }

/-- Acceptance (16:R252, R253): quota, ticket, event, status and the operation itself. -/
def accept (r : Send) (id : Nat) (d : BitVec 5) (s : State) : State :=
  let o := newOp r id s
  let tick : Ticket := { no := s.tl.nextTicket, op := id, performed := false, arrived := false, landed := false
                         abandoned := false, failed := false }
  { s.onTl (fun t =>
      let t := writeL 2 13 (.x d) (val64 (memStatus r.cost (if r.ticketed then t.nextTicket else 0) 0)) t
      let t := { t with memused := t.memused + r.cost }
      if r.ticketed then
        addEv r.ev id 0 { t with nextTicket := t.nextTicket + 1, tickets := (tick :: t.tickets).take 64 }
      else t) with ops := s.ops ++ [o] }

/-- A memory instruction's effect: accepted, refused with ST = 01, or nullified; `jobs` adds its bank cycles, for the
operation's identifier or for none (16:R255). -/
def memEffect (g : Guard) (d : BitVec 5) (r : Send) (jobs : Option Nat → Tile → Tile) (s : State) : State :=
  if !enabled s.tl g then s.onTl (jobs none)
  else if !inQuota s.tl r.cost then
    s.onTl (fun t => writeL 2 13 (.x d) (val64 (memStatus r.cost 0 1)) (jobs none t))
  else
    let f := s.fresh
    (accept r f.1 d f.2).onTl (jobs (some f.1))

/-- The lines of a transfer in groups of up to eight per cycle (04:R87): first index and addresses of group i. -/
def lineGroup (addr n i : Nat) : List Nat := linesFrom (addr + 512 * i) (min 8 (n - 8 * i))

/-- A job for each group of lines, from cycle k on. -/
def groupJobs (k addr n : Nat) (f : Nat → List Nat → JobOp) (t : Tile) : Tile :=
  (List.range ((n + 7) / 8)).foldl (fun t i =>
    let l := lineGroup addr n i
    addJob (k + i) 13 (banksOf l) (f i l) t) t

/-- The LAND check (16:R254): last is the landing's last cycle after the issue. -/
def landBad (t : Tile) (land : BitVec 21) (last : Nat) : Bool :=
  land == 0 || (!t.trap.mode && decide (t.perlen ≤ t.cyc + last))

/-- The COUNT check (16:R254). -/
def countBad (count : BitVec 21) : Bool :=
  count.toNat % 64 != 0 || count == 0 || decide (0x100000 < count.toNat)

/-- CPY with its DVA (16:R258). -/
def cpy (g : Guard) (d : BitVec 5) (dva : X) (b : BitVec 5) (count land : BitVec 21) (len : Nat) (s : State) :
    Host.Outcome State Fault Refusal :=
  let xb := rx s.tl b
  let n := count.toNat / 64
  issue { unit := some 13
          c17 := firstFail [
            (countBad count, count.setWidth 64),
            (xb.toNat % 64 != 0 || !inOneRegion xb.toNat count.toNat, xb),
            (dva.toNat % 64 != 0, dva),
            (landBad s.tl land (land.toNat + (n - 1) / 8), land.setWidth 64)] } len
    (memEffect g d { kind := .cpy, ev := 1, cost := n, n := n, ready := true, dva := dva, dst := xb.toNat
                     land := land.toNat }
      (fun o => groupJobs land.toNat xb.toNat n (fun i l =>
        match o with | some id => .cpyLand id (8 * i) l | none => .idleLand))) s

/-- CPY (16:R258). -/
def execCpy (g : Guard) (d a b : BitVec 5) (count land : BitVec 21) (s : State) : Host.Outcome State Fault Refusal :=
  cpy g d (rx s.tl a) b count land 12 s
/-- CPY with a literal DVA (16:R250). -/
def execCpyLit (g : Guard) (d : BitVec 5) (lit : X) (b : BitVec 5) (count land : BitVec 21) (s : State) :
    Host.Outcome State Fault Refusal := cpy g d lit b count land 20 s

/-- CPYW with its DVA (16:R259). -/
def cpyw (g : Guard) (d : BitVec 5) (dva : X) (b : BitVec 5) (count : BitVec 21) (len : Nat) (s : State) :
    Host.Outcome State Fault Refusal :=
  let xb := rx s.tl b
  let n := count.toNat / 64
  issue { unit := some 13
          c17 := firstFail [
            (countBad count, count.setWidth 64),
            (xb.toNat % 64 != 0 || !inOneRegion xb.toNat count.toNat, xb),
            (dva.toNat % 64 != 0, dva)] } len
    (memEffect g d { kind := .cpyw, ev := 2, cost := n, n := n, ready := false, dva := dva }
      (fun o => groupJobs 1 xb.toNat n (fun i l =>
        match o with | some id => .cpywRead id (8 * i) l | none => .idle))) s

/-- CPYW (16:R259). -/
def execCpyw (g : Guard) (d a b : BitVec 5) (count : BitVec 21) (s : State) : Host.Outcome State Fault Refusal :=
  cpyw g d (rx s.tl a) b count 12 s
/-- CPYW with a literal DVA (16:R250). -/
def execCpywLit (g : Guard) (d : BitVec 5) (lit : X) (b : BitVec 5) (count : BitVec 21) (s : State) :
    Host.Outcome State Fault Refusal := cpyw g d lit b count 20 s

/-- The check of a line that takes an operand or a landing (16:R254). -/
def lineBad (xb : X) : Bool := xb.toNat % 64 != 0 || decide (0x10FFFF < xb.toNat)

/-- MATOM with its DVA (16:R260): the operand line is read at c+1, the old value lands at c+LAND. -/
def matom (op : RmwOp) (g : Guard) (ty : AtomTy) (d : BitVec 5) (dva : X) (b : BitVec 5) (land : BitVec 21) (len : Nat)
    (s : State) : Host.Outcome State Fault Refusal :=
  let xb := rx s.tl b
  let bank := bankBit (bankOf xb.toNat)
  issue { unit := some 13
          c17 := firstFail [
            (lineBad xb, xb),
            (dva.toNat % atomSize ty != 0, dva),
            (landBad s.tl land land.toNat, land.setWidth 64)] } len
    (memEffect g d { kind := .matom op ty, ev := 3, cost := 1, n := 1, ready := false, dva := dva, dst := xb.toNat
                     land := land.toNat }
      (fun o t =>
        let t := addJob 1 13 bank (match o with | some id => .matomRead id xb.toNat | none => .idle) t
        addJob land.toNat 13 bank (match o with | some id => .matomLand id xb.toNat | none => .idleLand) t)) s

/-- MATOM.ADD (16:R260). -/
def execMatomAdd (g : Guard) (t : AtomTy) (d a b : BitVec 5) (land : BitVec 21) (s : State) :
    Host.Outcome State Fault Refusal := matom .add g t d (rx s.tl a) b land 12 s
/-- MATOM.MIN (16:R260). -/
def execMatomMin (g : Guard) (t : AtomTy) (d a b : BitVec 5) (land : BitVec 21) (s : State) :
    Host.Outcome State Fault Refusal := matom .min g t d (rx s.tl a) b land 12 s
/-- MATOM.MAX (16:R260). -/
def execMatomMax (g : Guard) (t : AtomTy) (d a b : BitVec 5) (land : BitVec 21) (s : State) :
    Host.Outcome State Fault Refusal := matom .max g t d (rx s.tl a) b land 12 s
/-- MATOM.XCHG (16:R260). -/
def execMatomXchg (g : Guard) (t : AtomTy) (d a b : BitVec 5) (land : BitVec 21) (s : State) :
    Host.Outcome State Fault Refusal := matom .xchg g t d (rx s.tl a) b land 12 s
/-- MATOM.CMPXCHG (16:R260). -/
def execMatomCmpxchg (g : Guard) (t : AtomTy) (d a b : BitVec 5) (land : BitVec 21) (s : State) :
    Host.Outcome State Fault Refusal := matom .cmpxchg g t d (rx s.tl a) b land 12 s
/-- MATOM.AND (16:R260). -/
def execMatomAnd (g : Guard) (t : AtomTy) (d a b : BitVec 5) (land : BitVec 21) (s : State) :
    Host.Outcome State Fault Refusal := matom .and g t d (rx s.tl a) b land 12 s
/-- MATOM.OR (16:R260). -/
def execMatomOr (g : Guard) (t : AtomTy) (d a b : BitVec 5) (land : BitVec 21) (s : State) :
    Host.Outcome State Fault Refusal := matom .or g t d (rx s.tl a) b land 12 s
/-- MATOM.XOR (16:R260). -/
def execMatomXor (g : Guard) (t : AtomTy) (d a b : BitVec 5) (land : BitVec 21) (s : State) :
    Host.Outcome State Fault Refusal := matom .xor g t d (rx s.tl a) b land 12 s
/-- MATOM.ADD, literal DVA (16:R260). -/
def execMatomAddLit (g : Guard) (t : AtomTy) (d : BitVec 5) (lit : X) (b : BitVec 5) (land : BitVec 21) (s : State) :
    Host.Outcome State Fault Refusal := matom .add g t d lit b land 20 s
/-- MATOM.MIN, literal DVA (16:R260). -/
def execMatomMinLit (g : Guard) (t : AtomTy) (d : BitVec 5) (lit : X) (b : BitVec 5) (land : BitVec 21) (s : State) :
    Host.Outcome State Fault Refusal := matom .min g t d lit b land 20 s
/-- MATOM.MAX, literal DVA (16:R260). -/
def execMatomMaxLit (g : Guard) (t : AtomTy) (d : BitVec 5) (lit : X) (b : BitVec 5) (land : BitVec 21) (s : State) :
    Host.Outcome State Fault Refusal := matom .max g t d lit b land 20 s
/-- MATOM.XCHG, literal DVA (16:R260). -/
def execMatomXchgLit (g : Guard) (t : AtomTy) (d : BitVec 5) (lit : X) (b : BitVec 5) (land : BitVec 21) (s : State) :
    Host.Outcome State Fault Refusal := matom .xchg g t d lit b land 20 s
/-- MATOM.CMPXCHG, literal DVA (16:R260). -/
def execMatomCmpxchgLit (g : Guard) (t : AtomTy) (d : BitVec 5) (lit : X) (b : BitVec 5) (land : BitVec 21)
    (s : State) : Host.Outcome State Fault Refusal := matom .cmpxchg g t d lit b land 20 s
/-- MATOM.AND, literal DVA (16:R260). -/
def execMatomAndLit (g : Guard) (t : AtomTy) (d : BitVec 5) (lit : X) (b : BitVec 5) (land : BitVec 21) (s : State) :
    Host.Outcome State Fault Refusal := matom .and g t d lit b land 20 s
/-- MATOM.OR, literal DVA (16:R260). -/
def execMatomOrLit (g : Guard) (t : AtomTy) (d : BitVec 5) (lit : X) (b : BitVec 5) (land : BitVec 21) (s : State) :
    Host.Outcome State Fault Refusal := matom .or g t d lit b land 20 s
/-- MATOM.XOR, literal DVA (16:R260). -/
def execMatomXorLit (g : Guard) (t : AtomTy) (d : BitVec 5) (lit : X) (b : BitVec 5) (land : BitVec 21) (s : State) :
    Host.Outcome State Fault Refusal := matom .xor g t d lit b land 20 s

/-- An exact-cell operation that lands nothing: XACC or XCLR (16:R261, R263). -/
def cellOp (g : Guard) (d : BitVec 5) (kind : OpKind) (dva v : X) (len : Nat) (s : State) :
    Host.Outcome State Fault Refusal :=
  issue { unit := some 13, c17 := if dva.toNat % 64 != 0 then some dva else none } len
    (memEffect g d { kind := kind, ev := 4, cost := 1, n := 1, ready := true, dva := dva, b := v } (fun _ t => t)) s

/-- XACC (16:R261): the value is read at c. -/
def execXacc (g : Guard) (t : XaccTy) (d a b : BitVec 5) (s : State) : Host.Outcome State Fault Refusal :=
  cellOp g d (.xacc t) (rx s.tl a) (rx s.tl b) 12 s
/-- XACC, literal DVA (16:R261). -/
def execXaccLit (g : Guard) (t : XaccTy) (d : BitVec 5) (lit : X) (b : BitVec 5) (s : State) :
    Host.Outcome State Fault Refusal := cellOp g d (.xacc t) lit (rx s.tl b) 20 s
/-- XCLR (16:R263). -/
def execXclr (g : Guard) (d a : BitVec 5) (s : State) : Host.Outcome State Fault Refusal :=
  cellOp g d .xclr (rx s.tl a) 0 12 s
/-- XCLR, literal DVA (16:R263). -/
def execXclrLit (g : Guard) (d : BitVec 5) (lit : X) (s : State) : Host.Outcome State Fault Refusal :=
  cellOp g d .xclr lit 0 20 s

/-- XFIN with its DVA (16:R262). -/
def xfin (g : Guard) (d : BitVec 5) (dva : X) (b : BitVec 5) (land : BitVec 21) (len : Nat) (s : State) :
    Host.Outcome State Fault Refusal :=
  let xb := rx s.tl b
  issue { unit := some 13
          c17 := firstFail [
            (lineBad xb, xb),
            (dva.toNat % 64 != 0, dva),
            (landBad s.tl land land.toNat, land.setWidth 64)] } len
    (memEffect g d { kind := .xfin, ev := 4, cost := 1, n := 1, ready := true, dva := dva, dst := xb.toNat
                     land := land.toNat }
      (fun o => addJob land.toNat 13 (bankBit (bankOf xb.toNat))
        (match o with | some id => .xfinLand id xb.toNat | none => .idleLand))) s

/-- XFIN (16:R262). -/
def execXfin (g : Guard) (d a b : BitVec 5) (land : BitVec 21) (s : State) : Host.Outcome State Fault Refusal :=
  xfin g d (rx s.tl a) b land 12 s
/-- XFIN, literal DVA (16:R262). -/
def execXfinLit (g : Guard) (d : BitVec 5) (lit : X) (b : BitVec 5) (land : BitVec 21) (s : State) :
    Host.Outcome State Fault Refusal := xfin g d lit b land 20 s

/-- FENCE (16:R264): its predecessors that are not complete yet hold its successors. -/
def execFence (g : Guard) (sc : Scope) (succ pred : BitVec 9) (s : State) : Host.Outcome State Fault Refusal :=
  issue { unit := some 13 } 12
    (fun s =>
      if enabled s.tl g then
        let preds := s.tl.evs.filter (fun e => pred.getLsbD e.kind && !evDone s (whoOf s.tl) sc e)
        s.onTl (fun t =>
          { t with fenced := t.fenced ||| succ
                   fences := if preds.isEmpty then t.fences else t.fences ++ [{ scope := sc, succ := succ, preds := preds }] })
      else s) s

/-- TOUCH (16:R269): TOUCH_WALK follows within 4,000 cycles, which are at least as many ticks. -/
def execTouch (g : Guard) (d a : BitVec 5) (s : State) : Host.Outcome State Fault Refusal :=
  let dva := rx s.tl a
  issue { unit := some 13 } 4
    (fun s =>
      let r : Send := { kind := .touch, ev := 1, cost := 1, n := 1, ready := true, dva := dva, ticketed := false }
      let s' := memEffect g d r (fun _ t => t) s
      if enabled s.tl g && inQuota s.tl 1 then
        s'.timer (s.tl.clk.start + 4000 * subTick) (.touchWalk s.nextId) else s') s

/-- LANDQ (16:R270): the ticket state is sampled at the end of c. -/
def execLandq (g : Guard) (d a : BitVec 5) (s : State) : Host.Outcome State Fault Refusal :=
  let v := rx s.tl a
  issue { unit := some 13, c17 := if enabled s.tl g && v.extractLsb' 16 48 != 0 then some v else none } 4
    (fun s => if enabled s.tl g then s.onTl (addJob 0 13 0 (.landq d (v.extractLsb' 0 16))) else s) s

/-- LANDQ's bits (16:R270). -/
def landqValue (t : Tile) (no : BitVec 16) : X :=
  match t.tickets.find? (fun k => k.no == no) with
  | none => 0x20
  | some k =>
    (0 : BitVec 59) ++ BitVec.ofBool k.failed ++ BitVec.ofBool k.abandoned ++ BitVec.ofBool k.landed
      ++ BitVec.ofBool k.arrived ++ BitVec.ofBool k.performed

/-- The sample of a LANDQ; its result lands at the end of c+1. -/
def landqSample (j : Job) (d : BitVec 5) (no : BitVec 16) (s : State) : State :=
  let r := logX (landqValue s.tl no) s
  r.2.onTl (fun t => pushPend (t.abs + 1) j (.x d) (val64 r.1) t)

/-! ### At the stations (16:R256, R266) -/

/-- The event that begins a delivered command of an engine: by its class (true Retriever) and its code. -/
def cmdEvent (cls : Bool) (line : Line) (k id : Nat) : Instr :=
  if cls then (if lineBytes line 0 1 = 2 then .scatter k id else .gather k id)
  else
    match lineBytes line 0 1 with
    | 2 => .mask k id
    | 3 => .step k id
    | 4 => .snap k id
    | 5 => .restore k id
    | _ => .loadg k id

/-- Delivering a command that a fence held at its kennel (21:R311, 16:R266). -/
def deliverHeld (s : State) (id : Nat) (l : Lease) : Lease :=
  { l with cmds := l.cmds.map (fun c => if c.1 == id && waitsDone s l.who c.2.2 then (c.1, c.2.1, []) else c) }

/-- The timers by which a delivered command begins, within 100 ticks (22:R319, 23:R333). -/
def heldTimers (s : State) (id k : Nat) (l : Lease) : List (Nat × Instr) :=
  (l.cmds.filter (fun c => c.1 == id && !c.2.2.isEmpty && waitsDone s l.who c.2.2)).map
    (fun c => (s.now + 100 * subTick, cmdEvent l.cls c.2.1 k l.id))

/-- FENCED_RELEASE (16:R266): the predecessors of a held operation, or of a command held at its kennel, are complete. -/
def execFencedRelease (id : Nat) (s : State) : Host.Outcome State Fault Refusal :=
  match s.op id with
  | some o => .next (if o.held && waitsDone s o.who o.waits then s.setOp { o with held := false } else s)
  | none =>
    .next { s with
      timers := s.timers ++ s.kennels.flatMap (fun (k, q) => q.leases.flatMap (heldTimers s id k))
      kennels := s.kennels.map (fun (k, q) => (k, { q with leases := q.leases.map (deliverHeld s id) })) }

/-- The home line of line j, where it is performed. -/
def lineHome (o : MemOp) (j : Nat) : Option Nat :=
  match lineRoute o j with
  | .to (.home da ..) => some (da / 64)
  | .to (.remote _) | .stop _ | .unset => none

/-- Two lines of a tile's operations are one line: one line of the context's space, or one line at its home. -/
def sameLine (q : MemOp) (i : Nat) (o : MemOp) (j : Nat) : Bool :=
  (lineDva q i).toNat / 64 == (lineDva o j).toNat / 64 || ((lineHome q i).isSome && lineHome q i == lineHome o j)

/-- An earlier operation of the tile still has to perform the same line (16:R256), or an earlier write of its engine
(22:R316). -/
def lineBlocked (s : State) (o : MemOp) (j : Nat) : Bool :=
  s.ops.any (fun q => decide (q.id < o.id) && q.who == o.who && q.kind != .touch
    && (q.kind == .engWrite) == (o.kind == .engWrite)
    && q.lines.zipIdx.any (fun (l, i) => !lineDone l && sameLine q i o j))

/-- An operation reads its line, so an uncorrectable error stops it (15:R249). -/
def opReads : OpKind → Bool
  | .cpy | .matom .. | .xacc _ | .xfin => true
  | .cpyw | .xclr | .touch | .engWrite => false

/-- Changing line j of an operation. -/
def MemOp.setLine (o : MemOp) (j : Nat) (f : LineSt → LineSt) : MemOp :=
  { o with lines := o.lines.zipIdx.map (fun (l, i) => if i = j then f l else l) }

/-- Two faults of one operation: the order of escalated causes, then the lower address (06:R117, 15:R249). -/
def worseFault (a b : BitVec 8 × X) : BitVec 8 × X :=
  if a.1 = b.1 then (if b.2.toNat < a.2.toNat then b else a)
  else (pickEscalated [a, b]).getD a

/-- The address that a fault of line j reports: the DVA of the line for an uncorrectable error, of the access for another cause
(15:R249), which differ for the word of a MATOM (DEDUCED, log entry 50). -/
def faultDva (o : MemOp) (j : Nat) (c : BitVec 8) : X :=
  if c = 0x21 then lineDva o j &&& ~~~0x3F else lineDva o j

/-- Line j fails: it is dropped, and the operation has a fault. -/
def lineFault (o : MemOp) (j : Nat) (c : BitVec 8) (s : State) : State :=
  let f := (c, faultDva o j c)
  let o := { o.setLine j (fun l => { l with dropped := true }) with
    fault := some (match o.fault with | some e => worseFault e f | none => f) }
  syncTicket o (s.setOp o)

/-- The word of a MATOM in its line: byte offset, old and new value. -/
def matomWord (op : RmwOp) (ty : AtomTy) (k : Nat) (l : Line) (b cmp : X) : Nat × Nat :=
  let n := atomSize ty
  let old := lineBytes l k n
  if n = 4 then
    (old, (rmw op (atomSigned ty) (BitVec.ofNat 32 old) (b.setWidth 32) (cmp.setWidth 32)).toNat)
  else (old, (rmw op (atomSigned ty) (BitVec.ofNat 64 old) b cmp).toNat)

/-- Performing line j at its home station as one unit (16:R256): the memory after, and the data that goes back. -/
def performAt (o : MemOp) (j : Nat) (da : Nat) (tag : LineTag) (s : State) : State × Line :=
  let l := devLine s tag da
  let data := (o.lines[j]?.map (fun l => l.data)).getD 0
  match o.kind with
  | .cpy => (s, l)
  | .cpyw | .engWrite => (bufferStale da o.id (devStore s tag da data), 0)
  | .matom op ty =>
    let k := o.dva.toNat % 64
    let w := matomWord op ty k l o.b o.cmp
    (bufferStale da o.id (devStore s tag da (lineSplice l k (atomSize ty) w.2)),
      (extend (atomSigned ty) (atomSize ty) w.1).setWidth 512)
  | .xacc t => (bufferStale da o.id (devStore s tag da (xaccCell (xaccValue t o.b) l)), 0)
  | .xfin => (s, (xfinCell l).setWidth 512)
  | .xclr => (bufferStale da o.id (devStore s tag da 0), 0)
  | .touch => (s, 0)

/-- What comes back of a line that another package holds: a word or result in the form its home station gives it. -/
def remoteData (o : MemOp) (l : Line) : Line :=
  match o.kind with
  | .cpy => l
  | .matom _ ty => (extend (atomSigned ty) (atomSize ty) (lineBytes l (o.dva.toNat % 64) (atomSize ty))).setWidth 512
  | .xfin => (xfinCell l).setWidth 512
  | .cpyw | .xacc _ | .xclr | .touch | .engWrite => 0

/-- The physical stack of a failing line, for the error logs (25:R346). -/
def faultStack (s : State) (ctx : BitVec 16) (f : BitVec 8 × X) : Option Nat :=
  if f.1 = 0x21 then
    match xlate s ctx f.2 false with
    | some (.home da _) => some (lineStack da)
    | some (.remote _) | none => none
  else none

/-- A management core's log entry (16:R257, 22:R318). -/
def logEntry (ctx : BitVec 16) (f : BitVec 8 × X) (gen : BitVec 32) (s : State) : State :=
  { s with mclog := s.mclog ++ [{ ctx := ctx, cause := f.1, dva := f.2, gen := gen, stack := faultStack s ctx f }] }

/-- A command that ends with an error (22:R314, R318; 23:R326): nothing more of it is done. -/
def stopRun (code : BitVec 8) (failidx : W32) (faildva : X) (r : CmdRun) : CmdRun :=
  { r with work := [], rows := [], got := none, ecode := code, failidx := failidx, faildva := faildva }

/-- IDX[DONE] of a Retriever's command (22:R318), 0 past the last row and at a Sheepdog. -/
def idxDone (r : CmdRun) : W32 := (r.rows.head?.map (fun i => i.extractLsb' 0 32)).getD 0

/-- A command whose issued write could not be made: it stops at the row of that write, unless it has stopped at an earlier
one (22:R318). -/
def writeLost (id : Nat) (c : BitVec 8) (dva : X) (l : Lease) : Lease :=
  { l with run := l.run.map (fun r =>
      match r.wrote.find? (fun w => w.1 == id) with
      | none => r
      | some (_, row) =>
        if r.ecode == 0 || decide (row < r.done) then
          { stopRun c (((r.idxs[row]?).map (fun i => i.extractLsb' 0 32)).getD 0) dva r with done := min row r.done }
        else r) }

/-- The generation of a tile's lease. -/
def leaseGen (s : State) (w : Who) : BitVec 32 :=
  (((s.kennels.flatMap (fun e => e.2.leases)).find? (fun l => l.who == w)).map (fun l => l.gen)).getD 0

/-- An issued write of an engine that finds no path or no context at its home (22:R318): it is logged, and its command, if
it still runs, stops. -/
def engLost (o : MemOp) (c : BitVec 8) (s : State) : State :=
  let s := logEntry o.who.ctx (c, o.dva) (leaseGen s o.who) s
  { s with kennels := s.kennels.map (fun (k, q) => (k, { q with leases := q.leases.map (writeLost o.id c o.dva) })) }

/-- HOME_STATION_PERFORM of a line of an operation (16:R256-R263, 15:R239, R249, 25:R347, R351). That another package holds
the context an engine's write was told at its row's translation (22:R315). -/
def performLine (o : MemOp) (j : Nat) (s : State) : State :=
  let r := opTarget o j s
  let s := r.2
  let fail (c : BitVec 8) (s : State) : State :=
    lineFault o j c (if o.kind = .engWrite then engLost o c s else s)
  match r.1 with
  | .error c => fail c s
  | .ok (.remote pkg) =>
    if !routeUp s o.die pkg then fail 0x23 s
    else if o.kind != .engWrite && !remoteHas s pkg o.who.ctx then fail 0x20 s.looked
    else
      let o := o.setLine j (fun l =>
        { l with performed := true, data := remoteData o (remoteLineOf s o.who.ctx (lineDva o j)) })
      syncTicket o (s.looked.setOp o)
  | .ok (.home da tag) =>
    if !pathUp s o.die (homeDie da) then fail 0x23 s
    else if opReads o.kind && failing s da then fail 0x21 s
    else
      let q := performAt o j da tag s
      let o := o.setLine j (fun l => { l with performed := true, data := q.2 })
      syncTicket o (q.1.setOp o)

/-- A line is at a station and nothing holds it back; it is performed after its operation's issue instant (17:R272). -/
def canPerform (s : State) (o : MemOp) (j : Nat) : Bool :=
  !o.held && decide (o.at_ < s.now) && o.kind != .touch && !lineBlocked s o j &&
    (match o.lines[j]? with | some l => l.ready && !lineDone l | none => false)

/-- A write that another package makes of a line here (15:R239, 25:R351): line n mod 2^46 of the live context n div 2^46, with bytes
that this package does not know, while a link is up (log entry 106). -/
def peerWrite (n : Nat) (s : State) : State :=
  let ctx := BitVec.ofNat 16 (n / 2 ^ 46)
  if s.links = 0 || !s.ctxs.any (fun c => c.id == ctx) then s
  else
    match xlate s ctx (BitVec.ofNat 64 (n % 2 ^ 46 * 64)) true with
    | some (.home da tag) => bufferStale da 0 (devStore s.looked tag da (Config.freeLine s.freeCount))
    | some (.remote _) | none => s

/-- HOME_STATION_PERFORM (16:R256); number 0, which no operation has, is a write that another package makes. -/
def execHomeStationPerform (id line : Nat) (s : State) : Host.Outcome State Fault Refusal :=
  if id = 0 then .next (peerWrite line s)
  else
    match s.op id with
    | none => .next s
    | some o => .next (if canPerform s o line then pruneOps (performLine o line s) else s)

/-- COPY_DATA_ARRIVAL (16:R258): a performed line's data reaches the tile. -/
def execCopyDataArrival (id line : Nat) (s : State) : Host.Outcome State Fault Refusal :=
  match s.op id with
  | none => .next s
  | some o =>
    if opLands o.kind && o.lines.any (fun l => l.performed) then
      let o := o.setLine line (fun l => if l.performed then { l with arrived := true } else l)
      .next (syncTicket o (s.setOp o))
    else .next s

/-- STATION_REPORT (16:R257): a report of a CPYW, XACC or XCLR reaches the tile and the management core's log; at a tile
that has halted, only the log. The ticket is FAILED from then on, whichever report a PERIOD picks (DESIGN CHOICE, log entry 103). -/
def execStationReport (id : Nat) (s : State) : Host.Outcome State Fault Refusal :=
  match s.op id with
  | none => .next s
  | some o =>
    match o.fault with
    | none => .next s
    | some f =>
      if o.reported || !reportsLater o.kind || !o.lines.all lineDone then .next s
      else
        let s := logEntry o.who.ctx f 0 (s.setOp { o with reported := true })
        .next (pruneOps (match physOf s o.who with
          | some p =>
            if (s.tile p).state = 0 then s
            else s.onTile p (fun t =>
              { t with reports := t.reports ++ [f]
                       tickets := t.tickets.map (fun k => if k.op = o.id then { k with failed := true } else k) })
          | none => s))

/-- TOUCH_WALK (16:R269): the page's entry is loaded, or nothing on any fault. -/
def execTouchWalk (id : Nat) (s : State) : Host.Outcome State Fault Refusal :=
  match s.op id with
  | none => .next s
  | some o =>
    if o.kind != .touch then .next s
    else .next (pruneOps ((opLook s o 0).2.setOp (o.setLine 0 (fun l => { l with performed := true }))))

/-- STATION_INVALIDATION (15:R242): the entries of a context, or those that hold one 32 KiB page number of it. -/
def execStationInvalidation (ctx : BitVec 16) (page : Option Nat) (s : State) : Host.Outcome State Fault Refusal :=
  let gone (e : PageEntry) : Bool := e.ctx == ctx &&
    (match page with | none => true | some v => v * 0x8000 / e.size == e.vpn)
  .next { s with
    tiles := s.tiles.map (fun (p, t) => (p, { t with pages := t.pages.filter (fun e => !gone e) }))
    kennels := s.kennels.map (fun (k, q) => (k, { q with leases := q.leases.map (fun l =>
      { l with pages := l.pages.filter (fun e => !gone e) }) })) }

/-! ### Landings at the tile (04:R87, 16:R258, R260, R262) -/

/-- The bytes a landing writes. -/
def landedBytes (o : MemOp) : Nat :=
  match o.kind with
  | .cpy => 64 * o.lines.length
  | .matom .. => 8
  | .xfin => 4
  | .cpyw | .xacc _ | .xclr | .touch | .engWrite => 0

/-- The data of the lines as one number. -/
def linesNat : List LineSt → Nat
  | [] => 0
  | l :: r => l.data.toNat + 2 ^ 512 * linesNat r

/-- What the padding of a landing's entry notes: the ticket plus 1 (25:R357 gives padding no value; log entry 16). -/
def landNote (o : MemOp) : Nat := o.ticket.toNat + 1

/-- The padding of an entry is that of a landing; zeros name none. -/
def notes (o : MemOp) (note : Nat) : Bool := note == 0 || note == landNote o

/-- A landing as record and replay see it at its slot (25:R357, R358): bit 0 late, with the number of the first line missing in
bits 31:1, bits 63:32 the CRC; the entry's padding names the landing by its ticket (log entry 16). -/
def landingLog (o : MemOp) (s : State) : State :=
  let live := match firstAbsent o.lines 0 with
    | some j => 1 + 2 * j
    | none => (crc32c (linesNat o.lines) (landedBytes o)).toNat * 2 ^ 32
  let r := logInput 3 16 (live + landNote o * 2 ^ 64) s
  let s := r.2
  if !notes o (r.1 / 2 ^ 64) then diverge s
  else if r.1 % 2 = 1 then s.setOp { o with late := some (r.1 / 2 % 2 ^ 31) }
  else if r.1 % 2 ^ 64 != live then diverge s
  else s

/-- A landing whose operation met a fault is no input of a recorded log, for nothing lands; where a replayed log has its entry, by
header and ticket, one recorded as late is late and reports no fault, and one recorded as on time diverges (25:R358; log entry
16). -/
def faultedLog (o : MemOp) (s : State) : State :=
  if s.tl.bind.replay != 2 || s.tl.replay.live then s
  else
    match logNext s 16 with
    | none => s
    | some (h, v) =>
      if h != logHeader s.tl 3 (logLen 16) || !notes o (v / 2 ^ 64) then s
      else
        let r := logInput 3 16 0 s
        if r.1 % 2 = 1 then r.2.setOp { o with late := some (r.1 / 2 % 2 ^ 31), fault := none } else diverge r.2

/-- The landings of this cycle enter the log. -/
def logLandings (s : State) : State :=
  (landingNow s).foldl (fun s o =>
    if s.tl.bind.replay = 0 then s else if o.fault.isSome then faultedLog o s else landingLog o s) s

/-- What the tile does at its slot before anything is judged: the landings of this cycle enter the log, and a landing
that reports a fault marks its ticket FAILED (16:R270). -/
def landingSlot (s : State) : State :=
  (landingNow (logLandings s)).foldl (fun s o =>
    if o.fault.isSome then
      s.onTl (fun t => { t with tickets := t.tickets.map (fun k => if k.op = o.id then { k with failed := true } else k) })
    else s) (logLandings s)

/-- Everything that an operation lands is at the tile, and nothing stopped it (15:R249, 16:R258). -/
def landsWhole (o : MemOp) : Bool := o.fault.isNone && o.late.isNone && o.lines.all (fun l => l.arrived)

/-- A landing that comes to nothing: its bank cycles pass and nothing of it is written. -/
def passLanding (id : Nat) (t : Tile) : Tile :=
  { t with
    jobs := t.jobs.map (fun j => if jobLands j.op = some id then { j with op := .idleLand } else j)
    tickets := t.tickets.map (fun k => if k.op = id then { k with lost := true } else k) }

/-- A landing slot in the drain after HALT (05:R116), where nothing is checked: the log takes the landing, and one whose data
is not all there, or that met a fault, moves nothing in this cycle or later (log entry 70). -/
def drainLandings (s : State) : State :=
  (landingNow (logLandings s)).foldl (fun s o => if landsWhole o then s else s.onTl (passLanding o.id)) (logLandings s)

/-- Lines written into the scratchpad, those on cancelled banks left out. -/
def landLines (bad : BitVec 32) (o : MemOp) (first : Nat) (addrs : List Nat) (m : Memory) : Memory :=
  addrs.zipIdx.foldl (fun m (a, i) =>
    if bad.getLsbD (bankOf a) then m
    else match o.lines[first + i]? with
      | some l => mwrites m (lineCells a l.data)
      | none => m) m

/-- The ticket of an operation after a landing cycle: landed with its last line, when every line has been written (16:R270). -/
def landTicket (id : Nat) (lost fin : Bool) (t : Tile) : Tile :=
  { t with tickets := t.tickets.map (fun k =>
      if k.op = id then
        { k with lost := k.lost || lost, landed := k.landed || (fin && !lost && !k.lost && !k.abandoned) } else k) }

/-- The one word that a MATOM or XFIN lands, n bytes of it (16:R260, R262). -/
def landWord (o : MemOp) (addr n : Nat) (t : Tile) : Tile :=
  landTicket o.id false true
    { t with mem := mwriteLE t.mem addr n (lineBytes ((o.lines.head?.map (fun l => l.data)).getD 0) 0 n) }

/-- One landing job of the turn tile at its cycle; what does not land whole moves nothing. -/
def landJob (bad : BitVec 32) (j : Job) (s : State) : State :=
  match j.op with
  | .cpyLand id first addrs =>
    match s.op id with
    | none => s
    | some o => s.onTl (fun t =>
        if !landsWhole o then landTicket id true true t
        else landTicket id (addrs.any (fun a => bad.getLsbD (bankOf a))) (decide (o.lines.length ≤ first + addrs.length))
          { t with mem := landLines bad o first addrs t.mem })
  | .matomLand id addr =>
    match s.op id with
    | none => s
    | some o => s.onTl (fun t =>
        if bad.getLsbD (bankOf addr) || !landsWhole o then landTicket id true true t else landWord o addr 8 t)
  | .xfinLand id addr =>
    match s.op id with
    | none => s
    | some o => s.onTl (fun t =>
        if bad.getLsbD (bankOf addr) || !landsWhole o then landTicket id true true t else landWord o addr 4 t)
  | _ => s

/-- CPYW's source lines are read (16:R259); a cancelled line is not sent (06:R119). -/
def cpywLines (bad : BitVec 32) (mem : Memory) (first : Nat) (addrs : List Nat) (o : MemOp) : MemOp :=
  addrs.zipIdx.foldl (fun o (a, i) =>
    o.setLine (first + i) (fun l =>
      if bad.getLsbD (bankOf a) then { l with dropped := true } else { l with ready := true, data := mreadLine mem a })) o

/-- MATOM's operand line is read; when the read is cancelled the operation is not sent. -/
def matomOperand (cancelled : Bool) (mem : Memory) (addr : Nat) (o : MemOp) : MemOp :=
  if cancelled then o.setLine 0 (fun l => { l with dropped := true })
  else { o.setLine 0 (fun l => { l with ready := true }) with
    b := BitVec.ofNat 64 (mreadLE mem addr 8), cmp := BitVec.ofNat 64 (mreadLE mem (addr + 8) 8) }

end Sys2Proof.Machine
end

