-- ==== Sys2Proof/Machine/Kennel.lean ====
section
/-! DEFINITION. Kennels and leases: the lease ring, grants, terms, ends, the leash, and LEASE, RENEW, LFREE and ECMD
(spec/21; 25:R339, R342). A kennel is keyed by its physical cluster. -/

namespace Sys2Proof.Machine

/-- A tile that issues: its clock changes only at a hold. -/
def issuing (t : Tile) : Bool := t.phase == .run || t.phase == .drain || t.phase == .halting

/-! ### Kennels and their posts -/

/-- The kennel of a physical cluster. -/
def State.kennel (s : State) (k : Nat) : Kennel := tget kennelInit s.kennels k

/-- Changing a kennel. -/
def State.onKennel (s : State) (k : Nat) (f : Kennel → Kennel) : State :=
  { s with kennels := tset s.kennels k (f (s.kennel k)) }

/-- A lease of a kennel. -/
def State.lease (s : State) (k id : Nat) : Option Lease := (s.kennel k).leases.find? (fun l => l.id == id)

/-- Replacing a lease. -/
def State.setLease (s : State) (k : Nat) (l : Lease) : State :=
  s.onKennel k (fun q => { q with leases := q.leases.map (fun m => if m.id == l.id then l else m) })

/-- The time base at a kennel, in ticks. -/
def kTime (s : State) (k : Nat) : Nat := s.now / subTick + s.skew.getD k 0

/-- The instant n ticks from now. -/
def inTicks (s : State) (n : Nat) : Nat := s.now + n * subTick

/-- The sequence of the kennel's next post to a tile at mirror 62 or 63 (21:R305, R312). At a saved tile it follows the
image's. -/
def kennelSeq (s : State) (w : Who) (m : Nat) : BitVec 32 :=
  match physOf s w with
  | some p => (if m = 62 then (s.tile p).resultSeq else (s.tile p).leashSeq) + 1
  | none =>
    match s.ctxs.find? (fun c => c.id == w.ctx) with
    | some c =>
      BitVec.ofNat 32 ((dvaRead s c.id (imageBase c w.idx + BitVec.ofNat 64 (0x5800 + 128 * m + 64)) 4).getD 0 + 1
        + s.posts.countP (fun p => p.src == none && p.dsts.any (fun d => d.who == w && d.mirror == m)))
    | none => 1

/-- The number of the bind that a tile of a context lives in: the physical tile's, or that of its saved image. -/
def bindNoOf (s : State) (w : Who) : Option Nat :=
  match physOf s w with
  | some p => some (s.tile p).bindNo
  | none => (s.ctxs.find? (fun c => c.id == w.ctx && c.life == w.life)).bind (fun c =>
      (c.kept.find? (fun e => e.idx == w.idx)).map (fun e => e.bindNo))

/-- A post of kennel k to a tile in one bind of it (12:R208, R214): it arrives within 150 ticks. When the tile has been
bound anew since, the kennel discards it (21:R306). -/
def kennelPost (k : Nat) (w : Who) (b m : Nat) (payload : Line) (wrote : List Nat) (s : State) : State :=
  if bindNoOf s w != some b then s
  else
  let seq := kennelSeq s w m
  let r := s.fresh
  let p : Post := { id := r.1, src := none, payload := payload, seq := seq, stamp := BitVec.ofNat 64 (kTime s k)
                    dsts := [{ who := w, mirror := m, bound := 150, done := false }], waits := [], held := false
                    sent := true, wrote := wrote, home := 34 * k, at_ := s.now }
  let s := match physOf s w with
    | some q => r.2.onTile q (fun t => if m = 62 then { t with resultSeq := seq } else { t with leashSeq := seq })
    | none => r.2
  { s with posts := s.posts ++ [p], timers := s.timers ++ deliveryTimers s.now p }

/-- A leash record (21:R305). -/
def leashRecord (l : Lease) (st cause qpos fin : Nat) : Line :=
  BitVec.ofNat 512 (l.gen.toNat + st * 2 ^ 32 + (if l.cls then 1 else 0) * 2 ^ 40 + l.eng * 2 ^ 48 + cause * 2 ^ 56
    + qpos * 2 ^ 64 + l.accept * 2 ^ 128 + l.wakeDone * 2 ^ 192 + l.expiry * 2 ^ 256 + fin * 2 ^ 320)

/-- Posting a lease's leash record. -/
def leash (k : Nat) (l : Lease) (st cause qpos fin : Nat) (s : State) : State :=
  kennelPost k l.who l.bindNo 63 (leashRecord l st cause qpos fin) [] s

/-- The header of a result (21:R312): the command's generation, tag and code, and RSTAT. -/
def resultHeader (gen : BitVec 32) (line : Line) (rstat : Nat) : Nat :=
  gen.toNat + lineBytes line 2 2 * 2 ^ 32 + lineBytes line 0 1 * 2 ^ 48 + rstat * 2 ^ 56

/-- A DROPPED result (21:R311). -/
def postDropped (k : Nat) (w : Who) (b : Nat) (gen : BitVec 32) (line : Line) (s : State) : State :=
  kennelPost k w b 62 (BitVec.ofNat 512 (resultHeader gen line 2)) [] s

/-! ### Queues, grants and ends (21:R299-R304) -/

/-- Requests accepted and not granted, oldest first. -/
def waiting (q : Kennel) : List Lease := q.leases.filter (fun l => l.st == .queued)

/-- Engines Waking or Held. -/
def awakeLeases (q : Kennel) : List Lease := q.leases.filter (fun l => l.st == .waking || l.st == .held)

/-- A class queue holds 32 requests. -/
def classFull (q : Kennel) (cls : Bool) : Bool := decide (32 ≤ (waiting q).countP (fun l => l.cls == cls))

/-- A grant is due. -/
def canGrant (q : Kennel) : Bool := decide ((awakeLeases q).length < q.cap) && !(waiting q).isEmpty

/-- A leash record for each request whose queue position fell (21:R305). -/
def tellPositions (k : Nat) (s : State) : State :=
  (waiting (s.kennel k)).zipIdx.foldl (fun s (l, i) =>
    if i < l.qpos then leash k { l with qpos := i } 1 0 i 0 (s.setLease k { l with qpos := i }) else s) s

/-- A port of the cluster does not know a class queue's fullness. -/
def staleReport (s : State) (k : Nat) : Bool :=
  let q := s.kennel k
  s.tiles.any (fun (p, t) => clusterOf p == k && (t.port.fullSd != classFull q false || t.port.fullRv != classFull q true))

/-- An instant by which an event must happen, unless one stands already. -/
def timerOnce (s : State) (at_ : Nat) (i : Instr) : State :=
  if s.timers.any (fun e => e.2 == i) then s else s.timer at_ i

/-- How many grants are owed: a free slot and a request for each. -/
def grantsOwed (q : Kennel) : Nat := min (q.cap - (awakeLeases q).length) (waiting q).length

/-- The first n timers of an event, and every other timer. -/
def keepTimers (i : Instr) : Nat → List (Nat × Instr) → List (Nat × Instr)
  | _, [] => []
  | n, e :: r => if e.2 != i then e :: keepTimers i n r else match n with
    | 0 => keepTimers i 0 r
    | m + 1 => e :: keepTimers i m r

/-- One timer for each grant owed: those that stand keep their instants, a new one follows within 100 ticks (21:R301). -/
def oweGrants (k : Nat) (s : State) : State :=
  let n := grantsOwed (s.kennel k)
  let kept := keepTimers (.grant k) n s.timers
  { s with timers := kept ++ List.replicate (n - kept.countP (fun e => e.2 == .grant k)) (inTicks s 100, .grant k) }

/-- 32 cluster cycles: the ring clock is never stretched (21:R300). -/
def ringRound (s : State) : Nat := 32 * cycLen s.freq.current false

/-- What follows any change at a kennel: queue positions, grants within 100 ticks, a fullness report within 32 cluster
cycles (21:R309). -/
def settle (k : Nat) (s : State) : State :=
  let s := oweGrants k (tellPositions k s)
  if staleReport s k then timerOnce s (s.now + ringRound s) (.fullnessReport k) else s

/-- Performing the writes that an engine issued for a tile, in order: none is made after END (21:R304). One issued at this very
instant, at which it cannot be performed (17:R272), is not made. -/
def flushWrites (w : Who) (s : State) : State :=
  pruneOps ((s.ops.filter (fun o => o.who == w && o.kind == .engWrite)).foldl (fun s o =>
    match s.op o.id with
    | some q =>
      if q.lines.all lineDone then s
      else if q.at_ < s.now then performLine q 0 s
      else s.setOp (q.setLine 0 (fun l => { l with dropped := true }))
    | none => s) s)

/-- Ending a lease with its leash state and cause (21:R303, R304): its work is cut off, commands never delivered are
dropped, and the ending post is due within 5,000 ticks. -/
def endLease (k id : Nat) (code cause : BitVec 8) (s : State) : State :=
  match s.lease k id with
  | none => s
  | some l =>
    if l.st == .ended then s
    else
      let s := flushWrites l.who s
      let s := s.setLease k { l with st := .ended, endAt := kTime s k, endCode := code, cause := cause, cmds := []
                                     run := none, gram := none, pages := [] }
      let s := (l.cmds.filter (fun c => !c.2.2.isEmpty)).foldl (fun s c => postDropped k l.who l.bindNo l.gen c.2.1 s) s
      settle k (s.timer (inTicks s 4850) (.endingLeash k id))

/-- Freeing every lease of a tile, as LFREE does (21:R303). -/
def freeLeases (w : Who) (s : State) : State :=
  s.kennels.foldl (fun s (k, q) => (q.leases.filter (fun l => l.who == w)).foldl (fun s l => endLease k l.id 7 0 s) s) s

/-- The lowest-numbered asleep engine of a class. -/
def asleepEngine (q : Kennel) (cls : Bool) : Nat :=
  ((List.range 12).find? (fun e => (awakeLeases q).all (fun l => l.cls != cls || l.eng != e))).getD 0

/-- The wake latency of a class, in ticks (21:R301). -/
def wakeTicks (cls : Bool) : Nat := if cls then 2000 else 8000

/-- GRANT (21:R301): the oldest accepted request gets the lowest-numbered asleep engine of its class; the earliest of the
grants owed is made. -/
def execGrant (k : Nat) (s : State) : Host.Outcome State Fault Refusal :=
  let q := s.kennel k
  let s := { s with timers := s.timers.eraseP (fun e => e.2 == .grant k) }
  if !canGrant q then .next s
  else
    match waiting q with
    | [] => .next s
    | l :: _ =>
      let g := kTime s k
      let l' := { l with st := .waking, eng := asleepEngine q l.cls, granted := g, wakeDone := g + wakeTicks l.cls
                         expiry := g + wakeTicks l.cls + l.term }
      let s := leash k l' 2 0 0xFFFF 0 (s.setLease k l')
      .next (settle k (s.timer (inTicks s (wakeTicks l.cls)) (.wakeDone k l.id)))

/-- WAKE_DONE (21:R301): the engine is Held and the term begins. -/
def execWakeDone (k id : Nat) (s : State) : Host.Outcome State Fault Refusal :=
  match s.lease k id with
  | none => .next s
  | some l =>
    if l.st != .waking || decide (kTime s k < l.wakeDone) then .next s
    else
      let l' := { l with st := .held }
      .next ((leash k l' 3 0 0xFFFF 0 (s.setLease k l')).timer (inTicks s l.term) (.leaseExpiry k id))

/-- LEASE_EXPIRY (21:R303): the instant X is reached. -/
def execLeaseExpiry (k id : Nat) (s : State) : Host.Outcome State Fault Refusal :=
  match s.lease k id with
  | none => .next s
  | some l => .next (if l.st != .held || decide (kTime s k < l.expiry) then s else endLease k id 5 0 s)

/-- A result of a lease is still under way to mirror 62. -/
def resultUnderWay (s : State) (l : Lease) : Bool :=
  s.posts.any (fun p => p.src == none && p.payload.extractLsb' 0 32 == l.gen && p.payload.extractLsb' 56 8 != 2
    && p.dsts.any (fun d => d.who == l.who && d.mirror == 62 && !d.done))

/-- ENDING_LEASH (21:R304): the ending record, once every result of the lease has arrived. -/
def execEndingLeash (k id : Nat) (s : State) : Host.Outcome State Fault Refusal :=
  match s.lease k id with
  | none => .next s
  | some l =>
    if l.st != .ended || resultUnderWay s l then .next s
    else
      let s := s.onKennel k (fun q => { q with leases := q.leases.filter (fun m => m.id != id) })
      .next (leash k l l.endCode.toNat l.cause.toNat 0xFFFF l.endAt s)

/-- FULLNESS_REPORT (21:R309): every port of the cluster learns whether each class queue is full. -/
def execFullnessReport (k : Nat) (s : State) : Host.Outcome State Fault Refusal :=
  let q := s.kennel k
  .next { s with tiles := s.tiles.map (fun (p, t) =>
    if clusterOf p = k then
      (p, { t with port := { t.port with fullSd := classFull q false, fullRv := classFull q true } })
    else (p, t)) }

/-- The lease that a shed evicts next (21:R303): a Waking one before a Held one, the latest grant first. -/
def evictNext (q : Kennel) : Option Lease :=
  let latest (ls : List Lease) : Option Lease :=
    ls.foldl (fun b l => match b with | none => some l | some m => if m.granted ≤ l.granted then some l else b) none
  (latest (q.leases.filter (fun l => l.st == .waking))).or (latest (q.leases.filter (fun l => l.st == .held)))

/-- The lease that a shed evicts next ends (21:R303). -/
def evictOne (k : Nat) (cause : BitVec 8) (s : State) : State :=
  match evictNext (s.kennel k) with
  | some l => endLease k l.id 4 cause s
  | none => s

/-- Evicting while more than n leases are awake; the fuel bounds the evictions. -/
def evictTo (k n : Nat) (cause : BitVec 8) : Nat → State → State
  | 0, s => s
  | f + 1, s => if (awakeLeases (s.kennel k)).length ≤ n then s else evictTo k n cause f (evictOne k cause s)

/-- A shed lowers the cap by 1, to no less than 2 (21:R303; 25:R339, R342). One that lowers the cap evicts awake leases until at
most that many remain: one at least, if one is awake, as the shed of 24:R336 to cap 5 ends a cluster's only lease (DEDUCED,
log entry 69). -/
def shed (k : Nat) (cause : BitVec 8) (s : State) : State :=
  let old := (s.kennel k).cap
  let cap := max 2 (old - 1)
  let s := (s.onKennel k (fun q => { q with cap := cap, capAt := kTime s k })).timer (inTicks s 1000000) (.capRecovery k)
  oweGrants k (evictTo k cap cause 24 (if cap < old then evictOne k cause s else s))

/-- CAP_RECOVERY (25:R342): 1,000,000 ticks without a shed raise the cap by 1, up to 6. -/
def execCapRecovery (k : Nat) (s : State) : Host.Outcome State Fault Refusal :=
  let q := s.kennel k
  if decide (6 ≤ q.cap) || decide (kTime s k < q.capAt + 1000000) then .next s
  else
    let s := s.onKennel k (fun q => { q with cap := q.cap + 1, capAt := kTime s k })
    .next (settle k (if q.cap + 1 < 6 then s.timer (inTicks s 1000000) (.capRecovery k) else s))

/-- FIRMWARE_PRIORITY_EVICTION (21:R303): a firmware decision names a lease. -/
def execFirmwarePriorityEviction (k id : Nat) (s : State) : Host.Outcome State Fault Refusal := .next (endLease k id 4 3 s)

/-! ### The ring (21:R300) -/

/-- The arrival event of a message kind. -/
def arrivalEvent (k : Nat) (kind : BitVec 2) : Instr :=
  match kind.toNat with
  | 0 => .leaseArrival k
  | 1 => .renewArrival k
  | 2 => .lfreeArrival k
  | _ => .ecmdArrival k

/-- RING_SLOT (21:R300): the tile's slot carries the oldest message of its send queue. Its next one is 32 cluster cycles
away, and the message reaches the kennel by its own bound (log entry 55). Before the slot's instant the message waits for it. -/
def execRingSlot (p : Nat) (s : State) : Host.Outcome State Fault Refusal :=
  let t := s.tile p
  match t.port.queue with
  | [] => .next s
  | m :: r =>
    if !m.ready then .next s
    else if s.now < t.port.slotAt then .next (s.timer t.port.slotAt (.ringSlot p))
    else
      let k := clusterOf p
      let s := s.onTile p (fun t => { t with port := { t.port with queue := r, slotAt := s.now + ringRound s } })
      let s := s.onKennel k (fun q =>
        { q with ring := q.ring ++ [{ who := whoOf t, bindNo := t.bindNo, msg := m }] })
      let s := s.timer m.due (arrivalEvent k m.kind)
      .next (if r.isEmpty then s else s.timer (s.now + ringRound s) (.ringSlot p))

/-- Taking the oldest message of the ring when it is of a kind. -/
def takeRing (k : Nat) (kind : BitVec 2) (s : State) (f : RingMsg → State → State) : State :=
  match (s.kennel k).ring with
  | [] => s
  | m :: r => if m.msg.kind = kind then f m (s.onKennel k (fun q => { q with ring := r })) else s

/-- A tile that may hold leases: its context runs or is frozen there in the same bind, no kill has stopped it, and it is not
leaving. -/
def mayLease (s : State) (w : Who) (b : Nat) : Bool :=
  match physOf s w with
  | some p => ((s.tile p).state == 2 || (s.tile p).state == 3) && !(s.tile p).killed && (s.tile p).bindNo == b
  | none => false

/-- A new request. -/
def leaseOf (m : RingMsg) (t pos : Nat) : Lease :=
  { id := m.msg.id, who := m.who, bindNo := m.bindNo, cls := m.msg.cls, gen := m.msg.gen, term := m.msg.term.toNat, accept := t, st := .queued
    eng := 0xFF, granted := 0, wakeDone := 0, expiry := 0, endAt := 0, endCode := 0, cause := 0, qpos := pos, cmds := []
    run := none, pages := [], gram := none }

/-- LEASE_ARRIVAL (21:R301): refused when its class queue is full, else accepted. A request of a tile that has left in
the meantime ends FREED at once (21:R303). -/
def execLeaseArrival (k : Nat) (s : State) : Host.Outcome State Fault Refusal :=
  .next (takeRing k 0 s (fun m s =>
    let q := s.kennel k
    let l := leaseOf m (kTime s k) (waiting q).length
    if classFull q l.cls then leash k l 6 1 0xFFFF (kTime s k) s
    else
      let s := leash k l 1 0 l.qpos 0 (s.onKennel k (fun q => { q with leases := q.leases ++ [l] }))
      if mayLease s l.who l.bindNo then settle k s else endLease k l.id 7 0 s))

/-- The lease that a message names. -/
def leaseNamed (s : State) (k : Nat) (m : RingMsg) : Option Lease :=
  (s.kennel k).leases.find? (fun l => l.who == m.who && l.bindNo == m.bindNo && l.gen == m.msg.gen && l.st != .ended)

/-- RENEW_ARRIVAL (21:R310). -/
def execRenewArrival (k : Nat) (s : State) : Host.Outcome State Fault Refusal :=
  .next (takeRing k 1 s (fun m s =>
    match leaseNamed s k m with
    | none => s
    | some l =>
      if l.st != .held then s
      else
        let l' := { l with expiry := min (kTime s k + m.msg.term.toNat) (l.wakeDone + 10000000) }
        (leash k l' 3 0 0xFFFF 0 (s.setLease k l')).timer (inTicks s (l'.expiry - kTime s k)) (.leaseExpiry k l.id)))

/-- LFREE_ARRIVAL (21:R310). -/
def execLfreeArrival (k : Nat) (s : State) : Host.Outcome State Fault Refusal :=
  .next (takeRing k 2 s (fun m s =>
    match leaseNamed s k m with
    | none => s
    | some l => endLease k l.id 7 0 s))

/-- ECMD_ARRIVAL (21:R311, 16:R266): delivered to the held engine, held undelivered by a fence, or dropped. -/
def execEcmdArrival (k : Nat) (s : State) : Host.Outcome State Fault Refusal :=
  .next (takeRing k 3 s (fun m s =>
    match (leaseNamed s k m).filter (fun l => l.st == .held) with
    | none => postDropped k m.who m.bindNo m.msg.gen m.msg.line s
    | some l =>
      let ws := if waitsDone s m.who m.msg.waits then [] else m.msg.waits
      let s := s.setLease k { l with cmds := l.cmds ++ [(m.msg.id, m.msg.line, ws)] }
      if ws.isEmpty then s.timer (inTicks s 100) (cmdEvent l.cls m.msg.line k l.id) else s))

/-! ### The instructions (21:R306-R311) -/

/-- The status word. -/
def leaseStatus (gen : BitVec 32) (st : BitVec 2) : X := gen ++ (0 : BitVec 30) ++ st

/-- Writing a status of the port, an input of record and replay: `apart` says whether the ST of a replayed log's word tells of
engine work that the live engine does not do, or does beside the log (25:R358, R359; log entry 16). -/
def statusInput (apart : BitVec 2 → Bool) (d : BitVec 5) (st : BitVec 2) (s : State) : State :=
  let r := logX (leaseStatus s.tl.port.gen st) s
  (if fromLog s r.2 && apart (r.1.extractLsb' 0 2) then diverge r.2 else r.2).onTl (writeL 2 15 (.x d) (val64 r.1))

/-- The status of LEASE, RENEW or LFREE; `idle` lists the codes that the instruction gives only at an IDLE port, where a live port
that is HELD lets its engine go on. -/
def giveStatus (idle : List (BitVec 2)) (d : BitVec 5) (st : BitVec 2) (s : State) : State :=
  statusInput (fun c => idle.contains c && s.tl.port.state == 4) d st s

/-- The status of an ECMD: where the replayed log has the command placed and the live port does not take it, its result cannot
come; where it is placed only live, the engine writes what it did not write in the recorded run. -/
def ecmdStatus (d : BitVec 5) (st : BitVec 2) (s : State) : State := statusInput (fun c => (c == 0) != (st == 0)) d st s

/-- Changing the turn tile's port. -/
def State.onPort (s : State) (f : Port → Port) : State := s.onTl (fun t => { t with port := f t.port })

/-- Placing a message in the turn tile's send queue. Its ring slot comes within 32 cluster cycles for each message before it
and itself, and it reaches the kennel within 150 ticks of its issue and 76 more for each message before it (21:R300). -/
def sendMsg (kind : BitVec 2) (cls : Bool) (term : X) (s : State) : State :=
  let r := s.fresh
  let t := s.tl
  let n := t.port.queue.length
  let m : Msg := { id := r.1, kind := kind, cls := cls, term := term, gen := t.port.gen, line := 0, ready := false
                   waits := if kind = 3 then waitsFor s 7 else [], due := t.clk.start + (150 + 76 * n) * subTick }
  (r.2.onPort (fun p => { p with queue := p.queue ++ [m] })).timer (cycEnd t + (n + 1) * ringRound s) (.ringSlot s.turn)

/-- The send queue holds four messages. -/
def queueFull (t : Tile) : Bool := decide (4 ≤ t.port.queue.length)

/-- A term that LEASE and RENEW refuse. -/
def termBad (v : X) : Bool := v == 0 || decide (10000000 < v.toNat)

/-- LEASE (21:R309). -/
def leaseReq (g : Guard) (cls : Bool) (d a : BitVec 5) (s : State) : Host.Outcome State Fault Refusal :=
  let term := rx s.tl a
  issue { unit := some 15, c17 := if enabled s.tl g && termBad term then some term else none } 4
    (fun s =>
      if !enabled s.tl g then s
      else if s.tl.port.state != 0 || queueFull s.tl then giveStatus [0, 3] d 2 s
      else if (if cls then s.tl.port.fullRv else s.tl.port.fullSd) then giveStatus [0, 3] d 3 s
      else giveStatus [0, 3] d 0 (sendMsg 0 cls term (s.onPort (fun p => { p with gen := p.gen + 1, state := 1, cls := cls })))) s

/-- LEASE.SD (21:R309). -/
def execLeaseSd (g : Guard) (d a : BitVec 5) (s : State) : Host.Outcome State Fault Refusal := leaseReq g false d a s
/-- LEASE.RV (21:R309). -/
def execLeaseRv (g : Guard) (d a : BitVec 5) (s : State) : Host.Outcome State Fault Refusal := leaseReq g true d a s

/-- RENEW (21:R310). -/
def execRenew (g : Guard) (d a : BitVec 5) (s : State) : Host.Outcome State Fault Refusal :=
  let term := rx s.tl a
  issue { unit := some 15, c17 := if enabled s.tl g && termBad term then some term else none } 4
    (fun s =>
      if !enabled s.tl g then s
      else if s.tl.port.state != 4 then giveStatus [] d 1 s
      else if queueFull s.tl then giveStatus [] d 2 s
      else giveStatus [] d 0 (sendMsg 1 s.tl.port.cls term s)) s

/-- LFREE (21:R310). -/
def execLfree (g : Guard) (d : BitVec 5) (s : State) : Host.Outcome State Fault Refusal :=
  issue { unit := some 15 } 4
    (fun s =>
      if !enabled s.tl g then s
      else if s.tl.port.state == 0 then giveStatus [1] d 1 s
      else if queueFull s.tl then giveStatus [1] d 2 s
      else giveStatus [1] d 0 (sendMsg 2 s.tl.port.cls 0 s)) s

/-- The address that ECMD refuses (21:R311). -/
def ecmdBad (a : X) : Bool := a.toNat % 64 != 0 || decide (a.toNat < 0x100000) || decide (0x10FFC0 < a.toNat)

/-- The engine-window bank of an ECMD, whatever its address (21:R311). -/
def ecmdBank (addr : X) : BitVec 32 := bankBit (16 + addr.toNat / 64 % 16)

/-- ECMD (21:R311): its line is read at c+1 into the message placed at c. -/
def execEcmd (g : Guard) (d a : BitVec 5) (s : State) : Host.Outcome State Fault Refusal :=
  let addr := rx s.tl a
  let bank := ecmdBank addr
  issue { unit := some 15, c17 := if enabled s.tl g && ecmdBad addr then some addr else none } 4
    (fun s =>
      if !enabled s.tl g then s.onTl (addJob 1 15 bank .idle)
      else if s.tl.port.state != 4 then ecmdStatus d 1 (s.onTl (addJob 1 15 bank .idle))
      else if s.tl.port.outst == 4 || queueFull s.tl then ecmdStatus d 2 (s.onTl (addJob 1 15 bank .idle))
      else
        let id := s.nextId
        let at_ := s.tl.replay.ptr + 1
        let s := ecmdStatus d 0 ((sendMsg 3 s.tl.port.cls 0 s).onPort (fun p => { p with outst := p.outst + 1 }))
        s.onTl (fun t =>
          let at_ := if t.bind.replay = 2 && !t.replay.live then 0 else at_
          accessEvent 1 (addEv 7 id 0 (addJob 1 15 bank (.ecmdRead d addr.toNat id at_) t)))) s

/-- An ECMD whose line was not read is as one that found the port busy (06:R119): nothing is placed, and its status has ST
10, in a recorded log too (21:R308); a word that a replayed log gave stands. -/
def ecmdUndo (j : Job) (id logAt : Nat) (s : State) : State :=
  let st := leaseStatus s.tl.port.gen 2
  let s := s.onTl (fun t => { t with
    port := { t.port with queue := t.port.queue.filter (fun m => m.id != id)
                          outst := if t.port.outst = 0 then 0 else t.port.outst - 1 }
    evs := t.evs.filter (fun e => e.kind != 7 || e.id != id)
    pend := if logAt = 0 then t.pend else t.pend.map (fun p => if p.order = j.order then { p with val := val64 st } else p) })
  let t := s.tl
  if t.bind.replay = 1 && decide (0 < logAt) && decide (logAt ≤ t.replay.ptr) then
    dvaWrite t.bind.ctx (logBase t + BitVec.ofNat 64 (logAt + 15)) 8 st.toNat s
  else s

/-- The line of an ECMD is read at the end of its cycle, and its message may travel. -/
def ecmdRead (cancelled : Bool) (j : Job) (addr id logAt : Nat) (s : State) : State :=
  if cancelled then ecmdUndo j id logAt s
  else
    let l := mreadLine s.tl.mem addr
    let n := (s.tl.port.queue.takeWhile (fun m => m.id != id)).length
    (s.onPort (fun p => { p with queue := p.queue.map (fun m =>
      if m.id == id then { m with line := l, ready := true } else m) })).timer (cycEnd s.tl + (n + 1) * ringRound s)
      (.ringSlot s.turn)

/-- The messages placed in the cycle that ends may travel; an ECMD's waits for its line. -/
def readyMsgs (t : Tile) : Tile :=
  { t with port := { t.port with queue := t.port.queue.map (fun m => if m.kind = 3 then m else { m with ready := true }) } }

end Sys2Proof.Machine
end

