-- ==== Sys2Proof/Machine/Engine.lean ====
section
/-! DEFINITION. What kennel engines do: the Retriever (spec/22) and the Sheepdog (spec/23). Each event performs one
action of the command under way; a command's writes are one action a line, so that an end of the lease cuts a prefix. -/

namespace Sys2Proof.Machine

/-! ### Commands under way -/

/-- Changing the command under way of a lease. -/
def onRun (k id : Nat) (f : CmdRun → CmdRun) (s : State) : State :=
  match s.lease k id with
  | some l => s.setLease k { l with run := l.run.map f }
  | none => s

/-- The causes that also enter the management core's log (22:R318). -/
def engineFault (k id : Nat) (code : BitVec 8) (failidx : W32) (dva : X) (s : State) : State :=
  match s.lease k id with
  | none => s
  | some l =>
    onRun k id (stopRun code failidx dva) (logEntry l.who.ctx (code, dva) l.gen s)

/-- A window line of a command reads as failing (22:R315): cause 0x21 with the DVA that the result names (22:R318; log entry 59);
no memory stack is to blame. -/
def windowFault (k id : Nat) (failidx : W32) (dva : X) (s : State) : State :=
  match s.lease k id with
  | none => s
  | some l =>
    onRun k id (stopRun 0x21 failidx dva)
      { s with mclog := s.mclog ++ [{ ctx := l.who.ctx, cause := 0x21, dva := dva, gen := l.gen, stack := none }] }

/-- Nothing is left of a command but its result. -/
def runOver (r : CmdRun) : Bool := r.work.isEmpty && r.rows.isEmpty && r.got.isNone

/-- One of n things that no rule orders: the first of one, else a free one (17:R274; log entry 107). -/
def pickOf (n : Nat) (s : State) : Nat × State :=
  if n ≤ 1 then (0, s) else (s.free.1.toNat % n, s.free.2)

/-- The delivered command an idle engine begins (21:R311). -/
def nextCmd (l : Lease) : Option Line :=
  if l.st != .held || l.run.isSome then none
  else
    match l.cmds with
    | (_, line, []) :: _ => some line
    | _ => none

/-- A command begins: `ticks` bounds its result (22:R319, 23:R333). Of them its post takes up to 150, and up to 100 are kept
for a line that the tile's port holds when the rest is over. -/
def beginRun (k : Nat) (l : Lease) (line : Line) (ticks : Nat) (rows : List X) (s : State) : State :=
  s.setLease k { l with cmds := l.cmds.drop 1
                        run := some { line := line, started := kTime s k, due := inTicks s (ticks - 250), work := []
                                      rows := rows, idxs := rows, done := 0, ecode := 0, failidx := 0, faildva := 0, nlegal := 0
                                      token := 0, wrote := [] } }

/-! ### Reads and writes of an engine -/

/-- Delaying the bound of a command under way: 1,200 ticks for a page walk, 40,000 for a row of a Retriever or a line of a
Sheepdog on another package. -/
def addTicks (k id n : Nat) : State → State := onRun k id (fun r => { r with due := r.due + n * subTick })

/-- One address through the engine's page entries (22:R315): the target, or the cause that stops the command. -/
def engTarget (k id : Nat) (dva : X) (write : Bool) (s : State) : Except (BitVec 8) Target × State :=
  match s.lease k id with
  | none => (.error 0x20, s)
  | some l =>
    let held := pageHeld l.who.ctx dva l.pages
    let q := stationLook s l.who.ctx dva l.pages
    let s := s.setLease k { l with pages := q.2 }
    let s := if held then s else addTicks k id 1200 s
    match q.1.bind (fun e => throughPage s e dva write) with
    | none => (.error (if q.1.isNone then walkCause s l.who.ctx dva else 0x20), s)
    | some (.remote p) =>
      if !routeUp s (k / 4) p then (.error 0x23, s)
      else if !remoteHas s p l.who.ctx then (.error 0x20, s.looked)
      else (.ok (.remote p), if l.cls then s.looked else addTicks k id 40000 s.looked)
    | some (.home da tag) => if pathUp s (k / 4) (homeDie da) then (.ok (.home da tag), s) else (.error 0x23, s)

/-- The writes that a tile's Sheepdog issued to the line of a device address are performed, in order: a later read of the
line sees them (23:R332). A Retriever's reads have no such order (17:R274). -/
def flushLine (w : Who) (da : Nat) (s : State) : State :=
  pruneOps ((s.ops.filter (fun o => o.who == w && o.kind == .engWrite && lineHome o 0 == some (da / 64))).foldl (fun s o =>
    match s.op o.id with
    | some q => if q.lines.all lineDone then s else performLine q 0 s
    | none => s) s)

/-- Reading one line at its home station. -/
def engLine (k id : Nat) (dva : X) (s : State) : Except (BitVec 8 × X) Line × State :=
  let q := engTarget k id dva false s
  match q.1, (q.2.lease k id) with
  | .error c, _ => (.error (c, dva), q.2)
  | .ok _, none => (.error (0x20, dva), q.2)
  | .ok (.remote _), some l => (.ok (remoteLineOf q.2 l.who.ctx dva), q.2.looked)
  | .ok (.home da tag), some l =>
    let s := if l.cls then q.2 else flushLine l.who da q.2
    if failing s da then (.error (0x21, dva), s) else (.ok (devLine s tag da), s)

/-- Issuing the write of one translated line of a row, performed where the engine's entry placed it. -/
def engIssue (k id row : Nat) (dva : X) (data : Line) (place : Place) (s : State) : State :=
  match s.lease k id with
  | none => s
  | some l =>
    let r := s.fresh
    let o : MemOp := { id := r.1, who := l.who, die := k / 4, kind := .engWrite, dva := dva
                       lines := [{ data := data, ready := true, performed := false, arrived := false, dropped := false }]
                       b := 0, cmp := 0, ticket := 0, waits := [], held := false, dst := 0, inTrap := false
                       pagesHeld := true, assured := false, late := none, fault := none, reported := false
                       place := some place, at_ := s.now }
    onRun k id (fun c => { c with wrote := c.wrote ++ [(r.1, row)] }) { r.2 with ops := r.2.ops ++ [o] }

/-- Writing one line of a snapshot (23:R332), or the cause that stops the command. -/
def engWrite (k id : Nat) (dva : X) (data : Line) (s : State) : State :=
  let q := engTarget k id dva true s
  match q.1 with
  | .error c => engineFault k id c 0 dva q.2
  | .ok t => engIssue k id 0 dva data t.place q.2

/-- A tile's own access in the current cycle that takes a window line: a write, which an engine's follows (22:R317), or an
ATOM's read (05:R100). -/
def takesLine (line : Nat) : JobOp → Bool
  | .writes l => l.any (fun c => c.1 / 64 == line)
  | .cpyLand _ _ l => l.any (fun a => a / 64 == line)
  | .matomLand _ a | .xfinLand _ a | .atomRead _ _ _ _ a _ _ => a / 64 == line
  | .idle | .idleLand | .load .. | .vload .. | .vloadSe .. | .vatomRead .. | .maskLoad .. | .sampleRead .. | .sampleEnd
  | .mmaRead .. | .mmaLand _ | .wfill .. | .listRead .. | .shadowLoad | .ctab _ | .accRead .. | .rowRead ..
  | .accWrite .. | .postRead .. | .postWrite .. | .ecmdRead .. | .cpywRead .. | .matomRead .. | .sampleMirror ..
  | .landq .. => false

/-- An ATOM that has read the line and still has to write it: its old value is a result still to come. -/
def atomOpen (t : Tile) (line : Nat) (j : Job) : Bool :=
  j.unit == 2 && takesLine line j.op && t.pend.any (fun p => p.order == j.order)

/-- A lane-addressed access holds the window in the current cycle (07:R158), its first of sixteen not counted at the
instant where it begins. -/
def gatherHolds (t : Tile) (begun : Bool) (j : Job) : Bool :=
  j.unit == 8 && j.banks == 0xFFFF0000 && j.cyc == t.abs
    && (begun || !t.jobs.any (fun i => i.order == j.order && i.cyc == t.abs + 15))

/-- The engine port holds a write to a window line at an instant (05:R100, 07:R158, 22:R317). A write made at the instant
where a cycle begins, or while no cycle runs, falls on the cycle that ended before. -/
def portHeld (now : Nat) (t : Tile) (win : Nat) : Bool :=
  let begun := (issuing t || t.issued) && decide (t.clk.start < now)
  t.jobs.any (fun j => (begun && j.cyc == t.abs && takesLine (win / 64) j.op) || atomOpen t (win / 64) j || gatherHolds t begun j)

/-- Writing one line of a tile's engine window at the engine port, or none while the port holds it. -/
def windowWrite (w : Who) (win : Nat) (data : Line) (s : State) : Option State :=
  match physOf s w with
  | none => some s
  | some p =>
    if portHeld s.now (s.tile p) win then none
    else some (s.onTile p (fun t =>
      { t with mem := mwrites t.mem (lineCells win data), badWin := t.badWin.filter (fun b => b != win / 64) }))

/-- A line of a tile's engine window reads as failing at the engine port (22:R315). -/
def badWindow (s : State) (w : Who) (a : Nat) : Bool :=
  match physOf s w with
  | some p => (s.tile p).badWin.contains (a / 64)
  | none => false

/-- n bytes of a tile's engine window. -/
def windowRead (s : State) (w : Who) (a n : Nat) : Nat :=
  match physOf s w with
  | some p => mreadLE (s.tile p).mem a n
  | none => 0

/-- The window line that the next item of a command writes. -/
def headWin (r : CmdRun) : Option Nat :=
  match r.work with
  | .zero _ win :: _ | .maskLine win _ :: _ => some win
  | .gather .. :: _ | .lost .. :: _ | .scatter .. :: _ | .snapLine .. :: _ | [] => none

/-- The end of the tile's cycle under way, or a tick from now when no cycle ends later than now. -/
def nextEdge (now : Nat) (t : Tile) : Nat := if now < cycEnd t then cycEnd t else now + subTick

/-- The instant by which a command goes on: when it is due, or when the tile's cycle that holds its line is over. -/
def goOnAt (w : Who) (r : CmdRun) (s : State) : Nat :=
  match headWin r, physOf s w with
  | some win, some p =>
    if portHeld s.now (s.tile p) win then max r.due (nextEdge s.now (s.tile p)) else max s.now r.due
  | _, _ => max s.now r.due

/-- The one timer of a command under way: the event that carries it on, or its result once nothing else is left. -/
def carryOn (k id : Nat) (again : Instr) (s : State) : State :=
  match s.lease k id with
  | none => s
  | some l =>
    match l.run with
    | none => s
    | some r =>
      let s' := { s with timers := s.timers.filter (fun e => e.2 != again) }
      if runOver r then timerOnce s' (max s.now r.due) (.engineResult k id) else s'.timer (goOnAt l.who r s) again

/-! ### The Retriever (22) -/

/-- ROWSZ. -/
def rvRowsz (l : Line) : Nat := lineBytes l 4 2
/-- COUNT. -/
def rvCount (l : Line) : Nat := lineBytes l 6 2
/-- TABLE. -/
def rvTable (l : Line) : Nat := lineBytes l 8 8
/-- The distance of table rows: STRIDE, or ROWSZ when it is 0. -/
def rvStride (l : Line) : Nat := if lineBytes l 16 4 = 0 then rvRowsz l else lineBytes l 16 4
/-- LIMIT. -/
def rvLimit (l : Line) : Nat := lineBytes l 20 4
/-- IDXADDR. -/
def rvIdx (l : Line) : Nat := lineBytes l 24 4
/-- ROWADDR. -/
def rvRow (l : Line) : Nat := lineBytes l 28 4

/-- A range of n bytes lies in the engine window. -/
def inWindow (a n : Nat) : Bool := decide (0x100000 ≤ a) && decide (a + n ≤ 0x110000)

/-- The error code of a command block that fails a check (22:R314). -/
def rvCheck (l : Line) : Option (BitVec 8) :=
  if lineBytes l 0 1 != 1 && lineBytes l 0 1 != 2 then some 1
  else if lineBytes l 1 1 != 0 || lineBytes l 32 32 != 0 then some 2
  else if rvRowsz l % 64 != 0 || decide (rvRowsz l < 64) || decide (8192 < rvRowsz l) then some 2
  else if rvCount l == 0 || decide (4096 < rvCount l) then some 2
  else if rvTable l % 64 != 0 || lineBytes l 16 4 % 64 != 0 then some 2
  else if rvIdx l % 4 != 0 || !inWindow (rvIdx l) (4 * rvCount l) then some 2
  else if rvRow l % 64 != 0 || !inWindow (rvRow l) (rvRowsz l * rvCount l) then some 2
  else none

/-- The command is a GATHER. -/
def rvGather (l : Line) : Bool := lineBytes l 0 1 == 1

/-- The first failing window line of an index list (22:R315). -/
def badIndex (s : State) (w : Who) (line : Line) : Option Nat :=
  ((List.range ((rvCount line + 15) / 16 + 1)).map (fun j => rvIdx line / 64 * 64 + 64 * j)).find? (fun a =>
    decide (a < rvIdx line + 4 * rvCount line) && badWindow s w a)

/-- IDX[DONE] of a command that stops in its index list at window line a, no row done: the first index, or a free value when
its own line fails (22:R318; log entry 59). The FAILDVA of such a command, which has no DVA to name, is a free value too. -/
def firstIndex (line : Line) (a : Nat) (idx : List X) (s : State) : W32 × State :=
  if a = rvIdx line / 64 * 64 then (s.free.1.setWidth 32, s.free.2) else ((idx.headD 0).setWidth 32, s)

/-- A Retriever begins a command: its checks, then all indices (22:R314, R315). The whole list is read at this one instant, so that
a tile write later than STARTED is never seen in it (DESIGN CHOICE under 22:R317, log entry 108). -/
def rvBegin (k : Nat) (l : Lease) (line : Line) (s : State) : State :=
  match rvCheck line with
  | some e => onRun k l.id (stopRun e 0 0) (beginRun k l line 3000 [] s)
  | none =>
    let idx := (List.range (rvCount line)).map (fun i => BitVec.ofNat 64 (windowRead s l.who (rvIdx line + 4 * i) 4))
    let s' := beginRun k l line (3000 + 8 * rvCount line * rvRowsz line / 64) idx s
    match badIndex s l.who line with
    | some a =>
      let q := firstIndex line a idx s'
      windowFault k l.id q.1 q.2.free.1 q.2.free.2
    | none => s'

/-- The DVA of table row idx. -/
def rvDva (line : Line) (idx : Nat) : X := BitVec.ofNat 64 (rvTable line + idx * rvStride line)

/-- Translating the n lines of a row: the place of each, or the first that fails with its cause. A line whose path is down stops
the row here too, before any line of it is read or written (DESIGN CHOICE: 22:R315 says so of a translation fault; log entry
109). -/
def rowTranslate (k id : Nat) (dva : X) (write : Bool) : Nat → State → Except (BitVec 8 × X) (List Place) × State
  | 0, s => (.ok [], s)
  | n + 1, s =>
    match engTarget k id dva write s with
    | (.error c, s) => (.error (c, dva), s)
    | (.ok t, s) =>
      match rowTranslate k id (dva + 64) write n s with
      | (.error f, s) => (.error f, s)
      | (.ok l, s) => (.ok (t.place :: l), s)

/-- A place in another package. -/
def Place.far : Place → Bool
  | .home .. => false
  | .remote _ => true

/-- Row i is over. -/
def rowDone (r : CmdRun) : CmdRun := { r with rows := r.rows.drop 1, done := r.done + 1 }

/-- A row begins (22:R315); a row on another package may take 40,000 ticks more (R319). -/
def rvRowBegin (k id : Nat) (r : CmdRun) (idx : Nat) (s : State) : State :=
  let n := rvRowsz r.line / 64
  let win := rvRow r.line + rvRowsz r.line * r.done
  let gather := rvGather r.line
  if idx = 0xFFFFFFFF then
    onRun k id (fun q => if gather then { q with work := (List.range n).map (fun j => .zero r.done (win + 64 * j)) }
      else rowDone q) s
  else if rvLimit r.line != 0 && decide (rvLimit r.line ≤ idx) then
    onRun k id (stopRun 3 (BitVec.ofNat 32 idx) 0) s
  else
    let dva := rvDva r.line idx
    match rowTranslate k id dva (!gather) n s with
    | (.error (c, f), s) => engineFault k id c (BitVec.ofNat 32 idx) f s
    | (.ok places, s) =>
      let s := if places.any Place.far then addTicks k id 40000 s else s
      onRun k id (fun q => { q with work := places.zipIdx.map (fun (p, j) =>
        if gather then .gather r.done (dva + BitVec.ofNat 64 (64 * j)) (win + 64 * j)
        else .scatter r.done (win + 64 * j) (dva + BitVec.ofNat 64 (64 * j)) p) }) s

/-- The item is a line of a table row that is still to be read. -/
def unread : Work → Bool
  | .gather .. => true
  | .lost .. | .zero .. | .scatter .. | .maskLine .. | .snapLine .. => false

/-- The line of a row that could not be read, with its cause. -/
def lostLine : Work → Option (BitVec 8 × X)
  | .lost c a => some (c, a)
  | .gather .. | .zero .. | .scatter .. | .maskLine .. | .snapLine .. => none

/-- The n-th of the lines still to be read, with its place among the work. -/
def nthUnread (work : List Work) (n : Nat) : Option (Work × Nat) :=
  (work.zipIdx.filter (fun e => unread e.1))[n]?

/-- Reading one line of a GATHER's row at its home station (22:R315): what stands in its place among the work. -/
def rowRead (k id : Nat) (dva : X) (win : Nat) (s : State) : Work × State :=
  match engLine k id dva s with
  | (.ok l, s) => (.maskLine win l, s)
  | (.error (c, a), s) => (.lost c a, s)

/-- A GATHER reads the lines of a row in no order (17:R274; log entry 107), every one of them before it writes the first; once all
have been read, the first in ascending address that could not be stops the command (22:R315, R318). -/
def gatherStep (k id : Nat) (r : CmdRun) (s : State) : State :=
  let n := pickOf (r.work.countP unread) s
  match nthUnread r.work n.1 with
  | some (.gather _ dva win, i) =>
    let q := rowRead k id dva win n.2
    let work := r.work.set i q.1
    match (if work.any unread then none else work.findSome? lostLine) with
    | some f => engineFault k id f.1 (idxDone r) f.2 q.2
    | none => onRun k id (fun c => { c with work := work }) q.2
  | _ => s

/-- The work after an item of it is done; a row whose work is over is complete. -/
def popWork (work : List Work) (r : CmdRun) : CmdRun :=
  let r := { r with work := work }
  if work.isEmpty && !r.rows.isEmpty then rowDone r else r

/-- One item of a command's work. The failing line of a SCATTER's row is the one of the table that its window line was to
write (22:R315, R318). -/
def workStep (k id : Nat) (w : Who) (r : CmdRun) (s : State) : State :=
  if r.work.any unread then gatherStep k id r s else
  match r.work with
  | [] | .gather .. :: _ | .lost .. :: _ => s
  | .zero _ win :: rest =>
    match windowWrite w win 0 s with
    | some s => onRun k id (popWork rest) s
    | none => s
  | .maskLine win data :: rest =>
    match windowWrite w win data s with
    | some s => onRun k id (popWork rest) s
    | none => s
  | .scatter row win dva place :: rest =>
    if badWindow s w win then windowFault k id (idxDone r) dva s
    else onRun k id (popWork rest) (engIssue k id row dva (BitVec.ofNat 512 (windowRead s w win 64)) place s)
  | .snapLine dva data :: rest =>
    onRun k id (fun q => if q.ecode = 0 then popWork rest q else q) (engWrite k id dva data s)

/-- One step of a Retriever's command (22:R315). -/
def rvStep (k id : Nat) (l : Lease) (r : CmdRun) (s : State) : State :=
  if r.work.isEmpty then
    match r.rows with
    | [] => s
    | i :: _ => rvRowBegin k id r i.toNat s
  else workStep k id l.who r s

/-- GATHER and SCATTER: beginning the delivered command, or carrying it on. -/
def retriever (gather : Bool) (k id : Nat) (again : Instr) (s : State) : State :=
  match s.lease k id with
  | none => s
  | some l =>
    if !l.cls then s
    else
      match l.run with
      | some r =>
        if (lineBytes r.line 0 1 != 2) != gather then s
        else carryOn k id again (if runOver r then s else rvStep k id l r s)
      | none =>
        match nextCmd l with
        | none => s
        | some line => if (lineBytes line 0 1 != 2) != gather then s else carryOn k id again (rvBegin k l line s)

/-- GATHER (22:R313-R317). A command of no assigned code is answered here too. -/
def execGather (k id : Nat) (s : State) : Host.Outcome State Fault Refusal := .next (retriever true k id (.gather k id) s)
/-- SCATTER (22:R313-R317). -/
def execScatter (k id : Nat) (s : State) : Host.Outcome State Fault Refusal := .next (retriever false k id (.scatter k id) s)

/-- A Retriever's result (22:R318). -/
def rvResult (l : Lease) (r : CmdRun) : Line :=
  BitVec.ofNat 512 (resultHeader l.gen r.line (if r.ecode = 0 then 0 else 1) + r.done * 2 ^ 64 + r.ecode.toNat * 2 ^ 80
    + r.failidx.toNat * 2 ^ 96 + r.faildva.toNat * 2 ^ 128 + r.started * 2 ^ 192)

/-! ### The Sheepdog (23) -/

/-- An edge (23:R323). -/
structure Edge where
  lo : Nat
  hi : Nat
  pop : Nat
  push : Nat
  nxt : Nat
  syms : List Nat
  pad : Bool
  deriving DecidableEq, Repr

/-- An edge from its 16 bytes; `pad` is true when a bit that must be zero is set. -/
def edgeOf (v : Nat) : Edge :=
  { lo := v % 2 ^ 18, hi := v / 2 ^ 32 % 2 ^ 18, pop := v / 2 ^ 18 % 4, push := v / 2 ^ 20 % 4, nxt := v / 2 ^ 64 % 2 ^ 16
    syms := [v / 2 ^ 80 % 2 ^ 16, v / 2 ^ 96 % 2 ^ 16, v / 2 ^ 112 % 2 ^ 16]
    pad := v / 2 ^ 22 % 2 ^ 10 != 0 || v / 2 ^ 50 % 2 ^ 14 != 0 }

/-- n edges from a number. -/
def edgesOf (v : Nat) : Nat → List Edge
  | 0 => []
  | n + 1 => edgeOf v :: edgesOf (v / 2 ^ 128) n

/-- The header, its 64 bytes as a number, as a loaded grammar at its start configuration. -/
def gramOf (gbase : X) (v : Nat) : Gram :=
  let f (k n : Nat) : Nat := v / 2 ^ (8 * k) % 2 ^ (8 * n)
  { gbase := gbase, vocab := f 8 4, endtok := f 12 4, nstate := f 16 4, nsym := f 20 2, startsym := f 22 2
    startstate := f 24 4, gsize := f 28 4, indexoff := f 32 8, accoff := f 40 8, edgeoff := f 48 8, nedge := f 56 4
    acc := [], s := f 24 4, stack := if f 22 2 = 0 then [] else [f 22 2], finished := false, steps := 0 }

/-- The header meets R321. -/
def gramOk (v : Nat) (g : Gram) : Bool :=
  let f (k n : Nat) : Nat := v / 2 ^ (8 * k) % 2 ^ (8 * n)
  f 0 4 == 0x53444731 && f 4 2 == 1 && f 6 2 == 0 && f 60 4 == 0
    && decide (1 ≤ g.vocab) && decide (g.vocab ≤ 262144) && decide (g.endtok < g.vocab)
    && decide (1 ≤ g.nstate) && decide (g.nstate ≤ 65536) && decide (g.nsym ≤ 4095) && decide (g.startsym ≤ g.nsym)
    && decide (g.startstate < g.nstate) && decide (g.gsize ≤ 2 ^ 30)
    && g.indexoff % 64 == 0 && g.accoff % 64 == 0 && g.edgeoff % 64 == 0 && decide (g.nedge ≤ 2 ^ 26)
    && decide (g.indexoff + 8 * (g.nstate * (g.nsym + 1)) ≤ g.gsize)
    && decide (g.accoff + (g.nstate + 7) / 8 ≤ g.gsize) && decide (g.edgeoff + 16 * g.nedge ≤ g.gsize)

/-! ### What a Sheepdog reads (23:R322, R327, R330) -/

/-- The lines that a command has read: address, the cause that stopped the read or 0, bytes. -/
abbrev Got := List (X × BitVec 8 × Line)

/-- What follows from the lines read so far: more lines are needed, which no rule orders among themselves (17:R274), or the
command ends with a code and failing address, or a value. -/
inductive Ask (α : Type) where
  | need (lines : List X)
  | fail (f : BitVec 8 × X)
  | ok (a : α)

/-- Going on with a value. -/
def Ask.bind {α β : Type} (x : Ask α) (f : α → Ask β) : Ask β :=
  match x with
  | .need l => .need l
  | .fail e => .fail e
  | .ok a => f a

/-- Two values whose lines are read in any order; the first one's failure comes first. -/
def Ask.both {α β : Type} (x : Ask α) (y : Ask β) : Ask (α × β) :=
  match x, y with
  | .need a, .need b => .need (a ++ b)
  | .need a, .fail _ | .need a, .ok _ => .need a
  | .fail _, .need b | .ok _, .need b => .need b
  | .fail e, .fail _ | .fail e, .ok _ | .ok _, .fail e => .fail e
  | .ok a, .ok b => .ok (a, b)

/-- A line that has been read. -/
def gotLine (g : Got) (a : X) : Option (BitVec 8 × Line) := (g.find? (fun e => e.1 == a)).map (fun e => e.2)

/-- The lines that hold n bytes from an address; no bytes, no line. -/
def readLines (dva : X) (n : Nat) : List X :=
  let off := dva.toNat % 64
  (List.range (if n = 0 then 0 else (off + n + 63) / 64)).map (fun j => dva - BitVec.ofNat 64 off + BitVec.ofNat 64 (64 * j))

/-- Lines that have been read as one number, the first lowest. -/
def gotNat (g : Got) : List X → Nat
  | [] => 0
  | a :: r => ((gotLine g a).map (fun e => e.2.toNat)).getD 0 + 2 ^ 512 * gotNat g r

/-- The first of some lines that could not be read, with its cause. -/
def gotFault (g : Got) (ls : List X) : Option (BitVec 8 × X) :=
  ls.findSome? (fun a => match gotLine g a with
    | some (c, _) => if c = 0 then none else some (c, a)
    | none => none)

/-- n bytes from an address as one number. -/
def gotBytes (g : Got) (dva : X) (n : Nat) : Ask Nat :=
  let ls := readLines dva n
  let missing := ls.filter (fun a => (gotLine g a).isNone)
  if missing.isEmpty then
    match gotFault g ls with
    | some f => .fail f
    | none => .ok (gotNat g ls / 2 ^ (8 * (dva.toNat % 64)) % 2 ^ (8 * n))
  else .need missing

/-- A grammar's header and accepting set (23:R327). -/
def loadGram (got : Got) (gbase : X) : Ask Gram :=
  (gotBytes got gbase 64).bind (fun v =>
    let g := gramOf gbase v
    if !gramOk v g then .fail (5, 0)
    else (gotBytes got (gbase + BitVec.ofNat 64 g.accoff) ((g.nstate + 7) / 8)).bind (fun a =>
      .ok { g with acc := mwriteLE [] 0 ((g.nstate + 7) / 8) a }))

/-- The top symbol (23:R324). -/
def gramTop (g : Gram) : Nat := g.stack.head?.getD 0

/-- The configuration is accepting (23:R324). -/
def accepting (g : Gram) : Bool := (mread g.acc (g.s / 8)).getLsbD (g.s % 8) && g.stack.isEmpty

/-- An edge meets R323. -/
def edgeOk (g : Gram) (e : Edge) : Bool :=
  !e.pad && decide (e.lo ≤ e.hi) && decide (e.hi < g.vocab) && decide (e.nxt < g.nstate)
    && e.syms.zipIdx.all (fun (y, i) => if i < e.push then decide (1 ≤ y) && decide (y ≤ g.nsym) else y == 0)

/-- The edges of an entry are sorted and disjoint (23:R323). -/
def edgesSorted : List Edge → Bool
  | a :: b :: r => decide (a.hi < b.lo) && edgesSorted (b :: r)
  | [_] | [] => true

/-- The index entry of the current configuration (23:R322). -/
def entryOf (got : Got) (g : Gram) : Ask Nat :=
  gotBytes got (g.gbase + BitVec.ofNat 64 (g.indexoff + 8 * (g.s * (g.nsym + 1) + gramTop g))) 8

/-- FIRST of an index entry. -/
def entryFirst (v : Nat) : Nat := v % 2 ^ 32
/-- COUNT of an index entry. -/
def entryCount (v : Nat) : Nat := v / 2 ^ 32 % 2 ^ 16
/-- An index entry meets R322. -/
def entryFits (g : Gram) (v : Nat) : Bool := v / 2 ^ 48 == 0 && decide (entryFirst v + entryCount v ≤ g.nedge)

/-- The edges of the current configuration's index entry (23:R322), checked by R326. Every edge line is read before any edge is
checked, so that a line that cannot be read ends the command with its own code also where an earlier edge misses R323 (DESIGN
CHOICE, log entry 110). -/
def entryEdges (got : Got) (g : Gram) : Ask (List Edge) :=
  (entryOf got g).bind (fun v =>
    if !entryFits g v then .fail (5, 0)
    else (gotBytes got (g.gbase + BitVec.ofNat 64 (g.edgeoff + 16 * entryFirst v)) (16 * entryCount v)).bind (fun w =>
      let es := edgesOf w (entryCount v)
      if es.all (edgeOk g) && edgesSorted es then .ok es else .fail (5, 0)))

/-- An edge that the stack admits (23:R324). -/
def edgeFits (g : Gram) (e : Edge) : Bool :=
  decide (e.pop ≤ g.stack.length) && decide (g.stack.length - e.pop + e.push ≤ 4096)

/-- A token is legal (23:R324). -/
def legalTok (g : Gram) (es : List Edge) (t : Nat) : Bool :=
  !g.finished && (if t = g.endtok then accepting g
    else es.any (fun e => decide (e.lo ≤ t) && decide (t ≤ e.hi) && edgeFits g e))

/-- n bits of a predicate from the k-th on, as a number. -/
def bitsNat (f : Nat → Bool) (k : Nat) : Nat → Nat
  | 0 => 0
  | n + 1 => (if f k then 1 else 0) + 2 * bitsNat f (k + 1) n

/-- Mask line j (23:R328). -/
def maskLineOf (g : Gram) (es : List Edge) (j : Nat) : Line :=
  BitVec.ofNat 512 (bitsNat (fun t => decide (t < g.vocab) && legalTok g es t) (512 * j) 512)

/-- The configuration after a legal token (23:R329). -/
def stepGram (g : Gram) (es : List Edge) (t : Nat) : Gram :=
  if t = g.endtok then { g with finished := true, steps := g.steps + 1 }
  else
    match es.find? (fun e => decide (e.lo ≤ t) && decide (t ≤ e.hi)) with
    | none => g
    | some e => { g with stack := (e.syms.take e.push).reverse ++ g.stack.drop e.pop, s := e.nxt, steps := g.steps + 1 }

/-- The bytes of a snapshot's stack area, symbols of two bytes from the bottom (23:R330). -/
def stackNat : List Nat → Nat
  | [] => 0
  | y :: r => y % 2 ^ 16 + 2 ^ 16 * stackNat r

/-- Lines of a stack of a depth. -/
def stackLines (depth : Nat) : Nat := (2 * depth + 63) / 64

/-- The snapshot's header line (23:R330). -/
def snapHead (g : Gram) : Line :=
  0#256 ++ g.steps ++ g.gbase ++ 0#47 ++ BitVec.ofBool g.finished ++ BitVec.ofNat 16 g.stack.length ++ BitVec.ofNat 32 g.s
    ++ 0x53445331#32

/-- The writes of a SNAP: stack lines in ascending address, then the header line (23:R332). -/
def snapWork (g : Gram) (dva : X) : List Work :=
  let v := stackNat g.stack.reverse
  (List.range (stackLines g.stack.length)).map (fun j =>
    .snapLine (dva + BitVec.ofNat 64 (64 + 64 * j)) (BitVec.ofNat 512 (v / 2 ^ (512 * j))))
    ++ [.snapLine dva (snapHead g)]

/-- The operand of a command block. -/
def sdOperand (l : Line) : Nat := lineBytes l 8 8

/-- The checks that need no grammar (23:R326, first two rows). -/
def sdCheck (l : Line) : Option (BitVec 8) :=
  let op := lineBytes l 0 1
  let x := sdOperand l
  if op = 0 || decide (5 < op) then some 1
  else if lineBytes l 1 1 != 0 || lineBytes l 4 4 != 0 || lineBytes l 16 48 != 0 then some 2
  else if op = 2 then (if decide (2 ^ 32 ≤ x) || x % 64 != 0 || decide (x < 0x100000) then some 2 else none)
  else if op = 3 then (if decide (2 ^ 32 ≤ x) then some 2 else none)
  else if x % 64 != 0 then some 2
  else none

/-- Ending a Sheepdog's command with an error. -/
def sdFail (k id : Nat) (f : BitVec 8 × X) (s : State) : State :=
  if f.1 = 0x20 || f.1 = 0x21 || f.1 = 0x23 then engineFault k id f.1 0 f.2 s else onRun k id (stopRun f.1 0 0) s

/-- Loading a configuration into a lease's engine. -/
def setGram (k id : Nat) (g : Gram) (s : State) : State :=
  match s.lease k id with
  | some l => s.setLease k { l with gram := some g }
  | none => s

/-- Lines of a mask. -/
def maskLines (g : Gram) : Nat := (g.vocab + 511) / 512

/-- MASK (23:R328): its lines become work, in ascending order. -/
def sdMask (k id : Nat) (g : Gram) (x : Nat) (es : List Edge) (s : State) : State :=
  let lines := (List.range (maskLines g)).map (maskLineOf g es)
  let work := lines.zipIdx.map (fun (l, j) => Work.maskLine (x + 64 * j) l)
  onRun k id (fun r => { r with got := none, work := work, nlegal := (List.range g.vocab).countP (legalTok g es) }) s

/-- STEP (23:R326, R329). -/
def sdStep (k id : Nat) (g : Gram) (t : Nat) (es : List Edge) (s : State) : State :=
  if g.finished then sdFail k id (7, 0) s
  else if !legalTok g es t then sdFail k id (6, 0) s
  else setGram k id (stepGram g es t) (onRun k id (fun r => { r with got := none }) s)

/-- The lines of a snapshot with a depth (23:R333). -/
def snapLines (depth : Nat) : Nat := (64 + 2 * depth + 63) / 64

/-- SNAP (23:R330). -/
def sdSnap (k id : Nat) (g : Gram) (x : Nat) (s : State) : State :=
  onRun k id (fun r => { r with work := snapWork g (BitVec.ofNat 64 x) }) s

/-- The record checks that need no grammar (23:R326). -/
def snapOk (v : Nat) : Bool :=
  v % 2 ^ 32 == 0x53445331 && v / 2 ^ 81 % 2 ^ 47 == 0 && v / 2 ^ 256 == 0
    && decide (v / 2 ^ 64 % 2 ^ 16 ≤ 4096) && v / 2 ^ 128 % 64 == 0

/-- DEPTH of a record (23:R330). -/
def snapDepth (v : Nat) : Nat := v / 2 ^ 64 % 2 ^ 16

/-- The symbols of a stack area, bottom first. -/
def stackOf (v : Nat) : Nat → List Nat
  | 0 => []
  | n + 1 => v % 2 ^ 16 :: stackOf (v / 2 ^ 16) n

/-- The configuration of a record (23:R326, R330): its stack area and its grammar are read once its header has been accepted. -/
def snapGram (got : Got) (x : Nat) : Ask Gram :=
  (gotBytes got (BitVec.ofNat 64 x) 64).bind (fun v =>
    if !snapOk v then .fail (8, 0)
    else
      ((gotBytes got (BitVec.ofNat 64 (x + 64)) (2 * snapDepth v)).both (loadGram got (BitVec.ofNat 64 (v / 2 ^ 128)))).bind
        (fun (w, g) =>
          let st := v / 2 ^ 32 % 2 ^ 32
          let stack := stackOf w (snapDepth v)
          if decide (g.nstate ≤ st) || stack.any (fun y => y == 0 || decide (g.nsym < y)) then .fail (8, 0)
          else .ok { g with s := st, stack := stack.reverse, finished := v / 2 ^ 80 % 2 == 1
                            steps := BitVec.ofNat 64 (v / 2 ^ 192) }))

/-- What a command's reads come to: a configuration to load, or the edges of an entry. -/
inductive SdRead where
  | gram (g : Gram)
  | edges (g : Gram) (es : List Edge)

/-- What a command that reads comes to with the lines read so far. -/
def sdAsk (line : Line) (gram : Option Gram) (got : Got) : Ask SdRead :=
  match lineBytes line 0 1, gram with
  | 1, _ => (loadGram got (BitVec.ofNat 64 (sdOperand line))).bind (fun g => .ok (.gram g))
  | 5, _ => (snapGram got (sdOperand line)).bind (fun g => .ok (.gram g))
  | _, some g => (entryEdges got g).bind (fun es => .ok (.edges g es))
  | _, none => .fail (4, 0)

/-- The edges of a configuration's entry, once it has been read. -/
def edgesKnown (got : Got) (g : Gram) : Nat :=
  match entryOf got g with
  | .ok v => if entryFits g v then entryCount v else 0
  | .need _ | .fail _ => 0

/-- What a command's operand and the lines read so far add to its bound in ticks (23:R333). -/
def sdExtra (line : Line) (gram : Option Gram) (got : Got) : Nat :=
  match lineBytes line 0 1, gram with
  | 2, some g => 8 * maskLines g + 16 * edgesKnown got g
  | 3, some g => 16 * edgesKnown got g
  | 4, some g => 8 * snapLines g.stack.length
  | 5, _ =>
    match gotBytes got (BitVec.ofNat 64 (sdOperand line)) 64 with
    | .ok v => if snapOk v then 8 * snapLines (snapDepth v) else 0
    | .need _ | .fail _ => 0
  | _, _ => 0

/-- A command that has read what it needs. -/
def sdDone (k id : Nat) (line : Line) (e : SdRead) (s : State) : State :=
  match e with
  | .gram g => setGram k id g (onRun k id (fun r => { r with got := none }) s)
  | .edges g es => if lineBytes line 0 1 = 2 then sdMask k id g (sdOperand line) es s else sdStep k id g (sdOperand line) es s

/-- A command goes on with the lines read so far: it reads more, fails, or does what it was sent for. -/
def sdGo (k id : Nat) (line : Line) (gram : Option Gram) (got : Got) (s : State) : State :=
  match sdAsk line gram got with
  | .need _ => onRun k id (fun r => { r with got := some got }) s
  | .fail f => sdFail k id f s
  | .ok e => sdDone k id line e s

/-- A read of one line, as the command keeps it. -/
def gotOf (a : X) (r : Except (BitVec 8 × X) Line) : X × BitVec 8 × Line :=
  match r with
  | .ok l => (a, 0, l)
  | .error f => (a, f.1, 0)

/-- An engine of the tile issued a write at this instant, before whose performance no line is read (17:R272, 23:R332). -/
def justWrote (s : State) (w : Who) : Bool := s.ops.any (fun o => o.who == w && o.kind == .engWrite && decide (s.now ≤ o.at_))

/-- One line that a command needs is read, whichever (17:R274; log entry 107). -/
def sdRead (k : Nat) (l : Lease) (line : Line) (got : Got) (s : State) : State :=
  match sdAsk line l.gram got with
  | .need ls =>
    if justWrote s l.who then s
    else
      let n := pickOf ls.length s
      match ls[n.1]? with
      | none => s
      | some a =>
        let q := engLine k l.id a n.2
        let got' := got ++ [gotOf a q.1]
        sdGo k l.id line l.gram got' (addTicks k l.id (sdExtra line l.gram got' - sdExtra line l.gram got) q.2)
  | .fail _ | .ok _ => sdGo k l.id line l.gram got s

/-- The base of a command's bound in ticks (23:R333). -/
def sdTicks (op : Nat) : Nat := if op = 1 || op = 5 then 3000 else 1000

/-- The checks that a command fails before it reads anything, in the order of 23:R326. -/
def sdRefused (line : Line) (gram : Option Gram) : Option (BitVec 8) :=
  let op := lineBytes line 0 1
  match sdCheck line with
  | some e => some e
  | none =>
    match gram with
    | none => if 2 ≤ op ∧ op ≤ 4 then some 4 else none
    | some g =>
      if op = 2 ∧ 0x110000 < sdOperand line + 64 * maskLines g then some 2
      else if op = 3 ∧ g.vocab ≤ sdOperand line then some 2
      else none

/-- A Sheepdog begins a command: the checks that need no read; then a SNAP has its work, and every other command lines to read, one
event each. -/
def sdBegin (k : Nat) (l : Lease) (line : Line) (s : State) : State :=
  let id := l.id
  let op := lineBytes line 0 1
  let s := onRun k id (fun r => { r with token := if op = 3 then BitVec.ofNat 32 (sdOperand line) else 0 })
    (beginRun k l line (sdTicks op) [] s)
  match sdRefused line l.gram with
  | some e => onRun k id (stopRun e 0 0) s
  | none =>
    let s := addTicks k id (sdExtra line l.gram []) s
    match op, l.gram with
    | 4, some g => sdSnap k id g (sdOperand line) s
    | _, _ => sdGo k id line l.gram [] s

/-- The event that runs a command code of a Sheepdog: LOADG's also answers codes that are not assigned. -/
def sdEvent (op : Nat) : Nat := if op = 2 || op = 3 || op = 4 || op = 5 then op else 1

/-- One step of a Sheepdog's command under way. -/
def sdCarry (k : Nat) (l : Lease) (r : CmdRun) (s : State) : State :=
  match r.got with
  | some got => sdRead k l r.line got s
  | none => workStep k l.id l.who r s

/-- A Sheepdog event: beginning the delivered command, one read of it, or one write. -/
def sheepdog (op k id : Nat) (again : Instr) (s : State) : State :=
  match s.lease k id with
  | none => s
  | some l =>
    if l.cls then s
    else
      match l.run with
      | some r =>
        if sdEvent (lineBytes r.line 0 1) != op then s
        else carryOn k id again (if runOver r then s else sdCarry k l r s)
      | none =>
        match nextCmd l with
        | none => s
        | some line => if sdEvent (lineBytes line 0 1) != op then s else carryOn k id again (sdBegin k l line s)

/-- LOADG (23:R327). -/
def execLoadg (k id : Nat) (s : State) : Host.Outcome State Fault Refusal := .next (sheepdog 1 k id (.loadg k id) s)
/-- MASK (23:R328). -/
def execMask (k id : Nat) (s : State) : Host.Outcome State Fault Refusal := .next (sheepdog 2 k id (.mask k id) s)
/-- STEP (23:R329). -/
def execStep (k id : Nat) (s : State) : Host.Outcome State Fault Refusal := .next (sheepdog 3 k id (.step k id) s)
/-- SNAP (23:R330). -/
def execSnap (k id : Nat) (s : State) : Host.Outcome State Fault Refusal := .next (sheepdog 4 k id (.snap k id) s)
/-- RESTORE (23:R330). -/
def execRestore (k id : Nat) (s : State) : Host.Outcome State Fault Refusal := .next (sheepdog 5 k id (.restore k id) s)

/-- FLAGS of a Sheepdog's result (23:R331). -/
def sdFlags (l : Lease) (r : CmdRun) : Nat :=
  (if lineBytes r.line 0 1 = 2 && r.ecode = 0 && r.nlegal = 0 then 1 else 0)
    + (match l.gram with
      | some g => (if accepting g then 2 else 0) + (if g.finished then 4 else 0)
      | none => 0)

/-- A Sheepdog's result (23:R331). -/
def sdResult (l : Lease) (r : CmdRun) : Line :=
  let g := l.gram
  BitVec.ofNat 512 (resultHeader l.gen r.line (if r.ecode = 0 then 0 else 1) + r.ecode.toNat * 2 ^ 64
    + sdFlags l r * 2 ^ 72 + (g.map (fun g => g.stack.length)).getD 0 * 2 ^ 80 + (g.map (fun g => g.s)).getD 0 * 2 ^ 96
    + r.nlegal * 2 ^ 128 + r.token.toNat * 2 ^ 160 + ((g.map (fun g => g.steps.toNat)).getD 0) * 2 ^ 192
    + r.started * 2 ^ 256 + r.faildva.toNat * 2 ^ 320)

/-- A SNAP that a fault ended leaves no snapshot that 23:R330 accepts: a line of no stated contents, but no SMAGIC, takes its
header's place, where that can be written (23:R326; log entry 56). -/
def spoilSnap (k : Nat) (l : Lease) (r : CmdRun) (s : State) : State :=
  let dva := BitVec.ofNat 64 (sdOperand r.line)
  if !l.cls && lineBytes r.line 0 1 == 4 && (r.ecode == 0x20 || r.ecode == 0x21 || r.ecode == 0x23) then
    let q := engTarget k l.id dva true s
    match q.1 with
    | .error _ => q.2
    | .ok t => engIssue k l.id 0 dva (Config.freeLine q.2.freeCount <<< 32) t.place q.2.looked
  else s

/-- ENGINE_RESULT (21:R312): the result of a finished command, then the next one within 100 ticks. A timer of it that stands
is the command's own and goes with it. -/
def execEngineResult (k id : Nat) (s : State) : Host.Outcome State Fault Refusal :=
  match s.lease k id with
  | none => .next s
  | some l =>
    match l.run with
    | none => .next s
    | some r =>
      if !runOver r || l.st != .held then .next s
      else
        let s := spoilSnap k l r { s with timers := s.timers.filter (fun e => e.2 != .engineResult k id) }
        let l := (s.lease k id).getD l
        let wrote := ((((l.run.map (fun q => q.wrote)).getD r.wrote)).map (fun w => w.1)).filter (fun o => (s.op o).isSome)
        let s := kennelPost k l.who l.bindNo 62 (if l.cls then rvResult l r else sdResult l r) wrote s
        let l' := { l with run := none }
        let s := s.setLease k l'
        .next (match nextCmd l' with
          | some line => s.timer (inTicks s 100) (cmdEvent l.cls line k id)
          | none => s)

end Sys2Proof.Machine
end

