-- ==== Sys2Proof/Machine/Matrix.lean ====
section
/-! DEFINITION. The weight-stationary array: its state's readings, the fused dot-add, and the ten matrix instructions
(spec/08, spec/09). -/

namespace Sys2Proof.Machine

/-! ### Bands (08:R165-R168) -/

/-- The bands of a mask, in rising order. -/
def bandList (m : BitVec 4) : List Nat := (List.range 4).filter (fun k => m.getLsbD k)

/-- The state of band k. -/
def bandOf (t : Tile) (k : Nat) : Band := t.arr.band.toList.getD k .asleep

/-- The bands of a mask that are not Awake. -/
def notAwake (t : Tile) (m : BitVec 4) : BitVec 4 :=
  (bandList m).foldl (fun r k => if bandOf t k = .awake then r else r ||| BitVec.ofNat 4 (2 ^ k)) 0

/-- A band of the mask is still in use by an earlier WLOAD or MMA (08:R167). -/
def bandsInUse (t : Tile) (m : BitVec 4) : Bool := (bandList m).any (fun k => decide (t.abs < t.arr.bandUse.getD k 0))

/-- Using the bands of a mask up to a cycle. -/
def useBands (m : BitVec 4) (last : Nat) (a : ArraySt) : ArraySt :=
  { a with bandUse := (List.range 4).map (fun k =>
      if m.getLsbD k then max (a.bandUse.getD k 0) (last + 1) else a.bandUse.getD k 0) }

/-- One band after an ASHAPE with its bit (08:R166): the wake of 2,000 counted cycles begins, goes on, or is dropped. A
band that is not functional starts no wake. -/
def bandNext (ok bit : Bool) : Band → Band
  | .asleep => if bit && ok then .waking 2000 else .asleep
  | .waking n => if bit then .waking n else .asleep
  | .awake => if bit then .awake else .asleep

/-- The band whose rows byte k of a column record holds in a format (08:R170): none for the bytes beyond those used and the
pad bytes of 03:R67. A band's rows hold a quarter of the record's elements, in whole SE blocks. -/
def byteBand (f : Ty) (k : Nat) : Option Nat :=
  match f with
  | .se4 =>
    let b := k / 64 * 6 + k % 64 / 10
    if k % 64 < 60 && b < 32 then some (b / 8) else none
  | .se2 =>
    let b := k / 64 * 10 + k % 64 / 6
    if k % 64 < 60 && b < 64 then some (b / 16) else none
  | .bf16 | .f16 | .i16 | .n16 | .e4m3 | .e5m2 | .i8 | .n8 | .se7 | .lut4 | .i32 | .i64 | .n32 | .n64 | .f32 | .e2m1 =>
    if k < 256 then some (k / 64) else none

/-- The bytes of a record that a format uses (08:R170). -/
def usedByte (f : Ty) (k : Nat) : Bool := (byteBand f k).isSome

/-- Byte k of a record belongs to the rows of a mask's bands. -/
def inBands (f : Ty) (m : BitVec 4) (k : Nat) : Bool := (byteBand f k).any (fun b => m.getLsbD b)

/-- A plane whose rows of the bands outside a mask are empty (08:R168). -/
def Plane.keep (m : BitVec 4) (p : Plane) : Plane :=
  { p with loaded := p.loaded &&& m, bad := p.bad.filter (fun b => inBands p.fmt (p.loaded &&& m) (b % 512)) }

/-- ASHAPE's effect (08:R166, R168). -/
def setShape (m : BitVec 4) (a : ArraySt) : ArraySt :=
  { a with ashape := m
           band := Vector.ofFn (fun k : Fin 4 => bandNext (a.bandOk.getLsbD k) (m.getLsbD k) a.band[k])
           plane0 := a.plane0.keep m, plane1 := a.plane1.keep m }

/-- ASHAPE (09:R189). -/
def execAshape (g : Guard) (m : BitVec 4) (s : State) : Host.Outcome State Fault Refusal :=
  issue { arr := bandsInUse s.tl (~~~m) } 4
    (fun s => if enabled s.tl g then s.onTl (fun t => { t with arr := setShape m t.arr }) else s) s

/-! ### Resources (09:R187, R188) -/

/-- The intervals of an instruction meet one that an earlier instruction holds. Resources: 0 WSRAM port, 1 stream path,
2 accumulator write port, 3 and 4 accumulator read ports A and B, 5 loading path of a WLOAD. -/
def resClash (t : Tile) (need : List (Nat × Nat × Nat)) : Bool :=
  need.any (fun (r, f, l) => t.arr.holds.any (fun (q, f', l') => q == r && decide (f ≤ l') && decide (f' ≤ l)))

/-- Holding resources. -/
def resHold (need : List (Nat × Nat × Nat)) (t : Tile) : Tile :=
  { t with arr := { t.arr with holds := t.arr.holds ++ need } }

/-- x[A] + SPOFF modulo 2^64 (09:R185). -/
def maddr (t : Tile) (a : BitVec 5) (spoff : BitVec 21) : X := rx t a + spoff.setWidth 64

/-- An address that is a multiple of k with n bytes wholly in one region. -/
def spanOk (addr : X) (k n : Nat) : Bool := addr.toNat % k == 0 && inOneRegion addr.toNat n

/-- A list of jobs, n of them from the i-th on. -/
def jobsFrom (f : Nat → Tile → Tile) (i : Nat) : Nat → Tile → Tile
  | 0, t => t
  | n + 1, t => jobsFrom f (i + 1) n (f i t)

/-- Stores written anew read as failing no more: n of the array's store numbers from a (08:R182; log entry 23). -/
def ArraySt.renewed (a n : Nat) (q : ArraySt) : ArraySt :=
  { q with badBytes := q.badBytes.filter (fun b => decide (b < a) || decide (a + n ≤ b)) }

/-! ### WFILL (09:R190) -/

/-- Set and first column of x[B]. -/
def wfillDst (x : X) (j : Nat) : Nat := ((x.extractLsb' 8 7).toNat + j) * 0x8000 + 512 * (x.extractLsb' 0 6).toNat

/-- WFILL (09:R190). -/
def execWfill (g : Guard) (a b : BitVec 5) (nrow : BitVec 8) (spoff : BitVec 21) (s : State) :
    Host.Outcome State Fault Refusal :=
  let addr := maddr s.tl a spoff
  let xb := rx s.tl b
  let n := nrow.toNat + 1
  let cols := (xb.extractLsb' 8 7).toNat + n
  let need := [(0, s.tl.abs, s.tl.abs + n)]
  issue { c17 := firstFail [(xb &&& ~~~0x7F3F != 0, xb), (decide (128 < cols), BitVec.ofNat 64 cols),
                            (!spanOk addr 64 (512 * n), addr)]
          arr := resClash s.tl need } 12
    (fun s => s.onTl (fun t =>
      let en := enabled t g
      let t' := resHold need (jobsFrom (fun j => addJob (1 + j) 11 (rangeBanks (addr.toNat + 512 * j) 512)
        (if en then .wfill (wfillDst xb j) (addr.toNat + 512 * j) else .idle)) 0 n t)
      if en then accessEvent n { t' with arr := { t'.arr with wsramDirty := true } } else t')) s

/-- WFILL's write of one record: WSRAM, and the mark on the planes a WLOAD loaded from the set (06:R132). -/
def wfillWrite (dst src : Nat) (t : Tile) : Tile :=
  let a := t.arr
  let mark (p : Plane) : Plane := if p.latched && p.woff == dst % 0x8000 then { p with stale := true } else p
  { t with arr := ArraySt.renewed dst 512 { a with wsram := mwriteLE a.wsram dst 512 (mreadLE t.mem src 512)
                                                   plane0 := mark a.plane0, plane1 := mark a.plane1 } }

/-! ### CTAB (09:R194) -/

/-- CTAB (09:R194). -/
def execCtab (g : Guard) (a : BitVec 5) (spoff : BitVec 21) (s : State) : Host.Outcome State Fault Refusal :=
  let addr := maddr s.tl a spoff
  issue { c17 := if spanOk addr 32 32 then none else some addr } 12
    (fun s => s.onTl (fun t =>
      let t' := addJob 1 11 (bankBit (bankOf addr.toNat)) (if enabled t g then .ctab addr.toNat else .idle) t
      if enabled t g then accessEvent 1 t' else t')) s

/-- Sixteen BF16 entries at an address. -/
def codeTable (m : Memory) (addr : Nat) : List (BitVec 16) :=
  (List.range 16).map (fun i => BitVec.ofNat 16 (mreadLE m (addr + 2 * i) 2))

/-! ### WLOAD (09:R191, R192) -/

/-- The check that every WLOAD and MMA makes of the bands of ASHAPE (08:R167). -/
def bandCheck (t : Tile) : Option X :=
  if notAwake t t.arr.ashape = 0 then none else some ((notAwake t t.arr.ashape).setWidth 64)

/-- A plane by its place. -/
def ArraySt.plane (a : ArraySt) (one : Bool) : Plane := if one then a.plane1 else a.plane0

/-- Replacing a plane. -/
def ArraySt.setPlane (a : ArraySt) (one : Bool) (p : Plane) : ArraySt :=
  if one then { a with plane1 := p } else { a with plane0 := p }

/-- An MMA still lands at or after a cycle from a plane (09:R193). -/
def planeRead (t : Tile) (one : Bool) (c : Nat) : Bool := t.arr.mmas.any (fun m => m.plane1 == one && decide (c ≤ m.lastLand))

/-- The failing WSRAM bytes that a WLOAD of a format reads of a set: those of the rows of the bands it names (08:R182,
09:R192). -/
def badOfSet (a : ArraySt) (f : Ty) (set : Nat) (m : BitVec 4) : List Nat :=
  a.badBytes.filter (fun b => decide (b < 2 ^ 22) && b / 512 % 64 == set && inBands f m (b % 512))

/-- EINFO of the first of a list of failing WSRAM offsets (08:R182): of several that one instruction meets, the first listed, a
plane's before an accumulator row's (DESIGN CHOICE, log entry 85). The bits that R182 does not name are 0 (DESIGN CHOICE, log entry
99). -/
def badWeights (l : List Nat) : Option X := l.head?.map (fun b => 0x8000000000000000 + BitVec.ofNat 64 b)

/-- A row of a range of accumulator rows reads as failing. Bits 31:24 hold 0x80 + the row modulo 256, since the sum does not
fit them for rows 128 to 255 (DESIGN CHOICE, log entry 77). The bits that R182 does not name are 0 (DESIGN CHOICE, log entry 99). -/
def badRow (t : Tile) (row n : Nat) : Option X :=
  (t.arr.badBytes.find? (fun b => decide (2 ^ 22 + row ≤ b) && decide (b < 2 ^ 22 + row + n))).map
    (fun b => 0x8000000000000000 + BitVec.ofNat 64 ((0x80 + (b - 2 ^ 22)) % 256 * 2 ^ 24))

/-- WLOAD (09:R191, R192). -/
def execWload (g : Guard) (ty : Ty) (d a b : BitVec 5) (spoff : BitVec 21) (s : State) :
    Host.Outcome State Fault Refusal :=
  let t := s.tl
  let addr := maddr t a spoff
  let set := rx t b
  let cnt := rx t d
  let nl := (cnt.toNat + 7) / 8
  let bands := t.arr.ashape
  let fin := 32 * popFrom bands 4
  let need := [(0, t.abs, t.abs + fin), (5, t.abs, t.abs + fin)]
  issue { c17 := firstFail [(decide (63 < set.toNat), set), (decide (512 < cnt.toNat), cnt),
                            (cnt != 0 && !spanOk addr 64 (64 * nl), addr), (bands == 0, 0)]
          arr := resClash t need || planeRead t (!t.arr.active1) (t.abs + fin)
          c15 := bandCheck t
          esc := if enabled t g then badWeights (badOfSet t.arr ty set.toNat bands) else none } 12
    (fun s => s.onTl (fun t =>
      let en := enabled t g
      let t1 := jobsFrom (fun i =>
        let lines := (List.range 2).filterMap (fun k =>
          if 2 * i + k < nl then some (addr.toNat + 64 * (2 * i + k)) else none)
        addJob (1 + i) 11 (banksOf lines) (if en then .listRead (2 * i) lines else .idle)) 0 ((nl + 1) / 2) t
      let t2 := addJob fin 11 0 (if en then .shadowLoad else .idle) (resHold need t1)
      let t3 := { t2 with arr := useBands bands (t.abs + fin) t2.arr }
      if en then
        let run : WloadRun := { order := t.order, fmt := ty, set := set.toNat, codes := t.arr.stage, bands := bands
                                nout := cnt.toNat, outl := [], failed := false, plane1 := !t.arr.active1 }
        let t4 := { t3 with arr := { t3.arr with wloads := t3.arr.wloads ++ [run] } }
        if cnt = 0 then t4 else accessEvent ((nl + 1) / 2) t4
      else t3)) s

/-- The column records of a set, column n's at 512n. -/
def setRecords (wsram : Memory) (f : Ty) (set : Nat) : Memory :=
  wsram.filterMap (fun (a, v) =>
    if a % 0x8000 / 512 = set && usedByte f (a % 512) then some (512 * (a / 0x8000) + a % 512, v) else none)

/-- The end of a WLOAD (09:R192): the shadow plane takes everything at once, unless the load failed. -/
def shadowLoad (order : Nat) (t : Tile) : Tile :=
  match t.arr.wloads.find? (fun r => r.order == order) with
  | none => t
  | some r =>
    let a := { t.arr with wloads := t.arr.wloads.filter (fun q => q.order != order) }
    if r.failed then { t with arr := a }
    else
      let pl : Plane := { weights := setRecords a.wsram r.fmt r.set, loaded := r.bands, fmt := r.fmt, codes := r.codes
                          outl := r.outl.map (fun e => e.2), woff := 512 * r.set, stale := false
                          latched := true, bad := badOfSet a r.fmt r.set r.bands }
      { t with arr := a.setPlane r.plane1 pl }

/-- Entries j to j+n−1 of a list line (08:R179), those below the count. -/
def listEntries (m : Memory) (nout addr j : Nat) : Nat → Table X
  | 0 => []
  | n + 1 =>
    (if j < nout then [(j, BitVec.ofNat 64 (mreadLE m addr 8))] else []) ++ listEntries m nout (addr + 8) (j + 1) n

/-- One list line read, or not read when its bank use was cancelled; a bad entry also spoils the load (09:R192). -/
def listLine (cancelled : Bool) (m : Memory) (t : Tile) (addr l : Nat) (r : WloadRun) : WloadRun :=
  if cancelled || (badEntry t r addr (8 * l) 8).isSome then { r with failed := true }
  else { r with outl := r.outl ++ listEntries m r.nout addr (8 * l) 8 }

/-! ### MMA (09:R193, R195-R197) -/

/-- Elements of one activation row (08:R183). -/
def rowElems (p nb : Nat) : Nat := 32 * p * nb

/-- Lines of one activation row. -/
def actLines (f : Ty) (p nb : Nat) : Nat :=
  match Ty.se f with
  | some _ => (rowElems p nb / 16 + blocksPerLine f - 1) / blocksPerLine f
  | none => (rowElems p nb * (elemBits f / 8) + 63) / 64

/-- Element e of a row of a format, the row's bytes as one number (03:R54, R67). -/
def rowElem (f : Ty) (row e : Nat) : Ext :=
  match Ty.se f with
  | some q =>
    let per := blocksPerLine f
    seDecode q (row / 2 ^ (8 * (64 * (e / (16 * per)) + seBytes q * (e / 16 % per))) % 2 ^ (8 * seBytes q)) (e % 16)
  | none => elemValue f (row / 2 ^ (elemBits f * e) % 2 ^ elemBits f)

/-- Weight k of a column record, LUT4 codes through the plane's table (03:R69). -/
def weightElem (p : Plane) (rec k : Nat) : Ext :=
  if p.fmt = .lut4 then decodeFloat bf16 (p.codes.getD (rec / 16 ^ k % 16) 0).toNat else rowElem p.fmt rec k

/-- The pairs (k, e) of an MMA (08:R176) whose rows are not empty. -/
def activePairs (pl : Plane) (bands : BitVec 4) (p h : Nat) : List (Nat × Nat) :=
  let pw := packing pl.fmt
  (((bandList bands).zipIdx.filter (fun (b, _) => pl.loaded.getLsbD b)).map (fun (b, rank) =>
    (List.range (32 * p)).map (fun q =>
      (pw * (32 * b + q / p) + h * p + q % p, 32 * p * rank + q)))).flatten

/-- An outlier entry's fields (08:R179). -/
def outK (e : X) : Nat := (e.extractLsb' 32 10).toNat
/-- Its column. -/
def outN (e : X) : Nat := (e.extractLsb' 42 7).toNat

/-- The terms of one element (08:R177). -/
def dotTerms (pl : Plane) (pairs : List (Nat × Nat)) (f : Ty) (row n : Nat) : List Ext :=
  let rec_ := mreadLE pl.weights (512 * n) 512
  pairs.map (fun (k, e) => mulExt (rowElem f row e) (weightElem pl rec_ k))
    ++ (pl.outl.filter (fun o => outN o == n)).filterMap (fun o =>
      (pairs.find? (fun (k, _) => k == outK o)).map (fun (_, e) => mulExt (rowElem f row e) (valF32 (o.extractLsb' 0 32))))

/-- Accumulator element n of a row. -/
def accElem (t : Tile) (row n : Nat) : W32 := BitVec.ofNat 32 (mreadLE t.arr.acc (512 * row + 4 * n) 4)

/-- A row of 128 FP32 elements as one number. -/
def rowNat (f : Nat → W32) : Nat → Nat
  | 0 => 0
  | n + 1 => rowNat f n + (f n).toNat * 2 ^ (32 * n)

/-- Writing an accumulator row. -/
def accWrite (row : Nat) (v : Nat) (t : Tile) : Tile :=
  { t with arr := ArraySt.renewed (2 ^ 22 + row) 1 { t.arr with acc := mwriteLE t.arr.acc (512 * row) 512 v } }

/-- Row m of an MMA lands (09:R197), if its read was performed. -/
def mmaLand (r : MmaRun) (m : Nat) (t : Tile) : Tile :=
  match tfind r.act m with
  | none => t
  | some row =>
    let pl := t.arr.plane r.plane1
    let p := min (packing pl.fmt) (packing r.fmt)
    let pairs := activePairs pl r.bands p r.h
    accWrite (r.arow + m) (rowNat (fun n =>
      rneF32 (exactSum (dotTerms pl pairs r.fmt row n
        ++ (if r.acc then [valF32 (accElem t (r.arow + m) n)] else [])))) 128) t

/-- MMA (09:R195-R197). A nullified one holds what an enabled one holds, on the plane active at its issue, which a later WLOAD
finds in use (09:R193; DEDUCED, log entry 21). It meets every failing byte of the bands that its plane was loaded with, also in
sub-position groups that it does not multiply (DESIGN CHOICE, log entry 85). -/
def execMma (g : Guard) (ty : Ty) (acc swap : Bool) (h : BitVec 3) (a : BitVec 5) (arow nrow : BitVec 8)
    (spoff : BitVec 21) (s : State) : Host.Outcome State Fault Refusal :=
  let t := s.tl
  let addr := maddr t a spoff
  let m := nrow.toNat + 1
  let bands := t.arr.ashape
  let nb := popFrom bands 4
  let pl := t.arr.plane (t.arr.active1 != swap)
  let pw := packing pl.fmt
  let p := min pw (packing ty)
  let lines := actLines ty p nb
  let land := t.abs + 32 * nb + 8
  let need := [(1, t.abs, t.abs + m - 1), (2, land, land + m - 1)] ++ (if acc then [(3, land, land + m - 1)] else [])
  issue { c17 := firstFail [(decide (256 < arow.toNat + m), BitVec.ofNat 64 (arow.toNat + m)),
                            (addr.toNat % 64 != 0 || decide (0x100000 < addr.toNat + 64 * lines * m), addr),
                            (decide (pw / p ≤ h.toNat), h.setWidth 64), (bands == 0, 0)]
          arr := resClash t need || (swap && resClash t [(5, t.abs, t.abs)])
          c15 := bandCheck t
          esc := if enabled t g then (badWeights pl.bad).or (if acc then badRow t arow.toNat m else none) else none } 12
    (fun s => s.onTl (fun t =>
      let en := enabled t g
      let plane1 := if en then t.arr.active1 != swap else t.arr.active1
      let t1 := jobsFrom (fun i => addJob (1 + i) 11 (rangeBanks (addr.toNat + 64 * lines * i) (64 * lines))
        (if en then .mmaRead i (addr.toNat + 64 * lines * i) lines else .idle)) 0 m t
      let t2 := if en then jobsFrom (fun i => addJob (32 * nb + 8 + i) 11 0 (.mmaLand i)) 0 m t1 else t1
      let t3 := resHold need { t2 with arr := useBands bands (t.abs + m + 32 * nb + 7) t2.arr }
      let run : MmaRun := { order := t.order, fmt := ty, acc := acc, h := h.toNat, arow := arow.toNat, rows := m
                            plane1 := plane1, bands := bands, act := [], lastLand := land + m - 1 }
      let t4 := { t3 with arr := { t3.arr with active1 := plane1, mmas := t3.arr.mmas ++ [run] } }
      if en then accessEvent m t4 else t4)) s

/-! ### Accumulator transfers (09:R198-R200) -/

/-- Lines of a transferred row (09:R198). -/
def accLines : Option Ty → Nat
  | none => 8
  | some f =>
    match Ty.se f with
    | some q => if q = .se2 then 1 else 2
    | none => 128 * (elemBits f / 8) / 64

/-- A row of the accumulator encoded for ACCRD or ACCSAVE, as the bytes of its lines (09:R199). -/
def encodeRow (t : Tile) (row : Nat) (fmt : Option Ty) : Nat :=
  match fmt with
  | none => rowNat (accElem t row) 128
  | some f =>
    match Ty.se f with
    | some q =>
      (List.range 8).foldl (fun v b =>
        v + seEncode q ((List.range 16).map (fun i => valF32 (accElem t row (16 * b + i))))
          * 2 ^ (8 * (64 * (b / blocksPerLine f) + seBytes q * (b % blocksPerLine f)))) 0
    | none =>
      (List.range 128).foldl (fun v n =>
        v + elemRound f .ne (valF32 (accElem t row n)) * 2 ^ (elemBits f * n)) 0

/-- A row for ACCWR or ACCREST decoded from the bytes of its lines (09:R199). -/
def decodeRow (fmt : Option Ty) (bytes : Nat) : Nat :=
  match fmt with
  | none => bytes % 2 ^ 4096
  | some f => rowNat (fun n => rneF32 (rowElem f bytes n)) 128

/-- The checks of the four transfers, in the order in which 09:R198 states them (log entry 63). -/
def accBad (arow m : Nat) (addr : X) (lines : Nat) : Option X :=
  firstFail [(!spanOk addr 64 (64 * lines * m), addr), (decide (256 < arow + m), BitVec.ofNat 64 (arow + m))]

/-- ACCRD and ACCSAVE: rows read at c+1+m, their lines written at c+2+m. -/
def accOut (g : Guard) (fmt : Option Ty) (a : BitVec 5) (arow nrow : BitVec 8) (spoff : BitVec 21) (s : State) :
    Host.Outcome State Fault Refusal :=
  let addr := maddr s.tl a spoff
  let m := nrow.toNat + 1
  let lines := accLines fmt
  let need := [(4, s.tl.abs + 1, s.tl.abs + m)]
  issue { c17 := accBad arow.toNat m addr lines, arr := resClash s.tl need
          esc := if enabled s.tl g then badRow s.tl arow.toNat m else none } 12
    (fun s => s.onTl (fun t =>
      let en := enabled t g
      let t1 := jobsFrom (fun i t =>
        let t := if en then
          addJob (1 + i) 11 0 (.accRead (arow.toNat + i) fmt (addr.toNat + 64 * lines * i)) t else t
        addJob (2 + i) 11 (rangeBanks (addr.toNat + 64 * lines * i) (64 * lines)) .idle t) 0 m (resHold need t)
      if en then accessEvent (m + 1) t1 else t1)) s

/-- ACCWR and ACCREST: lines read at c+1+m, rows written at the end of c+2+m. -/
def accIn (g : Guard) (fmt : Option Ty) (a : BitVec 5) (arow nrow : BitVec 8) (spoff : BitVec 21) (s : State) :
    Host.Outcome State Fault Refusal :=
  let addr := maddr s.tl a spoff
  let m := nrow.toNat + 1
  let lines := accLines fmt
  let need := [(2, s.tl.abs + 2, s.tl.abs + 1 + m)]
  issue { c17 := accBad arow.toNat m addr lines, arr := resClash s.tl need } 12
    (fun s => s.onTl (fun t =>
      let en := enabled t g
      let t1 := jobsFrom (fun i => addJob (1 + i) 11 (rangeBanks (addr.toNat + 64 * lines * i) (64 * lines))
        (if en then .rowRead (arow.toNat + i) fmt (addr.toNat + 64 * lines * i) lines else .idle)) 0 m (resHold need t)
      if en then accessEvent m t1 else t1)) s

/-- ACCRD (09:R199). -/
def execAccrd (g : Guard) (t : Ty) (a : BitVec 5) (arow nrow : BitVec 8) (spoff : BitVec 21) (s : State) :
    Host.Outcome State Fault Refusal := accOut g (some t) a arow nrow spoff s

/-- ACCWR (09:R199). -/
def execAccwr (g : Guard) (t : Ty) (a : BitVec 5) (arow nrow : BitVec 8) (spoff : BitVec 21) (s : State) :
    Host.Outcome State Fault Refusal := accIn g (some t) a arow nrow spoff s

/-- ACCSAVE (09:R199). -/
def execAccsave (g : Guard) (a : BitVec 5) (arow nrow : BitVec 8) (spoff : BitVec 21) (s : State) :
    Host.Outcome State Fault Refusal := accOut g none a arow nrow spoff s

/-- ACCREST (09:R199). -/
def execAccrest (g : Guard) (a : BitVec 5) (arow nrow : BitVec 8) (spoff : BitVec 21) (s : State) :
    Host.Outcome State Fault Refusal := accIn g none a arow nrow spoff s

/-- ACCZ (09:R200). -/
def execAccz (g : Guard) (arow nrow : BitVec 8) (s : State) : Host.Outcome State Fault Refusal :=
  let m := nrow.toNat + 1
  let need := [(2, s.tl.abs + 1, s.tl.abs + m)]
  issue { c17 := if 256 < arow.toNat + m then some (BitVec.ofNat 64 (arow.toNat + m)) else none
          arr := resClash s.tl need } 12
    (fun s => s.onTl (fun t =>
      let t1 := resHold need t
      if enabled t g then jobsFrom (fun i => addJob (1 + i) 11 0 (.accWrite (arow.toNat + i) 0)) 0 m t1 else t1)) s

end Sys2Proof.Machine
end

