-- ==== Sys2Proof/Machine/Context.lean ====
section
/-! DEFINITION. Contexts: launch records, bind records, the context image, save and resume, migration, kill, and the
instructions of major 0x3F (01:R13-R26; 06:R127-R136; 15:R243; 25:R340, R350, R356). -/

namespace Sys2Proof.Machine

/-! ### Bytes and lines of a context's memory -/

/-- The nonzero bytes of n bytes at a DVA, placed from address a on. -/
def dvaCells (s : State) (ctx : BitVec 16) (dva : X) (a : Nat) : Nat → Memory
  | 0 => []
  | n + 1 =>
    let b := (dvaByte s ctx dva).getD 0
    if b = 0 then dvaCells s ctx (dva + 1) (a + 1) n else (a, BitVec.ofNat 8 b) :: dvaCells s ctx (dva + 1) (a + 1) n

/-- Why a byte at a DVA cannot be read: a failing line, or no translation (15:R249; log entry 50). -/
def byteCause (s : State) (ctx : BitVec 16) (dva : X) : BitVec 8 :=
  match xlate s ctx dva false with
  | some (.home ..) => 0x21
  | some (.remote _) => 0x20
  | none => walkCause s ctx dva

/-- The first of n bytes at a DVA that cannot be read, with its cause. -/
def firstFault (s : State) (ctx : BitVec 16) (dva : X) : Nat → Option (BitVec 8 × X)
  | 0 => none
  | n + 1 => if (dvaByte s ctx dva).isSome then firstFault s ctx (dva + 1) n else some (byteCause s ctx dva, dva)

/-- Writing lines of a function at a DVA, from line j on. A line whose page does not translate is not written, and a save goes on
all the same (DESIGN CHOICE, log entry 84). -/
def dvaLines (ctx : BitVec 16) (dva : X) (f : Nat → Line) (j : Nat) : Nat → State → State
  | 0, s => s
  | n + 1, s =>
    dvaLines ctx dva f (j + 1) n
      (match xlate s ctx (dva + BitVec.ofNat 64 (64 * j)) true with
        | some (.home da tag) => bufferStale da 0 (devStore s tag da (f j))
        | some (.remote _) | none => s)

/-! ### The image (06:R130-R133) -/

/-- The cells of a memory between two addresses, moved to another base. -/
def slice (m : Memory) (lo n base : Nat) : Memory :=
  m.filterMap (fun (a, v) => if lo ≤ a ∧ a < lo + n then some (a - lo + base, v) else none)

/-- The nonzero cells of a number's n bytes. -/
def nzCells (a n v : Nat) : Memory := (cellsLE a n v).filter (fun c => c.2 != 0)

/-- The cells of a list of numbers of n bytes each. -/
def listCells (a n : Nat) (l : List Nat) : Memory := (l.zipIdx.map (fun (v, i) => nzCells (a + n * i) n v)).flatten

/-- Out-slot n and mirror n in the layout of R130. -/
def outNat (o : OutSlot) : Nat := o.payload.toNat + o.seq.toNat * 2 ^ 512 + o.stamp.toNat * 2 ^ 576
/-- A mirror's entry. -/
def mirNat (m : Mirror) : Nat :=
  m.payload.toNat + m.seq.toNat * 2 ^ 512 + m.stamp.toNat * 2 ^ 576 + m.arrival.toNat * 2 ^ 640 + m.binding.toNat * 2 ^ 704

/-- The header's numbers of eight bytes at 0x40 (06:R131). -/
def headRegs (t : Tile) : List Nat :=
  [t.trap.vec.toNat, t.trap.cause.toNat, t.trap.slot.toNat, t.trap.pc.toNat, t.trap.info.toNat, t.collide.toNat
   , t.bind.memquota.toNat, t.arr.ashape.toNat
   , ((List.range 4).foldl (fun m k => if t.arr.band.toList.getD k .asleep = .awake then m + 2 ^ k else m) 0)
   , t.bind.replay.toNat]

/-- SFLAGS (06:R131). -/
def imageFlags (full : Bool) (t : Tile) : Nat :=
  let act := if t.arr.active1 then t.arr.plane1 else t.arr.plane0
  let sh := if t.arr.active1 then t.arr.plane0 else t.arr.plane1
  (if full || t.arr.wsramDirty then 1 else 0) + (if full || act.stale then 2 else 0) + (if full || sh.stale then 4 else 0)

/-- A plane descriptor (06:R133). -/
def planeCells (full : Bool) (a : Nat) (p : Plane) : Memory :=
  nzCells a 4 p.woff ++ nzCells (a + 4) 1 p.fmt.code.toNat ++ nzCells (a + 5) 1 p.loaded.toNat
    ++ nzCells (a + 6) 2 p.outl.length ++ nzCells (a + 8) 1 (if full || p.stale then 1 else 0)
    ++ listCells (a + 0x20) 2 ((p.codes.take 16).map BitVec.toNat)
    ++ listCells (a + 0x40) 8 ((p.outl.take 512).map BitVec.toNat)

/-- The image of a tile without SVALID. `full` writes WSRAM and both planes' weights too, as the debug window shows
them. RESUMEPC is the address due; a redirect still to come, of a PERIOD in the first delay slot of a branch, is no part of
an image, so that a resume drops it (DESIGN CHOICE, log entry 57). A plane's weight records are written whole: the rows of bands
that its LOADED bits leave out hold the bytes that the plane held before (DESIGN CHOICE, log entry 111). -/
def imageOf (full : Bool) (t : Tile) : Memory :=
  let act := if t.arr.active1 then t.arr.plane1 else t.arr.plane0
  let sh := if t.arr.active1 then t.arr.plane0 else t.arr.plane1
  nzCells 0 4 0x4C485331 ++ nzCells 4 2 1 ++ nzCells 6 2 (imageFlags full t) ++ nzCells 0x10 8 t.bind.routine.toNat
    ++ nzCells 0x18 4 t.bind.routlen.toNat ++ nzCells 0x1C 4 t.perlenNext ++ nzCells 0x20 8 t.pc.toNat
    ++ nzCells 0x28 8 t.clk.perstamp.toNat ++ nzCells 0x30 8 t.clk.stretch.toNat ++ nzCells 0x38 8 t.clk.holds.toNat
    ++ listCells 0x40 8 (headRegs t) ++ listCells 0x90 2 ((t.arr.stage.take 16).map BitVec.toNat) ++ nzCells 0xB0 4 t.pcseq.toNat
    ++ listCells 0x1000 8 ((List.range 32).map (fun r => (rx t (BitVec.ofNat 5 r)).toNat))
    ++ listCells 0x1100 8 ((List.range 8).map (fun r => (rg t (BitVec.ofNat 3 r)).toNat))
    ++ listCells 0x1140 8 ((List.range 4).map (fun r => (rb t (BitVec.ofNat 2 r)).toNat))
    ++ listCells 0x2000 256 ((List.range 32).map (fun r => (rv t (BitVec.ofNat 5 r)).toNat))
    ++ listCells 0x4000 8 ((List.range 256).map (fun i => (tget 0 t.tags i).toNat))
    ++ listCells 0x4800 128 ((List.range 32).map (fun i => outNat (tget outInit t.outs i)))
    ++ listCells 0x5800 128 ((List.range 64).map (fun i => mirNat (tget mirrorInit t.mirs i)))
    ++ planeCells full 0x8000 act ++ planeCells full 0xA000 sh
    ++ slice t.arr.acc 0 0x20000 0x20000 ++ slice t.mem 0x100000 0x10000 0x40000
    ++ (if full || act.stale then slice act.weights 0 0x10000 0x60000 else [])
    ++ (if full || sh.stale then slice sh.weights 0 0x10000 0x70000 else [])
    ++ slice t.mem 0 0x100000 0x100000
    ++ (if full || t.arr.wsramDirty then slice t.arr.wsram 0 0x400000 0x200000 else [])

/-- A table of n entries read from an image, the entries that read as an unlisted one left out. -/
def tableOf {α : Type} [DecidableEq α] (n : Nat) (d : α) (f : Nat → α) : Table α :=
  (List.range n).filterMap (fun i => if f i = d then none else some (i, f i))

/-- An out-slot of an image. -/
def outOf (m : Memory) (a : Nat) : OutSlot :=
  { payload := mreadLine m a, seq := BitVec.ofNat 32 (mreadLE m (a + 64) 4), stamp := BitVec.ofNat 64 (mreadLE m (a + 72) 8) }

/-- A mirror of an image: never-written exactly when its writer stamp is 0 (12:R207); the reserved bits of its binding read
zero (12:R209). -/
def mirOf (m : Memory) (a : Nat) : Mirror :=
  { seen := mreadLE m (a + 72) 8 != 0, payload := mreadLine m a, seq := BitVec.ofNat 32 (mreadLE m (a + 64) 4)
    stamp := BitVec.ofNat 64 (mreadLE m (a + 72) 8), arrival := BitVec.ofNat 64 (mreadLE m (a + 80) 8)
    binding := BitVec.ofNat 64 (mreadLE m (a + 88) 8) &&& 0xFFFFE1FF0000001F, wrote := [], sampled := 0, writer := none }

/-- The bytes of a plane's own weights that its format uses. -/
def usedCells (f : Ty) (m : Memory) : Memory := m.filter (fun c => usedByte f (c.1 % 512))

/-- A plane rebuilt from its descriptor, and its weights from the image or WSRAM (06:R133). A plane that is not as bind
leaves it has been loaded by a WLOAD (log entry 58). -/
def planeOf (m : Memory) (arr : ArraySt) (a wbase : Nat) : Plane :=
  let woff := mreadLE m a 4
  let own := mreadLE m (a + 8) 1 != 0
  let loaded := BitVec.ofNat 4 (mreadLE m (a + 5) 1)
  let nout := min 512 (mreadLE m (a + 6) 2)
  let fmt := (Ty.ofCode (BitVec.ofNat 5 (mreadLE m (a + 4) 1))).getD .bf16
  let set := woff % 0x8000 / 512
  let p : Plane :=
    { weights := if loaded = 0 then [] else if own then usedCells fmt (slice m wbase 0x10000 0) else setRecords arr.wsram fmt set
      loaded := loaded, fmt := fmt
      codes := (List.range 16).map (fun i => BitVec.ofNat 16 (mreadLE m (a + 0x20 + 2 * i) 2))
      outl := (List.range nout).map (fun j => BitVec.ofNat 64 (mreadLE m (a + 0x40 + 8 * j) 8))
      woff := woff, stale := own, latched := own
      bad := if own || loaded == 0 then [] else badOfSet arr fmt set loaded }
  { p with latched := own || p != { planeInit with bad := p.bad } }

/-- The bands after a restore (06:R134): those of BANDAWAKE awake, the others of ASHAPE waking; a band that is not functional
stays asleep, on a tile that lacks a band of the image's ASHAPE too, which 08:R165 requires it to have (DESIGN CHOICE, log entry
98). -/
def bandsOf (ok awake shape : BitVec 4) : Vector Band 4 :=
  Vector.ofFn (fun k : Fin 4 => if !ok.getLsbD k then .asleep
    else if awake.getLsbD k then .awake else if shape.getLsbD k then .waking 2000 else .asleep)

/-- The array restored from an image; WSRAM comes from it when bit 0 of SFLAGS says so or an earlier save wrote it. -/
def arrayOf (m : Memory) (a : ArraySt) : ArraySt :=
  let a := { a with wsram := slice m 0x200000 0x400000 0 }
  { a with
    wsramDirty := true, acc := slice m 0x20000 0x20000 0, plane0 := planeOf m a 0x8000 0x60000
    plane1 := planeOf m a 0xA000 0x70000, active1 := false
    stage := (List.range 16).map (fun i => BitVec.ofNat 16 (mreadLE m (0x90 + 2 * i) 2))
    ashape := BitVec.ofNat 4 (mreadLE m 0x78 8)
    band := bandsOf a.bandOk (BitVec.ofNat 4 (mreadLE m 0x80 8)) (BitVec.ofNat 4 (mreadLE m 0x78 8)) }

/-- The registers restored from an image. -/
def regsOf (m : Memory) : Regs :=
  { x := Vector.ofFn (fun r : Fin 32 => if r.val = 0 then 0 else BitVec.ofNat 64 (mreadLE m (0x1000 + 8 * r.val) 8))
    g := Vector.ofFn (fun r : Fin 8 => if r.val = 0 then 0 else BitVec.ofNat 64 (mreadLE m (0x1100 + 8 * r.val) 8))
    b := Vector.ofFn (fun r : Fin 4 => BitVec.ofNat 64 (mreadLE m (0x1140 + 8 * r.val) 8))
    v := Vector.ofFn (fun r : Fin 32 => BitVec.ofNat 2048 (mreadLE m (0x2000 + 256 * r.val) 256)) }

/-- A tile with everything an image holds; reserved bits of tag entries (15:R235) and of TRAPCAUSE read zero. -/
def loadImage (m : Memory) (t : Tile) : Tile :=
  let q (a : Nat) : X := BitVec.ofNat 64 (mreadLE m a 8)
  { t with
    regs := regsOf m, pc := q 0x20, mem := slice m 0x100000 0x100000 0 ++ slice m 0x40000 0x10000 0x100000
    arr := arrayOf m t.arr, tags := tableOf 256 0 (fun i => q (0x4000 + 8 * i) &&& 0x800FFFFFFFFFFFFF)
    outs := tableOf 32 outInit (fun i => outOf m (0x4800 + 128 * i))
    mirs := tableOf 64 mirrorInit (fun i => mirOf m (0x5800 + 128 * i))
    perlen := mreadLE m 0x1C 4, perlenNext := mreadLE m 0x1C 4
    clk := { t.clk with perstamp := q 0x28, stretch := q 0x30, holds := q 0x38 }
    trap := { t.trap with vec := q 0x40, cause := q 0x48 &&& 0xFF, slot := q 0x50, pc := q 0x58, info := q 0x60 }
    collide := q 0x68
    bind := { t.bind with
      memquota := BitVec.ofNat 32 (mreadLE m 0x70 8), routine := q 0x10, routlen := BitVec.ofNat 32 (mreadLE m 0x18 4)
      replay := BitVec.ofNat 2 (mreadLE m 0x88 8) }
    pcseq := BitVec.ofNat 32 (mreadLE m 0xB0 4) }

/-! ### Bind (01:R21-R26) -/

/-- A tile as R24 clears it: what belongs to the place stays. -/
def clearTile (t : Tile) : Tile :=
  { tileInit with
    arr := { arrInit with bandOk := t.arr.bandOk }, rail := t.rail, dbg := t.dbg
    clk := { tileInit.clk with mhz := t.clk.mhz }
    port := { portInit with fullSd := t.port.fullSd, fullRv := t.port.fullRv } }

/-- n bytes of a record from offset a, as a number. -/
def recNat (r : List Byte) (a n : Nat) : Nat := mreadLE (r.zipIdx.map (fun (b, i) => (i, b))) a n

/-- The fields of a bind record (01:R21, R22). -/
def bindOf (r : List Byte) : BindRec :=
  let w : X := BitVec.ofNat 64 (recNat r 0 8)
  let p : X := BitVec.ofNat 64 (recNat r 0x10 8)
  { ctx := w.extractLsb' 48 16, logtile := w.extractLsb' 39 9, key := w.extractLsb' 21 12, perlen := w.extractLsb' 0 21
    routine := BitVec.ofNat 64 (recNat r 8 8), memquota := p.extractLsb' 0 32, packid := p.extractLsb' 32 16
    packsize := p.extractLsb' 48 10, diemask := p.extractLsb' 58 4, replay := p.extractLsb' 62 2
    seed := BitVec.ofNat 64 (recNat r 0x18 8), start := BitVec.ofNat 64 (recNat r 0x20 8)
    savearea := BitVec.ofNat 64 (recNat r 0x28 8)
    params := (List.range 8).map (fun i => BitVec.ofNat 64 (recNat r (0x30 + 8 * i) 8))
    bindlist := BitVec.ofNat 64 (recNat r 0x70 8), nbind := BitVec.ofNat 16 (recNat r 0x78 2)
    routlen := BitVec.ofNat 32 (recNat r 0x7A 4) }

/-- STATE of a control word. -/
def recState (r : List Byte) : BitVec 3 := (BitVec.ofNat 64 (recNat r 0 8)).extractLsb' 36 3

/-- The binding of a rewritten binding-list entry (01:R18, R21; 12:R209). -/
def listBinding (s : State) (t : Tile) (e : Nat) : Nat × Mirror :=
  let w : X := 0x8000000000000000 ||| (s.pkg.setWidth 64 <<< 45) ||| (BitVec.ofNat 64 (e / 2 ^ 11 % 512) <<< 32)
    ||| BitVec.ofNat 64 (e / 2 ^ 6 % 32)
  (e % 64, { mirrorInit with binding := bindWord s t w })

/-- The mirrors that a binding list of n entries binds. -/
def listMirrors (s : State) (t : Tile) (v : Nat) : Nat → Table Mirror
  | 0 => hwMirrors
  | n + 1 =>
    let b := listBinding s t (v / 2 ^ (32 * n) % 2 ^ 32)
    tset (listMirrors s t v n) b.1 b.2

/-- The image at a save address is valid for a context (06:R131). -/
def validImage (s : State) (b : BindRec) : Bool :=
  dvaRead s b.ctx (b.savearea + 8) 8 == some (2 ^ 63 + b.ctx.toNat)

/-- The number of the life of a context ID. -/
def lifeOf (s : State) (ctx : BitVec 16) : Nat := ((s.ctxs.find? (fun c => c.id == ctx)).map (fun c => c.life)).getD 0

/-- A tile as a bind record finds it: cleared, in the context's present life, with a bind number of its own. Fences and events
are no part of an image, so that a FENCE before a pre-emption orders nothing after the resume (DESIGN CHOICE, log entry 89). -/
def freshTile (s : State) (idx : Nat) (b : BindRec) (old : Tile) : Tile :=
  { clearTile old with bind := b, packIdx := BitVec.ofNat 10 idx, life := lifeOf s b.ctx, bindNo := s.nextId }

/-- A tile that a bind record starts (01:R24): cleared, its routine, parameters, PERLEN, mirrors. -/
def boundTile (s : State) (idx : Nat) (b : BindRec) (old : Tile) : Tile :=
  let t0 := freshTile s idx b old
  let t := { t0 with
    imem := dvaCells s b.ctx b.routine 0 b.routlen.toNat
    mirs := listMirrors s t0 ((dvaRead s b.ctx b.bindlist (4 * b.nbind.toNat)).getD 0) b.nbind.toNat
    perlen := b.perlen.toNat, perlenNext := b.perlen.toNat, state := 1, phase := .held
    clk := { t0.clk with perstamp := b.start }
    replay := { tileInit.replay with ptr := 64, period := 1 } }
  b.params.zipIdx.foldl (fun t (v, i) => wx t (BitVec.ofNat 5 (i + 1)) v) t

/-- Record or replay as a resume finds it: as it stood at the save, with the log's own fields in record mode (25:R357-R359;
log entry 54). -/
def resumedReplay (s : State) (t : Tile) (kept : Option Kept) : Replay :=
  let m := tget mirrorInit t.mirs 62
  let r := match kept with
    | some k => k.replay
    | none => { t.replay with results := if m.seen then [(m.seq.toNat, m.payload)] else [] }
  let q (i : Nat) : Option Nat := dvaRead s t.bind.ctx (logBase t + BitVec.ofNat 64 (8 * i)) 8
  let flags := (q 2).getD 0
  if t.bind.replay = 1 then
    { r with ptr := (q 0).getD 64, count := (q 1).getD 0, full := flags % 2 == 1, diverged := flags / 2 % 2 == 1
             divCount := (q 3).getD 0 }
  else if t.bind.replay = 2 && kept.isNone then
    { r with diverged := flags / 2 % 2 == 1, live := flags / 2 % 2 == 1, divCount := (q 3).getD 0 }
  else r

/-- A binding names a tile of a context's pack. -/
def inPack (s : State) (ctx : BitVec 16) (w : X) : Bool :=
  bindBound w && bindKind w == 0 && bindPkg w == s.pkg
    && s.ctxs.any (fun c => c.id == ctx && c.bound.any (fun e => e.2 == bindTile w))

/-- A restored mirror: bindings within the pack get the class of the tile's new place, others stay as saved (12:R218); a
writer that is off the device is remembered. -/
def resumedMirror (s : State) (t : Tile) (writers : List (Nat × Nat)) (e : Nat × Mirror) : Nat × Mirror :=
  if e.1 < 60 then
    (e.1, { e.2 with binding := if inPack s t.bind.ctx e.2.binding then bindWord s t e.2.binding else e.2.binding
                     writer := (writers.find? (fun w => w.1 == e.1)).map (fun w => w.2) })
  else e

/-- A resumed tile (06:R134): the whole image on top of the bind, lease state as bind leaves it, and the kennel's
sequences going on from the image's mirrors. -/
def resumedTile (s : State) (b : BindRec) (kept : Option Kept) (t : Tile) : Tile :=
  let t := loadImage (dvaCells s b.ctx b.savearea 0 0x600000) t
  let seqOf (m : Nat) : BitVec 32 := (tget mirrorInit t.mirs m).seq
  let writers := match kept with | some k => k.writers | none => []
  { t with resumed := true, mirs := t.mirs.map (resumedMirror s t writers), pcCtlSeq := seqOf 61, resultSeq := seqOf 62
           leashSeq := seqOf 63, replay := resumedReplay s t kept }

/-- Posts under way that a bind discards: the kennel's (21:R306), and at a bind that resumes nothing, or fails, all of them,
since every mirror is bound anew or unbound (12:R210). -/
def dropPosts (w : Who) (all : Bool) (s : State) : State :=
  let drop (p : Post) (d : PostDst) : PostDst :=
    if d.far.isNone && d.who == w && (all || (p.src == none && decide (62 ≤ d.mirror))) then { d with done := true } else d
  let posts := s.posts.map (fun p => { p with dsts := p.dsts.map (drop p) })
  { s with posts := posts.filter (fun p => !(p.sent && !p.held && p.dsts.all (fun d => d.done))) }

/-- A binding word with another logical tile of this package as its writer, for a reader (12:R218). -/
def repointed (s : State) (t : Tile) (now_ : Nat) (w : X) : X :=
  bindWord s t ((0x8000000000000000 : X) ||| (s.pkg.setWidth 64 <<< 45) ||| (BitVec.ofNat 64 now_ <<< 32) ||| (w &&& 0x1F))

/-- A live reader's mirrors whose writer, off the device until now, comes back on a logical tile. -/
def repointLive (s : State) (idx now_ : Nat) (t : Tile) : Tile :=
  { t with mirs := t.mirs.map (fun (m, x) =>
      if x.writer = some idx then (m, { x with binding := repointed s t now_ x.binding, writer := none }) else (m, x)) }

/-- The same in a reader's image (12:R218): the words of the mirrors that the writer's return concerns. The class of a
reader that is off the device follows at its own resume. -/
def repointSaved (c : Ctx) (idx now_ : Nat) (k : Kept) (s : State) : State :=
  (k.writers.filter (fun w => w.2 == idx)).foldl (fun s w =>
    let a := imageBase c k.idx + BitVec.ofNat 64 (0x5800 + 128 * w.1 + 88)
    match dvaRead s c.id a 8 with
    | some v => dvaWrite c.id a 8 ((BitVec.ofNat 64 v &&& 0xFFFFFE00FFFFFFFF) ||| (BitVec.ofNat 64 now_ <<< 32)).toNat s
    | none => s) s

/-- Bindings of the pack to a writer that resumes name its logical tile now (12:R218): those of live tiles and those in
images. -/
def repointPack (ctx : BitVec 16) (idx now_ : Nat) (s : State) : State :=
  match s.ctxs.find? (fun c => c.id == ctx) with
  | none => s
  | some c =>
    let s := c.kept.foldl (fun s k => repointSaved c idx now_ k s) s
    { s with
      tiles := s.tiles.map (fun (p, t) => if ofCtx c t then (p, repointLive s idx now_ t) else (p, t))
      ctxs := s.ctxs.map (fun d => if d.id == ctx then
        { d with kept := d.kept.map (fun k => { k with writers := k.writers.filter (fun w => w.2 != idx) }) } else d) }

/-- The mirrors of an image that are bound to a logical tile of this package. -/
def imageBound (s : State) (c : Ctx) (idx lt : Nat) : List Nat :=
  (List.range 60).filter (fun m =>
    match dvaRead s c.id (imageBase c idx + BitVec.ofNat 64 (0x5800 + 128 * m + 88)) 8 with
    | some v => (fun w => bindBound w && bindKind w == 0 && bindPkg w == s.pkg && bindTile w == lt) (BitVec.ofNat 64 v)
    | none => false)

/-- A writer of the pack leaves the device (12:R218): the mirrors bound to it remember its pack index. -/
def noteWriter (c : Ctx) (idx lt : Nat) (s : State) : State :=
  let mark (t : Tile) : Tile := { t with mirs := t.mirs.map (fun (m, x) =>
    if decide (m < 60) && bindBound x.binding && bindKind x.binding == 0 && bindPkg x.binding == s.pkg && bindTile x.binding == lt
    then (m, { x with writer := some idx }) else (m, x)) }
  { s with
    tiles := s.tiles.map (fun (p, t) => if ofCtx c t then (p, mark t) else (p, t))
    ctxs := s.ctxs.map (fun d => if d.id == c.id then
      { d with kept := d.kept.map (fun k =>
          { k with writers := k.writers ++ (imageBound s c k.idx lt).map (fun m => (m, idx)) }) } else d) }

/-- The context's record of a bound tile and its earliest START (01:R19, R25). -/
def noteBound (b : BindRec) (idx start : Nat) (s : State) : State :=
  { s with ctxs := s.ctxs.map (fun c =>
      if c.id == b.ctx then
        { c with bound := (c.bound.filter (fun e => e.1 != idx)) ++ [(idx, b.logtile.toNat)]
                 saved := c.saved.filter (fun i => i != idx), halted := c.halted.filter (fun i => i != idx), kept := c.kept.filter (fun k => k.idx != idx)
                 start := some (match c.start with | some x => min x start | none => start) }
      else c) }

/-- The instant at which a tile's cluster reads a time base. -/
def tickInstant (s : State) (p tick : Nat) : Nat := (tick - s.skew.getD (clusterOf p) 0) * subTick

/-- A logical tile's entry of its cluster's table at a migration (25:R340). An entry that named the same physical tile takes
the one that this one had, so that no two logical tiles are mapped to one (01:R9; log entry 52). -/
def mapTile (lt ph : Nat) (s : State) : State :=
  let e : Byte := BitVec.ofNat 8 (0x80 + ph)
  let old := tget 0 s.l2p lt
  let others := (s.l2p.map (fun (k, b) => if k / 32 = lt / 32 ∧ b = e then (k, old) else (k, b))).filter (fun x => x.2 != 0)
  { s with l2p := tset others lt e }

/-- The logical tile of a bind record lies in the physical tile's cluster, on a live die (01:R9). A word that binds a logical tile
which another physical tile carries, that lies on a die outside the context's mask, or that names no live context is taken as
any other (DESIGN CHOICE, log entry 29). -/
def bindPlace (s : State) (p : Nat) (b : BindRec) : Bool :=
  decide (b.logtile.toNat < 128 * liveDies s) && s.clusterMap.getD (b.logtile.toNat / 32) 0 == clusterOf p

/-- The tiles beside p that an earlier bind of the same tile of a context left halted carry it no more. -/
def supersede (p : Nat) (w : Who) (s : State) : State :=
  { s with tiles := s.tiles.map (fun (q, t) => if q != p && whoOf t == w then (q, { t with life := 0 }) else (q, t)) }

/-- A bind or a resume (01:R24, R26; 06:R134). It changes no entry of the logical-to-physical table (25:R340; log entry 52). A
bind that finds a fault has no instruction due: ESLOT and EPC of its escalation record are 0; its cause and EINFO are those of
the first byte that cannot be read, of ROUTINE, else of the binding list, else of the image (DESIGN CHOICE, log entry 29). -/
def bindTileAt (p idx : Nat) (r : List Byte) (s : State) : State :=
  let b := bindOf r
  let old := s.tile p
  let resume := validImage s b
  let w : Who := { ctx := b.ctx, idx := idx, life := lifeOf s b.ctx }
  let s0 := { (s.fresh).2.looked with latest := tset s.latest b.logtile.toNat s.nextId }
  match ((firstFault s b.ctx b.routine b.routlen.toNat).or (firstFault s b.ctx b.bindlist (4 * b.nbind.toNat))).or
      (if resume then firstFault s b.ctx b.savearea 0x600000 else none) with
  | some (c, dva) =>
    dropPosts w true (supersede p w (s0.onTile p (fun _ =>
      { freshTile s idx b old with state := 3, esc := { cause := c, nested := false, slot := 0, pc := 0, info := dva } })))
  | none =>
    let kept := (s.ctxs.find? (fun c => c.id == b.ctx)).bind (fun c => c.kept.find? (fun k => k.idx == idx))
    let t := boundTile s idx b old
    let t := if resume then resumedTile s b kept t else t
    let t := { t with migrateTo := (tfind s.mapPend b.logtile.toNat).map (fun q => .mapset q false) }
    let s1 := supersede p w (s0.onTile p (fun _ => t))
    let s1 := noteBound b idx b.start.toNat (dropPosts w (!resume) { s1 with mapPend := tdel s1.mapPend b.logtile.toNat })
    let s1 := if resume then repointPack b.ctx idx b.logtile.toNat s1 else s1
    let s1 := if b.replay = 1 && !resume then dvaWrite b.ctx (logBase t) 64 (logHead t.replay) s1 else s1
    let s1 := s1.timer (max s.now (tickInstant s p b.start.toNat)) (.tileStart p)
    { s1 with timers := s1.timers ++ [(max s.now (tickInstant s p (b.start.toNat + 10000)), .lstatRunning b.ctx)] }

/-- An entry that the management core may write (01:R23). -/
def mayBind (t : Tile) : Bool := t.state == 0 || t.state == 5 || t.state == 3

/-- A write through the management core's window was refused, or taken (01:R23, 25:R343; log entry 60). -/
def State.mcSays (c : BitVec 8) (s : State) : State := { s with mcRes := c }

/-- A slot-table entry that a control word makes empty, spare or disabled: no context lives in it any more, and the tile's
registers and stores stay as they are until the next bind (05:R116; log entry 29). -/
def releaseTile (r : List Byte) (t : Tile) : Tile :=
  { t with bind := bindOf r, state := recState r, phase := .off, life := 0, migrateTo := none, port := { t.port with queue := [] } }

/-- CONTROL_WORD_WRITE (01:R23): STATE 001 binds; 000, 101 and 110 leave the entry empty, spare or disabled; any other
STATE, and a bind outside the tile's cluster, is refused. -/
def execControlWordWrite (p idx : Nat) (record : List Byte) (s : State) : Host.Outcome State Fault Refusal :=
  let st := recState record
  if !mayBind (s.tile p) then .next (s.mcSays 0x17)
  else if st = 1 then
    .next (if bindPlace s p (bindOf record) then (bindTileAt p idx record s).mcSays 0 else s.mcSays 0x17)
  else if st = 0 || st = 5 || st = 6 then
    .next ((s.onTile p (releaseTile record)).mcSays 0)
  else .next (s.mcSays 0x17)

/-- TILE_START (01:R25, 06:R134): at START cycle 0 of the first period begins. -/
def execTileStart (p : Nat) (s : State) : Host.Outcome State Fault Refusal :=
  let t := s.tile p
  if t.state != 1 || decide ((timeBase s p s.now).toNat < t.bind.start.toNat) then .next s
  else
    .next (s.onTile p (fun t =>
      { t with
        state := 2, phase := .run, cyc := 0, issued := false, resumed := false
        clk := { joinClock s t.clk with
          start := s.now, stretched := false, since := 16, count := 0
          prev := if t.resumed then tickInstant s p t.clk.perstamp.toNat else s.now } }))

/-! ### Launch (01:R16-R20, 25:R350) -/

/-- The context and DVA behind an offset of BAR2 (25:R348). -/
def barPlace (s : State) (off : Nat) : Option (BitVec 16 × X) :=
  (tfind s.bar2 (off / 2 ^ 30)).map (fun (c, d) => (c, d + BitVec.ofNat 64 (off % 2 ^ 30)))

/-- n bytes of the launch area at an offset. -/
def launchRead (s : State) (off n : Nat) : Option Nat := (barPlace s off).bind (fun (c, d) => dvaRead s c d n)

/-- The slot of a notify value. -/
def slotOf (v : X) : Nat := 0x20000 * (v.extractLsb' 0 8).toNat

/-- Writing LSTAT; vector 0 signals every value other than 0x01 (25:R349). -/
def writeLstat (slot : Nat) (v : Nat) (s : State) : State :=
  let s := match barPlace s (slot + 0x30) with
    | some (c, d) => dvaWrite c d 8 v s
    | none => s
  if v = 1 then s else { s with msix := s.msix ++ [0] }

/-- LSTAT of a context. -/
def ctxLstat (c : Ctx) (v : Nat) (s : State) : State :=
  match c.slot with
  | some k => writeLstat k v s
  | none => s

/-- A field of a launch record; a byte that cannot be read is 0. -/
def lfield (s : State) (slot a n : Nat) : Nat := (launchRead s (slot + a) n).getD 0

/-- The header meets R16. -/
def headerOk (s : State) (k : Nat) : Bool :=
  let f := lfield s k
  decide (1 ≤ f 0x0E 2) && decide (f 0x0E 2 ≤ 512) && decide (f 0x12 2 ≤ 4095) && (tfind s.keys (f 0x12 2)).isSome
    && decide (1 ≤ f 0x14 1) && decide (f 0x14 1 < 16) && (BitVec.ofNat 4 (f 0x14 1) &&& ~~~s.live) == 0
    && decide (f 0x15 1 ≤ 7) && f 0x16 2 == 0 && f 0x20 8 % 4096 == 0 && f 0x28 8 == 0 && f 0x38 8 == 0

/-- The base of tile entry i. -/
def entryBase (k i : Nat) : Nat := k + 0x40 + 0x80 * i

/-- A tile entry meets R17. -/
def entryOk (s : State) (e : Nat) : Bool :=
  let f := lfield s e
  f 0 8 % 4 == 0 && f 8 4 % 4 == 0 && decide (4 ≤ f 8 4) && decide (f 8 4 ≤ 131072)
    && decide (64 ≤ f 0x0C 4) && decide (f 0x0C 4 ≤ 1048576) && decide (f 0x20 2 ≤ 60) && decide (f 0x22 1 < 3)
    && f 0x23 5 == 0 && f 0x68 24 == 0

/-- ROUTINE, BINDPTR and SAVEAREA of an entry translate (01:R20): the first byte of each is tested (DESIGN CHOICE, log
entry 48). -/
def entryMapped (s : State) (ctx : BitVec 16) (k e : Nat) : Bool :=
  let ok (d : Nat) : Bool := (xlate s ctx (BitVec.ofNat 64 d) false).isSome
  ok (lfield s e 0 8) && (lfield s e 0x20 2 == 0 || ok (lfield s e 0x18 8)) && ok (lfield s k 0x20 8)

/-- The entries of a binding list meet R18. -/
def listOk (ntiles : Nat) (v : Nat) (n : Nat) : Bool :=
  let es := (List.range n).map (fun i => v / 2 ^ (32 * i) % 2 ^ 32)
  es.all (fun e => decide (e < 2 ^ 20) && decide (e / 2 ^ 11 % 512 < ntiles) && decide (e % 64 < 60))
    && (es.map (fun e => e % 64)).eraseDups.length == n

/-- A logical tile is free on a die of a mask (01:R14): no tile carries it now. One that an accepted pack still waits for, or
that a pre-empted pack left, counts as free (DESIGN CHOICE, log entry 73). -/
def freeTile (s : State) (mask : BitVec 4) (lt : Nat) : Bool :=
  mask.getLsbD ((s.clusterMap.getD (lt / 32) 0) / 4)
    && !s.tiles.any (fun (_, t) => t.bind.ctx != 0 && t.bind.logtile.toNat == lt && carries t)

/-- The code with which a launch record is rejected, if it is (01:R20). A binding list of which a byte cannot be read is
judged as zeros (DESIGN CHOICE, log entry 48). -/
def launchReject (s : State) (ctx : BitVec 16) (k : Nat) : Option Nat :=
  let n := lfield s k 0x0E 2
  let es := (List.range n).map (entryBase k)
  if lfield s k 8 4 != 0x4C484C31 || lfield s k 0x0C 2 != 1 then some 0x11
  else if !headerOk s k || !es.all (entryOk s) then some 0x12
  else if !es.all (entryMapped s ctx k) then some 0x13
  else if !es.all (fun e => listOk n ((dvaRead s ctx (BitVec.ofNat 64 (lfield s e 0x18 8)) (4 * lfield s e 0x20 2)).getD 0)
      (lfield s e 0x20 2)) then some 0x12
  else if ((List.range (128 * liveDies s)).filter (freeTile s (BitVec.ofNat 4 (lfield s k 0x14 1)))).length < n then some 0x14
  else none

/-- A context ID that the firmware may give: the one named, or else the lowest that no live context has. -/
def newCtx (s : State) (ctx : BitVec 16) : BitVec 16 :=
  if ctx != 0 && s.ctxs.all (fun c => c.id != ctx) then ctx
  else ((List.range 65536).map (BitVec.ofNat 16)).find? (fun c => c != 0 && s.ctxs.all (fun d => d.id != c)) |>.getD 0

/-- Checking a launch record whose LSEQ matched (01:R20). -/
def checkLaunch (ctx : BitVec 16) (k : Nat) (s : State) : State :=
  let id := newCtx s ctx
  match launchReject s id k with
  | some v => writeLstat k v s
  | none =>
    let f := lfield s k
    let r := s.fresh
    let c : Ctx := { id := id, life := r.1, slot := some k, packid := BitVec.ofNat 16 (f 0x10 2), ntiles := f 0x0E 2
                     key := BitVec.ofNat 12 (f 0x12 2), seed := BitVec.ofNat 64 (f 0x18 8), mask := BitVec.ofNat 4 (f 0x14 1)
                     save := BitVec.ofNat 64 (f 0x20 8), bound := [], saved := [], kept := [], start := none, killing := false
                     lost := 0 }
    writeLstat k 1 { r.2 with ctxs := s.ctxs ++ [c] }

/-- SERVE_NOTIFY (01:R20, 25:R350): only while running; a slot whose LSTAT is not 0 is ignored. -/
def execServeNotify (ctx : BitVec 16) (s : State) : Host.Outcome State Fault Refusal :=
  if s.boot.stat != 1 || s.serving.isSome then .next s
  else
    match s.notifies with
    | [] => .next s
    | v :: r =>
      let s := { s with notifies := r }
      let k := slotOf v
      if lfield s k 0x30 8 != 0 then .next { s.looked with msix := s.msix ++ [1] }
      else if lfield s k 0 8 = v.toNat then .next (checkLaunch ctx k s).looked
      else
        let at_ := s.now + 1000 * subTick
        .next ({ s.looked with serving := some { value := v, left := 8, at_ := at_ } }.timer at_ (.lseqReread 0))

/-- LSEQ_REREAD (01:R20): up to 8 times, at 1 µs intervals. -/
def execLseqReread (ctx : BitVec 16) (s : State) : Host.Outcome State Fault Refusal :=
  match s.serving with
  | none => .next s
  | some v =>
    let k := slotOf v.value
    if s.now < v.at_ then .next s
    else if lfield s k 0 8 = v.value.toNat then .next (checkLaunch ctx k { s with serving := none }).looked
    else if v.left ≤ 1 then .next (writeLstat k 0x10 { s with serving := none }).looked
    else
      let at_ := s.now + 1000 * subTick
      .next ({ s.looked with serving := some { v with left := v.left - 1, at_ := at_ } }.timer at_ (.lseqReread 0))

/-- LSTAT_RUNNING (01:R19): every tile is bound and the earliest START has passed. A pack that has finished by then, or whose
kill has begun, gets no 0x02 (DESIGN CHOICE, log entry 80). -/
def execLstatRunning (ctx : BitVec 16) (s : State) : Host.Outcome State Fault Refusal :=
  match s.ctxs.find? (fun c => c.id == ctx) with
  | none => .next s
  | some c =>
    match c.start with
    | none => .next s
    | some st =>
      if c.bound.length = c.ntiles && decide (st ≤ s.now / subTick) && !c.killing
          && (c.slot.map (fun k => lfield s k 0x30 8)) == some 1 then
        .next (ctxLstat c 2 s)
      else .next s

/-- A tile of a context has executed HALT. -/
def noteHalted (w : Who) (s : State) : State :=
  { s with ctxs := s.ctxs.map (fun c =>
      if c.id == w.ctx && c.life == w.life then { c with halted := c.halted.filter (fun i => i != w.idx) ++ [w.idx] } else c) }

/-- LSTAT 0x03 once every tile of a context has executed HALT (01:R19), whether 0x02 was written before or not (DESIGN CHOICE,
log entry 80); the context is over. -/
def finishCtx (ctx : BitVec 16) (s : State) : State :=
  match s.ctxs.find? (fun c => c.id == ctx) with
  | none => s
  | some c =>
    if c.bound.length = c.ntiles && c.saved.isEmpty && !c.killing && c.bound.all (fun e => c.halted.contains e.1) then
      ctxLstat c 3 { s with ctxs := s.ctxs.filter (fun d => d.id != ctx) }
    else s

/-! ### Save (06:R129) -/

/-- The save begins at the end of the PERIOD's cycle: leases are freed, and the save is whole within 500,000 ticks. -/
def beginSave (p : Nat) (s : State) : State :=
  let s := s.onTile p (fun t => { t with state := 4, phase := .saving })
  (freeLeases (whoOf (s.tile p)) s).timer (s.now + 500000 * subTick) (.saveComplete p)

/-- An operation of a tile is still outstanding at a station. -/
def outstanding (s : State) (w : Who) : Bool := s.ops.any (fun o => o.who == w && !o.lines.all lineDone)

/-- What is kept of a tile beside its image (12:R218, 21:R306, 25:R357-R359). -/
def keptOf (t : Tile) : Kept :=
  { idx := t.packIdx.toNat, bindNo := t.bindNo, replay := t.replay
    writers := t.mirs.filterMap (fun (m, x) => x.writer.map (fun w => (m, w))) }

/-- The tile at p of a context is off the device now. What is kept of it includes its own mirrors that were bound to it
(01:R18). -/
def noteSaved (p : Nat) (s : State) : State :=
  match s.ctxs.find? (fun c => ofCtx c (s.tile p)) with
  | none => s
  | some c =>
    let idx := (s.tile p).packIdx.toNat
    let s := noteWriter c idx (s.tile p).bind.logtile.toNat s
    { s with ctxs := s.ctxs.map (fun d => if d.id == c.id then
        { d with saved := d.saved ++ [idx], kept := d.kept.filter (fun k => k.idx != idx) ++ [keptOf (s.tile p)] } else d) }

/-- What a save waits for: operations outstanding at a station (06:R129), and messages that the tile's ring slots have not
carried yet, so that their records land in the image (DESIGN CHOICE, log entry 92). -/
def saveWaits (s : State) (t : Tile) : Bool := outstanding s (whoOf t) || !t.port.queue.isEmpty

/-- SAVE_COMPLETE (06:R129): once no operation is outstanding, the image is written, SVALID last, and STATE is 000. CTXID of the
slot entry's record then reads 0, its other fields as before (DESIGN CHOICE, log entry 93). -/
def execSaveComplete (p : Nat) (s : State) : Host.Outcome State Fault Refusal :=
  let t := s.tile p
  let w := whoOf t
  if t.state != 4 || saveWaits s t then .next s
  else
    let m := imageOf false t
    let n := if t.arr.wsramDirty then 0x18000 else 0x8000
    let s := dvaLines w.ctx t.bind.savearea (fun j => mreadLine m (64 * j)) 0 n s
    let s := dvaWrite w.ctx (t.bind.savearea + 8) 8 (2 ^ 63 + w.ctx.toNat) s
    let s := noteSaved p s
    .next (s.onTile p (fun t => { t with state := 0, phase := .off, bind := { t.bind with ctx := 0 }, tickets := []
                                         arr := { t.arr with wsramDirty := false } }))

/-! ### Migration (06:R135; 25:R339, R340) -/

/-- A tile waits for a migration because it is hot (25:R339). -/
def isHot : Option Move → Bool
  | some .thermal => true
  | some (.mapset _ hot) => hot
  | none => false

/-- What a tile waits for when its sensor's reading changes: a MAPSET that was accepted stands (25:R356). -/
def setHot (hot : Bool) : Option Move → Option Move
  | some (.mapset q _) => some (.mapset q hot)
  | some .thermal | none => if hot then some .thermal else none

/-- The sensor's last reading of a tile, in °C. -/
def tempOf (s : State) (p : Nat) : Nat := tget 0 s.temps p

/-- A physical tile may take a migrating tile: its STATE and its bands. -/
def mayTake (s : State) (t : Tile) (q : Nat) : Bool :=
  ((s.tile q).state == 5 || (s.tile q).state == 0) && (t.arr.ashape &&& ~~~(s.tile q).arr.bandOk) == 0

/-- The target of a thermal migration (25:R339). -/
def thermalTarget (s : State) (p : Nat) : Option Nat :=
  ((List.range 34).map (fun i => 34 * clusterOf p + i)).find? (fun q =>
    q != p && mayTake s (s.tile p) q && decide (tempOf s q ≤ 95))

/-- An event that names a physical tile, after the tile's move. -/
def retarget (p q : Nat) : Instr → Instr
  | .ringSlot t => .ringSlot (if t = p then q else t)
  | .holdEnd t => .holdEnd (if t = p then q else t)
  | .killTileStop t => .killTileStop (if t = p then q else t)
  | i => i

/-- A band on the tile that a migration moves to: one that was waking begins its whole wake again (08:R168). -/
def movedBand : Band → Band
  | .waking _ => .waking 2000
  | .asleep => .asleep
  | .awake => .awake

/-- Moving the turn tile's context to physical tile q (06:R135): all state but what belongs to the place; the source
becomes a spare, and the logical tile is mapped to q. What a halted tile at q still carried is lost (DESIGN CHOICE, log entry
101). Uncorrectable errors of WSRAM, planes, accumulator and engine window move with the bytes, as they are no part of an image and
a resume finds none (DESIGN CHOICE, log entry 112). -/
def moveTile (q : Nat) (s : State) : State :=
  let p := s.turn
  let t := s.tl
  let d := s.tile q
  let moved := { t with arr := { t.arr with bandOk := d.arr.bandOk, band := t.arr.band.map movedBand }, rail := d.rail, dbg := d.dbg, migrateTo := none }
  let left := { clearTile t with state := 5 }
  mapTile t.bind.logtile.toNat (q % 34)
    { s with
      tiles := tset (tset s.tiles p left) q moved, turn := q
      timers := s.timers.map (fun (a, i) => (a, retarget p q i)) }

/-- The migration that a PERIOD takes: MAPSET's target, or for a hot tile the lowest that qualifies, which a MAPSET whose
target does not qualify any more leaves its turn (25:R339, R356). -/
def migrationTarget (s : State) : Option Nat :=
  match s.tl.migrateTo with
  | none => none
  | some .thermal => thermalTarget s s.turn
  | some (.mapset q hot) =>
    if mayTake s s.tl q then some q else if hot then thermalTarget s s.turn else none

/-! ### Kill (06:R136) -/

/-- Stations discard every operation of some tiles that they still hold (06:R136). Of a CPYW whose source lines are not all
read the lines read already go with the others (DESIGN CHOICE, log entry 76). -/
def dropHeld (sel : Who → Bool) (s : State) : State :=
  pruneOps { s with ops := s.ops.map (fun o =>
    if sel o.who && (o.held || o.lines.any (fun l => !l.ready)) then
      { o with lines := o.lines.map (fun l => if lineDone l then l else { l with dropped := true }), reported := true }
    else o) }

/-- A tile of a context runs, is frozen or is being saved. -/
def onDevice (s : State) (w : Who) : Bool :=
  match physOf s w with
  | some p => carries (s.tile p)
  | none => false

/-- A kill begins: each tile stops within 1,500 ticks, the held operations of tiles that have halted or are saved are
discarded at once, and it completes within 200,000. It posts no notice to mirror 61 of its tiles: REQ 0x03 of 06:R127 has no
sender that the spec names (DESIGN CHOICE, log entry 83). -/
def killCtx (ctx : BitVec 16) (s : State) : State :=
  match s.ctxs.find? (fun c => c.id == ctx) with
  | none => s
  | some c =>
    let stops := (s.tiles.filter (fun (_, t) => ofCtx c t && carries t)).map (fun (p, _) =>
      (s.now + 1500 * subTick, Instr.killTileStop p))
    let s := dropHeld (fun w => w.ctx == ctx && w.life == c.life && !onDevice s w) s
    { s with
      ctxs := s.ctxs.map (fun c => if c.id == ctx then { c with killing := true } else c)
      timers := s.timers ++ stops ++ [(s.now + 200000 * subTick, .killComplete ctx)] }

/-- A tile that a kill has stopped: nothing issues, nothing lands (06:R136). -/
def stopTile (t : Tile) : Tile :=
  { t with state := 3, phase := .off, killed := true, pend := [], jobs := [], landed := [], samples := [], loops := [], redirect := none
           nopn := none, slip := none, perEnd := false, saveDue := false, migrateTo := none, issued := false
           arr := { t.arr with mmas := [], wloads := [], holds := [] } }

/-- The context of a tile is being killed. -/
def beingKilled (s : State) (ctx : BitVec 16) : Bool := s.ctxs.any (fun c => c.id == ctx && c.killing)

/-- A migration under way completes before a kill stops the tile, whose POSTs issued before are sent; of a tile that has halted
since the request the held operations are discarded (06:R136). -/
def execKillTileStop (p : Nat) (s : State) : Host.Outcome State Fault Refusal :=
  let t := s.tile p
  if !beingKilled s t.bind.ctx then .next s
  else if !takesPosts t then .next (dropHeld (fun w => w == whoOf t) s)
  else
    let s' := { sendPosts { s with turn := p } with turn := s.turn }
    .next (freeLeases (whoOf t) (dropHeld (fun w => w == whoOf t) (s'.onTile p stopTile)))

/-- KILL_COMPLETE (06:R136): every tile has stopped and no operation of the context is outstanding. The records of the slot
entries then read 0, as at power-on (DESIGN CHOICE, log entry 93). -/
def execKillComplete (ctx : BitVec 16) (s : State) : Host.Outcome State Fault Refusal :=
  match s.ctxs.find? (fun c => c.id == ctx && c.killing) with
  | none => .next s
  | some c =>
    if s.tiles.any (fun (_, t) => ofCtx c t && (t.phase != .off || t.state == 1 || t.state == 2 || t.state == 4))
        || s.ops.any (fun o => o.who.ctx == ctx && o.who.life == c.life && !o.lines.all lineDone) then .next s
    else
      let s := (s.tiles.filter (fun (_, t) => ofCtx c t)).foldl (fun s (p, t) =>
        (freeLeases (whoOf t) s).onTile p (fun t => { clearTile t with state := 0 })) s
      .next (ctxLstat c 4 { s with ctxs := s.ctxs.filter (fun d => d.id != ctx) })

/-! ### Pack control and major 0x3F (06:R127; 25:R356) -/

/-- The next sequence of the host's or the management core's posts to a tile. -/
def controlSeq (s : State) (w : Who) (m : Nat) : BitVec 32 :=
  match physOf s w with
  | some p => (if m = 60 then (s.tile p).hostSeq else (s.tile p).pcCtlSeq) + 1
  | none => kennelSeq s w m

/-- A post of the host (mirror 60) or the management core (mirror 61), which arrives within 1,500 ticks. It comes from die 0
(DESIGN CHOICE for the management core, log entry 90). -/
def controlPost (w : Who) (m : Nat) (payload : Line) (stamp : X) (s : State) : State :=
  let seq := controlSeq s w m
  let r := s.fresh
  let p : Post := { id := r.1, src := none, payload := payload, seq := seq, stamp := stamp
                    dsts := [{ who := w, mirror := m, bound := 1500, done := false }], waits := [], held := false
                    sent := true, wrote := [], at_ := s.now }
  let s := match physOf r.2 w with
    | some q => r.2.onTile q (fun t => if m = 60 then { t with hostSeq := seq } else { t with pcCtlSeq := seq })
    | none => r.2
  { s with posts := s.posts ++ [p], timers := s.timers ++ deliveryTimers s.now p }

/-- A privileged instruction of the debug window: it acts at one instant, or takes cause 0x03 in a routine. -/
def windowOnly (g : Guard) (act : State → State) (s : State) : Host.Outcome State Fault Refusal :=
  if s.level then .next (if enabled s.tl g then act s else dbgOk s)
  else issue { priv := true, unit := none } 4 (fun s => s) s

/-- A live context of an ID. -/
def liveCtx (s : State) (id : BitVec 16) : Option Ctx := s.ctxs.find? (fun c => c.id == id && c.id != 0)

/-- The tiles of a context, bound or saved. -/
def ctxTiles (s : State) (c : Ctx) : List Who :=
  (s.tiles.filter (fun (_, t) => ofCtx c t && takesPosts t)).map (fun (_, t) => whoOf t)
    ++ c.saved.map (fun i => { ctx := c.id, idx := i, life := c.life })

/-- PREEMPT (25:R356): REQ 0x01, or 0x02 to cancel, to mirror 61 of every tile of the context. -/
def execPreempt (g : Guard) (a : BitVec 5) (s : State) : Host.Outcome State Fault Refusal :=
  let _ := a
  windowOnly g (fun s =>
    let v := s.tl.dbg.xa
    match liveCtx s (v.extractLsb' 0 16) with
    | none => dbgFault 0x17 v s
    | some c =>
      if v.extractLsb' 17 47 != 0 then dbgFault 0x17 v s
      else
        let req : Line := if v.getLsbD 16 then 2 else 1
        dbgOk ((ctxTiles s c).foldl (fun s w => controlPost w 61 req (BitVec.ofNat 64 (s.now / subTick)) s) s)) s

/-- KILL (25:R356). -/
def execKill (g : Guard) (a : BitVec 5) (s : State) : Host.Outcome State Fault Refusal :=
  let _ := a
  windowOnly g (fun s =>
    let v := s.tl.dbg.xa
    if v.extractLsb' 16 48 != 0 || (liveCtx s (v.extractLsb' 0 16)).isNone then dbgFault 0x17 v s
    else dbgOk (killCtx (v.extractLsb' 0 16) s)) s

/-- The physical tile that carries a logical tile. -/
def carrier (s : State) (lt : Nat) : Option Nat :=
  (s.tiles.find? (fun (_, t) => t.bind.ctx != 0 && t.bind.logtile.toNat == lt && carries t)).map (fun e => e.1)

/-- MAPSET (25:R340, R356): the migration is taken at the tile's next PERIOD, that of a logical tile that runs nothing at its
first PERIOD once it is bound (log entry 52). -/
def execMapset (g : Guard) (a b : BitVec 5) (s : State) : Host.Outcome State Fault Refusal :=
  let _ := a
  let _ := b
  windowOnly g (fun s =>
    let lt := s.tl.dbg.xa.toNat
    let ph := s.tl.dbg.xb.toNat
    if 128 * liveDies s ≤ lt then dbgFault 0x17 s.tl.dbg.xa s
    else if 33 < ph then dbgFault 0x17 s.tl.dbg.xb s
    else
      let q := 34 * s.clusterMap.getD (lt / 32) 0 + ph
      match carrier s lt with
      | some p =>
        if mayTake s (s.tile p) q then
          dbgOk (s.onTile p (fun t => { t with migrateTo := some (.mapset q (isHot t.migrateTo)) }))
        else dbgFault 0x17 s.tl.dbg.xb s
      | none =>
        if (s.tile q).state == 5 || (s.tile q).state == 0 then
          dbgOk { s with mapPend := tset s.mapPend lt q }
        else dbgFault 0x17 s.tl.dbg.xb s) s

/-- KEYSEL (25:R356): a key slot is erased, or loaded from a line of the management core's memory, which is then zero. A line
that reads as failing delivers no key: DBGRES has 0x21 and nothing changes (15:R249; log entry 50). -/
def execKeysel (g : Guard) (a b : BitVec 5) (s : State) : Host.Outcome State Fault Refusal :=
  let _ := a
  let _ := b
  windowOnly g (fun s =>
    let v := s.tl.dbg.xa
    let dpa := s.tl.dbg.xb
    let k := (v.extractLsb' 0 12).toNat
    if v.extractLsb' 12 51 != 0 || s.ctxs.any (fun c => c.key.toNat == k) then dbgFault 0x17 v s
    else if v.getLsbD 63 then dbgOk { s with keys := tdel s.keys k }
    else
      match (if dpa.toNat % 64 = 0 then hashPlace 0 s.live dpa.toNat else none) with
      | none => dbgFault 0x17 dpa s
      | some da =>
        let l := cipherLine s da
        if failing s da then dbgFault 0x21 dpa s
        else
        dbgOk (bufferStale da 0
          { s with keys := tset s.keys k (lineBytes l 0 32, lineBytes l 32 32), mem := mwrites s.mem (lineCells da 0)
                   lineKeys := tdel s.lineKeys (da / 64), badLines := s.badLines.filter (fun b => b != da / 64) })) s

end Sys2Proof.Machine
end

