-- ==== Sys2Proof/Machine/Power.lean ====
section
/-! DEFINITION. Heat, current, frequency and voltage (25:R338-R345). -/

namespace Sys2Proof.Machine

/-! ### Frequency (25:R343-R345) -/

/-- A tile that issues nothing and whose last cycle is over. -/
def clockIdle (t : Tile) : Bool := !issuing t && !t.issued

/-- FREQ as a read gives it (25:R343). -/
def freqReg (q : Freq) : X :=
  BitVec.ofNat 64 (q.target % 2 ^ 16 + q.phase % 4 * 2 ^ 16 + q.current % 2 ^ 16 * 2 ^ 32 + q.pending % 2 ^ 16 * 2 ^ 48)

/-- A request that the register refuses (25:R343). -/
def freqBad (f : Nat) : Bool := decide (f < 425) || decide (1000 < f) || f % 25 != 0

/-- While ACTIVE is 0 a request above 850 MHz is one for 850 MHz (25:R342). -/
def boosted (s : State) (f : Nat) : Nat := if 850 < f && !(s.boostEn && occClear s) then 850 else f

/-- Switching every tile's clock that the predicate selects to the latest changeover's frequency. -/
def setClocks (sel : Tile → Bool) (f : Nat) (s : State) : State :=
  { s with tiles := s.tiles.map (fun (p, t) =>
      if sel t then (p, { t with clk := { t.clk with mhz := f, chg := s.freq.chg } }) else (p, t)) }

/-- The changeover begins (25:R344): tiles that issue nothing switch now. -/
def beginChangeover (s : State) : State :=
  setClocks clockIdle s.freq.target { s with freq := { s.freq with phase := 2, chg := s.freq.chg + 1, since := s.now } }

/-- The ramp's rise so far, in millivolts: 1 mV in 1,000 ticks. -/
def rampRise (s : State) : Nat := if s.freq.phase = 1 then (s.now / subTick - s.freq.rampFrom) / 1000 else 0

/-- The least voltage that the power controller applies now (25:R338): a ramp raises it to what its target needs. -/
def railNow (s : State) : Nat :=
  if s.freq.phase = 1 then min (s.freq.rail + rampRise s) (max s.freq.rail (Config.vmin s.freq.target)) else s.freq.rail

/-- The voltage that a band's supply setting gives: a lower setting is raised (25:R338). -/
def appliedRail (s : State) (setting : Nat) : Nat := max setting (railNow s)

/-- The lowest supply setting of a band of the package's live dies, 500 mV at most (25:R338). -/
def lowestSetting (s : State) : Nat :=
  ((List.range 544).filter (fun p => s.live.getLsbD (dieOf p))).foldl (fun m p => (s.tile p).rail.foldl min m) 500

/-- Going for a frequency from the present voltage (25:R344): a ramp when it needs a higher one than some band has, else the
changeover. -/
def startChange (f : Nat) (s : State) : State :=
  let v := Config.vmin f
  let present := max s.freq.rail (lowestSetting s)
  let q := { s.freq with target := f, rail := max s.freq.rail (min present v) }
  if present < v then
    { s with freq := { q with phase := 1 }
             timers := s.timers ++ [((q.rampFrom + (v - present) * 1000) * subTick, .voltageRampDone)] }
  else beginChangeover { s with freq := q }

/-- A request for a frequency (25:R345). -/
def requestFreq (f : Nat) (s : State) : State :=
  let f := boosted s f
  let tick := s.now / subTick
  match s.freq.phase with
  | 0 => startChange f { s with freq := { s.freq with rampFrom := tick } }
  | 1 =>
    let n := rampRise s
    startChange f { s with freq := { s.freq with rail := s.freq.rail + n, rampFrom := s.freq.rampFrom + 1000 * n } }
  | _ => { s with freq := { s.freq with pending := f } }

/-- A write to TARGET (25:R343): a request, or refused with cause 0x17 when out of range. -/
def freqWrite (f : Nat) (s : State) : State := if freqBad f then s.mcSays 0x17 else (requestFreq f s).mcSays 0

/-- FREQ_REQUEST (25:R343). -/
def execFreqRequest (f : Nat) (s : State) : Host.Outcome State Fault Refusal := .next (freqWrite f s)

/-- VOLTAGE_RAMP_DONE (25:R344). -/
def execVoltageRampDone (s : State) : Host.Outcome State Fault Refusal :=
  if s.freq.phase = 1 && decide (Config.vmin s.freq.target ≤ max (s.freq.rail + rampRise s) (lowestSetting s)) then
    .next (beginChangeover { s with freq := { s.freq with rail := Config.vmin s.freq.target } })
  else .next s

/-- Every tile has switched (25:R344). -/
def allSwitched (s : State) : Bool := s.tiles.all (fun (_, t) => clockIdle t || t.clk.chg == s.freq.chg)

/-- The end of a changeover (25:R344, R345): CURRENT is the target, the rails fall where it needs less, and a pending
request starts. -/
def endChangeover (s : State) : State :=
  let f := s.freq.target
  let p := s.freq.pending
  let need := max (Config.vmin f) (if p = 0 then 0 else Config.vmin p)
  let s := setClocks (fun _ => true) f
    { s with freq := { s.freq with current := f, phase := 0, pending := 0, rail := min s.freq.rail need } }
  if p = 0 then s else requestFreq p s

/-- A changeover has ended: every tile has switched. -/
def changeoverDue (s : State) : Bool := s.freq.phase == 2 && allSwitched s

/-- CHANGEOVER_END (25:R344, R345). -/
def execChangeoverEnd (s : State) : Host.Outcome State Fault Refusal :=
  .next (if changeoverDue s then endChangeover s else s)

/-! ### Heat (25:R339) -/

/-- A thermal shed of a tile's kennel, with an event to the management core. -/
def thermalShed (p : Nat) (s : State) : State := shed (clusterOf p) 2 { s with events := s.events ++ [p] }

/-- THERMAL_SENSOR_READ (25:R339): at 105 °C or more a bound tile migrates at its next PERIOD when a target qualifies,
else its kennel sheds. -/
def execThermalSensorRead (p temp : Nat) (s : State) : Host.Outcome State Fault Refusal :=
  let s := { s with temps := tset s.temps p temp }
  let t := s.tile p
  if temp < 105 then
    .next (s.onTile p (fun t => { t with migrateTo := setHot false t.migrateTo }))
  else if t.state != 1 && t.state != 2 && t.state != 3 then .next s
  else if (thermalTarget s p).isSome then .next (s.onTile p (fun t => { t with migrateTo := setHot true t.migrateTo }))
  else .next (thermalShed p s)

/-! ### Current (25:R341, R342) -/

/-- OCCAUSE after an alarm of a die with its sources. -/
def occAlarm (v : X) (d : Nat) (src : BitVec 4) : X :=
  let n := v.extractLsb' 32 32
  (if n = BitVec.allOnes 32 then n else n + 1) ++ ((v.extractLsb' 0 32) ||| BitVec.ofNat 32 (2 ^ (8 + d % 4)) ||| src.setWidth 32)

/-- CURRENT_ALARM (25:R342): OCCAUSE, a request for 850 MHz, a shed of every kennel of the die. -/
def execCurrentAlarm (d : Nat) (src : BitVec 4) (s : State) : Host.Outcome State Fault Refusal :=
  let s := { s with occause := occAlarm s.occause d src }
  let high := decide (850 < s.freq.current) || decide (850 < s.freq.target) || decide (850 < s.freq.pending)
  let s := if high then requestFreq 850 s else s
  .next ((List.range 4).foldl (fun s i => shed (4 * d + i) 1 s) s)

/-- OCCAUSE_CLEAR (25:R341). -/
def execOccauseClear (v : X) (s : State) : Host.Outcome State Fault Refusal :=
  .next { s with occause := occWritten s.occause v }

/-- REGISTER_FILE_PARITY (06:R117): cause 0x22 of a tile that issues. One that arises in a drain is kept and reported at the
handler's first slot, as a nested fault (DESIGN CHOICE, log entry 74). -/
def execRegisterFileParity (p : Nat) (file : BitVec 2) (r : BitVec 5) (s : State) : Host.Outcome State Fault Refusal :=
  .next (if issuing (s.tile p) then
      s.onTile p (fun t => { t with escCause := t.escCause ++ [(0x22, (0 : BitVec 56) ++ file ++ (0 : BitVec 1) ++ r)] })
    else s)

end Sys2Proof.Machine
end

