-- ==== Sys2Proof/Machine/Vector.lean ====
section
/-! DEFINITION. Vector arithmetic, compares, moves, conversions, reductions, scans and permutes (07:R141-R153, R160). -/

namespace Sys2Proof.Machine

/-! ### Results -/

/-- A vector result of the enabled lanes; it is a result whatever lanes it enables, none included (04:R75). -/
def vres (l unit : Nat) (d : BitVec 5) (mask : X) (f : Nat → W32) (t : Tile) : Tile :=
  writeL l unit (.v d mask) (ofLanes f) t

/-- A lane-wise instruction: its unit, latency, occupancy, and the lane function over the issue cycle's registers. -/
def lanewise (unit l occ : Nat) (g : Guard) (d : BitVec 5) (f : Tile → Nat → W32) (s : State) :
    Host.Outcome State Fault Refusal :=
  issue { unit := some unit, occ := occ } 12 (fun s => s.onTl (fun t => vres l unit d (effGuard t g) (f t) t)) s

/-- A lane of a register. -/
def vl (t : Tile) (r : BitVec 5) (i : Nat) : W32 := lane (rv t r) i

/-! ### VALU (07:R141) -/

/-- The type is signed. -/
def intSigned : IntTy → Bool
  | .i32 => true
  | .n32 => false

/-- A lane read as its type states. -/
def laneInt (t : IntTy) (v : W32) : Int := if intSigned t then v.toInt else v.toNat

/-- sat_s32 or sat_n32. -/
def satInt (t : IntTy) (v : Int) : W32 :=
  if intSigned t then BitVec.ofInt 32 (max (-2147483648) (min v 2147483647))
  else BitVec.ofInt 32 (max 0 (min v 4294967295))

/-- An exact result wrapped or clamped. -/
def wrapOrSat (t : IntTy) (sat : Bool) (v : Int) : W32 := if sat then satInt t v else BitVec.ofInt 32 v

/-- A VALU instruction of two sources. -/
def valu (g : Guard) (d a b : BitVec 5) (f : W32 → W32 → W32) (s : State) : Host.Outcome State Fault Refusal :=
  lanewise 5 2 1 g d (fun t i => f (vl t a i) (vl t b i)) s

/-- The shift amount: bits 4:0 of b. -/
def vsh (b : W32) : Nat := b.toNat % 32

/-- VADD (07:R141). -/
def execVadd (g : Guard) (t : IntTy) (sat : Bool) (d a b : BitVec 5) (s : State) : Host.Outcome State Fault Refusal :=
  valu g d a b (fun x y => wrapOrSat t sat (laneInt t x + laneInt t y)) s

/-- VSUB (07:R141). -/
def execVsub (g : Guard) (t : IntTy) (sat : Bool) (d a b : BitVec 5) (s : State) : Host.Outcome State Fault Refusal :=
  valu g d a b (fun x y => wrapOrSat t sat (laneInt t x - laneInt t y)) s

/-- VAND (07:R141). -/
def execVand (g : Guard) (t : IntTy) (d a b : BitVec 5) (s : State) : Host.Outcome State Fault Refusal :=
  let _ := t
  valu g d a b (fun x y => x &&& y) s

/-- VOR (07:R141). -/
def execVor (g : Guard) (t : IntTy) (d a b : BitVec 5) (s : State) : Host.Outcome State Fault Refusal :=
  let _ := t
  valu g d a b (fun x y => x ||| y) s

/-- VXOR (07:R141). -/
def execVxor (g : Guard) (t : IntTy) (d a b : BitVec 5) (s : State) : Host.Outcome State Fault Refusal :=
  let _ := t
  valu g d a b (fun x y => x ^^^ y) s

/-- VANDN (07:R141). -/
def execVandn (g : Guard) (t : IntTy) (d a b : BitVec 5) (s : State) : Host.Outcome State Fault Refusal :=
  let _ := t
  valu g d a b (fun x y => x &&& ~~~y) s

/-- VSHL (07:R141). -/
def execVshl (g : Guard) (t : IntTy) (d a b : BitVec 5) (s : State) : Host.Outcome State Fault Refusal :=
  let _ := t
  valu g d a b (fun x y => x <<< vsh y) s

/-- VSHR (07:R141). -/
def execVshr (g : Guard) (t : IntTy) (d a b : BitVec 5) (s : State) : Host.Outcome State Fault Refusal :=
  let _ := t
  valu g d a b (fun x y => x >>> vsh y) s

/-- VSAR, the same for both types (07:R141). -/
def execVsar (g : Guard) (t : IntTy) (d a b : BitVec 5) (s : State) : Host.Outcome State Fault Refusal :=
  let _ := t
  valu g d a b (fun x y => x.sshiftRight (vsh y)) s

/-- VMIN (07:R141). -/
def execVmin (g : Guard) (t : IntTy) (d a b : BitVec 5) (s : State) : Host.Outcome State Fault Refusal :=
  valu g d a b (fun x y => minBy (intSigned t) x y) s

/-- VMAX (07:R141). -/
def execVmax (g : Guard) (t : IntTy) (d a b : BitVec 5) (s : State) : Host.Outcome State Fault Refusal :=
  valu g d a b (fun x y => maxBy (intSigned t) x y) s

/-- VMUL (07:R141). -/
def execVmul (g : Guard) (t : IntTy) (sat : Bool) (d a b : BitVec 5) (s : State) : Host.Outcome State Fault Refusal :=
  valu g d a b (fun x y => wrapOrSat t sat (laneInt t x * laneInt t y)) s

/-- VMULH: bits 63:32 of the product (07:R141). -/
def execVmulh (g : Guard) (t : IntTy) (d a b : BitVec 5) (s : State) : Host.Outcome State Fault Refusal :=
  valu g d a b (fun x y => BitVec.ofInt 32 (laneInt t x * laneInt t y / 2 ^ 32)) s

/-- VABS (07:R141). -/
def execVabs (g : Guard) (t : IntTy) (sat : Bool) (d a : BitVec 5) (s : State) : Host.Outcome State Fault Refusal :=
  valu g d a a (fun x _ => wrapOrSat t sat (laneInt t x).natAbs) s

/-- VNEG (07:R141). -/
def execVneg (g : Guard) (t : IntTy) (sat : Bool) (d a : BitVec 5) (s : State) : Host.Outcome State Fault Refusal :=
  valu g d a a (fun x _ => wrapOrSat t sat (0 - laneInt t x)) s

/-! ### VFPU (07:R142-R144) -/

/-- VFADD (07:R142). -/
def execVfadd (g : Guard) (d a b : BitVec 5) (s : State) : Host.Outcome State Fault Refusal :=
  lanewise 6 4 1 g d (fun t i => fAdd (vl t a i) (vl t b i)) s

/-- VFSUB (07:R142). -/
def execVfsub (g : Guard) (d a b : BitVec 5) (s : State) : Host.Outcome State Fault Refusal :=
  lanewise 6 4 1 g d (fun t i => fSub (vl t a i) (vl t b i)) s

/-- VFMUL (07:R142). -/
def execVfmul (g : Guard) (d a b : BitVec 5) (s : State) : Host.Outcome State Fault Refusal :=
  lanewise 6 4 1 g d (fun t i => fMul (vl t a i) (vl t b i)) s

/-- VFMA (07:R142). -/
def execVfma (g : Guard) (d a b c : BitVec 5) (s : State) : Host.Outcome State Fault Refusal :=
  lanewise 6 5 1 g d (fun t i => fMa (vl t a i) (vl t b i) (vl t c i)) s

/-- VFMIN (07:R144). -/
def execVfmin (g : Guard) (d a b : BitVec 5) (s : State) : Host.Outcome State Fault Refusal :=
  lanewise 6 4 1 g d (fun t i => fMin (vl t a i) (vl t b i)) s

/-- VFMAX (07:R144). -/
def execVfmax (g : Guard) (d a b : BitVec 5) (s : State) : Host.Outcome State Fault Refusal :=
  lanewise 6 4 1 g d (fun t i => fMax (vl t a i) (vl t b i)) s

/-- VFABS (07:R142). -/
def execVfabs (g : Guard) (d a : BitVec 5) (s : State) : Host.Outcome State Fault Refusal :=
  lanewise 6 4 1 g d (fun t i => fAbs (vl t a i)) s

/-- VFNEG (07:R142). -/
def execVfneg (g : Guard) (d a : BitVec 5) (s : State) : Host.Outcome State Fault Refusal :=
  lanewise 6 4 1 g d (fun t i => fNeg (vl t a i)) s

/-- VFDIV (07:R142, R143). -/
def execVfdiv (g : Guard) (d a b : BitVec 5) (s : State) : Host.Outcome State Fault Refusal :=
  lanewise 6 16 8 g d (fun t i => fDiv (vl t a i) (vl t b i)) s

/-- VFSQRT (07:R142, R143). -/
def execVfsqrt (g : Guard) (d a : BitVec 5) (s : State) : Host.Outcome State Fault Refusal :=
  lanewise 6 16 8 g d (fun t i => fSqrt (vl t a i)) s

/-- VFEXP2 (07:R142, R143). -/
def execVfexp2 (g : Guard) (d a : BitVec 5) (s : State) : Host.Outcome State Fault Refusal :=
  lanewise 6 12 4 g d (fun t i => fExp2 (vl t a i)) s

/-- VFLOG2 (07:R142, R143). -/
def execVflog2 (g : Guard) (d a : BitVec 5) (s : State) : Host.Outcome State Fault Refusal :=
  lanewise 6 12 4 g d (fun t i => fLog2 (vl t a i)) s

/-! ### Compares (07:R145) -/

/-- a = b as the type's values. -/
def laneEq (t : LaneTy) (a b : W32) : Bool :=
  match t with
  | .i32 | .n32 => a == b
  | .f32 => !isNan a && !isNan b && (a == b || (a ||| b) &&& 0x7FFFFFFF == 0)

/-- a < b as the type's values. -/
def laneLt (t : LaneTy) (a b : W32) : Bool :=
  match t with
  | .i32 => a.slt b
  | .n32 => a.ult b
  | .f32 => !isNan a && !isNan b && decide (fpKey a < fpKey b) && !laneEq .f32 a b

/-- The bits of the first n lanes for which a relation holds. -/
def laneBits (f : Nat → Bool) : Nat → Nat
  | 0 => 0
  | n + 1 => laneBits f n + (if f n then 2 ^ n else 0)

/-- VCMP: bit i of g[GD] for each enabled lane. -/
def vcmp (g : Guard) (gd : BitVec 3) (a b : BitVec 5) (f : W32 → W32 → Bool) (s : State) :
    Host.Outcome State Fault Refusal :=
  issue { unit := some 5 } 12
    (fun s => s.onTl (fun t =>
      writeL 2 5 (.g gd (effGuard t g)) (BitVec.ofNat 2048 (laneBits (fun i => f (vl t a i) (vl t b i)) 64)) t)) s

/-- VCMP.EQ (07:R145). -/
def execVcmpEq (g : Guard) (t : LaneTy) (gd : BitVec 3) (a b : BitVec 5) (s : State) :
    Host.Outcome State Fault Refusal := vcmp g gd a b (laneEq t) s

/-- VCMP.NE (07:R145). -/
def execVcmpNe (g : Guard) (t : LaneTy) (gd : BitVec 3) (a b : BitVec 5) (s : State) :
    Host.Outcome State Fault Refusal := vcmp g gd a b (fun x y => !laneEq t x y) s

/-- VCMP.LT (07:R145). -/
def execVcmpLt (g : Guard) (t : LaneTy) (gd : BitVec 3) (a b : BitVec 5) (s : State) :
    Host.Outcome State Fault Refusal := vcmp g gd a b (laneLt t) s

/-- VCMP.LE (07:R145). -/
def execVcmpLe (g : Guard) (t : LaneTy) (gd : BitVec 3) (a b : BitVec 5) (s : State) :
    Host.Outcome State Fault Refusal := vcmp g gd a b (fun x y => laneLt t x y || laneEq t x y) s

/-! ### Moves (07:R146) -/

/-- VSEL: all 64 lanes, by the effective guard. -/
def execVsel (g : Guard) (d a b : BitVec 5) (s : State) : Host.Outcome State Fault Refusal :=
  lanewise 5 2 1 { neg := false, reg := 0 } d
    (fun t i => if (effGuard t g).getLsbD i then vl t a i else vl t b i) s

/-- VMOV (07:R146). -/
def execVmov (g : Guard) (d a : BitVec 5) (s : State) : Host.Outcome State Fault Refusal :=
  lanewise 5 2 1 g d (fun t i => vl t a i) s

/-- VBCAST from a scalar register (07:R146). -/
def execVbcast (g : Guard) (d a : BitVec 5) (s : State) : Host.Outcome State Fault Refusal :=
  lanewise 5 2 1 g d (fun t _ => (rx t a).extractLsb' 0 32) s

/-- VBCAST of a literal, whose bits 63:32 are checked whatever the guard (07:R146, 02:R40). -/
def execVbcastLit (g : Guard) (d : BitVec 5) (lit : X) (s : State) : Host.Outcome State Fault Refusal :=
  issue { unit := some 5, c17 := if lit.extractLsb' 32 32 != 0 then some lit else none } 20
    (fun s => s.onTl (fun t => vres 2 5 d (effGuard t g) (fun _ => lit.extractLsb' 0 32) t)) s

/-- VLANEGET, enabled by bit n (07:R146). -/
def execVlaneget (g : Guard) (d a : BitVec 5) (n : BitVec 6) (s : State) : Host.Outcome State Fault Refusal :=
  issue { unit := some 5 } 12
    (fun s => s.onTl (fun t =>
      if (effGuard t g).getLsbD n.toNat then writeL 2 5 (.x d) ((vl t a n.toNat).setWidth 2048) t else t)) s

/-- VLANESET, enabled by bit n (07:R146). With bit n clear it has no result at all, as a nullified write (DESIGN CHOICE,
assumption 49). -/
def execVlaneset (g : Guard) (d a : BitVec 5) (n : BitVec 6) (s : State) : Host.Outcome State Fault Refusal :=
  issue { unit := some 5 } 12
    (fun s => s.onTl (fun t =>
      if (effGuard t g).getLsbD n.toNat then vres 2 5 d (1 <<< n.toNat) (fun _ => (rx t a).extractLsb' 0 32) t else t)) s

/-! ### Conversions (07:R147, R148) -/

/-- One lane of VCVT. -/
def convert (td ta : Ty) (rnd : Rnd) (v : W32) : W32 :=
  placeLane' td (elemRound td rnd (elemValue ta (v.toNat % 2 ^ elemBits ta)))
where
  /-- A code in a lane: E2M1 has four bits. -/
  placeLane' (t : Ty) (code : Nat) : W32 := if t = .e2m1 then BitVec.ofNat 32 (code % 16) else placeLane t code

/-- VCVT (07:R147). -/
def execVcvt (g : Guard) (td ta : Ty) (rnd : Rnd) (d a : BitVec 5) (s : State) : Host.Outcome State Fault Refusal :=
  lanewise 7 3 1 g d (fun t i => convert td ta rnd (vl t a i)) s

/-- The lanes of the slots whose bit 4b is set (07:R148). -/
def slotMask (m : X) : X :=
  (List.range 4).foldl (fun r b => if m.getLsbD (4 * b) then r ||| BitVec.ofNat 64 (15 * 2 ^ (4 * b)) else r) 0

/-- Slot b of a register as a number of 16 bytes (07:R138). -/
def slotNat (v : VReg) (b : Nat) : Nat := (v.extractLsb' (128 * b) 128).toNat

/-- VPACKSE (07:R148). -/
def execVpackse (g : Guard) (t : SeTy) (d a : BitVec 5) (s : State) : Host.Outcome State Fault Refusal :=
  issue { unit := some 7 } 12
    (fun s => s.onTl (fun tl =>
      vres 4 7 d (slotMask (effGuard tl g)) (fun i =>
        BitVec.ofNat 32 (seEncode t ((List.range 16).map (fun k => valF32 (vl tl a (16 * (i / 4) + k))))
          / 2 ^ (32 * (i % 4)))) tl)) s

/-- VUNPACKSE (07:R148). -/
def execVunpackse (g : Guard) (t : SeTy) (d a : BitVec 5) (s : State) : Host.Outcome State Fault Refusal :=
  lanewise 7 4 1 g d (fun tl i => rneF32 (seDecode t (slotNat (rv tl a) (i / 16)) (i % 16))) s

/-! ### Reductions (07:R149-R151) -/

/-- One level of the tree. -/
def pairUp {α : Type} (op : α → α → α) : List (Option α) → List (Option α)
  | some a :: some b :: r => some (op a b) :: pairUp op r
  | some a :: none :: r => some a :: pairUp op r
  | none :: b :: r => b :: pairUp op r
  | [a] => [a]
  | [] => []

/-- The tree over 64 lanes: six levels. -/
def redTree {α : Type} (op : α → α → α) (l : List (Option α)) : Option α :=
  ((pairUp op (pairUp op (pairUp op (pairUp op (pairUp op (pairUp op l)))))).head?).join

/-- The enabled lanes. -/
def laneOpts (mask : X) (v : VReg) : List (Option W32) :=
  (List.range 64).map (fun i => if mask.getLsbD i then some (lane v i) else none)

/-- A lane's result: a NaN of .f32 is the canonical one, a lone lane's too (00:R6, 03:R59). -/
def canonLane (t : LaneTy) (v : W32) : W32 := if t = .f32 && isNan v then canonNan else v

/-- The 32-bit result in x[D]: sign-extended for .i32 (07:R150). -/
def redResult (t : LaneTy) (v : W32) : X :=
  match t with
  | .i32 => v.signExtend 64
  | .n32 | .f32 => (canonLane t v).setWidth 64

/-- VRED: x[D] written whatever the guard. -/
def vred (d : BitVec 5) (l occ : Nat) (f : Tile → X) (s : State) : Host.Outcome State Fault Refusal :=
  issue { unit := some 7, occ := occ } 12 (fun s => s.onTl (fun t => writeL l 7 (.x d) (val64 (f t)) t)) s

/-- The integer type of a lane type, for saturation. -/
def laneIntTy : LaneTy → IntTy
  | .i32 => .i32
  | .n32 | .f32 => .n32

/-- The exact integer sum of lanes. -/
def laneSum (t : LaneTy) (l : List (Option W32)) : Int :=
  l.foldl (fun a o => match o with | some v => a + laneInt (laneIntTy t) v | none => a) 0

/-- The sum's operation without saturation. -/
def sumOp (t : LaneTy) (a b : W32) : W32 :=
  match t with
  | .i32 | .n32 => a + b
  | .f32 => fAdd a b

/-- The smaller of two lanes. -/
def minOp (t : LaneTy) (a b : W32) : W32 :=
  match t with
  | .i32 => minBy true a b
  | .n32 => minBy false a b
  | .f32 => fMin a b

/-- The larger of two lanes. -/
def maxOp (t : LaneTy) (a b : W32) : W32 :=
  match t with
  | .i32 => maxBy true a b
  | .n32 => maxBy false a b
  | .f32 => fMax a b

/-- The empty result of VRED.MIN. -/
def minEmpty : LaneTy → W32
  | .i32 => 0x7FFFFFFF | .n32 => 0xFFFFFFFF | .f32 => 0x7F800000

/-- The empty result of VRED.MAX. -/
def maxEmpty : LaneTy → W32
  | .i32 => 0x80000000 | .n32 => 0 | .f32 => 0xFF800000

/-- VRED.SUM (07:R150). -/
def execVredSum (g : Guard) (t : LaneTy) (sat : Bool) (d a : BitVec 5) (s : State) :
    Host.Outcome State Fault Refusal :=
  vred d 6 1 (fun tl =>
    let l := laneOpts (effGuard tl g) (rv tl a)
    redResult t (if sat then satInt (laneIntTy t) (laneSum t l) else (redTree (sumOp t) l).getD 0)) s

/-- VRED.MIN (07:R150). -/
def execVredMin (g : Guard) (t : LaneTy) (d a : BitVec 5) (s : State) : Host.Outcome State Fault Refusal :=
  vred d 6 1 (fun tl => redResult t ((redTree (minOp t) (laneOpts (effGuard tl g) (rv tl a))).getD (minEmpty t))) s

/-- VRED.MAX (07:R150). -/
def execVredMax (g : Guard) (t : LaneTy) (d a : BitVec 5) (s : State) : Host.Outcome State Fault Refusal :=
  vred d 6 1 (fun tl => redResult t ((redTree (maxOp t) (laneOpts (effGuard tl g) (rv tl a))).getD (maxEmpty t))) s

/-- The rank of a value (07:R151); a NaN ranks at `nan`. -/
def rankKey (t : LaneTy) (nan : Int) (v : W32) : Int :=
  match t with
  | .i32 => v.toInt
  | .n32 => v.toNat
  | .f32 => if isNan v then nan else fpKey v

/-- The winning pair (value, lane): a unless b ranks strictly beyond it. -/
def argResult (t : LaneTy) (nan : Int) (beyond : Int → Int → Bool) (l : List (Option W32)) : X :=
  match redTree (fun (a b : W32 × Nat) => if beyond (rankKey t nan b.1) (rankKey t nan a.1) then b else a)
      (l.zipIdx.map (fun (o, i) => o.map (fun v => (v, i)))) with
  | none => 0xFFFFFFFF
  | some (v, i) => canonLane t v ++ BitVec.ofNat 32 i

/-- VRED.ARGMAX (07:R151). -/
def execVredArgmax (g : Guard) (t : LaneTy) (d a : BitVec 5) (s : State) : Host.Outcome State Fault Refusal :=
  vred d 6 1 (fun tl => argResult t (2 ^ 40) (fun b a => decide (a < b)) (laneOpts (effGuard tl g) (rv tl a))) s

/-- VRED.ARGMIN (07:R151). -/
def execVredArgmin (g : Guard) (t : LaneTy) (d a : BitVec 5) (s : State) : Host.Outcome State Fault Refusal :=
  vred d 6 1 (fun tl => argResult t (-(2 ^ 40)) (fun b a => decide (b < a)) (laneOpts (effGuard tl g) (rv tl a))) s

/-- VRED.AND (07:R150). -/
def execVredAnd (g : Guard) (d a : BitVec 5) (s : State) : Host.Outcome State Fault Refusal :=
  vred d 6 1 (fun tl => redResult .n32 ((redTree (· &&& ·) (laneOpts (effGuard tl g) (rv tl a))).getD 0xFFFFFFFF)) s

/-- VRED.OR (07:R150). -/
def execVredOr (g : Guard) (d a : BitVec 5) (s : State) : Host.Outcome State Fault Refusal :=
  vred d 6 1 (fun tl => redResult .n32 ((redTree (· ||| ·) (laneOpts (effGuard tl g) (rv tl a))).getD 0)) s

/-- VRED.XOR (07:R150). -/
def execVredXor (g : Guard) (d a : BitVec 5) (s : State) : Host.Outcome State Fault Refusal :=
  vred d 6 1 (fun tl => redResult .n32 ((redTree (· ^^^ ·) (laneOpts (effGuard tl g) (rv tl a))).getD 0)) s

/-- VRED.XSUM: the exact Σ over the enabled lanes (07:R150). -/
def execVredXsum (g : Guard) (d a : BitVec 5) (s : State) : Host.Outcome State Fault Refusal :=
  vred d 12 2 (fun tl =>
    redResult .f32 (rneF32 (exactSum ((laneOpts (effGuard tl g) (rv tl a)).filterMap (fun o => o.map valF32))))) s

/-! ### Scans (07:R152) -/

/-- The inclusive prefixes of the enabled lanes; a disabled lane's entry is of no account. -/
def scanFrom (op : W32 → W32 → W32) (acc : Option W32) : List (Option W32) → List W32
  | [] => []
  | none :: r => 0 :: scanFrom op acc r
  | some v :: r =>
    let a := match acc with | some x => op x v | none => v
    a :: scanFrom op (some a) r

/-- The clamped exact prefix sums. -/
def scanSat (t : LaneTy) (acc : Int) : List (Option W32) → List W32
  | [] => []
  | none :: r => 0 :: scanSat t acc r
  | some v :: r =>
    let a := acc + laneInt (laneIntTy t) v
    satInt (laneIntTy t) a :: scanSat t a r

/-- VSCAN's lanes. -/
def vscan (t : LaneTy) (g : Guard) (d a : BitVec 5) (f : List (Option W32) → List W32) (s : State) :
    Host.Outcome State Fault Refusal :=
  issue { unit := some 7 } 12
    (fun s => s.onTl (fun tl =>
      let l := f (laneOpts (effGuard tl g) (rv tl a))
      vres 8 7 d (effGuard tl g) (fun i => canonLane t (l.getD i 0)) tl)) s

/-- VSCAN.SUM (07:R152). -/
def execVscanSum (g : Guard) (t : LaneTy) (sat : Bool) (d a : BitVec 5) (s : State) :
    Host.Outcome State Fault Refusal :=
  vscan t g d a (fun l => if sat then scanSat t 0 l else scanFrom (sumOp t) none l) s

/-- VSCAN.MIN (07:R152). -/
def execVscanMin (g : Guard) (t : LaneTy) (d a : BitVec 5) (s : State) : Host.Outcome State Fault Refusal :=
  vscan t g d a (scanFrom (minOp t) none) s

/-- VSCAN.MAX (07:R152). -/
def execVscanMax (g : Guard) (t : LaneTy) (d a : BitVec 5) (s : State) : Host.Outcome State Fault Refusal :=
  vscan t g d a (scanFrom (maxOp t) none) s

/-! ### Permutes (07:R153) -/

/-- VPERM (07:R153). -/
def execVperm (g : Guard) (d a b : BitVec 5) (s : State) : Host.Outcome State Fault Refusal :=
  lanewise 7 3 1 g d (fun t i => vl t a ((vl t b i).toNat % 64)) s

/-- VROT (07:R153). -/
def execVrot (g : Guard) (d a : BitVec 5) (n : BitVec 6) (s : State) : Host.Outcome State Fault Refusal :=
  lanewise 7 3 1 g d (fun t i => vl t a ((i + n.toNat) % 64)) s

/-! ### PHILOX (07:R160) -/

/-- The counter base in lanes 0 to 3. -/
def philoxBase (v : VReg) : BitVec 128 := v.extractLsb' 0 128

/-- Output word j. -/
def pickWord (y : W32 × W32 × W32 × W32) (j : Nat) : W32 :=
  match j with
  | 0 => y.1
  | 1 => y.2.1
  | 2 => y.2.2.1
  | _ => y.2.2.2

/-- PHILOX (07:R160). -/
def execPhilox (g : Guard) (d a : BitVec 5) (j : BitVec 2) (s : State) : Host.Outcome State Fault Refusal :=
  lanewise 9 8 1 g d (fun t i =>
    let v := rv t a
    pickWord (philox (philoxBase v + BitVec.ofNat 128 i) (lane v 4) (lane v 5)) j.toNat) s

end Sys2Proof.Machine
end

