-- ==== Sys2Proof/Machine/VectorMem.lean ====
section
/-! DEFINITION. Vector loads, stores, gathers, scatters and atomics, guard masks in memory, and SAMPLE (07:R154-R164). -/

namespace Sys2Proof.Machine

/-- The enabled lanes with an address each. -/
def laneAddrs (mask : X) (f : Nat → Nat) : List (Nat × Nat) :=
  ((List.range 64).filter (fun i => mask.getLsbD i)).map (fun i => (i, f i))

/-- x[A] + sext(IMM32) (07:R154). -/
def vaddr (t : Tile) (a : BitVec 5) (imm : BitVec 32) : X := rx t a + imm.signExtend 64

/-- The check of a contiguous range of 64 elements (07:R154). -/
def vmemBad (addr : X) (w : Nat) : Bool := addr.toNat % w != 0 || !inOneRegion addr.toNat (64 * w)

/-- The block position j of an address in its line, if it is one (07:R155). -/
def sePos (t : Ty) (addr : Nat) : Option Nat :=
  if addr % 64 % elemSize t = 0 && decide (addr % 64 / elemSize t < blocksPerLine t) then
    some (addr % 64 / elemSize t) else none

/-- The slots whose block is enabled (07:R155). -/
def seSlots (mask : X) : List Nat := (List.range 4).filter (fun b => mask.getLsbD (4 * b))

/-- The check of a block access (07:R155). -/
def seBad (t : Ty) (mask : X) (addr : X) : Bool :=
  decide (0x10FFFF < addr.toNat) ||
    match sePos t addr.toNat with
    | none => true
    | some j => (seSlots mask).any (fun b => decide (blocksPerLine t ≤ j + b))

/-- VLD (07:R154, R155). -/
def execVld (g : Guard) (t : Ty) (d a : BitVec 5) (imm : BitVec 32) (s : State) : Host.Outcome State Fault Refusal :=
  let addr := vaddr s.tl a imm
  let mask := effGuard s.tl g
  if t.isSe then
    issue { unit := some 8, c17 := if seBad t mask addr then some addr else none } 12
      (fun s => s.onTl (fun tl =>
        let slots := (seSlots mask).map (fun b => (b, addr.toNat + elemSize t * b))
        let tl' := addJob 1 8 (rangeBanks addr.toNat 1) (.vloadSe d (elemSize t) slots) tl
        if slots.isEmpty then tl' else accessEvent 1 tl')) s
  else
    issue { unit := some 8, c17 := if vmemBad addr (elemSize t) then some addr else none } 12
      (fun s => s.onTl (fun tl =>
        let lanes := laneAddrs mask (fun i => addr.toNat + elemSize t * i)
        let tl' := addJob 1 8 (rangeBanks addr.toNat (64 * elemSize t)) (.vload d (elemSize t) (laneSigned t) lanes 2) tl
        if lanes.isEmpty then tl' else accessEvent 1 tl')) s

/-- The bytes that VST writes for the enabled lanes. -/
def vstCells (v : VReg) (w : Nat) (lanes : List (Nat × Nat)) : List Host.Cell :=
  (lanes.map (fun (i, a) => cellsLE a w (lane v i).toNat)).flatten

/-- The pad bytes of a block line (03:R67). -/
def padCells (t : Ty) (line : Nat) : List Host.Cell :=
  if t = .se7 then [] else (List.range 4).map (fun k => (line + 60 + k, 0))

/-- VST (07:R154, R155). -/
def execVst (g : Guard) (t : Ty) (d a : BitVec 5) (imm : BitVec 32) (s : State) : Host.Outcome State Fault Refusal :=
  let addr := vaddr s.tl a imm
  let mask := effGuard s.tl g
  if t.isSe then
    issue { unit := some 8, c17 := if seBad t mask addr then some addr else none } 12
      (fun s => s.onTl (fun tl =>
        let cells := ((seSlots mask).map (fun b =>
          cellsLE (addr.toNat + elemSize t * b) (elemSize t) (slotNat (rv tl d) b))).flatten
        let tl' := addJob 1 8 (rangeBanks addr.toNat 1)
          (if cells.isEmpty then .idle else .writes (cells ++ padCells t (addr.toNat / 64 * 64))) tl
        if cells.isEmpty then tl' else accessEvent 1 tl')) s
  else
    issue { unit := some 8, c17 := if vmemBad addr (elemSize t) then some addr else none } 12
      (fun s => s.onTl (fun tl =>
        let cells := vstCells (rv tl d) (elemSize t) (laneAddrs mask (fun i => addr.toNat + elemSize t * i))
        let tl' := addJob 1 8 (rangeBanks addr.toNat (64 * elemSize t)) (if cells.isEmpty then .idle else .writes cells) tl
        if cells.isEmpty then tl' else accessEvent 1 tl')) s

/-! ### Lane-addressed access (07:R156-R158) -/

/-- addr_i of a lane. -/
def gatherAddr (t : Tile) (a b : BitVec 5) (i : Nat) : X := rx t a + (vl t b i).setWidth 64

/-- Two addresses lie in the same region. -/
def sameRegion (x y : X) : Bool :=
  decide (y.toNat ≤ 0x10FFFF) && decide (x.toNat < 0x100000) == decide (y.toNat < 0x100000)

/-- The checks of R156: the region of x[A], then the lowest enabled lane that fails. -/
def gatherBad (t : Tile) (mask : X) (a b : BitVec 5) (w : Nat) : Option X :=
  if 0x10FFFF < (rx t a).toNat then some (rx t a)
  else
    ((List.range 64).find? (fun i => mask.getLsbD i &&
      (!sameRegion (rx t a) (gatherAddr t a b i) || (gatherAddr t a b i).toNat % w != 0))).map (gatherAddr t a b)

/-- All 16 banks of the region of an address. -/
def regionBanks (x : X) : BitVec 32 := if x.toNat < 0x100000 then 0x0000FFFF else 0xFFFF0000

/-- The held cycles c+k to c+k+n−1 of a lane-addressed access. -/
def holdBanks (banks : BitVec 32) (k : Nat) : Nat → Tile → Tile
  | 0, t => t
  | n + 1, t => holdBanks banks (k + 1) n (addJob k 8 banks .idle t)

/-- VGATHER (07:R156). With every lane disabled it is no scratchpad access for a FENCE, as the other vector accesses are none
(DESIGN CHOICE, log entry 97). -/
def execVgather (g : Guard) (t : Ty) (d a b : BitVec 5) (s : State) : Host.Outcome State Fault Refusal :=
  let mask := effGuard s.tl g
  issue { unit := some 8, occ := 16, c17 := gatherBad s.tl mask a b (elemSize t) } 12
    (fun s => s.onTl (fun tl =>
      let banks := regionBanks (rx tl a)
      let lanes := laneAddrs mask (fun i => (gatherAddr tl a b i).toNat)
      let tl' := holdBanks banks 2 15 (addJob 1 8 banks (.vload d (elemSize t) (laneSigned t) lanes 18) tl)
      if mask = 0 then tl' else accessEvent 16 tl')) s

/-- VSCATTER (07:R156): the writes at c+16, lanes ascending. -/
def execVscatter (g : Guard) (t : Ty) (d a b : BitVec 5) (s : State) : Host.Outcome State Fault Refusal :=
  let mask := effGuard s.tl g
  issue { unit := some 8, occ := 16, c17 := gatherBad s.tl mask a b (elemSize t) } 12
    (fun s => s.onTl (fun tl =>
      let banks := regionBanks (rx tl a)
      let lanes := laneAddrs mask (fun i => (gatherAddr tl a b i).toNat)
      let tl' := addJob 16 8 banks (if mask = 0 then .idle else .writes (vstCells (rv tl d) (elemSize t) lanes))
        (holdBanks banks 1 15 tl)
      if mask = 0 then tl' else accessEvent 16 tl')) s

/-- VATOM (07:R157): the reads at c+1; they fill in the writes of c+16 and the old values at the end of c+19. -/
def vatom (op : RmwOp) (g : Guard) (t : IntTy) (d a b c : BitVec 5) (s : State) : Host.Outcome State Fault Refusal :=
  let mask := effGuard s.tl g
  issue { unit := some 8, occ := 16, c17 := gatherBad s.tl mask a b 4 } 12
    (fun s => s.onTl (fun tl =>
      let banks := regionBanks (rx tl a)
      let lanes := (laneAddrs mask (fun i => (gatherAddr tl a b i).toNat)).map (fun (i, x) => (i, x, vl tl c i))
      let tl' := holdBanks banks 2 15 (addJob 1 8 banks (.vatomRead d (intSigned t) op lanes) tl)
      if mask = 0 then tl' else accessEvent 16 tl')) s

/-- VATOM.ADD (07:R157). -/
def execVatomAdd (g : Guard) (t : IntTy) (d a b c : BitVec 5) (s : State) : Host.Outcome State Fault Refusal :=
  vatom .add g t d a b c s
/-- VATOM.MIN (07:R157). -/
def execVatomMin (g : Guard) (t : IntTy) (d a b c : BitVec 5) (s : State) : Host.Outcome State Fault Refusal :=
  vatom .min g t d a b c s
/-- VATOM.MAX (07:R157). -/
def execVatomMax (g : Guard) (t : IntTy) (d a b c : BitVec 5) (s : State) : Host.Outcome State Fault Refusal :=
  vatom .max g t d a b c s
/-- VATOM.XCHG (07:R157). -/
def execVatomXchg (g : Guard) (t : IntTy) (d a b c : BitVec 5) (s : State) : Host.Outcome State Fault Refusal :=
  vatom .xchg g t d a b c s

/-- The words after the lanes' updates in ascending order, with each lane's old value: `done` holds the words written so
far, the latest first. -/
def vatomRun (signed : Bool) (op : RmwOp) (mem : Memory) (done : Table W32) :
    List (Nat × Nat × W32) → List (Nat × W32) × Table W32
  | [] => ([], done)
  | (i, a, x) :: r =>
    let old : W32 := (tfind done a).getD (BitVec.ofNat 32 (mreadLE mem a 4))
    let q := vatomRun signed op mem ((a, rmw op signed old x 0) :: done) r
    ((i, old) :: q.1, q.2)

/-! ### Guard masks in memory (07:R159) -/

/-- VMASK.LD: g[GD] at the end of c+1. -/
def execVmaskLd (g : Guard) (gd : BitVec 3) (a : BitVec 5) (imm : BitVec 32) (s : State) :
    Host.Outcome State Fault Refusal :=
  let addr := vaddr s.tl a imm
  issue { unit := some 5, c17 := checkAddr addr 8 } 12
    (fun s => s.onTl (fun t =>
      if enabled t g then accessEvent 1 (addJob 1 5 (bankBit (bankOf addr.toNat)) (.maskLoad gd addr.toNat) t)
      else addJob 1 5 (bankBit (bankOf addr.toNat)) .idle t)) s

/-- VMASK.ST: g[B] as eight bytes at c+1. -/
def execVmaskSt (g : Guard) (a : BitVec 5) (b : BitVec 3) (imm : BitVec 32) (s : State) :
    Host.Outcome State Fault Refusal :=
  let addr := vaddr s.tl a imm
  issue { unit := some 5, c17 := checkAddr addr 8 } 12
    (fun s => s.onTl (fun t =>
      if enabled t g then
        accessEvent 1 (addJob 1 5 (bankBit (bankOf addr.toNat)) (.writes (cellsLE addr.toNat 8 (rg t b).toNat)) t)
      else addJob 1 5 (bankBit (bankOf addr.toNat)) .idle t)) s

/-- VMASK.CNT (07:R159). -/
def execVmaskCnt (g : Guard) (d : BitVec 5) (b : BitVec 3) (s : State) : Host.Outcome State Fault Refusal :=
  issue { unit := some 5 } 12
    (fun s => if enabled s.tl g then
        s.onTl (fun t => writeL 2 5 (.x d) (BitVec.ofNat 2048 (popFrom (rg t b) 64)) t) else s) s

/-- VMASK.FIRST (07:R159). -/
def execVmaskFirst (g : Guard) (d : BitVec 5) (b : BitVec 3) (s : State) : Host.Outcome State Fault Refusal :=
  issue { unit := some 5 } 12
    (fun s => if enabled s.tl g then
        s.onTl (fun t => writeL 2 5 (.x d) (BitVec.ofNat 2048 (firstFrom (rg t b) 0 64)) t) else s) s

/-! ### SAMPLE (07:R161-R164) -/

/-- G: groups of 64 logits. -/
def sampleGroups (v : Nat) : Nat := (v + 63) / 64

/-- The lines that pass p's group g reads: four logit lines, and a mask line when g mod 8 = 0. -/
def sampleLines (a b g : Nat) : List Nat :=
  linesFrom (a + 256 * g) 4 ++ (if g % 8 = 0 then [b + 64 * (g / 8)] else [])

/-- The read of the n-th group of the four passes, n counted over all passes. -/
def sampleJob (en : Bool) (a b v n : Nat) (t : Tile) : Tile :=
  let gs := sampleGroups v
  let p := n / gs
  let g := n % gs
  addJob (1 + p * (gs + 4) + g) 10 (banksOf (sampleLines a b g)) (if en then .sampleRead p g else .idle) t

/-- The reads of n groups from the k-th on. -/
def sampleJobs (en : Bool) (a b v k : Nat) : Nat → Tile → Tile
  | 0, t => t
  | n + 1, t => sampleJobs en a b v (k + 1) n (sampleJob en a b v k t)

/-- The operand checks of SAMPLE (07:R161): V when enabled (05:R89), the addresses in either case (07:R140). -/
def sampleBad (en : Bool) (xa xb : X) (v : Nat) : Option X :=
  firstFail [
    (en && (v == 0 || decide (262144 < v)), BitVec.ofNat 64 v),
    (xa.toNat % 256 != 0 || decide (0x100000 < xa.toNat + 256 * sampleGroups v), xa),
    (xb.toNat % 64 != 0 || decide (xb.toNat < 0x100000) || decide (0x110000 < xb.toNat + 64 * ((v + 511) / 512)), xb)]

/-- SAMPLE (07:R161, R164). -/
def execSample (g : Guard) (d : BitVec 5) (gd : BitVec 3) (a b c : BitVec 5) (v : BitVec 32) (s : State) :
    Host.Outcome State Fault Refusal :=
  let n := v.toNat
  let gs := sampleGroups n
  issue { unit := some 10, occ := 4 * gs + 16, c17 := sampleBad (enabled s.tl g) (rx s.tl a) (rx s.tl b) n } 12
    (fun s => s.onTl (fun t =>
      let xa := (rx t a).toNat
      let xb := (rx t b).toNat
      let en := enabled t g
      let t' := sampleJobs en xa xb n 0 (4 * gs) t
      if en then
        accessEvent (4 * gs + 12)
          { addJob (4 * gs + 23) 10 0 .sampleEnd t' with
            samples := t'.samples ++ [{ order := t.order, d := d, gd := gd, a := xa, b := xb, ctl := rv t c
                                        v := n, lines := [], changed := false, cancelled := false }] }
      else t')) s

/-- A read of SAMPLE: the first pass keeps its lines, a later pass compares (07:R164). -/
def sampleKeep (mem : Memory) (r : SampleRun) : List Nat → SampleRun
  | [] => r
  | a :: l =>
    let x := mreadLine mem a
    sampleKeep mem (match tfind r.lines a with
      | none => { r with lines := tset r.lines a x }
      | some y => if x = y then r else { r with changed := true }) l

/-- Logit i of the lines kept. -/
def sampleLogit (r : SampleRun) (i : Nat) : W32 :=
  BitVec.ofNat 32 (lineBytes (tget 0 r.lines (r.a + 4 * i / 64 * 64)) (4 * i % 64) 4)

/-- Mask bit i of the lines kept. -/
def sampleMask (r : SampleRun) (i : Nat) : Bool := (tget 0 r.lines (r.b + i / 512 * 64)).getLsbD (i % 512)

/-- floor(t × 256), at most 65,535. -/
def sampleStep (t : W32) : Nat :=
  match valF32 t with
  | .fin false m e => min (if 0 ≤ e + 8 then m * pow2 (e + 8) else m / pow2 (-(e + 8))) 65535
  | .fin true _ _ => 0
  | .inf _ | .nan => 65535

/-- A weight from the distance below the maximum (07:R162). -/
def sampleWeight (tab : List Nat) (m sv : W32) : Nat :=
  if sv = 0xFF800000 then 0
  else
    let d := if laneEq .f32 sv m then 0 else fSub m sv
    let q := sampleStep (fMul d 0x3FB8AA3B)
    if 32 ≤ q / 256 then 0 else tab.getD (q % 256) 0 >>> (q / 256)

/-- Putting a weight in its place among the largest so far: weights falling, ties by rising index. -/
def topInsert (w i : Nat) : List (Nat × Nat) → List (Nat × Nat)
  | [] => [(w, i)]
  | (v, j) :: r => if v < w then (w, i) :: (v, j) :: r else (v, j) :: topInsert w i r

/-- The k largest weights. -/
def topK (k : Nat) (ws : List (Nat × Nat)) : List (Nat × Nat) :=
  ws.foldl (fun l (w, i) => (topInsert w i l).take k) []

/-- The smallest i whose running sum exceeds the target. -/
def drawFrom (target acc i : Nat) : List Nat → Nat
  | [] => i
  | w :: r => if target < acc + w then i else drawFrom target (acc + w) (i + 1) r

/-- SAMPLE's results x[D] and g[GD] from unchanged lines (07:R162). -/
def sampleResult (r : SampleRun) : X × X :=
  let tau := lane r.ctl 6
  let k := (lane r.ctl 7).toNat
  let sv := (List.range r.v).map (fun i => (sampleMask r i, fMul (sampleLogit r i) tau))
  let nan := sv.any (fun (m, x) => m && isNan x)
  let legal := sv.map (fun (m, x) => if m && !isNan x then some x else none)
  let mx := legal.foldl (fun a o => match o with | some x => fMax a x | none => a) 0xFF800000#32
  let tab := (List.range 256).map weightE
  let ws := legal.map (fun o => match o with | some x => sampleWeight tab mx x | none => 0)
  let ws := if k = 0 then ws else
    let top := topK k ws.zipIdx
    ws.zipIdx.map (fun (w, i) => if top.contains (w, i) then w else 0)
  let total := ws.sum
  let nanBit : X := if nan then 0x100000000 else 0
  if total = 0 then (0x2FFFFFFFF ||| nanBit, 0)
  else
    let y := philox (philoxBase r.ctl) (lane r.ctl 4) (lane r.ctl 5)
    let u := (y.2.1 ++ y.1).toNat
    (BitVec.ofNat 64 (drawFrom (u * total / 2 ^ 64) 0 0 ws) ||| nanBit, BitVec.allOnes 64)

/-- SAMPLE's results when a line changed between its reads: a free value within the bounds of 07:R164 (assumption 9). -/
def sampleOpen (r : SampleRun) (f : BitVec 64) : X × X :=
  let nanBit : X := if f.getLsbD 0 then 0x100000000 else 0
  if f.getLsbD 1 then (0x2FFFFFFFF ||| nanBit, 0)
  else (BitVec.ofNat 64 (f.toNat / 4 % r.v) ||| nanBit, BitVec.allOnes 64)

end Sys2Proof.Machine
end

