-- ==== Sys2Proof/Machine/Cycle.lean ====
section
/-! DEFINITION. The end of a tile's cycle: bank uses, results, bands, the end of a period, holds, and what follows a
drain (04:R72-R87; 06:R119-R126; 01:R28). -/

namespace Sys2Proof.Machine

/-! ### Bank uses and timed cycles (04:R86, 06:R119) -/

/-- A use of the bank of an address is cancelled. -/
def cutAt (bad : BitVec 32) (a : Nat) : Bool := bad.getLsbD (bankOf a)

/-- One of several addresses lies on a cancelled bank. -/
def cutAny (bad : BitVec 32) (l : List Nat) : Bool := l.any (cutAt bad)

/-- The byte writes whose banks serve them. -/
def keepCells (bad : BitVec 32) (l : List Host.Cell) : List Host.Cell := l.filter (fun c => !cutAt bad c.1)

/-- Filling in what an instruction's reserved cycle carries. -/
def fillJob (order cyc : Nat) (op : JobOp) (t : Tile) : Tile :=
  { t with jobs := t.jobs.map (fun j => if j.order = order ∧ j.cyc = cyc ∧ j.op = .idle then { j with op := op } else j) }

/-- ATOM's read at c+1 (05:R99): the write of c+3 and the old value at the end of c+3. -/
def atomStep (j : Job) (d : BitVec 5) (w : Nat) (signed : Bool) (op : RmwOp) (addr : Nat) (b cmp : X) (t : Tile) : Tile :=
  let old := mreadLE t.mem addr w
  let new := if w = 4 then (rmw op signed (BitVec.ofNat 32 old) (b.setWidth 32) (cmp.setWidth 32)).toNat
    else (rmw op signed (BitVec.ofNat 64 old) b cmp).toNat
  pushPend (t.abs + 2) j (.x d) (val64 (extend signed w old)) (fillJob j.order (t.abs + 2) (.writes (cellsLE addr w new)) t)

/-- The mask of a list of lanes. -/
def laneMask : List Nat → X
  | [] => 0
  | i :: r => BitVec.ofNat 64 (2 ^ i) ||| laneMask r

/-- The vector value whose lane i is f of the list's entry for i. -/
def laneValues (l : Table W32) : VReg := ofLanes (fun i => (tfind l i).getD 0)

/-- Every read of an instruction that has any was cancelled: it has no result (06:R119). A vector instruction with no
lane enabled has one, which writes no lane. -/
def allCut {α : Type} (all kept : List α) : Bool := !all.isEmpty && kept.isEmpty

/-- The lanes of VLD and VGATHER (07:R154, R156). -/
def vloadStep (j : Job) (d : BitVec 5) (w : Nat) (signed : Bool) (lanes : List (Nat × Nat)) (after : Nat) (t : Tile) : Tile :=
  pushPend (t.abs + after) j (.v d (laneMask (lanes.map (fun l => l.1))))
    (laneValues (lanes.map (fun (i, a) => (i, extend32 signed w (mreadLE t.mem a w))))) t

/-- The block slots of VLD (07:R155): lanes 4b to 4b+3 hold block b in their low bytes. -/
def vloadSeStep (j : Job) (d : BitVec 5) (w : Nat) (slots : List (Nat × Nat)) (t : Tile) : Tile :=
  let lanes := (slots.map (fun (b, a) => (List.range 4).map (fun k =>
    (4 * b + k, (BitVec.ofNat 32 (mreadLE t.mem a w / 2 ^ (32 * k)) : W32))))).flatten
  pushPend (t.abs + 2) j (.v d (laneMask (lanes.map (fun l => l.1)))) (laneValues lanes) t

/-- VATOM's reads at c+1 (07:R157): the writes of c+16 and the old values at the end of c+19. -/
def vatomStep (j : Job) (d : BitVec 5) (signed : Bool) (op : RmwOp) (lanes : List (Nat × Nat × W32)) (t : Tile) : Tile :=
  let q := vatomRun signed op t.mem [] lanes
  let cells := (q.2.reverse.map (fun (a, v) => cellsLE a 4 v.toNat)).flatten
  pushPend (t.abs + 18) j (.v d (laneMask (q.1.map (fun l => l.1)))) (laneValues q.1)
    (fillJob j.order (t.abs + 15) (.writes cells) t)

/-- Changing a SAMPLE under way. -/
def onSample (order : Nat) (f : SampleRun → SampleRun) (t : Tile) : Tile :=
  { t with samples := t.samples.map (fun r => if r.order = order then f r else r) }

/-- SAMPLE's end (07:R162, R164): its two results, a free value when a line changed, none when a read was cancelled. -/
def sampleFinish (j : Job) (s : State) : State :=
  match s.tl.samples.find? (fun r => r.order == j.order) with
  | none => s
  | some r =>
    let s := s.onTl (fun t => { t with samples := t.samples.filter (fun q => q.order != j.order) })
    if r.cancelled then s
    else
      let q := if r.changed then (sampleOpen r s.free.1, s.free.2) else (sampleResult r, s)
      q.2.onTl (fun t => pushPend t.abs j (.g r.gd (BitVec.allOnes 64)) (val64 q.1.2)
        (pushPend t.abs j (.x r.d) (val64 q.1.1) t))

/-- Changing an MMA under way. -/
def onMma (order : Nat) (f : MmaRun → MmaRun) (t : Tile) : Tile :=
  { t with arr := { t.arr with mmas := t.arr.mmas.map (fun r => if r.order = order then f r else r) } }

/-- Changing a WLOAD under way. -/
def onWload (order : Nat) (f : WloadRun → WloadRun) (t : Tile) : Tile :=
  { t with arr := { t.arr with wloads := t.arr.wloads.map (fun r => if r.order = order then f r else r) } }

/-- The list lines a WLOAD reads in one cycle. -/
def listStep (bad : BitVec 32) (j : Job) (l : Nat) (addrs : List Nat) (t : Tile) : Tile :=
  addrs.zipIdx.foldl (fun t (a, k) => onWload j.order (listLine (cutAt bad a) t.mem t a (l + k)) t) t

/-- A row for ACCWR or ACCREST: written at the end of the next cycle. -/
def rowStep (j : Job) (row : Nat) (fmt : Option Ty) (addr lines : Nat) (t : Tile) : Tile :=
  { t with jobs := t.jobs ++ [{ cyc := t.abs + 1, order := j.order, unit := 11, banks := 0
                                op := .accWrite row (BitVec.ofNat 4096 (decodeRow fmt (mreadLE t.mem addr (64 * lines)))) }] }

/-- One job of the turn tile's current cycle, with the banks on which two uses fell (06:R119). -/
def runJob (bad : BitVec 32) (j : Job) (s : State) : State :=
  match j.op with
  | .idle | .idleLand => s
  | .load d size signed addr =>
    if cutAt bad addr then s
    else s.onTl (fun t => pushPend (t.abs + 1) j (.x d) (val64 (extend signed size (mreadLE t.mem addr size))) t)
  | .writes l => s.onTl (fun t => { t with mem := mwrites t.mem (keepCells bad l) })
  | .atomRead d w signed op addr b cmp => if cutAt bad addr then s else s.onTl (atomStep j d w signed op addr b cmp)
  | .vload d w signed lanes after =>
    let kept := lanes.filter (fun l => !cutAt bad l.2)
    if allCut lanes kept then s else s.onTl (vloadStep j d w signed kept after)
  | .vloadSe d w slots =>
    if cutAny bad (slots.map (fun l => l.2)) then s else s.onTl (vloadSeStep j d w slots)
  | .vatomRead d signed op lanes =>
    let kept := lanes.filter (fun l => !cutAt bad l.2.1)
    if allCut lanes kept then s else s.onTl (vatomStep j d signed op kept)
  | .maskLoad gd addr =>
    if cutAt bad addr then s
    else s.onTl (fun t => pushPend t.abs j (.g gd (BitVec.allOnes 64)) (BitVec.ofNat 2048 (mreadLE t.mem addr 8)) t)
  | .sampleRead _ g =>
    s.onTl (fun t => onSample j.order (fun r =>
      let lines := sampleLines r.a r.b g
      if cutAny bad lines then { r with cancelled := true } else sampleKeep t.mem r lines) t)
  | .sampleEnd => sampleFinish j s
  | .mmaRead m addr lines =>
    if cutAny bad (linesFrom addr lines) then s
    else s.onTl (fun t => onMma j.order (fun r => { r with act := (m, mreadLE t.mem addr (64 * lines)) :: r.act }) t)
  | .mmaLand m =>
    s.onTl (fun t => match t.arr.mmas.find? (fun r => r.order == j.order) with | some r => mmaLand r m t | none => t)
  | .wfill dst src => if cutAny bad (linesFrom src 8) then s else s.onTl (wfillWrite dst src)
  | .listRead l addrs => s.onTl (listStep bad j l addrs)
  | .shadowLoad => s.onTl (shadowLoad j.order)
  | .ctab addr =>
    if cutAt bad addr then s else s.onTl (fun t => { t with arr := { t.arr with stage := codeTable t.mem addr } })
  | .accRead row fmt addr =>
    s.onTl (fun t => fillJob j.order (t.abs + 1) (.writes (cellsLE addr (64 * accLines fmt) (encodeRow t row fmt))) t)
  | .rowRead row fmt addr lines => if cutAny bad (linesFrom addr lines) then s else s.onTl (rowStep j row fmt addr lines)
  | .accWrite row val => s.onTl (accWrite row val.toNat)
  | .postRead id n addr stamp => postRead (cutAt bad addr) id n addr stamp s
  | .postWrite id n payload stamp => postOut id n.toNat payload stamp (stampInstant s stamp) s
  | .ecmdRead _ addr id at_ => ecmdRead (cutAt bad addr) j addr id at_ s
  | .cpywRead op first addrs =>
    match s.op op with
    | some o => s.setOp (cpywLines bad s.tl.mem first addrs o)
    | none => s
  | .matomRead op addr =>
    match s.op op with
    | some o => s.setOp (matomOperand (cutAt bad addr) s.tl.mem addr o)
    | none => s
  | .cpyLand .. | .matomLand .. | .xfinLand .. => landJob bad j s
  | .sampleMirror kind d n ws => sampleMirror j kind d n ws s
  | .landq d ticket => landqSample j d ticket s

/-- The accumulator is read before it is written in one cycle (09:R199). -/
def readsFirst : JobOp → Bool
  | .accRead .. => true
  | _ => false

/-- The jobs of the turn tile's current cycle that a predicate selects, in order of issue. -/
def runJobs (sel : JobOp → Bool) (s : State) : State :=
  let t := s.tl
  (t.jobs.filter (fun j => j.cyc == t.abs && sel j.op)).foldl (fun s j => runJob (collided t) j s) s

/-! ### Results (04:R72, R75, R76) -/

/-- The register that a result is written to; x0 and g0 take no part. -/
def destKey : Dest → Option Nat
  | .x r => if r = 0 then none else some r.toNat
  | .g r _ => if r = 0 then none else some (32 + r.toNat)
  | .b r => some (40 + r.toNat)
  | .v r _ => some (64 + r.toNat)

/-- Putting a result in its place by order of issue. -/
def insertRes (p : Pending) : List Pending → List Pending
  | [] => [p]
  | q :: r => if p.order < q.order then p :: q :: r else q :: insertRes p r

/-- Results in order of issue. -/
def sortRes : List Pending → List Pending
  | [] => []
  | p :: r => insertRes p (sortRes r)

/-- A result without what a result of the cycle's own instruction already wrote, which is later issued. -/
def underLanded (landed : List Dest) (d : Dest) : Option Dest :=
  match d with
  | .x r => if landed.any (fun e => e == .x r) then none else some d
  | .b r => if landed.any (fun e => e == .b r) then none else some d
  | .g r bits =>
    some (.g r (landed.foldl (fun m e => match e with | .g q l => if q = r then m &&& ~~~l else m | _ => m) bits))
  | .v r bits =>
    some (.v r (landed.foldl (fun m e => match e with | .v q l => if q = r then m &&& ~~~l else m | _ => m) bits))

/-- The results due at the end of the current cycle are written; COLLIDE counts those that met (04:R75). -/
def landResults (t : Tile) : Tile :=
  let due := sortRes (t.pend.filter (fun p => p.due == t.abs))
  let keys := (due.map (fun p => p.dest) ++ t.landed).filterMap destKey
  let t' := due.foldl (fun u p => match underLanded t.landed p.dest with | some d => wdest u d p.val | none => u) t
  { t' with pend := t.pend.filter (fun p => p.due != t.abs), landed := t.landed ++ due.map (fun p => p.dest)
            collide := t.collide + BitVec.ofNat 64 (keys.length - keys.eraseDups.length) }

/-! ### The end of a cycle -/

/-- A band after one more counted cycle (08:R166). -/
def tickBand : Band → Band
  | .waking n => if n ≤ 1 then .awake else .waking (n - 1)
  | .asleep => .asleep
  | .awake => .awake

/-- An event of the tile that some fence could still wait for. -/
def evOpen (s : State) (t : Tile) (e : Ev) : Bool :=
  match e.kind with
  | 0 | 6 => decide (t.abs ≤ e.cyc)
  | 5 => s.posts.any (fun p => p.id == e.id)
  | 7 => cmdPending s e.id
  | _ => (s.op e.id).isSome

/-- Forgetting what can hold nothing any more. -/
def pruneTile (s : State) (t : Tile) : Tile :=
  let who := whoOf t
  let fences := t.fences.map (fun f => { f with preds := f.preds.filter (fun e => !evDone s who f.scope e) })
  { t with
    jobs := t.jobs.filter (fun j => decide (t.abs ≤ j.cyc)), evs := t.evs.filter (evOpen s t)
    fences := fences.filter (fun f => !f.preds.isEmpty)
    arr := { t.arr with holds := t.arr.holds.filter (fun h => decide (t.abs ≤ h.2.2))
                        mmas := t.arr.mmas.filter (fun m => decide (t.abs ≤ m.lastLand)) } }

/-- A stretched cycle that STRETCH counts (06:R124): issued outside trap mode; PERIOD counts its own. -/
def countsStretch (t : Tile) : Bool :=
  t.clk.stretched && !t.trap.mode && t.slip.isNone && t.cycNext.isNone && !t.perEnd

/-- The cycles since the latest stretched one, as the tile's next cycle will count them. -/
def sinceNext (c : Clock) : Nat := if c.stretched then 1 else c.since + 1

/-- The next cycle begins where this one ends. -/
def nextCycle (t : Tile) : Tile :=
  { t with
    cyc := if t.perEnd then 0 else t.cycNext.getD (t.cyc + 1), cycNext := none, abs := t.abs + 1, issued := false
    landed := [], perEnd := false
    arr := { t.arr with band := t.arr.band.map tickBand }
    clk := { t.clk with start := cycEnd t, stretched := t.clk.droop, droop := false, since := sinceNext t.clk
                        count := t.clk.count + (if countsStretch t then 1 else 0) } }

/-- A hold of the turn tile for at most a number of ticks (01:R28). -/
def holdTile (ticks : Nat) (s : State) : State :=
  (s.onTl (fun t => { t with phase := .held })).timer (s.now + ticks * subTick) (.holdEnd s.turn)

/-- The turn tile switches to the frequency of a changeover under way (25:R344). -/
def switchClock (s : State) : State :=
  s.onTl (fun t => { t with clk := { t.clk with mhz := s.freq.target, chg := s.freq.chg } })

/-- The turn tile has not switched yet. -/
def mustSwitch (s : State) : Bool := s.freq.phase == 2 && s.tl.clk.chg != s.freq.chg

/-- What a PERIOD's end takes (06:R128, R135; 25:R339, R344): a save, or a migration and a frequency change. A migration still
pending at the PERIOD that takes a pre-emption is dropped (DESIGN CHOICE, log entry 75). -/
def afterPeriod (s : State) : State :=
  if s.tl.saveDue then beginSave s.turn (s.onTl (fun t => { t with saveDue := false, migrateTo := none }))
  else
    let target := migrationTarget s
    let s1 := match target with
      | some q => moveTile q s
      | none =>
        let shedNow := isHot s.tl.migrateTo
        let s := s.onTl (fun t => { t with migrateTo := none })
        if shedNow then thermalShed s.turn s else s
    let change := mustSwitch s1 && decide (s.freq.since < s.now)
    let s2 := if change then switchClock s1 else s1
    let ticks := (if target.isSome then 30000 else 0) + (if change then 20000 else 0)
    if ticks = 0 then s2 else holdTile ticks s2

/-- A tile in trap mode holds for a frequency change at the cycle it has reached (06:R122). -/
def trapHolds (s : State) : Bool := s.tl.trap.mode && s.tl.phase == .run && mustSwitch s

/-- A sample of the start of the next cycle (13:R224, 16:R270), which a hold before that cycle delays. -/
def isSample : JobOp → Bool
  | .sampleMirror .. | .landq .. => true
  | _ => false

/-- The samples that wait for the end of a hold in trap mode. -/
def lateSamples (s : State) : List Job :=
  if trapHolds s then s.tl.jobs.filter (fun j => j.cyc == s.tl.abs && isSample j.op) else []

/-- The hold of a tile in trap mode, with the samples that wait for its end. -/
def trapHold (late : List Job) (s : State) : State :=
  if trapHolds s then holdTile 20000 (switchClock (s.onTl (fun t => { t with jobs := late ++ t.jobs }))) else s

/-- The end of the turn tile's current cycle, at the instant s.now. -/
def closeCycle (s : State) : State :=
  let late := lateSamples s
  let s := runJobs (fun op => !readsFirst op && !(isSample op && !late.isEmpty)) (runJobs readsFirst s)
  let s := s.onTl (fun t => landResults (readyMsgs t))
  let period := s.tl.perEnd
  let s := s.onTl nextCycle
  let s := quotaCheck (pruneOps (s.onTl (pruneTile s)))
  if period then afterPeriod s else trapHold late s

/-! ### The events of a tile's cycle -/

/-- RESULT_LANDING (04:R72): closeCycle performs it at the end of every cycle. -/
def execResultLanding (s : State) : Host.Outcome State Fault Refusal := .next (s.onTl landResults)

/-- BAND_AWAKE (08:R166): a band whose last counted cycle this is. -/
def execBandAwake (s : State) : Host.Outcome State Fault Refusal :=
  .next (s.onTl (fun t =>
    { t with arr := { t.arr with band := t.arr.band.map (fun b => match b with
      | .waking n => if n ≤ 1 then .awake else .waking n
      | .asleep => .asleep
      | .awake => .awake) } }))

/-- SHADOW_PLANE_LOAD (09:R192). -/
def execShadowPlaneLoad (s : State) : Host.Outcome State Fault Refusal :=
  .next (runJobs (fun op => match op with | .shadowLoad => true | _ => false) s)

/-- MMA_ROW_LANDING (09:R197). -/
def execMmaRowLanding (s : State) : Host.Outcome State Fault Refusal :=
  .next (runJobs (fun op => match op with | .mmaLand _ => true | _ => false) s)

/-- CPY_LANDING (16:R258): the lines of the current cycle's group. -/
def execCpyLanding (s : State) : Host.Outcome State Fault Refusal :=
  .next (runJobs (fun op => match op with | .cpyLand .. => true | _ => false) s)

/-- MATOM_LANDING (16:R260). -/
def execMatomLanding (s : State) : Host.Outcome State Fault Refusal :=
  .next (runJobs (fun op => match op with | .matomLand .. => true | _ => false) s)

/-- XFIN_LANDING (16:R262). -/
def execXfinLanding (s : State) : Host.Outcome State Fault Refusal :=
  .next (runJobs (fun op => match op with | .xfinLand .. => true | _ => false) s)

/-- TRAP_ENTRY (06:R121): the drain of a cause that the tile handles has ended. -/
def execTrapEntry (s : State) : Host.Outcome State Fault Refusal :=
  match s.tl.slip with
  | none => .next s
  | some sl => .next (if s.tl.phase = .drain && drained s.tl && !sl.escal then s.onTl (enterTrap sl) else s)

/-- ESCALATION (06:R125). -/
def execEscalation (s : State) : Host.Outcome State Fault Refusal :=
  match s.tl.slip with
  | none => .next s
  | some sl => .next (if s.tl.phase = .drain && drained s.tl && sl.escal then s.onTl (escalate sl) else s)

/-- HALT_COMPLETE (05:R116): the drain after HALT has ended; leases are freed, STATE is 000, LSTAT may be 0x03. -/
def execHaltComplete (s : State) : Host.Outcome State Fault Refusal :=
  let t := s.tl
  if t.phase = .halting && drained t then
    let w := whoOf t
    .next (finishCtx w.ctx (noteHalted w (freeLeases w (s.onTl (fun t =>
      { t with state := 0, phase := .off, issued := false, trap := { t.trap with mode := false } })))))
  else .next s

/-- The samples that waited for the end of a hold are taken now, as their instructions' cycle left them (13:R224). -/
def takeLate (p : Nat) (s : State) : State :=
  let late := (s.tile p).jobs.filter (fun j => decide (j.cyc < (s.tile p).abs))
  if late.isEmpty then s
  else
    let back (t : Tile) : Tile :=
      { t with jobs := t.jobs.filter (fun j => decide (t.abs ≤ j.cyc)), abs := t.abs - 1, cyc := t.cyc - 1 }
    let s' := late.foldl (fun s j => runJob 0 j s) ({ s with turn := p }.onTl back)
    { s'.onTl (fun t => { t with abs := (s.tile p).abs, cyc := (s.tile p).cyc }) with turn := s.turn }

/-- HOLD_END (01:R28): cycle 0 of the next period, or the handler's next cycle, begins. -/
def execHoldEnd (p : Nat) (s : State) : Host.Outcome State Fault Refusal :=
  let t := s.tile p
  if t.phase = .held && t.state == 2 then
    .next ((takeLate p s).onTile p (fun t => { t with phase := .run, clk := { t.clk with start := s.now, stretched := false } }))
  else .next s

/-- DROOP_STRETCH (01:R28, 25:R341): a cycle becomes twice as long, at most one in any 16: the present one before its issue, after
it the next one; OCCAUSE says when that limit is met. -/
def execDroopStretch (p : Nat) (s : State) : Host.Outcome State Fault Refusal :=
  let t := s.tile p
  if !issuing t then .next s
  else if t.issued then
    if t.clk.droop then .next s
    else if sinceNext t.clk < 16 then .next { s with occause := s.occause ||| 8 }
    else .next (s.onTile p (fun t => { t with clk := { t.clk with droop := true } }))
  else if t.clk.stretched then .next s
  else if t.clk.since < 16 then .next { s with occause := s.occause ||| 8 }
  else .next (s.onTile p (fun t => { t with clk := { t.clk with stretched := true } }))

/-- A frozen tile that the management core may restart (06:R126). -/
def mayThaw (s : State) (t : Tile) : Bool :=
  t.state == 3 && t.phase == .off && t.perlen != 0 && !beingKilled s t.bind.ctx

/-- A frozen tile that goes on at an instant. -/
def thaw (s : State) (t : Tile) : Tile :=
  { t with state := 2, phase := .run, issued := false, cyc := t.cycNext.getD t.cyc, cycNext := none
           clk := { joinClock s t.clk with start := s.now, stretched := false } }

/-- FROZEN_RESUME (06:R126): as ERET would; a NOPN's remaining cycles begin at once. -/
def execFrozenResume (p : Nat) (s : State) : Host.Outcome State Fault Refusal :=
  if mayThaw s (s.tile p) then
    .next (s.onTile p (fun t => thaw s (returnFromTrap t.abs t)))
  else .next s

/-- FROZEN_HANDLER_ENTRY (06:R126): permitted when the fault was not nested and TRAPVEC is not 0. -/
def execFrozenHandlerEntry (p : Nat) (s : State) : Host.Outcome State Fault Refusal :=
  let t := s.tile p
  if mayThaw s t && !t.esc.nested && t.trap.vec != 0 then
    .next (s.onTile p (fun t =>
      thaw s { t with trap := { t.trap with mode := true, entered := true }, loops := [], redirect := none, pc := t.trap.vec }))
  else .next s

end Sys2Proof.Machine
end

