-- ==== Sys2Proof/Machine/HostPort.lean ====
section
/-! DEFINITION. The host interface, boot, attestation, resets, links, and writes of registers and memory from outside
the tiles (25:R347-R354; 12:R220; 17:R279). -/

namespace Sys2Proof.Machine

/-! ### Boot (25:R352, R353) -/

/-- The fused hash of the key that signs images. -/
def fusedKeyHash : Nat := (List.range 32).foldl (fun v i => v + (Config.fuseByte i).toNat * 2 ^ (8 * i)) 0

/-- The image's SIG verifies over bytes 0x000-0x54F under its PUBKEY. -/
def imageSigned (m : Memory) : Bool := dsaVerify (mreadLE m 0x30 1312) (mreadLE m 0 0x550) 0x550 (mreadLE m 0x550 2420)

/-- The first check that an image fails, as BOOTSTAT reports it. -/
def imageFault (m : Memory) (minSvn : Nat) : Option (BitVec 8) :=
  let len := mreadLE m 0x0C 4
  if mreadLE m 0 4 != 0x4C484657 || mreadLE m 4 2 != 1 || mreadLE m 6 2 != 0 || mreadLE m 0xEC4 316 != 0 then some 0x10
  else if sha3 (mreadLE m 0x30 1312) 1312 != fusedKeyHash then some 0x11
  else if mreadLE m 8 4 < minSvn then some 0x12
  else if 0xFFF000 < len || sha3 (mreadLE m 0x1000 len) len != mreadLE m 0x10 32 then some 0x13
  else if !imageSigned m then some 0x14
  else none

/-- The boot ROM's verdict on an image (25:R353): it runs, raises the fused minimum and is written to flash, or BOOTSTAT
reports the first check that fails; recovery follows (enterRecovery). -/
def bootImage (m : Memory) (s : State) : State :=
  match imageFault m s.boot.minSvn with
  | some c => { s with boot := { s.boot with stat := c } }
  | none =>
    { s with boot := { s.boot with stat := 1, flash := m, minSvn := mreadLE m 8 4, svn := mreadLE m 8 4
                                   digest := (cellsLE 0 32 (mreadLE m 0x10 32)).map (fun c => c.2) } }

/-- POWER_ON_RESET (01:R27, 25:R353): everything as State.reset leaves it but flash and fuses; the boot ROM checks the
image. What the environment is about to do, and the part's free values, go on. -/
def execPowerOnReset (s : State) : Host.Outcome State Fault Refusal :=
  let r := State.reset
  .next (bootImage s.boot.flash
    { r with agenda := s.agenda, nextId := s.nextId, freeCount := s.freeCount, skew := s.skew, clusterMap := s.clusterMap
             live := s.live, boot := { r.boot with flash := s.boot.flash, minSvn := s.boot.minSvn } })

/-- A package reset (25:R347): as power-on, but the time base, OCCAUSE and device memory stay. -/
def packageReset (s : State) : State :=
  let r := State.reset
  bootImage s.boot.flash
    { r with now := s.now, agenda := s.agenda, nextId := s.nextId, freeCount := s.freeCount, skew := s.skew
             clusterMap := s.clusterMap, live := s.live, occause := s.occause, mem := s.mem, lineKeys := s.lineKeys
             badLines := s.badLines, temps := s.temps
             boot := { r.boot with flash := s.boot.flash, minSvn := s.boot.minSvn } }

/-- BOOTSTAT reports a failed check, and recovery is still to be entered (25:R353). -/
def recoveryDue (s : State) : Bool := decide (0x10 ≤ s.boot.stat.toNat) && decide (s.boot.stat.toNat ≤ 0x14)

/-- Entering recovery (25:R353): BOOTSTAT 0x20. -/
def enterRecovery (s : State) : State := { s with boot := { s.boot with stat := 0x20 } }

/-- BOOTGO (25:R349, R353): in recovery the image in BOOTWIN is checked. -/
def bootGo (s : State) : State := if s.boot.stat = 0x20 then bootImage s.boot.window s else s

/-- BOOTGO. -/
def execBootgo (s : State) : Host.Outcome State Fault Refusal := .next (bootGo s)

/-! ### Attestation (25:R354) -/

/-- A write to AGO: ignored while a report is under way; the nonce is latched into the report. -/
def attestGo (s : State) : State :=
  if s.boot.astat = 1 then s
  else
    { s with
      boot := { s.boot with astat := 1
                            attest := mwrites [] (s.boot.nonce.zipIdx.map (fun (b, i) => (0x150 + i, b))) }
      timers := s.timers ++ [(s.now + 10000000 * subTick, .attestReportReady)] }

/-- AGO. -/
def execAgo (s : State) : Host.Outcome State Fault Refusal := .next (attestGo s)

/-- The SHA3-256 of the fuse values (25:R354): the fused key hash, the fused minimum, and those that no rule names, in this
order (log entry 11). -/
def fuseHash (minSvn : Nat) : Nat :=
  let rest := bytesNat ((List.range Config.fuseRest).map (fun i => Config.fuseByte (32 + i)))
  sha3 (fusedKeyHash + minSvn % 2 ^ 32 * 2 ^ 256 + rest * 2 ^ 288) (36 + Config.fuseRest)

/-- The 128 bytes that a report signs, at ATTEST + 0x100. -/
def reportHead (s : State) : Memory :=
  let b := s.boot
  let m := mwriteLE (mwriteLE b.attest 0x100 6 (0x4C484152 + 2 ^ 32)) 0x108 4 b.svn
  let m := mwrites m (b.digest.zipIdx.map (fun (v, i) => (0x110 + i, v)))
  let m := mwriteLE m 0x130 32 (fuseHash b.minSvn)
  mwriteLE m 0x170 8 (s.now / subTick)

/-- The identity key pair (25:R354). -/
def idKey : DsaKey := dsaKeyGen Config.idSeed

/-- ATTEST_REPORT_READY (25:R354): the report signed by the identity key, ASTAT 2, vector 2. -/
def execAttestReportReady (s : State) : Host.Outcome State Fault Refusal :=
  if s.boot.astat != 1 then .next s
  else
    let m := reportHead s
    let sig := dsaSign idKey (mreadLE m 0x100 128) 128 (Config.signRandom s.freeCount)
    .next { s.looked with boot := { s.boot with astat := 2, attest := mwriteLE m 0x180 2420 sig }, msix := s.msix ++ [2] }

/-! ### Notifies (25:R350) -/

/-- A write to NOTIFY: queued, or dropped and counted when the queue holds 64. -/
def notifyWrite (v : X) (s : State) : State :=
  if 64 ≤ s.notifies.length then { s with notifyDrop := s.notifyDrop + 1, msix := s.msix ++ [1] }
  else { s with notifies := s.notifies ++ [v] }

/-- NOTIFY (25:R350). -/
def execNotify (v : X) (s : State) : Host.Outcome State Fault Refusal := .next (notifyWrite v s)

/-! ### The host fabric window (12:R220) -/

/-- A commit to logical tile t: one post to mirror 60 with the record's payload, unless it carries Relaxed Ordering or
the tile carries no context or has halted. -/
def commit (lt : Nat) (ro : Bool) (s : State) : State :=
  match (if ro then none else carrier s lt) with
  | none => s
  | some p => controlPost (whoOf (s.tile p)) 60 (mreadLine s.fwin (0x80 * lt)) (BitVec.ofNat 64 (s.now / subTick)) s

/-- HOST_COMMIT (12:R220). -/
def execHostCommit (lt : Nat) (ro : Bool) (s : State) : Host.Outcome State Fault Refusal := .next (commit lt ro s)

/-! ### Host accesses to device memory (25:R348, 17:R279) -/

/-- Where a host access of one byte goes. Another package to which no live route leads, or which holds no such context, is
no translation (log entry 12). -/
def hostTarget (s : State) (off : Nat) (write : Bool) : Option Target :=
  (barPlace s off).bind (fun (c, d) =>
    (xlate s c d write).filter (fun t => match t with
      | .home .. => true
      | .remote pkg => routeUp s 0 pkg && remoteHas s pkg c))

/-- Writing the bytes of a host write that translates: memory, and the line's copy in the read buffer. -/
def hostBytes (off : Nat) : List Byte → State → State
  | [], s => s
  | b :: r, s =>
    hostBytes (off + 1) r
      (match hostTarget s off true with
        | some (.home da tag) =>
          let l := lineSplice (devLine s tag da) (da % 64) 1 b.toNat
          { devStore s tag da l with
            badLines := s.badLines
            hostBuf := s.hostBuf.map (fun e =>
              if e.1 = da / 64 then (e.1, lineSplice e.2 (da % 64) 1 b.toNat) else e) }
        | some (.remote _) | none => s)

/-- A host write of n bytes: its bytes, and the lines that it covers whole read as failing no more (15:R249). -/
def hostWrite (off : Nat) (bytes : List Byte) (s : State) : State :=
  (((List.range bytes.length).filter (fun i => decide (i + 64 ≤ bytes.length)
      && decide ((off + i) % 2 ^ 30 + 64 ≤ 2 ^ 30))).foldl (fun s i =>
    match hostTarget s (off + i) true with
    | some (.home da _) => if da % 64 = 0 then lineRenewed da s else s
    | some (.remote _) | none => s) (hostBytes off bytes s)).looked

/-- A discarded host write: the Unsupported Request in AER and the management core's log. -/
def hostWriteFault (off : Nat) (s : State) : State :=
  match barPlace s off with
  | none => { s with aer := s.aer ++ [{ ctx := 0, cause := 0x20, dva := BitVec.ofNat 64 off, gen := 0 }] }
  | some (c, d) =>
    let e : LogEntry := { ctx := c, cause := 0x20, dva := d, gen := 0 }
    { s with aer := s.aer ++ [e], mclog := s.mclog ++ [e] }

/-- HOST_MEMORY_WRITE (25:R348): the whole write, or nothing of it when a byte of it does not translate. Writes without
Relaxed Ordering are performed in the order in which these events stand. -/
def execHostMemoryWrite (off : Nat) (bytes : List Byte) (ro : Bool) (s : State) : Host.Outcome State Fault Refusal :=
  let _ := ro
  match (List.range bytes.length).find? (fun i => (hostTarget s (off + i) true).isNone) with
  | some i => .next (hostWriteFault (off + i) s)
  | none => .next (hostWrite off bytes s)

/-- A line enters the read buffer, which holds 64 (17:R279): the copy that entered it first leaves a full one (DESIGN CHOICE, log
entry 116). -/
def bufferLine (loc : Nat) (l : Line) (s : State) : State :=
  if s.hostBuf.any (fun e => e.1 == loc) then s else { s with hostBuf := ((loc, l) :: s.hostBuf).take 64 }

/-- A line at a BAR2 offset as a host read gets it: from the buffer when it may and a copy is there; none where nothing
translates or the line reads as failing (log entry 50). -/
def hostLine (buffered : Bool) (off : Nat) (s : State) : Option Line × State :=
  match hostTarget s off false, barPlace s off with
  | some (.home da tag), _ =>
    match (if buffered then s.hostBuf.find? (fun e => e.1 == da / 64) else none) with
    | some e => (some e.2, s)
    | none =>
      if failing s da then (none, s)
      else
        let l := devLine s tag da
        (some l, bufferLine (da / 64) l { s with hostBuf := s.hostBuf.filter (fun e => e.1 != da / 64) })
  | some (.remote _), some (c, d) => (some (remoteLineOf s c d), s.looked)
  | _, _ => (none, s)

/-- Reading n lines of BAR2 from a line's offset. -/
def hostLines (buffered : Bool) (off : Nat) : Nat → State → Option Nat × State
  | 0, s => (some 0, s)
  | n + 1, s =>
    let q := hostLine buffered off s
    let r := hostLines buffered (off + 64) n q.2
    match q.1, r.1 with
    | some l, some v => (some (l.toNat + 2 ^ 512 * v), r.2)
    | _, _ => (none, r.2)

/-- HOST_MEMORY_READ (17:R279, 25:R348): from memory, or from the read buffer where `buf` lets it, with a prefetch of
up to four of the lines that follow; a read that does not translate is an Unsupported Request. -/
def execHostMemoryRead (off len : Nat) (buf : BufferUse) (s : State) : Host.Outcome State Fault Refusal :=
  let base := off / 64 * 64
  let n := (off % 64 + len + 63) / 64
  let q := hostLines buf.buffered base n s
  let bytes := q.1.map (fun v => (cellsLE 0 len (v / 2 ^ (8 * (off % 64)))).map (fun c => c.2))
  let s := (hostLines true (base + 64 * n) (min buf.prefetch 4) q.2).2
  .next { s with hostReads := s.hostReads ++ [(off, bytes)] }

/-- READ_BUFFER_INVALIDATE (17:R279). -/
def execReadBufferInvalidate (loc : Nat) (s : State) : Host.Outcome State Fault Refusal :=
  if s.hostInval.any (fun e => e.1 == loc) then
    .next (pruneOps { s with hostBuf := s.hostBuf.filter (fun e => e.1 != loc), hostInval := s.hostInval.filter (fun e => e.1 != loc) })
  else .next s

/-- Bytes at a DPA of the tables' space, stored as they are, under no key. -/
def mcBytes (dpa : Nat) : List Byte → State → State
  | [], s => s
  | b :: r, s =>
    mcBytes (dpa + 1) r
      (match hashPlace 0 s.live dpa with
        | some da =>
          let l := lineSplice (cipherLine s da) (da % 64) 1 b.toNat
          bufferStale da 0 { s with mem := mwrites s.mem (lineCells (da / 64 * 64) l), lineKeys := tdel s.lineKeys (da / 64) }
        | none => s)

/-- A management core's write: its bytes, and the lines that it covers whole read as failing no more (15:R249). -/
def mcWrite (dpa : Nat) (bytes : List Byte) (s : State) : State :=
  (wholeLines dpa bytes.length).foldl (fun s k =>
    match hashPlace 0 s.live (dpa + k) with
    | some da => lineRenewed da s
    | none => s) (mcBytes dpa bytes s)

/-- MANAGEMENT_CORE_MEMORY_WRITE (17:R271). -/
def execManagementCoreMemoryWrite (d dpa : Nat) (bytes : List Byte) (s : State) : Host.Outcome State Fault Refusal :=
  let _ := d
  .next (mcWrite dpa bytes s)

/-! ### Dies and links (25:R347, R351) -/

/-- Posts that no path leads to any more are discarded and counted. -/
def dropPathless (s : State) : State :=
  let gone (p : Post) (d : PostDst) : Bool := p.sent && !p.held && !d.done && noPath s p d
  let lost := s.posts.flatMap (fun p => (p.dsts.filter (gone p)).map (lostOf p))
  let posts := s.posts.map (fun p => { p with dsts := p.dsts.map (fun d => if gone p d then { d with done := true } else d) })
  lost.foldl (fun s c => countLost c s)
    { s with posts := posts.filter (fun p => !(p.sent && !p.held && p.dsts.all (fun d => d.done))) }

/-- Die d alone, as a mask. -/
def dieBit (d : Nat) : BitVec 4 := BitVec.ofNat 4 (2 ^ d)

/-- The package with die d down. -/
def State.without (s : State) (d : Nat) : State := { s with up := s.up &&& ~~~dieBit d }

/-- Traffic between two dies crosses a third one: between opposite dies, the lower-numbered of the two between that is up. -/
def crosses (s : State) (d a b : Nat) : Bool :=
  a != b && (a == d || b == d
    || (!dieNear a b && (List.range 4).find? (fun i => i != a && i != b && dieUp s i) == some d))

/-- A post is on its way to a destination over die d. -/
def postOver (s : State) (d : Nat) (p : Post) (x : PostDst) : Bool :=
  p.sent && !p.held && !x.done && x.far.isNone &&
    (match physOf s x.who with
      | some b => crosses s d (dieOf p.home) (dieOf b)
      | none => false)

/-- A line of an operation is on its way over die d. -/
def lineOver (s : State) (d : Nat) (o : MemOp) (j : Nat) : Bool :=
  !o.held && (match o.lines[j]? with | some l => l.ready && !lineDone l | none => false)
    && (match lineHome o j with | some l => crosses s d o.die (homeDie (64 * l)) | none => false)

/-- A post in transit over die d that would lose its path with it and that may arrive now. -/
def postLeft (s : State) (d : Nat) (p : Post) (x : PostDst) : Bool :=
  postOver s d p x && noPath (s.without d) p x && canArrive s p x

/-- A line in transit over die d that would lose its path with it and that its station can perform. -/
def lineLeft (s : State) (d : Nat) (o : MemOp) (j : Nat) : Bool :=
  lineOver s d o j && canPerform s o j
    && (match lineHome o j with | some l => !pathUp (s.without d) o.die (homeDie (64 * l)) | none => false)

/-- Transit traffic that die d has still to deliver before its routes switch (25:R347). -/
def transitLeft (s : State) (d : Nat) : Bool :=
  s.posts.any (fun p => p.dsts.any (postLeft s d p)) || s.ops.any (fun o => (List.range o.lines.length).any (lineLeft s d o))

/-- An operation in transit at a die reset may take 4,000 ticks more (25:R347): its landing stays assured where it has as many
cycles to spare at its tile's frequency (log entry 61). -/
def opDelayed (s : State) (o : MemOp) : MemOp :=
  let n := 4 * (match physOf s o.who with | some p => (s.tile p).clk.mhz | none => 1000)
  { o with assured := o.assured && decide (n ≤ o.slack), slack := o.slack - n }

/-- The bounds of what is in transit over die d at its reset: 4,000 ticks more. -/
def transitDelayed (d : Nat) (s : State) : State :=
  let late (i : Instr) : Bool :=
    match i with
    | .postDelivery id k => s.posts.any (fun p => p.id == id && (match p.dsts[k]? with | some x => postOver s d p x | none => false))
    | _ => false
  { s with
    timers := s.timers.map (fun (at_, i) => if late i then (at_ + 4000 * subTick, i) else (at_, i))
    ops := s.ops.map (fun o => if (List.range o.lines.length).any (lineOver s d o) then opDelayed s o else o) }

/-- The instant by which routes have switched, counted in whole ticks. -/
def drainEnd (s : State) : Nat := (s.now / subTick + 4000) * subTick

/-- Every context whose die mask holds die d is killed. -/
def killOnDie (d : Nat) (s : State) : State :=
  (s.ctxs.filter (fun c => c.mask.getLsbD d && !c.killing)).foldl (fun s c => killCtx c.id s) s

/-- DIE_RESET (25:R347). The first one kills contexts and begins the drain of the die's transit traffic; the one that ends the
drain, within 4,000 ticks, switches routes away from it. A die that is down stays so. A reset of die 0 is a package
reset. -/
def execDieReset (d : Nat) (s : State) : Host.Outcome State Fault Refusal :=
  if d = 0 then .next (packageReset s)
  else if !dieUp s d then
    .next { killOnDie d s with
      drain := s.drain &&& ~~~dieBit d
      timers := (killOnDie d s).timers.filter (fun e => e.2 != .dieReturn d) }
  else if s.drain.getLsbD d then
    if transitLeft s d then .next s
    else
      .next (dropPathless { s.without d with
        drain := s.drain &&& ~~~dieBit d, timers := s.timers.filter (fun e => e.2 != .dieReset d) })
  else
    let s := transitDelayed d (killOnDie d s)
    .next { s with drain := s.drain ||| dieBit d, timers := s.timers ++ [(drainEnd s, .dieReset d)] }

/-- DIE_RETURN (25:R347): the first one begins the drain after which the one that ends it moves routes back. -/
def execDieReturn (d : Nat) (s : State) : Host.Outcome State Fault Refusal :=
  if dieUp s d || decide (3 < d) then .next s
  else if s.drain.getLsbD d then
    .next { s with
      up := s.up ||| dieBit d, drain := s.drain &&& ~~~dieBit d
      timers := s.timers.filter (fun e => e.2 != .dieReturn d) }
  else .next { s with drain := s.drain ||| dieBit d, timers := s.timers ++ [(drainEnd s, .dieReturn d)] }

/-- CAMRAK_LINK_DOWN (25:R351). -/
def execCamrakLinkDown (l : Nat) (s : State) : Host.Outcome State Fault Refusal :=
  .next { s with links := s.links &&& ~~~(BitVec.ofNat 16 (2 ^ l)) }

/-- CAMRAK_LINK_UP (25:R351). -/
def execCamrakLinkUp (l : Nat) (s : State) : Host.Outcome State Fault Refusal :=
  .next { s with links := s.links ||| (BitVec.ofNat 16 (2 ^ l)) }

/-! ### Registers with no row of their own (00:R5) -/

/-- A write of eight bytes to BAR0 (25:R349). -/
def bar0Write (off : Nat) (v : X) (s : State) : State :=
  let bytes := (cellsLE 0 8 v.toNat).map (fun c => c.2)
  if off = 0x8 then bootGo s
  else if off = 0x1000 then notifyWrite v s
  else if 0x2000 ≤ off ∧ off < 0x2020 then
    { s with boot := { s.boot with nonce := s.boot.nonce.take (off - 0x2000) ++ bytes ++ s.boot.nonce.drop (off - 0x2000 + 8) } }
  else if off = 0x2020 then attestGo s
  else if 0x1000000 ≤ off ∧ off < 0x1010000 then
    if (off - 0x1000000) % 0x80 = 0x40 then commit ((off - 0x1000000) / 0x80) false s
    else { s with fwin := mwriteLE s.fwin (off - 0x1000000) 8 v.toNat }
  else if 0x2000000 ≤ off ∧ off < 0x3000000 then
    { s with boot := { s.boot with window := mwriteLE s.boot.window (off - 0x2000000) 8 v.toNat } }
  else s

/-- Byte i of a number. -/
def byteOf (v i : Nat) : Byte := BitVec.ofNat 8 (v / 2 ^ (8 * i))

/-- The tile whose records a host read shows: it carries a context, halted or not (12:R220, R221). A halted tile does so until
its logical tile is bound anew. -/
def hostTile (s : State) (lt : Nat) : Option Nat :=
  match carrier s lt with
  | some p => some p
  | none =>
    (s.tiles.find? (fun (_, t) => t.bind.ctx != 0 && t.life != 0 && t.bind.logtile.toNat == lt
      && t.bindNo == tget 0 s.latest lt)).map (fun e => e.1)

/-- A byte of the host fabric window: the payload that the host wrote, and the out-slots 28 to 31 of the tiles that carry a
context (12:R220, R221). -/
def fwinByte (s : State) (k : Nat) : Byte :=
  if k < 0x10000 then (if k % 0x80 < 0x40 then mread s.fwin k else 0)
  else
    let r := (k - 0x10000) / 0x80
    match hostTile s (r / 4) with
    | some p => byteOf (outNat (tget outInit (s.tile p).outs (28 + r % 4))) (k % 0x80)
    | none => 0

/-- A byte of ATTEST (25:R354). -/
def attestByte (b : Boot) (k : Nat) : Byte :=
  if k < 0x20 then b.nonce.getD k 0
  else if k = 0x28 then b.astat.setWidth 8
  else if 0x100 ≤ k ∧ k < 0xAF4 then mread b.attest k
  else 0

/-- A byte of BAR0 as the host reads it (25:R349). -/
def bar0Byte (s : State) (off : Nat) : Byte :=
  if off = 0 then s.boot.stat
  else if 0x1008 ≤ off ∧ off < 0x1010 then byteOf s.notifyDrop.toNat (off - 0x1008)
  else if 0x2000 ≤ off ∧ off < 0x3000 then attestByte s.boot (off - 0x2000)
  else if 0x3000 ≤ off ∧ off < 0x3000 + 1312 then BitVec.ofNat 8 (idKey.pk / 2 ^ (8 * (off - 0x3000)))
  else if 0x1000000 ≤ off ∧ off < 0x1050000 then fwinByte s (off - 0x1000000)
  else 0

/-- Eight bytes of BAR0. -/
def bar0Read (s : State) (off : Nat) : X :=
  BitVec.ofNat 64 (bytesNat ((List.range 8).map (fun i => bar0Byte s (off + i))))

/-- A band's supply setting in millivolts (25:R338). A write of another voltage leaves the rail as it was (DEDUCED, log entry
117). -/
def railOk (v : Nat) : Bool := decide (400 ≤ v) && decide (v ≤ 500) && v % 5 == 0

/-- The package's registers of a management core's window, numbered by this model: 0 PKG, 1 the context-table base,
2 BOOSTEN, 3 FREQ, 4 the answer to the latest write of a control word or of FREQ, 5 OCCAUSE. -/
def mcRegWrite (off : Nat) (v : X) (s : State) : State :=
  match off with
  | 0 => { s with pkg := v.extractLsb' 0 13 }
  | 1 => { s with cdtbase := v.toNat }
  | 2 => { s with boostEn := v.getLsbD 0 }
  | 3 => freqWrite (v.extractLsb' 0 16).toNat s
  | _ => s

/-- The same registers as a read gives them. -/
def mcRegRead (s : State) (off : Nat) : X :=
  match off with
  | 0 => s.pkg.setWidth 64
  | 1 => BitVec.ofNat 64 s.cdtbase
  | 2 => boostReg s
  | 3 => freqReg s.freq
  | 4 => s.mcRes.setWidth 64
  | 5 => s.occause
  | _ => 0

/-- One GiB of BAR2: its context (even offsets) and its DVA (odd ones). -/
def barMapWrite (off : Nat) (v : X) (s : State) : State :=
  let e := tget ((0 : BitVec 16), (0 : X)) s.bar2 (off / 2)
  { s with bar2 := tset s.bar2 (off / 2) (if off % 2 = 0 then (v.extractLsb' 0 16, e.2) else (e.1, v)) }

/-- The mirrors of another package that are bound to an out-slot of logical tile off / 32: bits 12:0 name the package, bit 63
adds it or takes it away (25:R351; log entry 12). -/
def farWrite (off : Nat) (v : X) (s : State) : State :=
  let e : Nat × Nat × BitVec 13 := (off / 32, off % 32, v.extractLsb' 0 13)
  let rest := s.farMirs.filter (fun x => x != e)
  { s with farMirs := if v.getLsbD 63 then rest ++ [e] else rest }

/-- REGISTER_WRITE (00:R5): window 0 is BAR0, 1 the package's registers, 2 band supplies (4·tile + band), 3 the BAR2 map,
9 what other packages bind here. Before any context lives, firmware's boot settings: 4 the cluster map, 5 taking a tile out
of use, 7 the bands of a tile that are not functional until the next package reset (08:R165), 8 the links that lead to a
package. -/
def execRegisterWrite (win off : Nat) (v : X) (s : State) : Host.Outcome State Fault Refusal :=
  let early := s.ctxs.isEmpty
  .next (
    match win with
    | 0 => bar0Write off v s
    | 1 => mcRegWrite off v s
    | 2 =>
      if railOk v.toNat then s.onTile (off / 4) (fun t => { t with rail := t.rail.set (off % 4) v.toNat }) else s
    | 3 => barMapWrite off v s
    | 4 => if s.tiles.isEmpty && early then { s with clusterMap := s.clusterMap.set off (v.toNat % 16) } else s
    | 5 => if early && v = 6 && (s.tile off).state == 5 then s.onTile off (fun t => { t with state := 6 }) else s
    | 7 => if early then s.onTile off (fun t => { t with arr := { t.arr with bandOk := t.arr.bandOk &&& v.extractLsb' 0 4 } }) else s
    | 8 => if early then { s with routes := tset s.routes off (v.extractLsb' 0 16) } else s
    | 9 => farWrite off v s
    | _ => s)

/-- A register as a read through the same windows gives it (25:R338, R340, R343, R349): a band's supply is the voltage
applied, window 6 the logical-to-physical table. -/
def registerRead (s : State) (win off : Nat) : X :=
  match win with
  | 0 => bar0Read s off
  | 1 => mcRegRead s off
  | 2 => BitVec.ofNat 64 (appliedRail s ((s.tile (off / 4)).rail.getD (off % 4) 400))
  | 3 =>
    let e := tget ((0 : BitVec 16), (0 : X)) s.bar2 (off / 2)
    if off % 2 = 0 then e.1.setWidth 64 else e.2
  | 4 => BitVec.ofNat 64 (s.clusterMap.getD off 0)
  | 5 => (s.tile off).state.setWidth 64
  | 6 => (tget 0 s.l2p off).setWidth 64
  | 7 => (s.tile off).arr.bandOk.setWidth 64
  | 8 => (tget 0 s.routes off).setWidth 64
  | _ => 0

end Sys2Proof.Machine
end

