-- ==== Sys2Proof/Machine/Debug.lean ====
section
/-! DEFINITION. A tile's debug window, what a read returns and what a write does, and what the die's own window shows (25:R355, R356). -/

namespace Sys2Proof.Machine

/-- The state of an outcome that is a next state. -/
def outState (o : Host.Outcome State Fault Refusal) (s : State) : State :=
  match o with
  | .next t => t
  | .fault _ | .refused _ => s

/-- An instruction of the debug window; any but SYSR, SYSW, MBIND and major 0x3F gives cause 0x01. -/
def windowInstr (i : Instr) (s : State) : State :=
  match i with
  | .sysr g d n => outState (execSysr g d n s) s
  | .sysw g d n => outState (execSysw g d n s) s
  | .mbind g a n => outState (execMbind g a n s) s
  | .preempt g a => outState (execPreempt g a s) s
  | .kill g a => outState (execKill g a s) s
  | .mapset g a b => outState (execMapset g a b s) s
  | .keysel g a b => outState (execKeysel g a b s) s
  | _ => dbgFault 0x01 0 s

/-- A word that the window accepts: SYSR and SYSW (major 0x0B), MBIND (major 0x2B, FN 0) and major 0x3F. -/
def windowWord (w : W32) : Bool :=
  let f := First.split w
  f.maj == 0x0B || (f.maj == 0x2B && f.sfn == 0) || f.maj == 0x3F

/-- A word written to DBGINSN: one instruction at privileged level, at one instant, outside the timetable. -/
def dbgInsn (w : W32) (s : State) : State :=
  let s := { s with level := true }
  let s :=
    if !windowWord w then dbgFault 0x01 (w.setWidth 64) s
    else match decodeWords true [w] with
      | .ok i => windowInstr i s
      | .error r => dbgFault r.cause ((0 : BitVec 30) ++ r.word ++ w) s
  { s with level := false }

/-- The sequencer's registers, eight bytes each from 0x60_0200, numbered by this model: the pc, CYCNOW, trap mode; for
loop k from 3 + 3k its first and last address and passes left; 15 the redirect's delay slots, 16 its target, 17 the number
of loops (log entry 62). -/
def seqRead (i : Nat) (t : Tile) : X :=
  match i with
  | 0 => t.pc
  | 1 => BitVec.ofNat 64 t.cyc
  | 2 => (BitVec.ofBool t.trap.mode).setWidth 64
  | 15 => BitVec.ofNat 64 ((t.redirect.map (fun r => r.slots)).getD 0)
  | 16 => (t.redirect.bind (fun r => r.target)).getD 0
  | 17 => BitVec.ofNat 64 t.loops.length
  | _ =>
    match t.loops[(i - 3) / 3]? with
    | none => 0
    | some l => if i % 3 = 0 then l.start else if i % 3 = 1 then l.last else BitVec.ofNat 64 l.left

/-- A list of loops cut or filled to n entries, four at most. -/
def loopsOf (n : Nat) (l : List LoopRec) : List LoopRec :=
  (l ++ List.replicate 4 ({ start := 0, last := 0, left := 0 } : LoopRec)).take (min n 4)

/-- A write of a sequencer register. -/
def seqWrite (i : Nat) (v : X) (t : Tile) : Tile :=
  match i with
  | 0 => { t with pc := v }
  | 1 => { t with cyc := v.toNat }
  | 2 => { t with trap := { t.trap with mode := v.getLsbD 0 } }
  | 15 => { t with redirect := if v = 0 then none else some { slots := v.toNat, target := t.redirect.bind (fun r => r.target) } }
  | 16 => { t with redirect := t.redirect.map (fun r => { r with target := some v }) }
  | 17 => { t with loops := loopsOf v.toNat t.loops }
  | _ =>
    { t with loops := t.loops.zipIdx.map (fun (l, k) =>
        if i = 3 + 3 * k then { l with start := v }
        else if i = 4 + 3 * k then { l with last := v }
        else if i = 5 + 3 * k then { l with left := v.toNat } else l) }

/-- A plane that a window write changed: what its descriptor does not hold stays, and a write into the WSRAM set that it was
loaded from makes it stale (06:R132). -/
def planeKept (off : Nat) (old p : Plane) : Plane :=
  let hit := decide (0x200000 ≤ off) && (off - 0x200000) % 0x8000 / 512 * 512 == old.woff && old.latched
  { p with stale := old.stale || hit, latched := old.latched, bad := old.bad }

/-- A mirror that a window write changed: what its record does not hold stays. -/
def mirKept (old m : Mirror) : Mirror := 
  { m with wrote := old.wrote, sampled := old.sampled, writer := old.writer, before := old.before }

/-- A write of eight bytes of live tile state (25:R355): the tile with its image so changed, whose PWFLAGs stay set since the
image shows the planes' own weights. A mirror's binding word so written names another source, and the mirror is neither
never-written nor are posts under way to it discarded (DESIGN CHOICE, log entry 88). What an image does not hold stays; ASHAPE and BANDAWAKE set the bands only when they
are what is written. -/
def liveWrite (off : Nat) (v : X) (t : Tile) : Tile :=
  let m := mwriteLE (imageOf true t) off 8 v.toNat
  let u := loadImage (mwriteLE (mwriteLE m 0x8008 1 1) 0xA008 1 1) t
  let act := if t.arr.active1 then t.arr.plane1 else t.arr.plane0
  let sh := if t.arr.active1 then t.arr.plane0 else t.arr.plane1
  { u with
    perlen := t.perlen
    mirs := u.mirs.map (fun (k, x) => (k, mirKept (tget mirrorInit t.mirs k) x))
    arr := { u.arr with wsramDirty := t.arr.wsramDirty
                        band := if off = 0x78 || off = 0x80 then u.arr.band else t.arr.band
                        plane0 := planeKept off act u.arr.plane0
                        plane1 := planeKept off sh u.arr.plane1 } }

/-- The escalation record (06:R125). -/
def escRead (i : Nat) (e : EscRec) : X :=
  match i with
  | 0 => (0 : BitVec 48) ++ (BitVec.ofBool e.nested).setWidth 8 ++ e.cause
  | 1 => e.slot
  | 2 => e.pc
  | 3 => e.info
  | _ => 0

/-- Eight bytes of a tile's debug window (25:R355), at an offset that is a multiple of 8; DBGINSN reads zero. -/
def debugRead (s : State) (p off : Nat) : X :=
  let t := s.tile p
  if off < 0x600000 then BitVec.ofNat 64 (mreadLE (imageOf true t) off 8)
  else if off = 0x600008 then t.dbg.xa
  else if off = 0x600010 then t.dbg.xb
  else if off = 0x600018 then t.dbg.xd
  else if off = 0x600020 then t.dbg.res &&& 0xFF
  else if off = 0x600028 then t.dbg.info
  else if 0x600100 ≤ off ∧ off < 0x600120 then escRead ((off - 0x600100) / 8) t.esc
  else if 0x600200 ≤ off ∧ off < 0x600300 then seqRead ((off - 0x600200) / 8) t
  else if 0x620000 ≤ off ∧ off < 0x640000 then BitVec.ofNat 64 (mreadLE t.imem (off - 0x620000) 8)
  else 0

/-- A write through the debug window that acts only in STATE 011 or 000; in any other, DBGRES reads 0x17. -/
def stoppedOnly (f : Tile → Tile) (s : State) : State :=
  if s.tl.state = 3 || s.tl.state = 0 then s.onTl f else dbgFault 0x17 0 s

/-- DEBUG_WINDOW_WRITE (25:R355): offsets of R355, eight bytes at a time, DBGINSN four. -/
def execDebugWindowWrite (p off : Nat) (v : X) (s : State) : Host.Outcome State Fault Refusal :=
  let turn := s.turn
  let s := { s with turn := p }
  let a := off / 8 * 8
  let s' :=
    if off < 0x600000 then stoppedOnly (liveWrite a v) s
    else if off = 0x600000 then dbgInsn (v.extractLsb' 0 32) s
    else if off = 0x600008 then s.onTl (fun t => { t with dbg := { t.dbg with xa := v } })
    else if off = 0x600010 then s.onTl (fun t => { t with dbg := { t.dbg with xb := v } })
    else if 0x600200 ≤ off ∧ off < 0x600300 then stoppedOnly (seqWrite ((off - 0x600200) / 8) v) s
    else if 0x620000 ≤ off ∧ off < 0x640000 then
      stoppedOnly (fun t => { t with imem := mwriteLE t.imem (a - 0x620000) 8 v.toNat }) s
    else s
  .next { s' with turn := turn }

/-! ### The die's own window (25:R355), in a numbering of this model (log entry 62) -/

/-- A word of a tile's slot-table entry in the layout of a bind record (01:R21, R22), with STATE as it stands. -/
def slotWord (t : Tile) (i : Nat) : X :=
  let b := t.bind
  match i with
  | 0 => b.ctx ++ b.logtile ++ t.state ++ (0 : BitVec 3) ++ b.key ++ b.perlen
  | 1 => b.routine
  | 2 => b.replay ++ b.diemask ++ b.packsize ++ b.packid ++ b.memquota
  | 3 => b.seed
  | 4 => b.start
  | 5 => b.savearea
  | 14 => b.bindlist
  | 15 => (0 : BitVec 16) ++ b.routlen ++ b.nbind
  | _ => b.params.getD (i - 6) 0

/-- A word of an entry of a station (15:R241): bit 63 valid with the context, the DVA of its page, the page's size, the
table's entry. -/
def pageWord (e : Option PageEntry) (i : Nat) : X :=
  match e with
  | none => 0
  | some e =>
    match i with
    | 0 => (1 : BitVec 1) ++ (0 : BitVec 47) ++ e.ctx
    | 1 => BitVec.ofNat 64 (e.vpn * e.size)
    | 2 => BitVec.ofNat 64 e.size
    | _ => e.entry

/-- A word of an operation that a station holds: bit 63 valid with its ticket, context and pack index, its DVA, its lines,
the lines performed. -/
def opWord (o : Option MemOp) (i : Nat) : X :=
  match o with
  | none => 0
  | some o =>
    match i with
    | 0 => (1 : BitVec 1) ++ (0 : BitVec 15) ++ o.ticket ++ BitVec.ofNat 16 o.who.idx ++ o.who.ctx
    | 1 => o.dva
    | 2 => BitVec.ofNat 64 o.lines.length
    | _ => BitVec.ofNat 64 (o.lines.countP (fun l => l.performed))

/-- The code of a lease's life in the die's window. -/
def leaseStCode : LeaseSt → BitVec 2
  | .queued => 0
  | .waking => 1
  | .held => 2
  | .ended => 3

/-- A word of a kennel's lease (21:R299-R303): bit 63 valid with its life, CAUSE, ending code, engine, class and GEN; context
and pack index; ACCEPT; term; G; wake-done; expiry; END. -/
def leaseWord (l : Option Lease) (i : Nat) : X :=
  match l with
  | none => 0
  | some l =>
    match i with
    | 0 => (1 : BitVec 1) ++ leaseStCode l.st ++ (0 : BitVec 7) ++ l.cause ++ l.endCode ++ BitVec.ofNat 5 l.eng
        ++ BitVec.ofBool l.cls ++ l.gen
    | 1 => (0 : BitVec 32) ++ BitVec.ofNat 16 l.who.idx ++ l.who.ctx
    | 2 => BitVec.ofNat 64 l.accept
    | 3 => BitVec.ofNat 64 l.term
    | 4 => BitVec.ofNat 64 l.granted
    | 5 => BitVec.ofNat 64 l.wakeDone
    | 6 => BitVec.ofNat 64 l.expiry
    | _ => BitVec.ofNat 64 l.endAt

/-- A word of a kennel: its cap, the awake engines, the requests waiting, the messages on the ring; then its leases, eight
words each, in order of acceptance. -/
def kennelWord (q : Kennel) (i : Nat) : X :=
  match i with
  | 0 => BitVec.ofNat 64 q.cap
  | 1 => BitVec.ofNat 64 (awakeLeases q).length
  | 2 => BitVec.ofNat 64 (waiting q).length
  | 3 => BitVec.ofNat 64 q.ring.length
  | _ => if i < 8 then 0 else leaseWord q.leases[i / 8 - 1]? (i % 8)

/-- Eight bytes of the own window of a die's management core (25:R355), at an offset that is a multiple of 8, of what the die
holds at one instant: from 0 the slot-table entries of its tiles, from 0x2_0000 the station entries of each tile, from 0x4_0000
the operations its stations hold, oldest first, from 0x10_0000 its four kennels. The chapter's registers are `registerRead`'s. -/
def dieRead (s : State) (die off : Nat) : X :=
  let tile (i : Nat) : Tile := s.tile (136 * die + i)
  if off < 0x4400 then slotWord (tile (off / 128)) (off % 128 / 8)
  else if 0x20000 ≤ off ∧ off < 0x31000 then
    let a := off - 0x20000
    pageWord (tile (a / 512)).pages[a % 512 / 32]? (a % 32 / 8)
  else if 0x40000 ≤ off ∧ off < 0x100000 then
    let a := off - 0x40000
    opWord (s.ops.filter (fun o => o.die == die))[a / 32]? (a % 32 / 8)
  else if 0x100000 ≤ off ∧ off < 0x140000 then
    let a := off - 0x100000
    kennelWord (s.kennel (4 * die + a / 0x10000)) (a % 0x10000 / 8)
  else 0

end Sys2Proof.Machine
end

