-- ==== Sys2Proof/Machine/Flow.lean ====
section
/-! DEFINITION. Branches, loops, the period, time and trap instructions (04:R78-R83; 05:R101-R109, R114-R116). -/

namespace Sys2Proof.Machine

/-! ### Branches -/

/-- PBR with an immediate: b[D] := addr(PBR) + 4 × sext(imm10), latency 2 (05:R101). -/
def execPbr (g : Guard) (d : BitVec 2) (imm : BitVec 10) (s : State) : Host.Outcome State Fault Refusal :=
  issue { unit := some 3 } 4
    (fun s => if enabled s.tl g then
        s.onTl (fun t => writeL 2 3 (.b d) (val64 (t.pc + 4 * imm.signExtend 64)) t) else s) s

/-- PBR with a literal: b[D] := the literal (05:R101). -/
def execPbrLit (g : Guard) (d : BitVec 2) (lit : X) (s : State) : Host.Outcome State Fault Refusal :=
  issue { unit := some 3 } 12
    (fun s => if enabled s.tl g then s.onTl (writeL 2 3 (.b d) (val64 lit)) else s) s

/-- An address is the last instruction of an active loop body. -/
def isLast (loops : List LoopRec) (a : X) : Bool := loops.any (fun l => l.last == a)

/-- A branch at the pc has a delay slot that holds the last instruction of an active loop body (04:R79): the two
instructions that follow it in program order, after the loop return the branch itself may make. -/
def delayInLoopEnd (t : Tile) : Bool :=
  let n := loopNext t.pc (t.pc + 4) t.loops
  isLast n.2 n.1 || isLast n.2 (n.1 + BitVec.ofNat 64 (instrLen t n.1.toNat))

/-- A branch target that BR, CALL and RET refuse (05:R102). -/
def badTarget (a : X) : Bool := a.toNat % 4 != 0 || decide (0x20000 ≤ a.toNat)

/-- BR, CALL and RET (04:R78, R79; 05:R102): two delay slots follow whether or not it is nullified, and the target
issues after them when it is enabled. -/
def branch (g : Guard) (target : X) (link : Bool) (s : State) : Host.Outcome State Fault Refusal :=
  let en := enabled s.tl g
  issue { flow := true, place := delayInLoopEnd s.tl, unit := some 3
          c17 := if en && badTarget target then some target else none } 4
    (fun s => s.onTl (fun t =>
      let t := if en && link then write1 (.x 31) (val64 (t.pc + 12)) t else t
      { t with redirect := some { slots := 3, target := if en then some target else none } })) s

/-- BR (05:R102). -/
def execBr (g : Guard) (d : BitVec 2) (s : State) : Host.Outcome State Fault Refusal := branch g (rb s.tl d) false s

/-- CALL: x31 := addr(CALL) + 12 (05:R102). -/
def execCall (g : Guard) (d : BitVec 2) (s : State) : Host.Outcome State Fault Refusal := branch g (rb s.tl d) true s

/-- RET (05:R102). -/
def execRet (g : Guard) (d : BitVec 5) (s : State) : Host.Outcome State Fault Refusal := branch g (rx s.tl d) false s

/-- The first word of the body's last instruction (05:R103). -/
def loopLast (t : Tile) (imm : BitVec 10) : X := t.pc + 4 * imm.setWidth 64

/-- Depth and nesting (04:R81): four loops are active, or an active body that holds the LOOP ends before the new one. -/
def loopMisplaced (t : Tile) (imm : BitVec 10) : Bool :=
  decide (4 ≤ t.loops.length)
    || t.loops.any (fun l => decide (l.start.toNat ≤ t.pc.toNat) && decide (t.pc.toNat ≤ l.last.toNat)
        && decide (l.last.toNat < (loopLast t imm).toNat))

/-- LOOP (04:R80, R81; 05:R103): n passes back to back, none for n = 0, one when nullified. With n = 0 the instruction after
the body in program order follows and the body's last instruction does not issue, so that no enclosing loop completes a
pass, not even one that ends with this body: the model's reading (log entry 18). -/
def execLoop (g : Guard) (d : BitVec 5) (imm : BitVec 10) (s : State) : Host.Outcome State Fault Refusal :=
  let en := enabled s.tl g
  let last := loopLast s.tl imm
  let n := if en then (rx s.tl d).toNat else 1
  issue { flow := true, place := loopMisplaced s.tl imm, unit := some 3
          c17 := if en && decide (0x20000 ≤ last.toNat) then some last else none } 4
    (fun s => s.onTl (fun t =>
      if n = 0 then
        { t with redirect := some { slots := 1, target := some (last + BitVec.ofNat 64 (instrLen t last.toNat)) } }
      else { t with loops := { start := t.pc + 4, last := last, left := n } :: t.loops })) s

/-- A slot whose words are no instruction (02:R46, R47). -/
def issueIllegal (r : Reject) (s : State) : Host.Outcome State Fault Refusal :=
  issue { bad := some (r.cause, wordInfo s.tl r.word) } 4 (fun s => s) s

/-! ### The period (04:R82, R83; 05:R104) -/

/-- How long after its cycle the result of a job that is read now lands, or the write of a row it reads. -/
def landsAfter : JobOp → Nat
  | .load .. => 1
  | .atomRead .. => 2
  | .vload _ _ _ _ after => after
  | .vloadSe .. => 2
  | .vatomRead .. => 18
  | .rowRead .. => 1
  | .sampleMirror .. => 2
  | .landq .. => 1
  | _ => 0

/-- Unit u is not free, or one of its results or bank cycles is still to come, after the current cycle (04:R83). What was issued
in trap mode before a RESYNC.T began the period counts as what was issued in it (DESIGN CHOICE, log entry 47). -/
def unitBusyAfter (t : Tile) (u : Nat) : Bool :=
  decide (t.abs + 1 < tget 0 t.units u)
    || t.pend.any (fun p => p.unit == u && decide (t.abs < p.due))
    || t.jobs.any (fun j => j.unit == u && decide (t.abs < j.cyc + landsAfter j.op) && decide (t.abs ≤ j.cyc))
    || (u == 11 && t.arr.holds.any (fun h => decide (t.abs < h.2.2)))

/-- TRAPINFO of cause 0x14 (04:R83): the lowest busy unit, or 3 when only a loop is active. -/
def inFlight (t : Tile) : Option X :=
  match (List.range 16).find? (unitBusyAfter t) with
  | some u => some (BitVec.ofNat 64 u)
  | none => if (loopNext t.pc (t.pc + 4) t.loops).2.isEmpty then none else some 3

/-- HOLDS of a period of P cycles of which S were stretched (01:R29, 06:R124), from its two ends: the ticks not spent
in cycles, rounded down; in a period with trap mode from the time-base values of its ends. Of a tile that was frozen outside
trap mode and resumed, the frozen time counts and the frequency at the period's end stands for the whole period: the model's
choice (log entry 46). -/
def holdTicks (p s mhz : Nat) (trapped : Bool) (prev fin : Nat) : Nat :=
  if trapped then ((fin / subTick - prev / subTick) * mhz - (p + s) * 1000) / mhz
  else (fin - prev - (p + s) * cycLen mhz false) / subTick

/-- The end of a period at an instant (05:R104, 01:R29): the three stamps of the completed period, the governing PERLEN
of the next, MEMUSED. -/
def endPeriod (base : X) (fin : Nat) (t : Tile) : Tile :=
  let c := t.clk
  let n := c.count + (if c.stretched && !t.trap.mode then 1 else 0)
  { t with
    clk := { c with perstamp := base, stretch := BitVec.ofNat 64 n, count := 0, prev := fin
                    holds := BitVec.ofNat 64 (holdTicks t.perlen n c.mhz t.trap.entered c.prev fin) }
    perlen := t.perlenNext, memused := 0, trap := { t.trap with entered := false }
    replay := { t.replay with period := t.replay.period + 1 } }

/-- The pack-control request that a PERIOD takes (06:R127, R128): the latest post of mirror 61 asks for pre-emption and
is later than the last one acted on. -/
def preemptAsked (t : Tile) : Bool :=
  let m := tget mirrorInit t.mirs 61
  let q := (m.seq - t.pcseq).toNat
  m.seen && m.payload.extractLsb' 0 8 == 0x01 && decide (1 ≤ q) && decide (q < 2 ^ 31)

/-- PERIOD (05:R104): in trap mode it is no instruction (06:R122); early it underruns; with something in flight it
takes cause 0x14. It samples mirror 61 at the start of its cycle (06:R128, 12:R212); a pre-emption it takes is begun at the
end of its cycle. -/
def execPeriod (s : State) : Host.Outcome State Fault Refusal :=
  let t := s.tl
  issue { isPeriod := true, place := t.trap.mode, unit := some 4
          early := if t.cyc + 1 < t.perlen then some (BitVec.ofNat 64 (t.perlen - 1)) else none
          late := if t.perlen < t.cyc + 1 && !t.trap.mode then some (BitVec.ofNat 64 (t.perlen - 1)) else none
          c14 := inFlight t } 4
    (fun s => (noteSample 61 s).onTl (fun t =>
      let t' := { endPeriod (timeBase s s.turn (cycEnd t)) (cycEnd t) t with perEnd := true }
      if preemptAsked t then { t' with saveDue := true, pcseq := (tget mirrorInit t.mirs 61).seq } else t')) s

/-- NOPN n, n = imm10 + 1 (05:R105): SYS for n cycles, the later ones issued by nopnCycle. -/
def execNopn (g : Guard) (imm : BitVec 10) (s : State) : Host.Outcome State Fault Refusal :=
  let _ := g
  issue { unit := some 4, occ := imm.toNat + 1 } 4
    (fun s => s.onTl (fun t =>
      if imm = 0 then t else { t with nopn := some { pc := t.pc, left := imm.toNat } })) s

/-- A later cycle of a running NOPN: the slip of any condition of the cycle, or the cycle is used up (05:R105). -/
def nopnCycle (s : State) : Host.Outcome State Fault Refusal :=
  match slotCause {} s with
  | some (c, info) => .next (s.onTl (beginSlip c info))
  | none =>
    .next (s.onTl (fun t =>
      { t with issued := true
               nopn := t.nopn.bind (fun n => if n.left ≤ 1 then none else some { n with left := n.left - 1 }) }))

/-- SLOT (05:R106): asserts that it issues at cycle x[D]. -/
def execSlot (g : Guard) (d : BitVec 5) (s : State) : Host.Outcome State Fault Refusal :=
  let en := enabled s.tl g
  let v := rx s.tl d
  issue { unit := some 4
          early := if en && decide (s.tl.cyc < v.toNat) then some v else none
          late := if en && decide (v.toNat < s.tl.cyc) then some v else none } 4 (fun s => s) s

/-! ### Traps and restarts -/

/-- TRAP: cause 0x30 with its code (05:R114). -/
def execTrap (g : Guard) (code : BitVec 10) (s : State) : Host.Outcome State Fault Refusal :=
  issue { unit := some 4, code := if enabled s.tl g then some (code.setWidth 64) else none } 4 (fun s => s) s

/-- ERET (05:R115), an instruction only in trap mode. -/
def execEret (s : State) : Host.Outcome State Fault Refusal :=
  issue { flow := true, place := !s.tl.trap.mode, unit := some 4, jump := true } 4
    (fun s => s.onTl (fun t => returnFromTrap (t.abs + 1) t)) s

/-- The fields of RESYNC's operand that are violated (05:R108). -/
def resyncBad (t : Tile) (v : X) : Bool :=
  v.extractLsb' 40 24 != 0 || v.extractLsb' 17 3 != 0 || decide (t.perlen ≤ (v.extractLsb' 20 20).toNat)
    || v.extractLsb' 0 2 != 0

/-- RESYNC (05:R108): the instruction at ADDR issues next, as cycle CYC. -/
def execResync (d : BitVec 5) (s : State) : Host.Outcome State Fault Refusal :=
  let v := rx s.tl d
  issue { flow := true, place := !s.tl.trap.mode, unit := some 4, jump := true
          c17 := if resyncBad s.tl v then some v else none } 4
    (fun s => s.onTl (fun t =>
      { t with trap := { t.trap with mode := false }, loops := [], redirect := none
               pc := (v.extractLsb' 0 17).setWidth 64, cycNext := some (v.extractLsb' 20 20).toNat })) s

/-- The fields of RESYNC.T's operand that are violated (05:R109). -/
def resyncTBad (v : X) : Bool := v.extractLsb' 17 15 != 0 || v.extractLsb' 0 2 != 0 || v.extractLsb' 32 32 == 0

/-- The smallest T ≥ e with (T − start) mod m = 0 (05:R109). -/
def realign (e start m : Nat) : Nat :=
  if e ≤ start then start - (start - e) / m * m else start + (e - start + m - 1) / m * m

/-- The instant of RESYNC.T's restart (05:R109): the smallest T from the end of the turn tile's cycle on with
T − START a multiple of m, as the tile's cluster reads the time base. -/
def resyncInstant (s : State) (m : Nat) : Nat :=
  let t := s.tl
  Nat.max (cycEnd t)
    ((realign (timeBase s s.turn (cycEnd t)).toNat t.bind.start.toNat m - s.skew.getD (clusterOf s.turn) 0) * subTick)

/-- RESYNC.T (05:R109): nothing issues until T; RESYNC_T_RESTART is due then. What is still in flight stands still during
the wait and goes on with the cycles after T: the model's choice (log entry 47). -/
def execResyncT (d : BitVec 5) (s : State) : Host.Outcome State Fault Refusal :=
  let v := rx s.tl d
  issue { flow := true, place := !s.tl.trap.mode, unit := some 4, jump := true
          c17 := if resyncTBad v then some v else none } 4
    (fun s =>
      let at_ := resyncInstant s (v.extractLsb' 32 32).toNat
      { s.onTl (fun t => { t with phase := .waitT ((v.extractLsb' 0 17).setWidth 64) at_ }) with
        timers := s.timers ++ [(at_, .resyncTRestart s.turn)] }) s

/-- RESYNC_T_RESTART (05:R109, 06:R124): at T the instruction at ADDR is due as cycle 0 of a new period, and trap mode
ends. -/
def execResyncTRestart (p : Nat) (s : State) : Host.Outcome State Fault Refusal :=
  let t := s.tile p
  match t.phase with
  | .waitT a at_ =>
    if t.issued || decide (s.now < at_) then .next s
    else
      .next (s.onTile p (fun t =>
        let t := endPeriod (timeBase s p s.now) s.now { t with clk := joinClock s t.clk }
        { t with trap := { t.trap with mode := false }, loops := [], redirect := none, pc := a, cyc := 0, phase := .run
                 clk := { t.clk with start := s.now, stretched := false } }))
  | _ => .next s

/-- HALT (05:R116): nothing issues from the next cycle on; HALT_COMPLETE follows the drain. -/
def execHalt (g : Guard) (s : State) : Host.Outcome State Fault Refusal :=
  issue { flow := true, unit := some 4 } 4
    (fun s => if enabled s.tl g then s.onTl (fun t => { t with phase := .halting }) else s) s

end Sys2Proof.Machine
end

