-- ==== Sys2Proof/Machine/Scalar.lean ====
section
/-! DEFINITION. Integer arithmetic, logic, guards, scratchpad loads, stores and ATOM (05:R90-R100). -/

namespace Sys2Proof.Machine

/-- A one-cycle scalar result on SALU (05:R90-R92). -/
def alu (g : Guard) (d : BitVec 5) (v : X) (len : Nat) (s : State) : Host.Outcome State Fault Refusal :=
  issue { unit := some 0 } len
    (fun s => if enabled s.tl g then s.onTl (write1 (.x d) (val64 v)) else s) s

/-- The shift amount: bits 5:0 of b (05:R90). -/
def shAmt (b : X) : Nat := b.toNat % 64

/-- x[D] := a + b (05:R90). -/
def execAdd (g : Guard) (d a b : BitVec 5) (s : State) : Host.Outcome State Fault Refusal :=
  alu g d ((rx s.tl a) + (rx s.tl b)) 4 s

/-- x[D] := a − b (05:R90). -/
def execSub (g : Guard) (d a b : BitVec 5) (s : State) : Host.Outcome State Fault Refusal :=
  alu g d ((rx s.tl a) - (rx s.tl b)) 4 s

/-- x[D] := a AND b (05:R90). -/
def execAnd (g : Guard) (d a b : BitVec 5) (s : State) : Host.Outcome State Fault Refusal :=
  alu g d ((rx s.tl a) &&& (rx s.tl b)) 4 s

/-- x[D] := a OR b (05:R90). -/
def execOr (g : Guard) (d a b : BitVec 5) (s : State) : Host.Outcome State Fault Refusal :=
  alu g d ((rx s.tl a) ||| (rx s.tl b)) 4 s

/-- x[D] := a XOR b (05:R90). -/
def execXor (g : Guard) (d a b : BitVec 5) (s : State) : Host.Outcome State Fault Refusal :=
  alu g d ((rx s.tl a) ^^^ (rx s.tl b)) 4 s

/-- x[D] := a AND NOT b (05:R90). -/
def execAndn (g : Guard) (d a b : BitVec 5) (s : State) : Host.Outcome State Fault Refusal :=
  alu g d ((rx s.tl a) &&& ~~~(rx s.tl b)) 4 s

/-- x[D] := a << sh, zeros in (05:R90). -/
def execShl (g : Guard) (d a b : BitVec 5) (s : State) : Host.Outcome State Fault Refusal :=
  alu g d ((rx s.tl a) <<< shAmt (rx s.tl b)) 4 s

/-- x[D] := a >> sh, zeros in (05:R90). -/
def execShr (g : Guard) (d a b : BitVec 5) (s : State) : Host.Outcome State Fault Refusal :=
  alu g d ((rx s.tl a) >>> shAmt (rx s.tl b)) 4 s

/-- x[D] := a >> sh, copies of bit 63 in (05:R90). -/
def execSar (g : Guard) (d a b : BitVec 5) (s : State) : Host.Outcome State Fault Refusal :=
  alu g d ((rx s.tl a).sshiftRight (shAmt (rx s.tl b))) 4 s

/-- x[D] := a rotated left by sh (05:R90). -/
def execRol (g : Guard) (d a b : BitVec 5) (s : State) : Host.Outcome State Fault Refusal :=
  alu g d ((rx s.tl a).rotateLeft (shAmt (rx s.tl b))) 4 s

/-- x[D] := the smaller, signed (05:R90). -/
def execMin (g : Guard) (d a b : BitVec 5) (s : State) : Host.Outcome State Fault Refusal :=
  alu g d (minBy true (rx s.tl a) (rx s.tl b)) 4 s

/-- x[D] := the larger, signed (05:R90). -/
def execMax (g : Guard) (d a b : BitVec 5) (s : State) : Host.Outcome State Fault Refusal :=
  alu g d (maxBy true (rx s.tl a) (rx s.tl b)) 4 s

/-- x[D] := the smaller, unsigned (05:R90). -/
def execMinn (g : Guard) (d a b : BitVec 5) (s : State) : Host.Outcome State Fault Refusal :=
  alu g d (minBy false (rx s.tl a) (rx s.tl b)) 4 s

/-- x[D] := the larger, unsigned (05:R90). -/
def execMaxn (g : Guard) (d a b : BitVec 5) (s : State) : Host.Outcome State Fault Refusal :=
  alu g d (maxBy false (rx s.tl a) (rx s.tl b)) 4 s

/-- x[D] := 1 if a < b signed (05:R90). -/
def execSlt (g : Guard) (d a b : BitVec 5) (s : State) : Host.Outcome State Fault Refusal :=
  alu g d (oneIf (ltBy true (rx s.tl a) (rx s.tl b))) 4 s

/-- x[D] := 1 if a < b unsigned (05:R90). -/
def execSltn (g : Guard) (d a b : BitVec 5) (s : State) : Host.Outcome State Fault Refusal :=
  alu g d (oneIf (ltBy false (rx s.tl a) (rx s.tl b))) 4 s

/-- x[D] := 1 if a = b (05:R90). -/
def execSeq (g : Guard) (d a b : BitVec 5) (s : State) : Host.Outcome State Fault Refusal :=
  alu g d (oneIf ((rx s.tl a) == (rx s.tl b))) 4 s

/-- x[D] := leading zero bits of a (05:R90). -/
def execClz (g : Guard) (d a : BitVec 5) (s : State) : Host.Outcome State Fault Refusal :=
  alu g d (BitVec.ofNat 64 (clzFrom (rx s.tl a) 64)) 4 s

/-- x[D] := one bits of a (05:R90). -/
def execPopc (g : Guard) (d a : BitVec 5) (s : State) : Host.Outcome State Fault Refusal :=
  alu g d (BitVec.ofNat 64 (popFrom (rx s.tl a) 64)) 4 s

/-- x[D] := a or b by bit 0 of the effective guard; never nullified (05:R90, 02:R37). -/
def execSel (g : Guard) (d a b : BitVec 5) (s : State) : Host.Outcome State Fault Refusal :=
  alu { neg := false, reg := 0 } d (if enabled s.tl g then rx s.tl a else rx s.tl b) 4 s

/-- x[D] := x[A] + sext(imm10) (05:R91). -/
def execAddi (g : Guard) (d a : BitVec 5) (imm : BitVec 10) (s : State) : Host.Outcome State Fault Refusal :=
  alu g d (rx s.tl a + imm.signExtend 64) 4 s

/-- x[D] := x[A] + literal (05:R91). -/
def execAddiLit (g : Guard) (d a : BitVec 5) (lit : X) (s : State) : Host.Outcome State Fault Refusal :=
  alu g d (rx s.tl a + lit) 12 s

/-- x[D] := sext(imm10) (05:R91). -/
def execLi (g : Guard) (d : BitVec 5) (imm : BitVec 10) (s : State) : Host.Outcome State Fault Refusal :=
  alu g d (imm.signExtend 64) 4 s

/-- x[D] := literal (05:R91). -/
def execLiLit (g : Guard) (d : BitVec 5) (lit : X) (s : State) : Host.Outcome State Fault Refusal :=
  alu g d lit 12 s

/-- x[D] := x[A] << sh (05:R92). -/
def execShli (g : Guard) (d a : BitVec 5) (sh : BitVec 6) (s : State) : Host.Outcome State Fault Refusal :=
  alu g d (rx s.tl a <<< sh.toNat) 4 s

/-- x[D] := x[A] >> sh, zeros in (05:R92). -/
def execShri (g : Guard) (d a : BitVec 5) (sh : BitVec 6) (s : State) : Host.Outcome State Fault Refusal :=
  alu g d (rx s.tl a >>> sh.toNat) 4 s

/-- x[D] := x[A] >> sh, sign in (05:R92). -/
def execSari (g : Guard) (d a : BitVec 5) (sh : BitVec 6) (s : State) : Host.Outcome State Fault Refusal :=
  alu g d ((rx s.tl a).sshiftRight sh.toNat) 4 s

/-- x[D] := x[A] rotated left (05:R92). -/
def execRoli (g : Guard) (d a : BitVec 5) (sh : BitVec 6) (s : State) : Host.Outcome State Fault Refusal :=
  alu g d ((rx s.tl a).rotateLeft sh.toNat) 4 s

/-! ### MULDIV (05:R93) -/

/-- A result of SMUL with its latency and occupancy. -/
def muldiv (g : Guard) (d : BitVec 5) (l occ : Nat) (v : X) (s : State) : Host.Outcome State Fault Refusal :=
  issue { unit := some 1, occ := occ } 4
    (fun s => if enabled s.tl g then s.onTl (writeL l 1 (.x d) (val64 v)) else s) s

/-- Signed quotient truncated toward zero, with the fixed results of 05:R93. -/
def divS (a b : X) : X := if b = 0 then BitVec.allOnes 64 else BitVec.ofInt 64 (a.toInt.tdiv b.toInt)
/-- Unsigned quotient, with the fixed result of 05:R93. -/
def divU (a b : X) : X := if b = 0 then BitVec.allOnes 64 else BitVec.ofNat 64 (a.toNat / b.toNat)
/-- Signed remainder: a − b × DIV(a, b), a when b is 0, 0 for −2^63 by −1 (05:R93). -/
def remS (a b : X) : X := if b = 0 then a else BitVec.ofInt 64 (a.toInt.tmod b.toInt)
/-- Unsigned remainder, a when b is 0 (05:R93). -/
def remU (a b : X) : X := if b = 0 then a else BitVec.ofNat 64 (a.toNat % b.toNat)
/-- The high half of the signed product. -/
def mulHiS (a b : X) : X := BitVec.ofInt 64 (a.toInt * b.toInt / 2 ^ 64)
/-- The high half of the unsigned product. -/
def mulHiU (a b : X) : X := BitVec.ofNat 64 (a.toNat * b.toNat / 2 ^ 64)

/-- x[D] := bits 63:0 of the product (05:R93). -/
def execMul (g : Guard) (d a b : BitVec 5) (s : State) : Host.Outcome State Fault Refusal :=
  muldiv g d 3 1 (rx s.tl a * rx s.tl b) s

/-- x[D] := bits 127:64 of the signed product (05:R93). -/
def execMulh (g : Guard) (d a b : BitVec 5) (s : State) : Host.Outcome State Fault Refusal :=
  muldiv g d 3 1 (mulHiS (rx s.tl a) (rx s.tl b)) s

/-- x[D] := bits 127:64 of the unsigned product (05:R93). -/
def execMulhn (g : Guard) (d a b : BitVec 5) (s : State) : Host.Outcome State Fault Refusal :=
  muldiv g d 3 1 (mulHiU (rx s.tl a) (rx s.tl b)) s

/-- x[D] := a / b signed (05:R93). -/
def execDiv (g : Guard) (d a b : BitVec 5) (s : State) : Host.Outcome State Fault Refusal :=
  muldiv g d 20 4 (divS (rx s.tl a) (rx s.tl b)) s

/-- x[D] := a / b unsigned (05:R93). -/
def execDivn (g : Guard) (d a b : BitVec 5) (s : State) : Host.Outcome State Fault Refusal :=
  muldiv g d 20 4 (divU (rx s.tl a) (rx s.tl b)) s

/-- x[D] := the signed remainder (05:R93). -/
def execRem (g : Guard) (d a b : BitVec 5) (s : State) : Host.Outcome State Fault Refusal :=
  muldiv g d 20 4 (remS (rx s.tl a) (rx s.tl b)) s

/-- x[D] := the unsigned remainder (05:R93). -/
def execRemn (g : Guard) (d a b : BitVec 5) (s : State) : Host.Outcome State Fault Refusal :=
  muldiv g d 20 4 (remU (rx s.tl a) (rx s.tl b)) s

/-! ### Guards (05:R94, R95) -/

/-- All 64 bits of a guard, written on SALU. -/
def guardWrite (g : Guard) (d : BitVec 3) (v : X) (len : Nat) (s : State) : Host.Outcome State Fault Refusal :=
  issue { unit := some 0 } len
    (fun s => if enabled s.tl g then s.onTl (write1 (.g d (BitVec.allOnes 64)) (val64 v)) else s) s

/-- g[D] := all ones when a = b, else all zeros (05:R94). -/
def execGeq (g : Guard) (d : BitVec 3) (a b : BitVec 5) (s : State) : Host.Outcome State Fault Refusal :=
  guardWrite g d (guardOf (rx s.tl a == rx s.tl b)) 4 s

/-- g[D] := all ones when a ≠ b, else all zeros (05:R94). -/
def execGne (g : Guard) (d : BitVec 3) (a b : BitVec 5) (s : State) : Host.Outcome State Fault Refusal :=
  guardWrite g d (guardOf (rx s.tl a != rx s.tl b)) 4 s

/-- g[D] := all ones when a < b, signed, else all zeros (05:R94). -/
def execGlt (g : Guard) (d : BitVec 3) (a b : BitVec 5) (s : State) : Host.Outcome State Fault Refusal :=
  guardWrite g d (guardOf (ltBy true (rx s.tl a) (rx s.tl b))) 4 s

/-- g[D] := all ones when a ≤ b, signed, else all zeros (05:R94). -/
def execGle (g : Guard) (d : BitVec 3) (a b : BitVec 5) (s : State) : Host.Outcome State Fault Refusal :=
  guardWrite g d (guardOf (!ltBy true (rx s.tl b) (rx s.tl a))) 4 s

/-- g[D] := all ones when a < b, unsigned, else all zeros (05:R94). -/
def execGltn (g : Guard) (d : BitVec 3) (a b : BitVec 5) (s : State) : Host.Outcome State Fault Refusal :=
  guardWrite g d (guardOf (ltBy false (rx s.tl a) (rx s.tl b))) 4 s

/-- g[D] := all ones when a ≤ b, unsigned, else all zeros (05:R94). -/
def execGlen (g : Guard) (d : BitVec 3) (a b : BitVec 5) (s : State) : Host.Outcome State Fault Refusal :=
  guardWrite g d (guardOf (!ltBy false (rx s.tl b) (rx s.tl a))) 4 s

/-- g[D] := g[A] AND g[B] (05:R95). -/
def execGand (g : Guard) (d a b : BitVec 3) (s : State) : Host.Outcome State Fault Refusal :=
  guardWrite g d (rg s.tl a &&& rg s.tl b) 4 s

/-- g[D] := g[A] OR g[B] (05:R95). -/
def execGor (g : Guard) (d a b : BitVec 3) (s : State) : Host.Outcome State Fault Refusal :=
  guardWrite g d (rg s.tl a ||| rg s.tl b) 4 s

/-- g[D] := g[A] XOR g[B] (05:R95). -/
def execGxor (g : Guard) (d a b : BitVec 3) (s : State) : Host.Outcome State Fault Refusal :=
  guardWrite g d (rg s.tl a ^^^ rg s.tl b) 4 s

/-- g[D] := NOT g[A] (05:R95). -/
def execGnot (g : Guard) (d a : BitVec 3) (s : State) : Host.Outcome State Fault Refusal :=
  guardWrite g d (~~~(rg s.tl a)) 4 s

/-- g[D] := g[A] (05:R95). -/
def execGmov (g : Guard) (d a : BitVec 3) (s : State) : Host.Outcome State Fault Refusal :=
  guardWrite g d (rg s.tl a) 4 s

/-- g[D] := the literal (05:R95). -/
def execGseti (g : Guard) (d : BitVec 3) (lit : X) (s : State) : Host.Outcome State Fault Refusal :=
  guardWrite g d lit 12 s

/-! ### Scratchpad loads, stores and ATOM (05:R96-R100) -/

/-- LD: a bank use at c+1, the value at the end of c+2 (05:R96, R97). A nullified LD is checked and uses its bank. -/
def loadAt (g : Guard) (ty : MemTy) (d : BitVec 5) (addr : X) (len : Nat) (s : State) :
    Host.Outcome State Fault Refusal :=
  issue { unit := some 2, c17 := checkAddr addr (memSize ty) } len
    (fun s => s.onTl (fun t =>
      if enabled t g then
        accessEvent 1 (addJob 1 2 (bankBit (bankOf addr.toNat)) (.load d (memSize ty) (memSigned ty) addr.toNat) t)
      else addJob 1 2 (bankBit (bankOf addr.toNat)) .idle t)) s

/-- ST: the low bytes of x[D], read at c, are written at c+1 (05:R96, R98). -/
def storeAt (g : Guard) (ty : MemTy) (d : BitVec 5) (addr : X) (len : Nat) (s : State) :
    Host.Outcome State Fault Refusal :=
  issue { unit := some 2, c17 := checkAddr addr (memSize ty) } len
    (fun s => s.onTl (fun t =>
      if enabled t g then
        accessEvent 1 (addJob 1 2 (bankBit (bankOf addr.toNat))
          (.writes (cellsLE addr.toNat (memSize ty) (rx t d).toNat)) t)
      else addJob 1 2 (bankBit (bankOf addr.toNat)) .idle t)) s

/-- LD with an immediate (05:R96). -/
def execLd (g : Guard) (ty : MemTy) (d a : BitVec 5) (imm : BitVec 7) (s : State) :
    Host.Outcome State Fault Refusal :=
  loadAt g ty d (ldstAddr s.tl ty a imm) 4 s

/-- LD with a literal byte offset (05:R96). -/
def execLdLit (g : Guard) (ty : MemTy) (d a : BitVec 5) (lit : X) (s : State) : Host.Outcome State Fault Refusal :=
  loadAt g ty d (rx s.tl a + lit) 12 s

/-- ST with an immediate (05:R96). -/
def execSt (g : Guard) (ty : MemTy) (d a : BitVec 5) (imm : BitVec 7) (s : State) :
    Host.Outcome State Fault Refusal :=
  storeAt g ty d (ldstAddr s.tl ty a imm) 4 s

/-- ST with a literal byte offset (05:R96). -/
def execStLit (g : Guard) (ty : MemTy) (d a : BitVec 5) (lit : X) (s : State) : Host.Outcome State Fault Refusal :=
  storeAt g ty d (rx s.tl a + lit) 12 s

/-- ATOM (05:R99): the bank reserved c+1 to c+3, the read at c+1, the write at c+3, the old value at the end of c+3.
The bank cycles of a nullified ATOM on the engine window hold no engine write to its line (DESIGN CHOICE, log entry 94). -/
def atom (op : RmwOp) (g : Guard) (ty : AtomTy) (d a b : BitVec 5) (s : State) : Host.Outcome State Fault Refusal :=
  let addr := rx s.tl a
  let bank := bankBit (bankOf addr.toNat)
  issue { unit := some 2, occ := 3, c17 := checkAddr addr (atomSize ty) } 4
    (fun s => s.onTl (fun t =>
      let first := if enabled t g then
        JobOp.atomRead d (atomSize ty) (atomSigned ty) op addr.toNat (rx t b) (rx t d) else .idle
      let t' := addJob 3 2 bank .idle (addJob 2 2 bank .idle (addJob 1 2 bank first t))
      if enabled t g then accessEvent 3 t' else t')) s

/-- ATOM.ADD (05:R99). -/
def execAtomAdd (g : Guard) (ty : AtomTy) (d a b : BitVec 5) (s : State) : Host.Outcome State Fault Refusal :=
  atom .add g ty d a b s

/-- ATOM.MIN (05:R99). -/
def execAtomMin (g : Guard) (ty : AtomTy) (d a b : BitVec 5) (s : State) : Host.Outcome State Fault Refusal :=
  atom .min g ty d a b s

/-- ATOM.MAX (05:R99). -/
def execAtomMax (g : Guard) (ty : AtomTy) (d a b : BitVec 5) (s : State) : Host.Outcome State Fault Refusal :=
  atom .max g ty d a b s

/-- ATOM.XCHG (05:R99). -/
def execAtomXchg (g : Guard) (ty : AtomTy) (d a b : BitVec 5) (s : State) : Host.Outcome State Fault Refusal :=
  atom .xchg g ty d a b s

/-- ATOM.CMPXCHG (05:R99). -/
def execAtomCmpxchg (g : Guard) (ty : AtomTy) (d a b : BitVec 5) (s : State) : Host.Outcome State Fault Refusal :=
  atom .cmpxchg g ty d a b s

end Sys2Proof.Machine
end

