-- ==== Sys2Proof/Machine/Dispatch.lean ====
section
/-! DEFINITION. One arm for each instruction and event of spec/opcode_table.json: its meaning. -/

namespace Sys2Proof.Machine

/-- The meaning of an instruction at the issue slot of the turn tile, or of an event of the part. -/
def exec (i : Instr) (s : State) : Host.Outcome State Fault Refusal :=
  match i with
  | .add g d a b => Sys2Proof.Machine.execAdd g d a b s
  | .sub g d a b => Sys2Proof.Machine.execSub g d a b s
  | .and g d a b => Sys2Proof.Machine.execAnd g d a b s
  | .or g d a b => Sys2Proof.Machine.execOr g d a b s
  | .xor g d a b => Sys2Proof.Machine.execXor g d a b s
  | .andn g d a b => Sys2Proof.Machine.execAndn g d a b s
  | .shl g d a b => Sys2Proof.Machine.execShl g d a b s
  | .shr g d a b => Sys2Proof.Machine.execShr g d a b s
  | .sar g d a b => Sys2Proof.Machine.execSar g d a b s
  | .rol g d a b => Sys2Proof.Machine.execRol g d a b s
  | .min g d a b => Sys2Proof.Machine.execMin g d a b s
  | .max g d a b => Sys2Proof.Machine.execMax g d a b s
  | .minn g d a b => Sys2Proof.Machine.execMinn g d a b s
  | .maxn g d a b => Sys2Proof.Machine.execMaxn g d a b s
  | .slt g d a b => Sys2Proof.Machine.execSlt g d a b s
  | .sltn g d a b => Sys2Proof.Machine.execSltn g d a b s
  | .seq g d a b => Sys2Proof.Machine.execSeq g d a b s
  | .clz g d a => Sys2Proof.Machine.execClz g d a s
  | .popc g d a => Sys2Proof.Machine.execPopc g d a s
  | .sel g d a b => Sys2Proof.Machine.execSel g d a b s
  | .addi g d a imm => Sys2Proof.Machine.execAddi g d a imm s
  | .addiLit g d a lit => Sys2Proof.Machine.execAddiLit g d a lit s
  | .li g d imm => Sys2Proof.Machine.execLi g d imm s
  | .liLit g d lit => Sys2Proof.Machine.execLiLit g d lit s
  | .shli g d a sh => Sys2Proof.Machine.execShli g d a sh s
  | .shri g d a sh => Sys2Proof.Machine.execShri g d a sh s
  | .sari g d a sh => Sys2Proof.Machine.execSari g d a sh s
  | .roli g d a sh => Sys2Proof.Machine.execRoli g d a sh s
  | .mul g d a b => Sys2Proof.Machine.execMul g d a b s
  | .mulh g d a b => Sys2Proof.Machine.execMulh g d a b s
  | .mulhn g d a b => Sys2Proof.Machine.execMulhn g d a b s
  | .div g d a b => Sys2Proof.Machine.execDiv g d a b s
  | .divn g d a b => Sys2Proof.Machine.execDivn g d a b s
  | .rem g d a b => Sys2Proof.Machine.execRem g d a b s
  | .remn g d a b => Sys2Proof.Machine.execRemn g d a b s
  | .geq g d a b => Sys2Proof.Machine.execGeq g d a b s
  | .gne g d a b => Sys2Proof.Machine.execGne g d a b s
  | .glt g d a b => Sys2Proof.Machine.execGlt g d a b s
  | .gle g d a b => Sys2Proof.Machine.execGle g d a b s
  | .gltn g d a b => Sys2Proof.Machine.execGltn g d a b s
  | .glen g d a b => Sys2Proof.Machine.execGlen g d a b s
  | .gand g d a b => Sys2Proof.Machine.execGand g d a b s
  | .gor g d a b => Sys2Proof.Machine.execGor g d a b s
  | .gxor g d a b => Sys2Proof.Machine.execGxor g d a b s
  | .gnot g d a => Sys2Proof.Machine.execGnot g d a s
  | .gmov g d a => Sys2Proof.Machine.execGmov g d a s
  | .gseti g d lit => Sys2Proof.Machine.execGseti g d lit s
  | .ld g t d a imm => Sys2Proof.Machine.execLd g t d a imm s
  | .ldLit g t d a lit => Sys2Proof.Machine.execLdLit g t d a lit s
  | .st g t d a imm => Sys2Proof.Machine.execSt g t d a imm s
  | .stLit g t d a lit => Sys2Proof.Machine.execStLit g t d a lit s
  | .atomAdd g t d a b => Sys2Proof.Machine.execAtomAdd g t d a b s
  | .atomMin g t d a b => Sys2Proof.Machine.execAtomMin g t d a b s
  | .atomMax g t d a b => Sys2Proof.Machine.execAtomMax g t d a b s
  | .atomXchg g t d a b => Sys2Proof.Machine.execAtomXchg g t d a b s
  | .atomCmpxchg g t d a b => Sys2Proof.Machine.execAtomCmpxchg g t d a b s
  | .pbr g d imm => Sys2Proof.Machine.execPbr g d imm s
  | .pbrLit g d lit => Sys2Proof.Machine.execPbrLit g d lit s
  | .br g d => Sys2Proof.Machine.execBr g d s
  | .call g d => Sys2Proof.Machine.execCall g d s
  | .ret g d => Sys2Proof.Machine.execRet g d s
  | .loop g d imm => Sys2Proof.Machine.execLoop g d imm s
  | .period => Sys2Proof.Machine.execPeriod s
  | .resync d => Sys2Proof.Machine.execResync d s
  | .resyncT d => Sys2Proof.Machine.execResyncT d s
  | .nopn g imm => Sys2Proof.Machine.execNopn g imm s
  | .slot g d => Sys2Proof.Machine.execSlot g d s
  | .tbase g d => Sys2Proof.Machine.execTbase g d s
  | .sysr g d num => Sys2Proof.Machine.execSysr g d num s
  | .sysw g d num => Sys2Proof.Machine.execSysw g d num s
  | .trap g code => Sys2Proof.Machine.execTrap g code s
  | .eret => Sys2Proof.Machine.execEret s
  | .halt g => Sys2Proof.Machine.execHalt g s
  | .vadd g t sat d a b => Sys2Proof.Machine.execVadd g t sat d a b s
  | .vsub g t sat d a b => Sys2Proof.Machine.execVsub g t sat d a b s
  | .vand g t d a b => Sys2Proof.Machine.execVand g t d a b s
  | .vor g t d a b => Sys2Proof.Machine.execVor g t d a b s
  | .vxor g t d a b => Sys2Proof.Machine.execVxor g t d a b s
  | .vandn g t d a b => Sys2Proof.Machine.execVandn g t d a b s
  | .vshl g t d a b => Sys2Proof.Machine.execVshl g t d a b s
  | .vshr g t d a b => Sys2Proof.Machine.execVshr g t d a b s
  | .vsar g t d a b => Sys2Proof.Machine.execVsar g t d a b s
  | .vmin g t d a b => Sys2Proof.Machine.execVmin g t d a b s
  | .vmax g t d a b => Sys2Proof.Machine.execVmax g t d a b s
  | .vmul g t sat d a b => Sys2Proof.Machine.execVmul g t sat d a b s
  | .vmulh g t d a b => Sys2Proof.Machine.execVmulh g t d a b s
  | .vabs g t sat d a => Sys2Proof.Machine.execVabs g t sat d a s
  | .vneg g t sat d a => Sys2Proof.Machine.execVneg g t sat d a s
  | .vfadd g d a b => Sys2Proof.Machine.execVfadd g d a b s
  | .vfsub g d a b => Sys2Proof.Machine.execVfsub g d a b s
  | .vfmul g d a b => Sys2Proof.Machine.execVfmul g d a b s
  | .vfma g d a b c => Sys2Proof.Machine.execVfma g d a b c s
  | .vfmin g d a b => Sys2Proof.Machine.execVfmin g d a b s
  | .vfmax g d a b => Sys2Proof.Machine.execVfmax g d a b s
  | .vfabs g d a => Sys2Proof.Machine.execVfabs g d a s
  | .vfneg g d a => Sys2Proof.Machine.execVfneg g d a s
  | .vfdiv g d a b => Sys2Proof.Machine.execVfdiv g d a b s
  | .vfsqrt g d a => Sys2Proof.Machine.execVfsqrt g d a s
  | .vfexp2 g d a => Sys2Proof.Machine.execVfexp2 g d a s
  | .vflog2 g d a => Sys2Proof.Machine.execVflog2 g d a s
  | .vcmpEq g t gd a b => Sys2Proof.Machine.execVcmpEq g t gd a b s
  | .vcmpNe g t gd a b => Sys2Proof.Machine.execVcmpNe g t gd a b s
  | .vcmpLt g t gd a b => Sys2Proof.Machine.execVcmpLt g t gd a b s
  | .vcmpLe g t gd a b => Sys2Proof.Machine.execVcmpLe g t gd a b s
  | .vsel g d a b => Sys2Proof.Machine.execVsel g d a b s
  | .vmov g d a => Sys2Proof.Machine.execVmov g d a s
  | .vbcast g d a => Sys2Proof.Machine.execVbcast g d a s
  | .vbcastLit g d lit => Sys2Proof.Machine.execVbcastLit g d lit s
  | .vlaneget g d a n => Sys2Proof.Machine.execVlaneget g d a n s
  | .vlaneset g d a n => Sys2Proof.Machine.execVlaneset g d a n s
  | .vcvt g td ta rnd d a => Sys2Proof.Machine.execVcvt g td ta rnd d a s
  | .vpackse g t d a => Sys2Proof.Machine.execVpackse g t d a s
  | .vunpackse g t d a => Sys2Proof.Machine.execVunpackse g t d a s
  | .vredSum g t sat d a => Sys2Proof.Machine.execVredSum g t sat d a s
  | .vredMin g t d a => Sys2Proof.Machine.execVredMin g t d a s
  | .vredMax g t d a => Sys2Proof.Machine.execVredMax g t d a s
  | .vredArgmax g t d a => Sys2Proof.Machine.execVredArgmax g t d a s
  | .vredArgmin g t d a => Sys2Proof.Machine.execVredArgmin g t d a s
  | .vredAnd g d a => Sys2Proof.Machine.execVredAnd g d a s
  | .vredOr g d a => Sys2Proof.Machine.execVredOr g d a s
  | .vredXor g d a => Sys2Proof.Machine.execVredXor g d a s
  | .vredXsum g d a => Sys2Proof.Machine.execVredXsum g d a s
  | .vscanSum g t sat d a => Sys2Proof.Machine.execVscanSum g t sat d a s
  | .vscanMin g t d a => Sys2Proof.Machine.execVscanMin g t d a s
  | .vscanMax g t d a => Sys2Proof.Machine.execVscanMax g t d a s
  | .vperm g d a b => Sys2Proof.Machine.execVperm g d a b s
  | .vrot g d a n => Sys2Proof.Machine.execVrot g d a n s
  | .vld g t d a imm => Sys2Proof.Machine.execVld g t d a imm s
  | .vst g t d a imm => Sys2Proof.Machine.execVst g t d a imm s
  | .vgather g t d a b => Sys2Proof.Machine.execVgather g t d a b s
  | .vscatter g t d a b => Sys2Proof.Machine.execVscatter g t d a b s
  | .vatomAdd g t d a b c => Sys2Proof.Machine.execVatomAdd g t d a b c s
  | .vatomMin g t d a b c => Sys2Proof.Machine.execVatomMin g t d a b c s
  | .vatomMax g t d a b c => Sys2Proof.Machine.execVatomMax g t d a b c s
  | .vatomXchg g t d a b c => Sys2Proof.Machine.execVatomXchg g t d a b c s
  | .philox g d a j => Sys2Proof.Machine.execPhilox g d a j s
  | .sample g d gd a b c v => Sys2Proof.Machine.execSample g d gd a b c v s
  | .vmaskLd g gd a imm => Sys2Proof.Machine.execVmaskLd g gd a imm s
  | .vmaskSt g a b imm => Sys2Proof.Machine.execVmaskSt g a b imm s
  | .vmaskCnt g d b => Sys2Proof.Machine.execVmaskCnt g d b s
  | .vmaskFirst g d b => Sys2Proof.Machine.execVmaskFirst g d b s
  | .ashape g m => Sys2Proof.Machine.execAshape g m s
  | .wfill g a b nrow spoff => Sys2Proof.Machine.execWfill g a b nrow spoff s
  | .wload g t d a b spoff => Sys2Proof.Machine.execWload g t d a b spoff s
  | .ctab g a spoff => Sys2Proof.Machine.execCtab g a spoff s
  | .mma g t acc swap h a arow nrow spoff => Sys2Proof.Machine.execMma g t acc swap h a arow nrow spoff s
  | .accrd g t a arow nrow spoff => Sys2Proof.Machine.execAccrd g t a arow nrow spoff s
  | .accwr g t a arow nrow spoff => Sys2Proof.Machine.execAccwr g t a arow nrow spoff s
  | .accz g arow nrow => Sys2Proof.Machine.execAccz g arow nrow s
  | .accsave g a arow nrow spoff => Sys2Proof.Machine.execAccsave g a arow nrow spoff s
  | .accrest g a arow nrow spoff => Sys2Proof.Machine.execAccrest g a arow nrow spoff s
  | .post g sc n d => Sys2Proof.Machine.execPost g sc n d s
  | .postScratch g sc n a => Sys2Proof.Machine.execPostScratch g sc n a s
  | .peek g d n => Sys2Proof.Machine.execPeek g d n s
  | .seqMirror g d n => Sys2Proof.Machine.execSeqMirror g d n s
  | .age g d n => Sys2Proof.Machine.execAge g d n s
  | .mbind g a n => Sys2Proof.Machine.execMbind g a n s
  | .mquery g d n => Sys2Proof.Machine.execMquery g d n s
  | .cpy g d a b count land => Sys2Proof.Machine.execCpy g d a b count land s
  | .cpyLit g d lit b count land => Sys2Proof.Machine.execCpyLit g d lit b count land s
  | .cpyw g d a b count => Sys2Proof.Machine.execCpyw g d a b count s
  | .cpywLit g d lit b count => Sys2Proof.Machine.execCpywLit g d lit b count s
  | .fence g sc succ pred => Sys2Proof.Machine.execFence g sc succ pred s
  | .matomAdd g t d a b land => Sys2Proof.Machine.execMatomAdd g t d a b land s
  | .matomMin g t d a b land => Sys2Proof.Machine.execMatomMin g t d a b land s
  | .matomMax g t d a b land => Sys2Proof.Machine.execMatomMax g t d a b land s
  | .matomXchg g t d a b land => Sys2Proof.Machine.execMatomXchg g t d a b land s
  | .matomCmpxchg g t d a b land => Sys2Proof.Machine.execMatomCmpxchg g t d a b land s
  | .matomAnd g t d a b land => Sys2Proof.Machine.execMatomAnd g t d a b land s
  | .matomOr g t d a b land => Sys2Proof.Machine.execMatomOr g t d a b land s
  | .matomXor g t d a b land => Sys2Proof.Machine.execMatomXor g t d a b land s
  | .matomAddLit g t d lit b land => Sys2Proof.Machine.execMatomAddLit g t d lit b land s
  | .matomMinLit g t d lit b land => Sys2Proof.Machine.execMatomMinLit g t d lit b land s
  | .matomMaxLit g t d lit b land => Sys2Proof.Machine.execMatomMaxLit g t d lit b land s
  | .matomXchgLit g t d lit b land => Sys2Proof.Machine.execMatomXchgLit g t d lit b land s
  | .matomCmpxchgLit g t d lit b land => Sys2Proof.Machine.execMatomCmpxchgLit g t d lit b land s
  | .matomAndLit g t d lit b land => Sys2Proof.Machine.execMatomAndLit g t d lit b land s
  | .matomOrLit g t d lit b land => Sys2Proof.Machine.execMatomOrLit g t d lit b land s
  | .matomXorLit g t d lit b land => Sys2Proof.Machine.execMatomXorLit g t d lit b land s
  | .xacc g t d a b => Sys2Proof.Machine.execXacc g t d a b s
  | .xaccLit g t d lit b => Sys2Proof.Machine.execXaccLit g t d lit b s
  | .xfin g d a b land => Sys2Proof.Machine.execXfin g d a b land s
  | .xfinLit g d lit b land => Sys2Proof.Machine.execXfinLit g d lit b land s
  | .xclr g d a => Sys2Proof.Machine.execXclr g d a s
  | .xclrLit g d lit => Sys2Proof.Machine.execXclrLit g d lit s
  | .tlook g d a => Sys2Proof.Machine.execTlook g d a s
  | .tset g a b => Sys2Proof.Machine.execTset g a b s
  | .tclr g a => Sys2Proof.Machine.execTclr g a s
  | .touch g d a => Sys2Proof.Machine.execTouch g d a s
  | .landq g d a => Sys2Proof.Machine.execLandq g d a s
  | .leaseSd g d a => Sys2Proof.Machine.execLeaseSd g d a s
  | .leaseRv g d a => Sys2Proof.Machine.execLeaseRv g d a s
  | .renew g d a => Sys2Proof.Machine.execRenew g d a s
  | .lfree g d => Sys2Proof.Machine.execLfree g d s
  | .ecmd g d a => Sys2Proof.Machine.execEcmd g d a s
  | .preempt g a => Sys2Proof.Machine.execPreempt g a s
  | .kill g a => Sys2Proof.Machine.execKill g a s
  | .mapset g a b => Sys2Proof.Machine.execMapset g a b s
  | .keysel g a b => Sys2Proof.Machine.execKeysel g a b s
  | .resultLanding => Sys2Proof.Machine.execResultLanding s
  | .trapEntry => Sys2Proof.Machine.execTrapEntry s
  | .escalation => Sys2Proof.Machine.execEscalation s
  | .haltComplete => Sys2Proof.Machine.execHaltComplete s
  | .holdEnd t => Sys2Proof.Machine.execHoldEnd t s
  | .resyncTRestart t => Sys2Proof.Machine.execResyncTRestart t s
  | .bandAwake => Sys2Proof.Machine.execBandAwake s
  | .shadowPlaneLoad => Sys2Proof.Machine.execShadowPlaneLoad s
  | .mmaRowLanding => Sys2Proof.Machine.execMmaRowLanding s
  | .postDelivery id k => Sys2Proof.Machine.execPostDelivery id k s
  | .postRelease id => Sys2Proof.Machine.execPostRelease id s
  | .fencedRelease id => Sys2Proof.Machine.execFencedRelease id s
  | .homeStationPerform id line => Sys2Proof.Machine.execHomeStationPerform id line s
  | .copyDataArrival id line => Sys2Proof.Machine.execCopyDataArrival id line s
  | .cpyLanding => Sys2Proof.Machine.execCpyLanding s
  | .matomLanding => Sys2Proof.Machine.execMatomLanding s
  | .xfinLanding => Sys2Proof.Machine.execXfinLanding s
  | .touchWalk id => Sys2Proof.Machine.execTouchWalk id s
  | .ringSlot t => Sys2Proof.Machine.execRingSlot t s
  | .leaseArrival k => Sys2Proof.Machine.execLeaseArrival k s
  | .renewArrival k => Sys2Proof.Machine.execRenewArrival k s
  | .lfreeArrival k => Sys2Proof.Machine.execLfreeArrival k s
  | .ecmdArrival k => Sys2Proof.Machine.execEcmdArrival k s
  | .grant k => Sys2Proof.Machine.execGrant k s
  | .wakeDone k id => Sys2Proof.Machine.execWakeDone k id s
  | .leaseExpiry k id => Sys2Proof.Machine.execLeaseExpiry k id s
  | .endingLeash k id => Sys2Proof.Machine.execEndingLeash k id s
  | .fullnessReport k => Sys2Proof.Machine.execFullnessReport k s
  | .capRecovery k => Sys2Proof.Machine.execCapRecovery k s
  | .gather k id => Sys2Proof.Machine.execGather k id s
  | .scatter k id => Sys2Proof.Machine.execScatter k id s
  | .loadg k id => Sys2Proof.Machine.execLoadg k id s
  | .mask k id => Sys2Proof.Machine.execMask k id s
  | .step k id => Sys2Proof.Machine.execStep k id s
  | .snap k id => Sys2Proof.Machine.execSnap k id s
  | .restore k id => Sys2Proof.Machine.execRestore k id s
  | .engineResult k id => Sys2Proof.Machine.execEngineResult k id s
  | .lseqReread ctx => Sys2Proof.Machine.execLseqReread ctx s
  | .tileStart t => Sys2Proof.Machine.execTileStart t s
  | .lstatRunning ctx => Sys2Proof.Machine.execLstatRunning ctx s
  | .saveComplete t => Sys2Proof.Machine.execSaveComplete t s
  | .killTileStop t => Sys2Proof.Machine.execKillTileStop t s
  | .killComplete ctx => Sys2Proof.Machine.execKillComplete ctx s
  | .readBufferInvalidate loc => Sys2Proof.Machine.execReadBufferInvalidate loc s
  | .notify v => Sys2Proof.Machine.execNotify v s
  | .serveNotify ctx => Sys2Proof.Machine.execServeNotify ctx s
  | .controlWordWrite t idx record => Sys2Proof.Machine.execControlWordWrite t idx record s
  | .thermalSensorRead t temp => Sys2Proof.Machine.execThermalSensorRead t temp s
  | .currentAlarm d src => Sys2Proof.Machine.execCurrentAlarm d src s
  | .occauseClear v => Sys2Proof.Machine.execOccauseClear v s
  | .freqRequest f => Sys2Proof.Machine.execFreqRequest f s
  | .dieReset d => Sys2Proof.Machine.execDieReset d s
  | .dieReturn d => Sys2Proof.Machine.execDieReturn d s
  | .powerOnReset => Sys2Proof.Machine.execPowerOnReset s
  | .bootgo => Sys2Proof.Machine.execBootgo s
  | .ago => Sys2Proof.Machine.execAgo s
  | .attestReportReady => Sys2Proof.Machine.execAttestReportReady s
  | .voltageRampDone => Sys2Proof.Machine.execVoltageRampDone s
  | .changeoverEnd => Sys2Proof.Machine.execChangeoverEnd s
  | .hostMemoryWrite off bytes ro => Sys2Proof.Machine.execHostMemoryWrite off bytes ro s
  | .hostMemoryRead off len buf => Sys2Proof.Machine.execHostMemoryRead off len buf s
  | .debugWindowWrite t off v => Sys2Proof.Machine.execDebugWindowWrite t off v s
  | .registerWrite win off v => Sys2Proof.Machine.execRegisterWrite win off v s
  | .firmwarePriorityEviction k id => Sys2Proof.Machine.execFirmwarePriorityEviction k id s
  | .camrakLinkDown l => Sys2Proof.Machine.execCamrakLinkDown l s
  | .camrakLinkUp l => Sys2Proof.Machine.execCamrakLinkUp l s
  | .registerFileParity t file r => Sys2Proof.Machine.execRegisterFileParity t file r s
  | .managementCoreMemoryWrite d dpa bytes => Sys2Proof.Machine.execManagementCoreMemoryWrite d dpa bytes s
  | .frozenResume t => Sys2Proof.Machine.execFrozenResume t s
  | .frozenHandlerEntry t => Sys2Proof.Machine.execFrozenHandlerEntry t s
  | .droopStretch t => Sys2Proof.Machine.execDroopStretch t s
  | .hostCommit t ro => Sys2Proof.Machine.execHostCommit t ro s
  | .stationInvalidation ctx page => Sys2Proof.Machine.execStationInvalidation ctx page s
  | .stationReport id => Sys2Proof.Machine.execStationReport id s

end Sys2Proof.Machine
end

