-- ==== Sys2Proof/Machine/Schedule.lean ====
section
/-! DEFINITION. Which action of the package is next in time, and how it runs: the two steps of a tile's cycle, the
events whose instants are known, and what the environment begins (04:R72, 01:R27; log entries 2 and 3). -/

namespace Sys2Proof.Machine

/-! ### What happens at once -/

/-- Holds that fences placed and whose predecessors are now complete (16:R266, 13:R226), a changeover that every tile
has made (25:R344). -/
def atOnce (s : State) : Option Instr :=
  match s.posts.find? (releasable s) with
  | some p => some (.postRelease p.id)
  | none =>
    match s.ops.find? (fun o => o.held && waitsDone s o.who o.waits) with
    | some o => some (.fencedRelease o.id)
    | none =>
      match s.kennels.findSome? (fun (_, q) => q.leases.findSome? (fun l =>
          l.cmds.find? (fun c => !c.2.2.isEmpty && waitsDone s l.who c.2.2))) with
      | some c => some (.fencedRelease c.1)
      | none => if changeoverDue s then some .changeoverEnd else none

/-! ### What a bound forces -/

/-- The first line of an operation that its station can perform. -/
def performableLine (s : State) (o : MemOp) : Option Instr :=
  ((List.range o.lines.length).find? (canPerform s o)).map (.homeStationPerform o.id)

/-- The first line, in the order of issue, that a predicate's operations have performable. -/
def forcePerform (s : State) (sel : MemOp → Bool) : Option Instr :=
  (s.ops.filter sel).findSome? (performableLine s)

/-- A performed line whose data has not arrived. -/
def arrivableLine (o : MemOp) : Option Instr :=
  ((List.range o.lines.length).find? (fun j => match o.lines[j]? with
    | some l => l.performed && !l.arrived
    | none => false)).map (.copyDataArrival o.id)

/-- An operation that lands in the turn tile's current cycle although its data is not all here. -/
def owedLanding (s : State) : Option MemOp :=
  (landingNow s).find? (fun o => o.assured && quotaFits s s.turn && o.fault.isNone && !o.lines.all (fun l => l.arrived))

/-- The station would find a fault at a line. -/
def faultsAt (s : State) (o : MemOp) (j : Nat) : Bool :=
  match (performLine o j s).op o.id with
  | some q => (match q.lines[j]? with | some l => l.dropped | none => false)
  | none => false

/-- A fault that a landing in the turn tile's current cycle reports there (16:R257): every line at which its station meets one, so
that the first failing line is known (15:R249). The fault of an operation that a fence or an earlier operation still holds back at
its slot is not known there: its landing is late, 0x12 (DESIGN CHOICE, log entry 115). -/
def forceFault (s : State) : Option Instr :=
  (landingNow s).findSome? (fun o =>
    if o.lines.all (fun l => l.arrived) then none
    else ((List.range o.lines.length).find? (fun j => canPerform s o j && faultsAt s o j)).map (.homeStationPerform o.id))

/-- A host copy of a line that an operation of a tile wrote, which a successor still waits for (17:R279). -/
def forceInvalidate (s : State) (w : Who) : Option Instr :=
  (s.hostInval.find? (fun e => match s.op e.2 with | some q => q.who == w | none => false)).map (fun e => .readBufferInvalidate e.1)

/-- A due message of a kennel's ring: arrivals are those of the oldest message until it has arrived (21:R300). -/
def forceArrival (s : State) (k : Nat) : Option Instr :=
  let q := (s.kennel k).ring
  if q.any (fun m => decide (m.msg.due ≤ s.now)) then q.head?.map (fun m => arrivalEvent k m.msg.kind) else none

/-- The destination of a due delivery, if the post is on its way to it. -/
def dueDst (s : State) (id k : Nat) : Option (Post × PostDst) :=
  (s.posts.find? (fun p => p.id == id)).bind (fun p =>
    if p.held || !p.sent then none else (p.dsts[k]?).bind (fun d => if d.done || sampledNow s d then none else some (p, d)))

/-- An earlier post of the source that arrives before a due one (12:R212). -/
def forceEarlier (s : State) (id k : Nat) : Option Instr :=
  (dueDst s id k).bind (fun (p, d) =>
    s.posts.findSome? (fun q =>
      if decide (q.id < p.id) && q.src == p.src then
        (q.dsts.zipIdx.find? (fun (e, _) => sameDst e d && canArrive s q e)).map (fun (_, j) => Instr.postDelivery q.id j)
      else none))

/-- Transit traffic that die d delivers before its routes switch (25:R347). -/
def forceTransit (s : State) (d : Nat) : Option Instr :=
  let post := s.posts.findSome? (fun p =>
    (p.dsts.zipIdx.find? (fun (x, _) => postLeft s d p x)).map (fun (_, k) => Instr.postDelivery p.id k))
  post.or (s.ops.findSome? (fun o =>
    ((List.range o.lines.length).find? (lineLeft s d o)).map (.homeStationPerform o.id)))

/-- A post of a tile that is on its way and that one of its operations may wait for. -/
def forcePost (s : State) (w : Who) : Option Instr :=
  s.posts.findSome? (fun p =>
    if (match p.src with | some (v, _) => v == w | none => false) then
      (p.dsts.zipIdx.find? (fun (d, _) => canArrive s p d)).map (fun (_, k) => Instr.postDelivery p.id k)
    else none)

/-- What completes the operations of a tile: those that can be performed, then what those that a fence holds wait for: posts of
the tile on their way, host copies of lines that it wrote. -/
def forceOps (s : State) (w : Who) : Option Instr :=
  ((forcePerform s (fun o => o.who == w)).or (forcePost s w)).or (forceInvalidate s w)

/-- A landing that 15:R246 assures has its data at its slot, whatever its predecessors wait for (16:R267): what must happen
first. One that waits for what the tile itself completes only later, the source reads of a CPYW or a SAMPLE, is late and slips
with 0x12 (DESIGN CHOICE, log entry 113). -/
def forceLanding (s : State) : Option Instr :=
  match owedLanding s with
  | none => forceFault s
  | some o => (arrivableLine o).or (forceOps s o.who)

/-- What a save at its bound needs first (06:R129). -/
def forceSave (s : State) (p : Nat) : Option Instr :=
  let w := whoOf (s.tile p)
  if (s.tile p).state != 4 || !outstanding s w then none else forceOps s w

/-- What a due timer's event needs first: a save and the end of a kill follow every operation outstanding (06:R129,
R136), a delivery those of earlier posts, the end of a drain the traffic in transit. -/
def forceBefore (s : State) (i : Instr) : Option Instr :=
  match i with
  | .saveComplete p => forceSave s p
  | .killComplete ctx => forcePerform s (fun o => o.who.ctx == ctx)
  | .leaseArrival k | .renewArrival k | .lfreeArrival k | .ecmdArrival k => forceArrival s k
  | .postDelivery id k => forceEarlier s id k
  | .dieReset d => if dieUp s d && s.drain.getLsbD d then forceTransit s d else none
  | _ => none

/-- A due timer that has nothing left to do: its message has arrived. -/
def moot : Instr → Bool
  | .leaseArrival _ | .renewArrival _ | .lfreeArrival _ | .ecmdArrival _ => true
  | _ => false

/-- A due delivery that a sample of this tick holds back comes at the next tick (12:R212; log entry 67), and so does a save that
waits for one. -/
def heldBack (s : State) (i : Instr) : Bool :=
  match i with
  | .postDelivery id k =>
    s.posts.any (fun p => p.id == id && p.sent && !p.held
      && (match p.dsts[k]? with | some d => !d.done && sampledNow s d | none => false))
  | .saveComplete p => (s.tile p).state == 4 && saveWaits s (s.tile p)
  | _ => false

/-- The instant of the next tick. -/
def nextTick (s : State) : Nat := (s.now / subTick + 1) * subTick

/-- A grant takes its own timer away. -/
def ownTimer : Instr → Bool
  | .grant _ => true
  | _ => false

/-! ### A tile's cycle -/

/-- The state with its turn at a tile and the time at an instant or later. -/
def focus (p at_ : Nat) (s : State) : State := { s with turn := p, now := max s.now at_ }

/-- A drain's cycle (06:R119, 05:R116): the end of the drain, or a cycle with no issue, in which a drain after HALT lets its
copies land. Of two bank uses that meet in a drain neither is performed and no cause is taken: 06:R119 says so of a slip's
drain, and the model does the same after HALT (DESIGN CHOICE, log entry 70). -/
def drainSlot (s : State) : Host.Outcome State Fault Refusal :=
  if drained s.tl then
    if s.tl.phase = .halting then exec .haltComplete s
    else if (match s.tl.slip with | some sl => sl.escal | none => false) then exec .escalation s
    else exec .trapEntry s
  else .next ((if s.tl.phase = .halting then drainLandings s else s).onTl (fun t => { t with issued := true }))

/-- An issue slot (04:R72, R84): a running NOPN's cycle, or the instruction at the pc. -/
def issueSlot (s : State) : Host.Outcome State Fault Refusal :=
  let s := landingSlot s
  match s.tl.nopn with
  | some _ => nopnCycle s
  | none =>
    match fetch s.tl s.level with
    | .ok i => exec i s
    | .error r => issueIllegal r s

/-- The first of the two steps of the turn tile's cycle. -/
def tileSlot (s : State) : Host.Outcome State Fault Refusal :=
  match forceLanding s with
  | some i => exec i s
  | none => if s.tl.phase = .run then issueSlot s else drainSlot s

/-! ### What is next -/

/-- An action, and the order among those due at one instant. -/
inductive Due where
  | agenda
  | timer (k : Nat) (i : Instr)
  | close (p : Nat)
  | slot (p : Nat)
  deriving DecidableEq, Repr

/-- What is due when: the instant, the order at one instant (a delivery whose bound has come first, so that no sample of that
instant overtakes it), the action. -/
structure Entry where
  at_ : Nat
  rank : Nat
  due : Due
  deriving DecidableEq, Repr

/-- The earlier of two entries, the first one when they tie. -/
def sooner (a b : Entry) : Entry := if b.at_ < a.at_ ∨ (b.at_ = a.at_ ∧ b.rank < a.rank) then b else a

/-- The earliest entry of a list. -/
def soonest : List Entry → Option Entry
  | [] => none
  | e :: r => some (match soonest r with | none => e | some f => sooner e f)

/-- A restart of RESYNC.T is due after the end of the cycle that it follows, and so is an engine's work that a cycle held;
a due delivery comes before everything, other timers before the end of any cycle. -/
def timerRank : Instr → Nat
  | .postDelivery .. => 0
  | .resyncTRestart _ | .gather .. | .scatter .. | .loadg .. | .mask .. | .step .. | .snap .. | .restore .. => 4
  | _ => 2

/-- A tile's entry: the end of the cycle whose slot is over, or the slot of the cycle due. -/
def tileEntry (e : Nat × Tile) : Option Entry :=
  if e.2.issued then some { at_ := cycEnd e.2, rank := 3, due := .close e.1 }
  else if issuing e.2 then some { at_ := e.2.clk.start, rank := 5, due := .slot e.1 }
  else none

/-- Everything whose instant is known. -/
def entries (s : State) : List Entry :=
  (match s.agenda with | [] => [] | e :: _ => [{ at_ := max s.now e.1, rank := 1, due := .agenda }])
    ++ s.timers.zipIdx.map (fun (e, k) => { at_ := max s.now e.1, rank := timerRank e.2, due := .timer k e.2 })
    ++ s.tiles.filterMap tileEntry

/-- Events that a tile's cycle performs itself, at their cycle. -/
def ownEvent : Instr → Bool
  | .resultLanding | .trapEntry | .escalation | .haltComplete | .bandAwake | .shadowPlaneLoad | .mmaRowLanding
  | .cpyLanding | .matomLanding | .xfinLanding => true
  | _ => false

/-- The agenda's first event. -/
def agendaStep (s : State) : Host.Outcome State Fault Refusal :=
  match s.agenda with
  | [] => .next s
  | (at_, i) :: r =>
    if i.isEvent && !ownEvent i then exec i { s with agenda := r, now := max s.now at_ } else .fault .strayInstruction

/-- A due timer. -/
def timerStep (k at_ : Nat) (i : Instr) (s : State) : Host.Outcome State Fault Refusal :=
  let s := { s with now := max s.now at_ }
  match forceBefore s i with
  | some j => exec j s
  | none =>
    if heldBack s i then .next { s with timers := s.timers.set k (nextTick s, i) } else
    let s' := if ownTimer i then s else { s with timers := s.timers.eraseIdx k }
    if moot i then .next s' else exec i s'

/-- Running an entry. -/
def runEntry (e : Entry) (s : State) : Host.Outcome State Fault Refusal :=
  match e.due with
  | .agenda => agendaStep s
  | .timer k i => timerStep k e.at_ i s
  | .close p => .next (closeCycle (focus p e.at_ s))
  | .slot p => tileSlot (focus p e.at_ s)

/-- Entering recovery follows the report of a failed check once nothing else is due at that instant (25:R353). -/
def recoveryFirst (s : State) : Bool :=
  recoveryDue s && (match soonest (entries s) with | none => true | some e => decide (s.now < e.at_))

/-- One action of the package: what happens at once, else the earliest entry; an idle package stays as it is. -/
def act (s : State) : Host.Outcome State Fault Refusal :=
  match atOnce s with
  | some i => exec i s
  | none =>
    if recoveryFirst s then .next (enterRecovery s)
    else
      match soonest (entries s) with
      | none => .next s
      | some e => runEntry e s

/-! ### Placing one instruction -/

/-- The tile that runs one instruction next: its words at the pc, running, in cycle 0 of a period of 4,096 cycles
(log entry 1). -/
def placed (nbits w now : Nat) (t : Tile) : Tile :=
  { t with
    imem := mwriteLE t.imem t.pc.toNat 20 (w % 2 ^ nbits), phase := .run, issued := false, state := 2, cyc := 0
    perlen := 4096, perlenNext := 4096, nopn := none, slip := none, again := none, jobs := [], escCause := [], reports := []
    clk := { t.clk with start := now } }

/-- A tile that waits, so that another's slot is next. -/
def paused (t : Tile) : Tile := { t with phase := .off, issued := false }

/-- The words are an instruction at privileged level only (25:R356). -/
def privOnly (nbits w : Nat) : Bool :=
  match decodeWords false (wordsOfNat 5 (w % 2 ^ nbits)) with
  | .error r => r.cause == 0x03
  | .ok (.preempt ..) | .ok (.kill ..) | .ok (.mapset ..) | .ok (.keysel ..) | .ok (.mbind ..) => true
  | .ok (.sysr _ _ n) | .ok (.sysw _ _ n) => sysPriv n
  | .ok _ => false

/-- The package with one instruction as the very next action of the turn tile. -/
def placeWord (nbits w : Nat) (s : State) : State :=
  { s with
    level := privOnly nbits w, agenda := [], timers := [], posts := [], ops := [], kennels := []
    freq := { s.freq with phase := 0 }, boot := { s.boot with stat := 1 }
    tiles := tset (s.tiles.map (fun e => (e.1, paused e.2))) s.turn (placed nbits w s.now s.tl) }

end Sys2Proof.Machine
end

