-- ==== Sys2Proof/Laws/Encode.lean ====
section
/-! SUPPORT. What splitting a word gives back of the fields it was made from: one lemma for each word layout of
02:R37-R43 and one for each reading of a field. -/

namespace Sys2Proof

/-! ### Concatenations -/

/-- The low part of a concatenation. -/
theorem low_append {m n : Nat} (x : BitVec m) (y : BitVec n) : (x ++ y).extractLsb' 0 n = y := by
  apply BitVec.eq_of_getElem_eq
  intro i hi
  rw [BitVec.getElem_extractLsb', BitVec.getLsbD_append]
  simp [hi]

/-- The high part of a concatenation. -/
theorem high_append {m n : Nat} (x : BitVec m) (y : BitVec n) : (x ++ y).extractLsb' n m = x := by
  apply BitVec.eq_of_getElem_eq
  intro i hi
  rw [BitVec.getElem_extractLsb', BitVec.getLsbD_append]
  simp [hi]

/-! ### Words -/

theorem First.split_word (f : First) : First.split f.word = f := by
  obtain ⟨hi, a, d, ⟨neg, reg⟩, maj, len⟩ := f
  simp only [First.split, First.word, First.mk.injEq, Guard.mk.injEq]
  refine ⟨?_, ?_, ?_, ⟨?_, ?_⟩, ?_, ?_⟩
  all_goals first
    | (apply BitVec.eq_of_getElem_eq
       intro i h
       rw [BitVec.getElem_extractLsb']
       simp only [BitVec.getLsbD_append]
       (repeat' split) <;> first | omega | (rw [← BitVec.getLsbD_eq_getElem]; congr 1; omega))
    | (simp only [BitVec.getLsbD_append]; (repeat' split) <;> first | omega | (cases neg <;> rfl))

theorem Vec1.split_word (v : Vec1) : Vec1.split v.word = v := by
  obtain ⟨opt, sat, rnd, gd, c, tb, ta, td⟩ := v
  simp only [Vec1.split, Vec1.word, Vec1.mk.injEq]
  refine ⟨?_, ?_, ?_, ?_, ?_, ?_, ?_, ?_⟩
  all_goals first
    | (apply BitVec.eq_of_getElem_eq
       intro i h
       rw [BitVec.getElem_extractLsb']
       simp only [BitVec.getLsbD_append]
       (repeat' split) <;> first | omega | (rw [← BitVec.getLsbD_eq_getElem]; congr 1; omega))
    | (simp only [BitVec.getLsbD_append]; (repeat' split) <;> first | omega | (cases sat <;> rfl))

theorem Mat1.split_word (m : Mat1) : Mat1.split m.word = m := by
  obtain ⟨fl, arow, z, nrow, tout, ti⟩ := m
  simp only [Mat1.split, Mat1.word, Mat1.mk.injEq]
  refine ⟨?_, ?_, ?_, ?_, ?_, ?_⟩
  all_goals
    (apply BitVec.eq_of_getElem_eq
     intro i h
     rw [BitVec.getElem_extractLsb']
     simp only [BitVec.getLsbD_append]
     (repeat' split) <;> first | omega | (rw [← BitVec.getLsbD_eq_getElem]; congr 1; omega))

theorem Mem1.split_word (m : Mem1) : Mem1.split m.word = m := by
  obtain ⟨z, ty, scope, count⟩ := m
  simp only [Mem1.split, Mem1.word, Mem1.mk.injEq]
  refine ⟨?_, ?_, ?_, ?_⟩
  all_goals
    (apply BitVec.eq_of_getElem_eq
     intro i h
     rw [BitVec.getElem_extractLsb']
     simp only [BitVec.getLsbD_append]
     (repeat' split) <;> first | omega | (rw [← BitVec.getLsbD_eq_getElem]; congr 1; omega))

theorem Fence1.split_word (m : Fence1) : Fence1.split m.word = m := by
  obtain ⟨z1, scope, z0, succ, pred⟩ := m
  simp only [Fence1.split, Fence1.word, Fence1.mk.injEq]
  refine ⟨?_, ?_, ?_, ?_, ?_⟩
  all_goals
    (apply BitVec.eq_of_getElem_eq
     intro i h
     rw [BitVec.getElem_extractLsb']
     simp only [BitVec.getLsbD_append]
     (repeat' split) <;> first | omega | (rw [← BitVec.getLsbD_eq_getElem]; congr 1; omega))

/-! ### First words by layout -/

theorem split_encReg (maj : BitVec 6) (len : BitVec 2) (fn : BitVec 5) (g : Guard) (d a b : BitVec 5) :
    First.split (encReg maj len fn g d a b) = { hi := fn ++ b, a := a, d := d, g := g, maj := maj, len := len } :=
  First.split_word _

theorem split_encImm (maj : BitVec 6) (len : BitVec 2) (g : Guard) (d a : BitVec 5) (imm : BitVec 10) :
    First.split (encImm maj len g d a imm) = { hi := imm, a := a, d := d, g := g, maj := maj, len := len } :=
  First.split_word _

theorem split_encMem (maj : BitVec 6) (len : BitVec 2) (g : Guard) (t : MemTy) (d a : BitVec 5) (imm : BitVec 7) :
    First.split (encMem maj len g t d a imm) = { hi := imm ++ t.code, a := a, d := d, g := g, maj := maj, len := len } :=
  First.split_word _

theorem split_encSamp (maj : BitVec 6) (fn : BitVec 4) (g : Guard) (d a : BitVec 5) (n : BitVec 6) :
    First.split (encSamp maj fn g d a n) = { hi := fn ++ n, a := a, d := d, g := g, maj := maj, len := 0 } :=
  First.split_word _

theorem split_encSys (w : Bool) (g : Guard) (d : BitVec 5) (num : BitVec 12) :
    First.split (encSys w g d num)
      = { hi := (0 : BitVec 2) ++ num.extractLsb' 4 8, a := num.extractLsb' 0 4 ++ BitVec.ofBool w, d := d, g := g
          maj := 0x0B, len := 0 } := First.split_word _

/-! ### Fields of a first word -/

section fields
variable (a d : BitVec 5) (g : Guard) (maj : BitVec 6) (len : BitVec 2)

@[simp] theorem fn_reg (fn b : BitVec 5) : First.fn ⟨fn ++ b, a, d, g, maj, len⟩ = fn := high_append fn b
@[simp] theorem b_reg (fn b : BitVec 5) : First.b ⟨fn ++ b, a, d, g, maj, len⟩ = b := low_append fn b
@[simp] theorem imm7_mem (imm : BitVec 7) (t : BitVec 3) : First.imm7 ⟨imm ++ t, a, d, g, maj, len⟩ = imm := high_append imm t
@[simp] theorem t_mem (imm : BitVec 7) (t : BitVec 3) : First.t ⟨imm ++ t, a, d, g, maj, len⟩ = t := low_append imm t
@[simp] theorem sfn_samp (fn : BitVec 4) (n : BitVec 6) : First.sfn ⟨fn ++ n, a, d, g, maj, len⟩ = fn := high_append fn n
@[simp] theorem n_samp (fn : BitVec 4) (n : BitVec 6) : First.n ⟨fn ++ n, a, d, g, maj, len⟩ = n := low_append fn n

/-- The upper field of a numeral. -/
theorem high_ofNat (m k n w : Nat) (hw : k + w ≤ m) :
    (BitVec.ofNat m n).extractLsb' k w = BitVec.ofNat w (n / 2 ^ k) := by
  apply BitVec.eq_of_getElem_eq
  intro i hi
  rw [BitVec.getElem_extractLsb', ← BitVec.getLsbD_eq_getElem, BitVec.getLsbD_ofNat, BitVec.getLsbD_ofNat,
    Nat.testBit_div_two_pow]
  simp [show i + k < m by omega, hi, Nat.add_comm k i]

@[simp] theorem fn_lit (n : Nat) : First.fn ⟨BitVec.ofNat 10 n, a, d, g, maj, len⟩ = BitVec.ofNat 5 (n / 32) :=
  high_ofNat 10 5 n 5 (by omega)
@[simp] theorem b_lit (n : Nat) : First.b ⟨BitVec.ofNat 10 n, a, d, g, maj, len⟩ = BitVec.ofNat 5 n := by
  have := high_ofNat 10 0 n 5 (by omega)
  simpa [First.b] using this
@[simp] theorem sfn_lit (n : Nat) : First.sfn ⟨BitVec.ofNat 10 n, a, d, g, maj, len⟩ = BitVec.ofNat 4 (n / 64) :=
  high_ofNat 10 6 n 4 (by omega)
@[simp] theorem n_lit (n : Nat) : First.n ⟨BitVec.ofNat 10 n, a, d, g, maj, len⟩ = BitVec.ofNat 6 n := by
  have := high_ofNat 10 0 n 6 (by omega)
  simpa [First.n] using this

@[simp] theorem num_sys (num : BitVec 12) (w : BitVec 1) :
    First.num ⟨0#2 ++ num.extractLsb' 4 8, num.extractLsb' 0 4 ++ w, d, g, maj, len⟩ = num := by
  unfold First.num
  apply BitVec.eq_of_getElem_eq
  intro i hi
  rw [BitVec.getElem_append]
  split <;> rename_i h
  · have : i < 4 := by simpa using h
    rw [BitVec.getElem_extractLsb', BitVec.getLsbD_append]
    simp only [BitVec.getLsbD_extractLsb']
    rw [← BitVec.getLsbD_eq_getElem]
    simp [show ¬ (1 + i < 1) by omega, show 1 + i - 1 = i by omega, this]
  · have : ¬ i < 4 := by simpa using h
    rw [BitVec.getElem_extractLsb', BitVec.getLsbD_append]
    simp only [BitVec.getLsbD_extractLsb']
    rw [← BitVec.getLsbD_eq_getElem]
    simp [show i - 4 < 8 by omega, show 4 + (i - 4) = i by omega]

@[simp] theorem w_sys (hi : BitVec 10) (x : BitVec 4) (w : BitVec 1) : First.w ⟨hi, x ++ w, d, g, maj, len⟩ = w.getLsbD 0 := by
  simp only [First.w, BitVec.getLsbD_append]
  rfl

end fields

/-! ### Literals and codes -/

@[simp] theorem lit_join (l : X) : l.extractLsb' 32 32 ++ l.extractLsb' 0 32 = l := by
  apply BitVec.eq_of_getElem_eq
  intro i hi
  rw [BitVec.getElem_append]
  split <;> rename_i h
  · simp [← BitVec.getLsbD_eq_getElem, BitVec.getLsbD_extractLsb', show i < 32 from h]
  · have : ¬ i < 32 := h
    simp [← BitVec.getLsbD_eq_getElem, BitVec.getLsbD_extractLsb', show i - 32 < 32 by omega, show 32 + (i - 32) = i by omega]

@[simp] theorem g3_up (g : BitVec 3) : g3 (g3up g) = g := low_append _ g
@[simp] theorem b2_up (b : BitVec 2) : b2 (b2up b) = b := low_append _ b
@[simp] theorem g3_good (g : BitVec 3) : g3bad (g3up g) = false := by
  simp only [g3bad, g3up, high_append]; rfl
@[simp] theorem b2_good (b : BitVec 2) : b2bad (b2up b) = false := by
  simp only [b2bad, b2up, high_append]; rfl

@[simp] theorem memTy_code (t : MemTy) : MemTy.ofCode t.code = t := by cases t <;> rfl
@[simp] theorem atomTy_code (t : AtomTy) : AtomTy.ofCode t.code = t := by cases t <;> rfl
@[simp] theorem rnd_code (t : Rnd) : Rnd.ofCode t.code = t := by cases t <;> rfl
@[simp] theorem scope_code (t : Scope) : Scope.ofCode t.code = some t := by cases t <;> rfl
@[simp] theorem ty_code (t : Ty) : Ty.ofCode t.code = some t := by cases t <;> rfl
@[simp] theorem ty_good (t : Ty) : badCode t.code = false := by cases t <;> rfl
@[simp] theorem intTy_code (t : IntTy) : IntTy.ofTy t.ty.code = some t := by cases t <;> rfl
@[simp] theorem laneTy_code (t : LaneTy) : LaneTy.ofTy t.ty.code = some t := by cases t <;> rfl
@[simp] theorem seTy_code (t : SeTy) : SeTy.ofTy t.ty.code = some t := by cases t <;> rfl
@[simp] theorem atomTy_ty (t : AtomTy) : AtomTy.ofTy t.ty.code = some t := by cases t <;> rfl
@[simp] theorem xaccTy_ty (t : XaccTy) : XaccTy.ofTy t.ty.code = some t := by cases t <;> rfl
@[simp] theorem low21_low (v : BitVec 21) : (low21 v).extractLsb' 0 21 = v := low_append _ v
@[simp] theorem low21_high (v : BitVec 21) : (low21 v).extractLsb' 21 11 = 0 := high_append _ v
@[simp] theorem low_field {m n : Nat} (x : BitVec m) (y : BitVec n) : (x ++ y).extractLsb' 0 n = y := low_append x y

/-! ### Fields within fields, by their widths -/

@[simp] theorem shift_sel (x : BitVec 4) (y : BitVec 6) : BitVec.extractLsb' 8 2 (x ++ y : BitVec 10) = x.extractLsb' 2 2 := by
  apply BitVec.eq_of_getElem_eq
  intro i hi
  rw [BitVec.getElem_extractLsb', BitVec.getElem_extractLsb', BitVec.getLsbD_append, if_neg (by omega)]
  congr 1; omega
@[simp] theorem shift_zero (x : BitVec 4) (y : BitVec 6) : BitVec.extractLsb' 6 2 (x ++ y : BitVec 10) = x.extractLsb' 0 2 := by
  apply BitVec.eq_of_getElem_eq
  intro i hi
  rw [BitVec.getElem_extractLsb', BitVec.getElem_extractLsb', BitVec.getLsbD_append, if_neg (by omega)]
  congr 1; omega
@[simp] theorem shift_sh (x : BitVec 4) (y : BitVec 6) : BitVec.extractLsb' 0 6 (x ++ y : BitVec 10) = y := low_append x y
@[simp] theorem shape_hi (x : BitVec 6) (y : BitVec 4) : BitVec.extractLsb' 4 6 (x ++ y : BitVec 10) = x := high_append x y
@[simp] theorem shape_lo (x : BitVec 6) (y : BitVec 4) : BitVec.extractLsb' 0 4 (x ++ y : BitVec 10) = y := low_append x y
@[simp] theorem half_hi (x : BitVec 2) (y : BitVec 3) : BitVec.extractLsb' 3 2 (x ++ y : BitVec 5) = x := high_append x y
@[simp] theorem half_lo (x : BitVec 2) (y : BitVec 3) : BitVec.extractLsb' 0 3 (x ++ y : BitVec 5) = y := low_append x y
@[simp] theorem num_hi (x : BitVec 2) (y : BitVec 8) : BitVec.extractLsb' 8 2 (x ++ y : BitVec 10) = x := high_append x y
@[simp] theorem post_hi (x : BitVec 3) (y : BitVec 1) : BitVec.extractLsb' 1 3 (x ++ y : BitVec 4) = x := high_append x y
@[simp] theorem post_src (x : BitVec 3) (y : BitVec 1) : (x ++ y : BitVec 4)[0] = y[0] := by
  rw [← BitVec.getLsbD_eq_getElem, BitVec.getLsbD_append]; rfl
@[simp] theorem post_n (x : BitVec 1) (y : BitVec 5) : BitVec.extractLsb' 0 5 (x ++ y : BitVec 6) = y := low_append x y
@[simp] theorem post_top (x : BitVec 1) (y : BitVec 5) : (x ++ y : BitVec 6)[5] = x[0] := by
  rw [← BitVec.getLsbD_eq_getElem, BitVec.getLsbD_append]; rfl
@[simp] theorem flag_hi (a b : Bool) : BitVec.extractLsb' 2 2 (0#2 ++ BitVec.ofBool a ++ BitVec.ofBool b : BitVec 4) = 0#2 := by
  cases a <;> cases b <;> rfl
@[simp] theorem flag_acc (a b : Bool) : (0#2 ++ BitVec.ofBool a ++ BitVec.ofBool b : BitVec 4)[1] = a := by
  cases a <;> cases b <;> rfl
@[simp] theorem flag_swap (a b : Bool) : (0#2 ++ BitVec.ofBool a ++ BitVec.ofBool b : BitVec 4)[0] = b := by
  cases a <;> cases b <;> rfl
@[simp] theorem draw_lo (x : BitVec 4) (j : BitVec 2) : BitVec.extractLsb' 0 2 (x ++ j : BitVec 6) = j := low_append x j
@[simp] theorem draw_mask : ∀ j : BitVec 2, (0#4 ++ j : BitVec 6) &&& 60#6 = 0#6 := by decide
@[simp] theorem lane_lo (x : BitVec 26) (n : BitVec 6) : BitVec.extractLsb' 0 6 (x ++ n : BitVec 32) = n := low_append x n
@[simp] theorem lane_mask : ∀ n : BitVec 6, (0#26 ++ n : BitVec 32) &&& 4294967232#32 = 0#32 := by decide

/-! ### Codes and words that are zero -/

@[simp] theorem badCode_numerals : badCode 0#5 = false ∧ badCode 6#5 = false ∧ badCode 8#5 = false := ⟨rfl, rfl, rfl⟩
@[simp] theorem f32_code : Ty.f32.code = 8#5 := rfl
@[simp] theorem n32_code : Ty.n32.code = 6#5 := rfl
@[simp] theorem vec1_zero : Vec1.split 0#32 = {} := rfl
@[simp] theorem mat1_zero : Mat1.split 0#32 = {} := rfl
@[simp] theorem mem1_zero : Mem1.split 0#32 = {} := rfl

end Sys2Proof
end

