-- ==== Sys2Proof/Laws/PerInstr.lean ====
section
/-! SUPPORT. For every instruction, one after another: the words the encoder gives decode to the instruction (02:R37-R46). -/

set_option linter.unusedSimpArgs false
set_option Elab.async false

namespace Sys2Proof.Laws.RoundTrip

/-- The words of a well-formed instruction decode, at either level, to the instruction, with every operand at its value. An
event has no words. -/
def Statement (i : Instr) : Prop :=
  i.wellFormed = true → i.isEvent = false → ∀ lvl, decodeWords lvl (encode i) = .ok i

/-- An instruction that no check of 02:R46 stops is what its words decode to. -/
theorem ok_of_clear (lvl : Bool) (c : Cand) (h1 : failing c.ill = none) (h2 : failing c.resv = none) :
    verdict lvl (some c) = .ok c.ins := by
  simp only [verdict, h1, h2]

/-- An event has no words. -/
theorem ofEvent (i : Instr) (h : i.isEvent = true) : Statement i := fun _ he => by rw [h] at he; cases he

theorem add (g : Guard) (d : BitVec 5) (a : BitVec 5) (b : BitVec 5) : Statement (.add g d a b) := by
  intro _ _ lvl
  simp [encode, decodeWords, candidate, lenWords, verdict, failing, decAlu, plain, split_encReg]

theorem sub (g : Guard) (d : BitVec 5) (a : BitVec 5) (b : BitVec 5) : Statement (.sub g d a b) := by
  intro _ _ lvl
  simp [encode, decodeWords, candidate, lenWords, verdict, failing, decAlu, plain, split_encReg]

theorem and (g : Guard) (d : BitVec 5) (a : BitVec 5) (b : BitVec 5) : Statement (.and g d a b) := by
  intro _ _ lvl
  simp [encode, decodeWords, candidate, lenWords, verdict, failing, decAlu, plain, split_encReg]

theorem or (g : Guard) (d : BitVec 5) (a : BitVec 5) (b : BitVec 5) : Statement (.or g d a b) := by
  intro _ _ lvl
  simp [encode, decodeWords, candidate, lenWords, verdict, failing, decAlu, plain, split_encReg]

theorem xor (g : Guard) (d : BitVec 5) (a : BitVec 5) (b : BitVec 5) : Statement (.xor g d a b) := by
  intro _ _ lvl
  simp [encode, decodeWords, candidate, lenWords, verdict, failing, decAlu, plain, split_encReg]

theorem andn (g : Guard) (d : BitVec 5) (a : BitVec 5) (b : BitVec 5) : Statement (.andn g d a b) := by
  intro _ _ lvl
  simp [encode, decodeWords, candidate, lenWords, verdict, failing, decAlu, plain, split_encReg]

theorem shl (g : Guard) (d : BitVec 5) (a : BitVec 5) (b : BitVec 5) : Statement (.shl g d a b) := by
  intro _ _ lvl
  simp [encode, decodeWords, candidate, lenWords, verdict, failing, decAlu, plain, split_encReg]

theorem shr (g : Guard) (d : BitVec 5) (a : BitVec 5) (b : BitVec 5) : Statement (.shr g d a b) := by
  intro _ _ lvl
  simp [encode, decodeWords, candidate, lenWords, verdict, failing, decAlu, plain, split_encReg]

theorem sar (g : Guard) (d : BitVec 5) (a : BitVec 5) (b : BitVec 5) : Statement (.sar g d a b) := by
  intro _ _ lvl
  simp [encode, decodeWords, candidate, lenWords, verdict, failing, decAlu, plain, split_encReg]

theorem rol (g : Guard) (d : BitVec 5) (a : BitVec 5) (b : BitVec 5) : Statement (.rol g d a b) := by
  intro _ _ lvl
  simp [encode, decodeWords, candidate, lenWords, verdict, failing, decAlu, plain, split_encReg]

theorem min (g : Guard) (d : BitVec 5) (a : BitVec 5) (b : BitVec 5) : Statement (.min g d a b) := by
  intro _ _ lvl
  simp [encode, decodeWords, candidate, lenWords, verdict, failing, decAlu, plain, split_encReg]

theorem max (g : Guard) (d : BitVec 5) (a : BitVec 5) (b : BitVec 5) : Statement (.max g d a b) := by
  intro _ _ lvl
  simp [encode, decodeWords, candidate, lenWords, verdict, failing, decAlu, plain, split_encReg]

theorem minn (g : Guard) (d : BitVec 5) (a : BitVec 5) (b : BitVec 5) : Statement (.minn g d a b) := by
  intro _ _ lvl
  simp [encode, decodeWords, candidate, lenWords, verdict, failing, decAlu, plain, split_encReg]

theorem maxn (g : Guard) (d : BitVec 5) (a : BitVec 5) (b : BitVec 5) : Statement (.maxn g d a b) := by
  intro _ _ lvl
  simp [encode, decodeWords, candidate, lenWords, verdict, failing, decAlu, plain, split_encReg]

theorem slt (g : Guard) (d : BitVec 5) (a : BitVec 5) (b : BitVec 5) : Statement (.slt g d a b) := by
  intro _ _ lvl
  simp [encode, decodeWords, candidate, lenWords, verdict, failing, decAlu, plain, split_encReg]

theorem sltn (g : Guard) (d : BitVec 5) (a : BitVec 5) (b : BitVec 5) : Statement (.sltn g d a b) := by
  intro _ _ lvl
  simp [encode, decodeWords, candidate, lenWords, verdict, failing, decAlu, plain, split_encReg]

theorem seq (g : Guard) (d : BitVec 5) (a : BitVec 5) (b : BitVec 5) : Statement (.seq g d a b) := by
  intro _ _ lvl
  simp [encode, decodeWords, candidate, lenWords, verdict, failing, decAlu, plain, split_encReg]

theorem clz (g : Guard) (d : BitVec 5) (a : BitVec 5) : Statement (.clz g d a) := by
  intro _ _ lvl
  simp [encode, decodeWords, candidate, lenWords, verdict, failing, decAlu, plain, split_encReg]

theorem popc (g : Guard) (d : BitVec 5) (a : BitVec 5) : Statement (.popc g d a) := by
  intro _ _ lvl
  simp [encode, decodeWords, candidate, lenWords, verdict, failing, decAlu, plain, split_encReg]

theorem sel (g : Guard) (d : BitVec 5) (a : BitVec 5) (b : BitVec 5) : Statement (.sel g d a b) := by
  intro _ _ lvl
  simp [encode, decodeWords, candidate, lenWords, verdict, failing, decAlu, plain, split_encReg]

theorem addi (g : Guard) (d : BitVec 5) (a : BitVec 5) (imm : BitVec 10) : Statement (.addi g d a imm) := by
  intro _ _ lvl
  simp [encode, decodeWords, candidate, lenWords, verdict, failing, decAddi, plain, split_encImm]

theorem addiLit (g : Guard) (d : BitVec 5) (a : BitVec 5) (lit : X) : Statement (.addiLit g d a lit) := by
  intro _ _ lvl
  simp [encode, decodeWords, candidate, lenWords, verdict, failing, decAddi, litWords, plain, split_encImm]

theorem li (g : Guard) (d : BitVec 5) (imm : BitVec 10) : Statement (.li g d imm) := by
  intro _ _ lvl
  simp [encode, decodeWords, candidate, lenWords, verdict, failing, decAddi, plain, split_encImm]

theorem liLit (g : Guard) (d : BitVec 5) (lit : X) : Statement (.liLit g d lit) := by
  intro _ _ lvl
  simp [encode, decodeWords, candidate, lenWords, verdict, failing, decAddi, litWords, plain, split_encImm]

theorem shli (g : Guard) (d : BitVec 5) (a : BitVec 5) (sh : BitVec 6) : Statement (.shli g d a sh) := by
  intro _ _ lvl
  simp [encode, decodeWords, candidate, lenWords, verdict, failing, decShift, plain, split_encImm]

theorem shri (g : Guard) (d : BitVec 5) (a : BitVec 5) (sh : BitVec 6) : Statement (.shri g d a sh) := by
  intro _ _ lvl
  simp [encode, decodeWords, candidate, lenWords, verdict, failing, decShift, plain, split_encImm]

theorem sari (g : Guard) (d : BitVec 5) (a : BitVec 5) (sh : BitVec 6) : Statement (.sari g d a sh) := by
  intro _ _ lvl
  simp [encode, decodeWords, candidate, lenWords, verdict, failing, decShift, plain, split_encImm]

theorem roli (g : Guard) (d : BitVec 5) (a : BitVec 5) (sh : BitVec 6) : Statement (.roli g d a sh) := by
  intro _ _ lvl
  simp [encode, decodeWords, candidate, lenWords, verdict, failing, decShift, plain, split_encImm]

theorem mul (g : Guard) (d : BitVec 5) (a : BitVec 5) (b : BitVec 5) : Statement (.mul g d a b) := by
  intro _ _ lvl
  simp [encode, decodeWords, candidate, lenWords, verdict, failing, decMul, plain, split_encReg]

theorem mulh (g : Guard) (d : BitVec 5) (a : BitVec 5) (b : BitVec 5) : Statement (.mulh g d a b) := by
  intro _ _ lvl
  simp [encode, decodeWords, candidate, lenWords, verdict, failing, decMul, plain, split_encReg]

theorem mulhn (g : Guard) (d : BitVec 5) (a : BitVec 5) (b : BitVec 5) : Statement (.mulhn g d a b) := by
  intro _ _ lvl
  simp [encode, decodeWords, candidate, lenWords, verdict, failing, decMul, plain, split_encReg]

theorem div (g : Guard) (d : BitVec 5) (a : BitVec 5) (b : BitVec 5) : Statement (.div g d a b) := by
  intro _ _ lvl
  simp [encode, decodeWords, candidate, lenWords, verdict, failing, decMul, plain, split_encReg]

theorem divn (g : Guard) (d : BitVec 5) (a : BitVec 5) (b : BitVec 5) : Statement (.divn g d a b) := by
  intro _ _ lvl
  simp [encode, decodeWords, candidate, lenWords, verdict, failing, decMul, plain, split_encReg]

theorem rem (g : Guard) (d : BitVec 5) (a : BitVec 5) (b : BitVec 5) : Statement (.rem g d a b) := by
  intro _ _ lvl
  simp [encode, decodeWords, candidate, lenWords, verdict, failing, decMul, plain, split_encReg]

theorem remn (g : Guard) (d : BitVec 5) (a : BitVec 5) (b : BitVec 5) : Statement (.remn g d a b) := by
  intro _ _ lvl
  simp [encode, decodeWords, candidate, lenWords, verdict, failing, decMul, plain, split_encReg]

theorem geq (g : Guard) (d : BitVec 3) (a : BitVec 5) (b : BitVec 5) : Statement (.geq g d a b) := by
  intro _ _ lvl
  simp [encode, decodeWords, candidate, lenWords, verdict, failing, decGcmp, plain, split_encReg]

theorem gne (g : Guard) (d : BitVec 3) (a : BitVec 5) (b : BitVec 5) : Statement (.gne g d a b) := by
  intro _ _ lvl
  simp [encode, decodeWords, candidate, lenWords, verdict, failing, decGcmp, plain, split_encReg]

theorem glt (g : Guard) (d : BitVec 3) (a : BitVec 5) (b : BitVec 5) : Statement (.glt g d a b) := by
  intro _ _ lvl
  simp [encode, decodeWords, candidate, lenWords, verdict, failing, decGcmp, plain, split_encReg]

theorem gle (g : Guard) (d : BitVec 3) (a : BitVec 5) (b : BitVec 5) : Statement (.gle g d a b) := by
  intro _ _ lvl
  simp [encode, decodeWords, candidate, lenWords, verdict, failing, decGcmp, plain, split_encReg]

theorem gltn (g : Guard) (d : BitVec 3) (a : BitVec 5) (b : BitVec 5) : Statement (.gltn g d a b) := by
  intro _ _ lvl
  simp [encode, decodeWords, candidate, lenWords, verdict, failing, decGcmp, plain, split_encReg]

theorem glen (g : Guard) (d : BitVec 3) (a : BitVec 5) (b : BitVec 5) : Statement (.glen g d a b) := by
  intro _ _ lvl
  simp [encode, decodeWords, candidate, lenWords, verdict, failing, decGcmp, plain, split_encReg]

theorem gand (g : Guard) (d : BitVec 3) (a : BitVec 3) (b : BitVec 3) : Statement (.gand g d a b) := by
  intro _ _ lvl
  simp [encode, decodeWords, candidate, lenWords, verdict, failing, decGlog, plain, split_encReg]

theorem gor (g : Guard) (d : BitVec 3) (a : BitVec 3) (b : BitVec 3) : Statement (.gor g d a b) := by
  intro _ _ lvl
  simp [encode, decodeWords, candidate, lenWords, verdict, failing, decGlog, plain, split_encReg]

theorem gxor (g : Guard) (d : BitVec 3) (a : BitVec 3) (b : BitVec 3) : Statement (.gxor g d a b) := by
  intro _ _ lvl
  simp [encode, decodeWords, candidate, lenWords, verdict, failing, decGlog, plain, split_encReg]

theorem gnot (g : Guard) (d : BitVec 3) (a : BitVec 3) : Statement (.gnot g d a) := by
  intro _ _ lvl
  simp [encode, decodeWords, candidate, lenWords, verdict, failing, decGlog, plain, split_encReg]

theorem gmov (g : Guard) (d : BitVec 3) (a : BitVec 3) : Statement (.gmov g d a) := by
  intro _ _ lvl
  simp [encode, decodeWords, candidate, lenWords, verdict, failing, decGlog, plain, split_encReg]

theorem gseti (g : Guard) (d : BitVec 3) (lit : X) : Statement (.gseti g d lit) := by
  intro _ _ lvl
  simp [encode, decodeWords, candidate, lenWords, verdict, failing, decGlog, litWords, plain, split_encReg]

theorem ld (g : Guard) (t : MemTy) (d : BitVec 5) (a : BitVec 5) (imm : BitVec 7) : Statement (.ld g t d a imm) := by
  intro _ _ lvl
  simp [encode, decodeWords, candidate, lenWords, verdict, failing, decLdst, plain, split_encMem]

theorem ldLit (g : Guard) (t : MemTy) (d : BitVec 5) (a : BitVec 5) (lit : X) : Statement (.ldLit g t d a lit) := by
  intro _ _ lvl
  simp [encode, decodeWords, candidate, lenWords, verdict, failing, decLdst, litWords, plain, split_encMem]

theorem st (g : Guard) (t : MemTy) (d : BitVec 5) (a : BitVec 5) (imm : BitVec 7) : Statement (.st g t d a imm) := by
  intro _ _ lvl
  simp [encode, decodeWords, candidate, lenWords, verdict, failing, decLdst, plain, split_encMem]

theorem stLit (g : Guard) (t : MemTy) (d : BitVec 5) (a : BitVec 5) (lit : X) : Statement (.stLit g t d a lit) := by
  intro _ _ lvl
  simp [encode, decodeWords, candidate, lenWords, verdict, failing, decLdst, litWords, plain, split_encMem]

theorem atomAdd (g : Guard) (t : AtomTy) (d : BitVec 5) (a : BitVec 5) (b : BitVec 5) : Statement (.atomAdd g t d a b) := by
  intro _ _ lvl
  cases t <;> simp [encode, decodeWords, candidate, lenWords, verdict, failing, decAtom, plain, AtomTy.code, AtomTy.ofCode, split_encReg]

theorem atomMin (g : Guard) (t : AtomTy) (d : BitVec 5) (a : BitVec 5) (b : BitVec 5) : Statement (.atomMin g t d a b) := by
  intro _ _ lvl
  cases t <;> simp [encode, decodeWords, candidate, lenWords, verdict, failing, decAtom, plain, AtomTy.code, AtomTy.ofCode, split_encReg]

theorem atomMax (g : Guard) (t : AtomTy) (d : BitVec 5) (a : BitVec 5) (b : BitVec 5) : Statement (.atomMax g t d a b) := by
  intro _ _ lvl
  cases t <;> simp [encode, decodeWords, candidate, lenWords, verdict, failing, decAtom, plain, AtomTy.code, AtomTy.ofCode, split_encReg]

theorem atomXchg (g : Guard) (t : AtomTy) (d : BitVec 5) (a : BitVec 5) (b : BitVec 5) : Statement (.atomXchg g t d a b) := by
  intro _ _ lvl
  cases t <;> simp [encode, decodeWords, candidate, lenWords, verdict, failing, decAtom, plain, AtomTy.code, AtomTy.ofCode, split_encReg]

theorem atomCmpxchg (g : Guard) (t : AtomTy) (d : BitVec 5) (a : BitVec 5) (b : BitVec 5) : Statement (.atomCmpxchg g t d a b) := by
  intro _ _ lvl
  cases t <;> simp [encode, decodeWords, candidate, lenWords, verdict, failing, decAtom, plain, AtomTy.code, AtomTy.ofCode, split_encReg]

theorem pbr (g : Guard) (d : BitVec 2) (imm : BitVec 10) : Statement (.pbr g d imm) := by
  intro _ _ lvl
  simp [encode, decodeWords, candidate, lenWords, verdict, failing, decFlow, plain, split_encImm]

theorem pbrLit (g : Guard) (d : BitVec 2) (lit : X) : Statement (.pbrLit g d lit) := by
  intro _ _ lvl
  simp [encode, decodeWords, candidate, lenWords, verdict, failing, decFlow, litWords, plain, split_encImm]

theorem br (g : Guard) (d : BitVec 2) : Statement (.br g d) := by
  intro _ _ lvl
  simp [encode, decodeWords, candidate, lenWords, verdict, failing, decFlow, plain, split_encImm]

theorem call (g : Guard) (d : BitVec 2) : Statement (.call g d) := by
  intro _ _ lvl
  simp [encode, decodeWords, candidate, lenWords, verdict, failing, decFlow, plain, split_encImm]

theorem ret (g : Guard) (d : BitVec 5) : Statement (.ret g d) := by
  intro _ _ lvl
  simp [encode, decodeWords, candidate, lenWords, verdict, failing, decFlow, plain, split_encImm]

theorem loop (g : Guard) (d : BitVec 5) (imm : BitVec 10) : Statement (.loop g d imm) := by
  intro hw _ lvl
  simp [Instr.wellFormed, encode, decodeWords, candidate, lenWords, verdict, failing, decFlow, plain, split_encImm] at hw ⊢
  have h : (imm == 0#10) = false := by simpa using hw
  simp [h, failing]

theorem period : Statement .period := by
  intro _ _ lvl
  simp [encode, decodeWords, candidate, lenWords, verdict, failing, decTime, plain, guarded, noGuard, split_encImm]

theorem resync (d : BitVec 5) : Statement (.resync d) := by
  intro _ _ lvl
  simp [encode, decodeWords, candidate, lenWords, verdict, failing, decTime, plain, guarded, noGuard, split_encImm]

theorem resyncT (d : BitVec 5) : Statement (.resyncT d) := by
  intro _ _ lvl
  simp [encode, decodeWords, candidate, lenWords, verdict, failing, decTime, plain, guarded, noGuard, split_encImm]

theorem nopn (g : Guard) (imm : BitVec 10) : Statement (.nopn g imm) := by
  intro _ _ lvl
  simp [encode, decodeWords, candidate, lenWords, verdict, failing, decTime, plain, split_encImm]

theorem slot (g : Guard) (d : BitVec 5) : Statement (.slot g d) := by
  intro _ _ lvl
  simp [encode, decodeWords, candidate, lenWords, verdict, failing, decTime, plain, split_encImm]

theorem tbase (g : Guard) (d : BitVec 5) : Statement (.tbase g d) := by
  intro _ _ lvl
  simp [encode, decodeWords, candidate, lenWords, verdict, failing, decTime, plain, split_encImm]

theorem sysr (g : Guard) (d : BitVec 5) (num : BitVec 12) : Statement (.sysr g d num) := by
  intro hw _ lvl
  simp [Instr.wellFormed, encode, decodeWords, candidate, lenWords, verdict, failing, decSys, split_encSys] at hw ⊢
  rcases hw with hw | hw <;> simp [hw, failing]

theorem sysw (g : Guard) (d : BitVec 5) (num : BitVec 12) : Statement (.sysw g d num) := by
  intro hw _ lvl
  simp [Instr.wellFormed, encode, decodeWords, candidate, lenWords, verdict, failing, decSys, split_encSys] at hw ⊢
  rcases hw with hw | hw <;> simp [hw, failing]

theorem trap (g : Guard) (code : BitVec 10) : Statement (.trap g code) := by
  intro _ _ lvl
  simp [encode, decodeWords, candidate, lenWords, verdict, failing, decTrap, plain, split_encImm]

theorem eret : Statement .eret := by
  intro _ _ lvl
  simp [encode, decodeWords, candidate, lenWords, verdict, failing, decTrap, plain, guarded, noGuard, split_encImm]

theorem halt (g : Guard) : Statement (.halt g) := by
  intro _ _ lvl
  simp [encode, decodeWords, candidate, lenWords, verdict, failing, decTrap, plain, split_encImm]

theorem vadd (g : Guard) (t : IntTy) (sat : Bool) (d : BitVec 5) (a : BitVec 5) (b : BitVec 5) : Statement (.vadd g t sat d a b) := by
  intro _ _ lvl
  simp [encode, decodeWords, candidate, lenWords, verdict, failing, decValu, vecCand, tyRepeat, split_encReg, Vec1.split_word]

theorem vsub (g : Guard) (t : IntTy) (sat : Bool) (d : BitVec 5) (a : BitVec 5) (b : BitVec 5) : Statement (.vsub g t sat d a b) := by
  intro _ _ lvl
  simp [encode, decodeWords, candidate, lenWords, verdict, failing, decValu, vecCand, tyRepeat, split_encReg, Vec1.split_word]

theorem vand (g : Guard) (t : IntTy) (d : BitVec 5) (a : BitVec 5) (b : BitVec 5) : Statement (.vand g t d a b) := by
  intro _ _ lvl
  simp [encode, decodeWords, candidate, lenWords, verdict, failing, decValu, vecCand, tyRepeat, split_encReg, Vec1.split_word]

theorem vor (g : Guard) (t : IntTy) (d : BitVec 5) (a : BitVec 5) (b : BitVec 5) : Statement (.vor g t d a b) := by
  intro _ _ lvl
  simp [encode, decodeWords, candidate, lenWords, verdict, failing, decValu, vecCand, tyRepeat, split_encReg, Vec1.split_word]

theorem vxor (g : Guard) (t : IntTy) (d : BitVec 5) (a : BitVec 5) (b : BitVec 5) : Statement (.vxor g t d a b) := by
  intro _ _ lvl
  simp [encode, decodeWords, candidate, lenWords, verdict, failing, decValu, vecCand, tyRepeat, split_encReg, Vec1.split_word]

theorem vandn (g : Guard) (t : IntTy) (d : BitVec 5) (a : BitVec 5) (b : BitVec 5) : Statement (.vandn g t d a b) := by
  intro _ _ lvl
  simp [encode, decodeWords, candidate, lenWords, verdict, failing, decValu, vecCand, tyRepeat, split_encReg, Vec1.split_word]

theorem vshl (g : Guard) (t : IntTy) (d : BitVec 5) (a : BitVec 5) (b : BitVec 5) : Statement (.vshl g t d a b) := by
  intro _ _ lvl
  simp [encode, decodeWords, candidate, lenWords, verdict, failing, decValu, vecCand, tyRepeat, split_encReg, Vec1.split_word]

theorem vshr (g : Guard) (t : IntTy) (d : BitVec 5) (a : BitVec 5) (b : BitVec 5) : Statement (.vshr g t d a b) := by
  intro _ _ lvl
  simp [encode, decodeWords, candidate, lenWords, verdict, failing, decValu, vecCand, tyRepeat, split_encReg, Vec1.split_word]

theorem vsar (g : Guard) (t : IntTy) (d : BitVec 5) (a : BitVec 5) (b : BitVec 5) : Statement (.vsar g t d a b) := by
  intro _ _ lvl
  simp [encode, decodeWords, candidate, lenWords, verdict, failing, decValu, vecCand, tyRepeat, split_encReg, Vec1.split_word]

theorem vmin (g : Guard) (t : IntTy) (d : BitVec 5) (a : BitVec 5) (b : BitVec 5) : Statement (.vmin g t d a b) := by
  intro _ _ lvl
  simp [encode, decodeWords, candidate, lenWords, verdict, failing, decValu, vecCand, tyRepeat, split_encReg, Vec1.split_word]

theorem vmax (g : Guard) (t : IntTy) (d : BitVec 5) (a : BitVec 5) (b : BitVec 5) : Statement (.vmax g t d a b) := by
  intro _ _ lvl
  simp [encode, decodeWords, candidate, lenWords, verdict, failing, decValu, vecCand, tyRepeat, split_encReg, Vec1.split_word]

theorem vmul (g : Guard) (t : IntTy) (sat : Bool) (d : BitVec 5) (a : BitVec 5) (b : BitVec 5) : Statement (.vmul g t sat d a b) := by
  intro _ _ lvl
  simp [encode, decodeWords, candidate, lenWords, verdict, failing, decValu, vecCand, tyRepeat, split_encReg, Vec1.split_word]

theorem vmulh (g : Guard) (t : IntTy) (d : BitVec 5) (a : BitVec 5) (b : BitVec 5) : Statement (.vmulh g t d a b) := by
  intro _ _ lvl
  simp [encode, decodeWords, candidate, lenWords, verdict, failing, decValu, vecCand, tyRepeat, split_encReg, Vec1.split_word]

theorem vabs (g : Guard) (t : IntTy) (sat : Bool) (d : BitVec 5) (a : BitVec 5) : Statement (.vabs g t sat d a) := by
  intro _ _ lvl
  simp [encode, decodeWords, candidate, lenWords, verdict, failing, decValu, vecCand, tyRepeat, split_encReg, Vec1.split_word]

theorem vneg (g : Guard) (t : IntTy) (sat : Bool) (d : BitVec 5) (a : BitVec 5) : Statement (.vneg g t sat d a) := by
  intro _ _ lvl
  simp [encode, decodeWords, candidate, lenWords, verdict, failing, decValu, vecCand, tyRepeat, split_encReg, Vec1.split_word]

theorem vfadd (g : Guard) (d : BitVec 5) (a : BitVec 5) (b : BitVec 5) : Statement (.vfadd g d a b) := by
  intro _ _ lvl
  simp [encode, decodeWords, candidate, lenWords, verdict, failing, decVfpu, vecCand, tyRepeat, split_encReg, Vec1.split_word]

theorem vfsub (g : Guard) (d : BitVec 5) (a : BitVec 5) (b : BitVec 5) : Statement (.vfsub g d a b) := by
  intro _ _ lvl
  simp [encode, decodeWords, candidate, lenWords, verdict, failing, decVfpu, vecCand, tyRepeat, split_encReg, Vec1.split_word]

theorem vfmul (g : Guard) (d : BitVec 5) (a : BitVec 5) (b : BitVec 5) : Statement (.vfmul g d a b) := by
  intro _ _ lvl
  simp [encode, decodeWords, candidate, lenWords, verdict, failing, decVfpu, vecCand, tyRepeat, split_encReg, Vec1.split_word]

theorem vfma (g : Guard) (d : BitVec 5) (a : BitVec 5) (b : BitVec 5) (c : BitVec 5) : Statement (.vfma g d a b c) := by
  intro _ _ lvl
  simp [encode, decodeWords, candidate, lenWords, verdict, failing, decVfpu, vecCand, tyRepeat, split_encReg, Vec1.split_word]

theorem vfmin (g : Guard) (d : BitVec 5) (a : BitVec 5) (b : BitVec 5) : Statement (.vfmin g d a b) := by
  intro _ _ lvl
  simp [encode, decodeWords, candidate, lenWords, verdict, failing, decVfpu, vecCand, tyRepeat, split_encReg, Vec1.split_word]

theorem vfmax (g : Guard) (d : BitVec 5) (a : BitVec 5) (b : BitVec 5) : Statement (.vfmax g d a b) := by
  intro _ _ lvl
  simp [encode, decodeWords, candidate, lenWords, verdict, failing, decVfpu, vecCand, tyRepeat, split_encReg, Vec1.split_word]

theorem vfabs (g : Guard) (d : BitVec 5) (a : BitVec 5) : Statement (.vfabs g d a) := by
  intro _ _ lvl
  simp [encode, decodeWords, candidate, lenWords, verdict, failing, decVfpu, vecCand, tyRepeat, split_encReg, Vec1.split_word]

theorem vfneg (g : Guard) (d : BitVec 5) (a : BitVec 5) : Statement (.vfneg g d a) := by
  intro _ _ lvl
  simp [encode, decodeWords, candidate, lenWords, verdict, failing, decVfpu, vecCand, tyRepeat, split_encReg, Vec1.split_word]

theorem vfdiv (g : Guard) (d : BitVec 5) (a : BitVec 5) (b : BitVec 5) : Statement (.vfdiv g d a b) := by
  intro _ _ lvl
  simp [encode, decodeWords, candidate, lenWords, verdict, failing, decVfpu, vecCand, tyRepeat, split_encReg, Vec1.split_word]

theorem vfsqrt (g : Guard) (d : BitVec 5) (a : BitVec 5) : Statement (.vfsqrt g d a) := by
  intro _ _ lvl
  simp [encode, decodeWords, candidate, lenWords, verdict, failing, decVfpu, vecCand, tyRepeat, split_encReg, Vec1.split_word]

theorem vfexp2 (g : Guard) (d : BitVec 5) (a : BitVec 5) : Statement (.vfexp2 g d a) := by
  intro _ _ lvl
  simp [encode, decodeWords, candidate, lenWords, verdict, failing, decVfpu, vecCand, tyRepeat, split_encReg, Vec1.split_word]

theorem vflog2 (g : Guard) (d : BitVec 5) (a : BitVec 5) : Statement (.vflog2 g d a) := by
  intro _ _ lvl
  simp [encode, decodeWords, candidate, lenWords, verdict, failing, decVfpu, vecCand, tyRepeat, split_encReg, Vec1.split_word]

theorem vcmpEq (g : Guard) (t : LaneTy) (gd : BitVec 3) (a : BitVec 5) (b : BitVec 5) : Statement (.vcmpEq g t gd a b) := by
  intro _ _ lvl
  simp [encode, decodeWords, candidate, lenWords, verdict, failing, decVcmp, vecCand, tyRepeat, split_encReg, Vec1.split_word]

theorem vcmpNe (g : Guard) (t : LaneTy) (gd : BitVec 3) (a : BitVec 5) (b : BitVec 5) : Statement (.vcmpNe g t gd a b) := by
  intro _ _ lvl
  simp [encode, decodeWords, candidate, lenWords, verdict, failing, decVcmp, vecCand, tyRepeat, split_encReg, Vec1.split_word]

theorem vcmpLt (g : Guard) (t : LaneTy) (gd : BitVec 3) (a : BitVec 5) (b : BitVec 5) : Statement (.vcmpLt g t gd a b) := by
  intro _ _ lvl
  simp [encode, decodeWords, candidate, lenWords, verdict, failing, decVcmp, vecCand, tyRepeat, split_encReg, Vec1.split_word]

theorem vcmpLe (g : Guard) (t : LaneTy) (gd : BitVec 3) (a : BitVec 5) (b : BitVec 5) : Statement (.vcmpLe g t gd a b) := by
  intro _ _ lvl
  simp [encode, decodeWords, candidate, lenWords, verdict, failing, decVcmp, vecCand, tyRepeat, split_encReg, Vec1.split_word]

theorem vsel (g : Guard) (d : BitVec 5) (a : BitVec 5) (b : BitVec 5) : Statement (.vsel g d a b) := by
  intro _ _ lvl
  simp [encode, decodeWords, candidate, lenWords, verdict, failing, decVmov, vecCand, tyRepeat, split_encReg]

theorem vmov (g : Guard) (d : BitVec 5) (a : BitVec 5) : Statement (.vmov g d a) := by
  intro _ _ lvl
  simp [encode, decodeWords, candidate, lenWords, verdict, failing, decVmov, vecCand, tyRepeat, split_encReg]

theorem vbcast (g : Guard) (d : BitVec 5) (a : BitVec 5) : Statement (.vbcast g d a) := by
  intro _ _ lvl
  simp [encode, decodeWords, candidate, lenWords, verdict, failing, decVmov, vecCand, tyRepeat, split_encReg]

theorem vbcastLit (g : Guard) (d : BitVec 5) (lit : X) : Statement (.vbcastLit g d lit) := by
  intro _ _ lvl
  simp [encode, decodeWords, candidate, lenWords, verdict, failing, decVmov, litWords, vecCand, tyRepeat, split_encReg]

theorem vlaneget (g : Guard) (d : BitVec 5) (a : BitVec 5) (n : BitVec 6) : Statement (.vlaneget g d a n) := by
  intro _ _ lvl
  simp [encode, decodeWords, candidate, lenWords, verdict, failing, decVmov, vecCand, tyRepeat, split_encReg]

theorem vlaneset (g : Guard) (d : BitVec 5) (a : BitVec 5) (n : BitVec 6) : Statement (.vlaneset g d a n) := by
  intro _ _ lvl
  simp [encode, decodeWords, candidate, lenWords, verdict, failing, decVmov, vecCand, tyRepeat, split_encReg]

theorem vcvt (g : Guard) (td : Ty) (ta : Ty) (rnd : Rnd) (d : BitVec 5) (a : BitVec 5) : Statement (.vcvt g td ta rnd d a) := by
  intro hw _ lvl
  simp [Instr.wellFormed, encode, decodeWords, candidate, lenWords, verdict, failing, decVcvt, vecCand, tyRepeat, split_encReg, Vec1.split_word] at hw ⊢
  simp [hw, failing]

theorem vpackse (g : Guard) (t : SeTy) (d : BitVec 5) (a : BitVec 5) : Statement (.vpackse g t d a) := by
  intro _ _ lvl
  simp [encode, decodeWords, candidate, lenWords, verdict, failing, decVse, vecCand, tyRepeat, split_encReg, Vec1.split_word]

theorem vunpackse (g : Guard) (t : SeTy) (d : BitVec 5) (a : BitVec 5) : Statement (.vunpackse g t d a) := by
  intro _ _ lvl
  simp [encode, decodeWords, candidate, lenWords, verdict, failing, decVse, vecCand, tyRepeat, split_encReg, Vec1.split_word]

theorem vredSum (g : Guard) (t : LaneTy) (sat : Bool) (d : BitVec 5) (a : BitVec 5) : Statement (.vredSum g t sat d a) := by
  intro hw _ lvl
  simp [Instr.wellFormed, encode, decodeWords, candidate, lenWords, verdict, failing, decVred, vecCand, tyRepeat, split_encReg, Vec1.split_word] at hw ⊢
  cases t <;> cases sat <;> simp [failing] at hw ⊢ <;> rfl

theorem vredMin (g : Guard) (t : LaneTy) (d : BitVec 5) (a : BitVec 5) : Statement (.vredMin g t d a) := by
  intro _ _ lvl
  simp [encode, decodeWords, candidate, lenWords, verdict, failing, decVred, vecCand, tyRepeat, split_encReg, Vec1.split_word]

theorem vredMax (g : Guard) (t : LaneTy) (d : BitVec 5) (a : BitVec 5) : Statement (.vredMax g t d a) := by
  intro _ _ lvl
  simp [encode, decodeWords, candidate, lenWords, verdict, failing, decVred, vecCand, tyRepeat, split_encReg, Vec1.split_word]

theorem vredArgmax (g : Guard) (t : LaneTy) (d : BitVec 5) (a : BitVec 5) : Statement (.vredArgmax g t d a) := by
  intro _ _ lvl
  simp [encode, decodeWords, candidate, lenWords, verdict, failing, decVred, vecCand, tyRepeat, split_encReg, Vec1.split_word]

theorem vredArgmin (g : Guard) (t : LaneTy) (d : BitVec 5) (a : BitVec 5) : Statement (.vredArgmin g t d a) := by
  intro _ _ lvl
  simp [encode, decodeWords, candidate, lenWords, verdict, failing, decVred, vecCand, tyRepeat, split_encReg, Vec1.split_word]

theorem vredAnd (g : Guard) (d : BitVec 5) (a : BitVec 5) : Statement (.vredAnd g d a) := by
  intro _ _ lvl
  simp [encode, decodeWords, candidate, lenWords, verdict, failing, decVred, vecCand, tyRepeat, split_encReg, Vec1.split_word]

theorem vredOr (g : Guard) (d : BitVec 5) (a : BitVec 5) : Statement (.vredOr g d a) := by
  intro _ _ lvl
  simp [encode, decodeWords, candidate, lenWords, verdict, failing, decVred, vecCand, tyRepeat, split_encReg, Vec1.split_word]

theorem vredXor (g : Guard) (d : BitVec 5) (a : BitVec 5) : Statement (.vredXor g d a) := by
  intro _ _ lvl
  simp [encode, decodeWords, candidate, lenWords, verdict, failing, decVred, vecCand, tyRepeat, split_encReg, Vec1.split_word]

theorem vredXsum (g : Guard) (d : BitVec 5) (a : BitVec 5) : Statement (.vredXsum g d a) := by
  intro _ _ lvl
  simp [encode, decodeWords, candidate, lenWords, verdict, failing, decVred, vecCand, tyRepeat, split_encReg, Vec1.split_word]

theorem vscanSum (g : Guard) (t : LaneTy) (sat : Bool) (d : BitVec 5) (a : BitVec 5) : Statement (.vscanSum g t sat d a) := by
  intro hw _ lvl
  simp [Instr.wellFormed, encode, decodeWords, candidate, lenWords, verdict, failing, decVscan, vecCand, tyRepeat, split_encReg, Vec1.split_word] at hw ⊢
  cases t <;> cases sat <;> simp [failing] at hw ⊢ <;> rfl

theorem vscanMin (g : Guard) (t : LaneTy) (d : BitVec 5) (a : BitVec 5) : Statement (.vscanMin g t d a) := by
  intro _ _ lvl
  simp [encode, decodeWords, candidate, lenWords, verdict, failing, decVscan, vecCand, tyRepeat, split_encReg, Vec1.split_word]

theorem vscanMax (g : Guard) (t : LaneTy) (d : BitVec 5) (a : BitVec 5) : Statement (.vscanMax g t d a) := by
  intro _ _ lvl
  simp [encode, decodeWords, candidate, lenWords, verdict, failing, decVscan, vecCand, tyRepeat, split_encReg, Vec1.split_word]

theorem vperm (g : Guard) (d : BitVec 5) (a : BitVec 5) (b : BitVec 5) : Statement (.vperm g d a b) := by
  intro _ _ lvl
  simp [encode, decodeWords, candidate, lenWords, verdict, failing, decVperm, vecCand, tyRepeat, split_encReg]

theorem vrot (g : Guard) (d : BitVec 5) (a : BitVec 5) (n : BitVec 6) : Statement (.vrot g d a n) := by
  intro _ _ lvl
  simp [encode, decodeWords, candidate, lenWords, verdict, failing, decVperm, vecCand, tyRepeat, split_encReg]

theorem vld (g : Guard) (t : Ty) (d : BitVec 5) (a : BitVec 5) (imm : BitVec 32) : Statement (.vld g t d a imm) := by
  intro hw _ lvl
  simp [Instr.wellFormed, encode, decodeWords, candidate, lenWords, verdict, failing, decVmem, vecCand, tyRepeat, split_encReg, Vec1.split_word] at hw ⊢
  simp [hw, failing]

theorem vst (g : Guard) (t : Ty) (d : BitVec 5) (a : BitVec 5) (imm : BitVec 32) : Statement (.vst g t d a imm) := by
  intro hw _ lvl
  simp [Instr.wellFormed, encode, decodeWords, candidate, lenWords, verdict, failing, decVmem, vecCand, tyRepeat, split_encReg, Vec1.split_word] at hw ⊢
  simp [hw, failing]

theorem vgather (g : Guard) (t : Ty) (d : BitVec 5) (a : BitVec 5) (b : BitVec 5) : Statement (.vgather g t d a b) := by
  intro hw _ lvl
  simp [Instr.wellFormed, encode, decodeWords, candidate, lenWords, verdict, failing, decVgs, vecCand, tyRepeat, split_encReg, Vec1.split_word] at hw ⊢
  simp [hw, failing]

theorem vscatter (g : Guard) (t : Ty) (d : BitVec 5) (a : BitVec 5) (b : BitVec 5) : Statement (.vscatter g t d a b) := by
  intro hw _ lvl
  simp [Instr.wellFormed, encode, decodeWords, candidate, lenWords, verdict, failing, decVgs, vecCand, tyRepeat, split_encReg, Vec1.split_word] at hw ⊢
  simp [hw, failing]

theorem vatomAdd (g : Guard) (t : IntTy) (d : BitVec 5) (a : BitVec 5) (b : BitVec 5) (c : BitVec 5) : Statement (.vatomAdd g t d a b c) := by
  intro _ _ lvl
  simp [encode, decodeWords, candidate, lenWords, verdict, failing, decVatom, vecCand, tyRepeat, split_encReg, Vec1.split_word]

theorem vatomMin (g : Guard) (t : IntTy) (d : BitVec 5) (a : BitVec 5) (b : BitVec 5) (c : BitVec 5) : Statement (.vatomMin g t d a b c) := by
  intro _ _ lvl
  simp [encode, decodeWords, candidate, lenWords, verdict, failing, decVatom, vecCand, tyRepeat, split_encReg, Vec1.split_word]

theorem vatomMax (g : Guard) (t : IntTy) (d : BitVec 5) (a : BitVec 5) (b : BitVec 5) (c : BitVec 5) : Statement (.vatomMax g t d a b c) := by
  intro _ _ lvl
  simp [encode, decodeWords, candidate, lenWords, verdict, failing, decVatom, vecCand, tyRepeat, split_encReg, Vec1.split_word]

theorem vatomXchg (g : Guard) (t : IntTy) (d : BitVec 5) (a : BitVec 5) (b : BitVec 5) (c : BitVec 5) : Statement (.vatomXchg g t d a b c) := by
  intro _ _ lvl
  simp [encode, decodeWords, candidate, lenWords, verdict, failing, decVatom, vecCand, tyRepeat, split_encReg, Vec1.split_word]

theorem philox (g : Guard) (d : BitVec 5) (a : BitVec 5) (j : BitVec 2) : Statement (.philox g d a j) := by
  intro _ _ lvl
  simp [encode, decodeWords, candidate, lenWords, verdict, failing, decDraw, vecCand, tyRepeat, split_encReg, Vec1.split_word]

theorem sample (g : Guard) (d : BitVec 5) (gd : BitVec 3) (a : BitVec 5) (b : BitVec 5) (c : BitVec 5) (v : BitVec 32) : Statement (.sample g d gd a b c v) := by
  intro _ _ lvl
  simp [encode, decodeWords, candidate, lenWords, verdict, failing, decDraw, vecCand, tyRepeat, split_encReg, Vec1.split_word]

theorem vmaskLd (g : Guard) (gd : BitVec 3) (a : BitVec 5) (imm : BitVec 32) : Statement (.vmaskLd g gd a imm) := by
  intro _ _ lvl
  simp [encode, decodeWords, candidate, lenWords, verdict, failing, decVmask, vecCand, tyRepeat, split_encReg, Vec1.split_word]

theorem vmaskSt (g : Guard) (a : BitVec 5) (b : BitVec 3) (imm : BitVec 32) : Statement (.vmaskSt g a b imm) := by
  intro _ _ lvl
  simp [encode, decodeWords, candidate, lenWords, verdict, failing, decVmask, vecCand, tyRepeat, split_encReg]

theorem vmaskCnt (g : Guard) (d : BitVec 5) (b : BitVec 3) : Statement (.vmaskCnt g d b) := by
  intro _ _ lvl
  simp [encode, decodeWords, candidate, lenWords, verdict, failing, decVmask, vecCand, tyRepeat, split_encReg]

theorem vmaskFirst (g : Guard) (d : BitVec 5) (b : BitVec 3) : Statement (.vmaskFirst g d b) := by
  intro _ _ lvl
  simp [encode, decodeWords, candidate, lenWords, verdict, failing, decVmask, vecCand, tyRepeat, split_encReg]

theorem ashape (g : Guard) (m : BitVec 4) : Statement (.ashape g m) := by
  intro _ _ lvl
  simp [encode, decodeWords, candidate, lenWords, verdict, failing, decAshape, plain, split_encImm]

theorem wfill (g : Guard) (a : BitVec 5) (b : BitVec 5) (nrow : BitVec 8) (spoff : BitVec 21) : Statement (.wfill g a b nrow spoff) := by
  intro _ _ lvl
  simp [encode, decodeWords, candidate, lenWords, verdict, failing, decMatrix, matCand, split_encReg, Mat1.split_word]

theorem wload (g : Guard) (t : Ty) (d : BitVec 5) (a : BitVec 5) (b : BitVec 5) (spoff : BitVec 21) : Statement (.wload g t d a b spoff) := by
  intro hw _ lvl
  simp [Instr.wellFormed, encode, decodeWords, candidate, lenWords, verdict, failing, decMatrix, matCand, split_encReg, Mat1.split_word] at hw ⊢
  simp [hw, failing]

theorem ctab (g : Guard) (a : BitVec 5) (spoff : BitVec 21) : Statement (.ctab g a spoff) := by
  intro _ _ lvl
  simp [encode, decodeWords, candidate, lenWords, verdict, failing, decMatrix, matCand, split_encReg]

theorem mma (g : Guard) (t : Ty) (acc : Bool) (swap : Bool) (h : BitVec 3) (a : BitVec 5) (arow : BitVec 8) (nrow : BitVec 8) (spoff : BitVec 21) : Statement (.mma g t acc swap h a arow nrow spoff) := by
  intro hw _ lvl
  simp [Instr.wellFormed, encode, decodeWords, candidate, lenWords, verdict, failing, decMatrix, matCand, split_encReg, Mat1.split_word] at hw ⊢
  simp [hw, failing]

theorem accrd (g : Guard) (t : Ty) (a : BitVec 5) (arow : BitVec 8) (nrow : BitVec 8) (spoff : BitVec 21) : Statement (.accrd g t a arow nrow spoff) := by
  intro hw _ lvl
  simp [Instr.wellFormed, encode, decodeWords, candidate, lenWords, verdict, failing, decMatrix, matCand, split_encReg, Mat1.split_word] at hw ⊢
  simp [hw, failing]

theorem accwr (g : Guard) (t : Ty) (a : BitVec 5) (arow : BitVec 8) (nrow : BitVec 8) (spoff : BitVec 21) : Statement (.accwr g t a arow nrow spoff) := by
  intro hw _ lvl
  simp [Instr.wellFormed, encode, decodeWords, candidate, lenWords, verdict, failing, decMatrix, matCand, split_encReg, Mat1.split_word] at hw ⊢
  simp [hw, failing]

theorem accz (g : Guard) (arow : BitVec 8) (nrow : BitVec 8) : Statement (.accz g arow nrow) := by
  intro _ _ lvl
  simp [encode, decodeWords, candidate, lenWords, verdict, failing, decMatrix, matCand, split_encReg, Mat1.split_word]

theorem accsave (g : Guard) (a : BitVec 5) (arow : BitVec 8) (nrow : BitVec 8) (spoff : BitVec 21) : Statement (.accsave g a arow nrow spoff) := by
  intro _ _ lvl
  simp [encode, decodeWords, candidate, lenWords, verdict, failing, decMatrix, matCand, split_encReg, Mat1.split_word]

theorem accrest (g : Guard) (a : BitVec 5) (arow : BitVec 8) (nrow : BitVec 8) (spoff : BitVec 21) : Statement (.accrest g a arow nrow spoff) := by
  intro _ _ lvl
  simp [encode, decodeWords, candidate, lenWords, verdict, failing, decMatrix, matCand, split_encReg, Mat1.split_word]

theorem post (g : Guard) (sc : Scope) (n : BitVec 5) (d : BitVec 5) : Statement (.post g sc n d) := by
  intro _ _ lvl
  simp [encode, decodeWords, candidate, lenWords, verdict, failing, decFabric, plain, split_encSamp]

theorem postScratch (g : Guard) (sc : Scope) (n : BitVec 5) (a : BitVec 5) : Statement (.postScratch g sc n a) := by
  intro _ _ lvl
  simp [encode, decodeWords, candidate, lenWords, verdict, failing, decFabric, plain, split_encSamp]

theorem peek (g : Guard) (d : BitVec 5) (n : BitVec 6) : Statement (.peek g d n) := by
  intro _ _ lvl
  simp [encode, decodeWords, candidate, lenWords, verdict, failing, decFabric, plain, split_encSamp]

theorem seqMirror (g : Guard) (d : BitVec 5) (n : BitVec 6) : Statement (.seqMirror g d n) := by
  intro _ _ lvl
  simp [encode, decodeWords, candidate, lenWords, verdict, failing, decFabric, plain, split_encSamp]

theorem age (g : Guard) (d : BitVec 5) (n : BitVec 6) : Statement (.age g d n) := by
  intro _ _ lvl
  simp [encode, decodeWords, candidate, lenWords, verdict, failing, decFabric, plain, split_encSamp]

theorem mbind (g : Guard) (a : BitVec 5) (n : BitVec 6) : Statement (.mbind g a n) := by
  intro _ _ lvl
  simp [encode, decodeWords, candidate, lenWords, verdict, failing, decFabric, plain, split_encSamp]

theorem mquery (g : Guard) (d : BitVec 5) (n : BitVec 6) : Statement (.mquery g d n) := by
  intro _ _ lvl
  simp [encode, decodeWords, candidate, lenWords, verdict, failing, decFabric, plain, split_encSamp]

theorem cpy (g : Guard) (d : BitVec 5) (a : BitVec 5) (b : BitVec 5) (count : BitVec 21) (land : BitVec 21) : Statement (.cpy g d a b count land) := by
  intro _ _ lvl
  simp [encode, decodeWords, candidate, lenWords, verdict, failing, decCopy, memCand, split_encReg, Mem1.split_word]

theorem cpyLit (g : Guard) (d : BitVec 5) (lit : X) (b : BitVec 5) (count : BitVec 21) (land : BitVec 21) : Statement (.cpyLit g d lit b count land) := by
  intro _ _ lvl
  simp [encode, decodeWords, candidate, lenWords, verdict, failing, decCopy, litWords, memCand, split_encReg, Mem1.split_word]

theorem cpyw (g : Guard) (d : BitVec 5) (a : BitVec 5) (b : BitVec 5) (count : BitVec 21) : Statement (.cpyw g d a b count) := by
  intro _ _ lvl
  simp [encode, decodeWords, candidate, lenWords, verdict, failing, decCopy, memCand, split_encReg, Mem1.split_word]

theorem cpywLit (g : Guard) (d : BitVec 5) (lit : X) (b : BitVec 5) (count : BitVec 21) : Statement (.cpywLit g d lit b count) := by
  intro _ _ lvl
  simp [encode, decodeWords, candidate, lenWords, verdict, failing, decCopy, litWords, memCand, split_encReg, Mem1.split_word]

theorem fence (g : Guard) (sc : Scope) (succ : BitVec 9) (pred : BitVec 9) : Statement (.fence g sc succ pred) := by
  intro _ _ lvl
  simp [encode, decodeWords, candidate, lenWords, verdict, failing, decFence, split_encReg, Fence1.split_word]

theorem matomAdd (g : Guard) (t : AtomTy) (d : BitVec 5) (a : BitVec 5) (b : BitVec 5) (land : BitVec 21) : Statement (.matomAdd g t d a b land) := by
  intro _ _ lvl
  simp [encode, decodeWords, candidate, lenWords, verdict, failing, decMatom, memCand, split_encReg, Mem1.split_word]

theorem matomMin (g : Guard) (t : AtomTy) (d : BitVec 5) (a : BitVec 5) (b : BitVec 5) (land : BitVec 21) : Statement (.matomMin g t d a b land) := by
  intro _ _ lvl
  simp [encode, decodeWords, candidate, lenWords, verdict, failing, decMatom, memCand, split_encReg, Mem1.split_word]

theorem matomMax (g : Guard) (t : AtomTy) (d : BitVec 5) (a : BitVec 5) (b : BitVec 5) (land : BitVec 21) : Statement (.matomMax g t d a b land) := by
  intro _ _ lvl
  simp [encode, decodeWords, candidate, lenWords, verdict, failing, decMatom, memCand, split_encReg, Mem1.split_word]

theorem matomXchg (g : Guard) (t : AtomTy) (d : BitVec 5) (a : BitVec 5) (b : BitVec 5) (land : BitVec 21) : Statement (.matomXchg g t d a b land) := by
  intro _ _ lvl
  simp [encode, decodeWords, candidate, lenWords, verdict, failing, decMatom, memCand, split_encReg, Mem1.split_word]

theorem matomCmpxchg (g : Guard) (t : AtomTy) (d : BitVec 5) (a : BitVec 5) (b : BitVec 5) (land : BitVec 21) : Statement (.matomCmpxchg g t d a b land) := by
  intro _ _ lvl
  simp [encode, decodeWords, candidate, lenWords, verdict, failing, decMatom, memCand, split_encReg, Mem1.split_word]

theorem matomAnd (g : Guard) (t : AtomTy) (d : BitVec 5) (a : BitVec 5) (b : BitVec 5) (land : BitVec 21) : Statement (.matomAnd g t d a b land) := by
  intro _ _ lvl
  simp [encode, decodeWords, candidate, lenWords, verdict, failing, decMatom, memCand, split_encReg, Mem1.split_word]

theorem matomOr (g : Guard) (t : AtomTy) (d : BitVec 5) (a : BitVec 5) (b : BitVec 5) (land : BitVec 21) : Statement (.matomOr g t d a b land) := by
  intro _ _ lvl
  simp [encode, decodeWords, candidate, lenWords, verdict, failing, decMatom, memCand, split_encReg, Mem1.split_word]

theorem matomXor (g : Guard) (t : AtomTy) (d : BitVec 5) (a : BitVec 5) (b : BitVec 5) (land : BitVec 21) : Statement (.matomXor g t d a b land) := by
  intro _ _ lvl
  simp [encode, decodeWords, candidate, lenWords, verdict, failing, decMatom, memCand, split_encReg, Mem1.split_word]

theorem matomAddLit (g : Guard) (t : AtomTy) (d : BitVec 5) (lit : X) (b : BitVec 5) (land : BitVec 21) : Statement (.matomAddLit g t d lit b land) := by
  intro _ _ lvl
  simp [encode, decodeWords, candidate, lenWords, verdict, failing, decMatom, litWords, memCand, split_encReg, Mem1.split_word]

theorem matomMinLit (g : Guard) (t : AtomTy) (d : BitVec 5) (lit : X) (b : BitVec 5) (land : BitVec 21) : Statement (.matomMinLit g t d lit b land) := by
  intro _ _ lvl
  simp [encode, decodeWords, candidate, lenWords, verdict, failing, decMatom, litWords, memCand, split_encReg, Mem1.split_word]

theorem matomMaxLit (g : Guard) (t : AtomTy) (d : BitVec 5) (lit : X) (b : BitVec 5) (land : BitVec 21) : Statement (.matomMaxLit g t d lit b land) := by
  intro _ _ lvl
  simp [encode, decodeWords, candidate, lenWords, verdict, failing, decMatom, litWords, memCand, split_encReg, Mem1.split_word]

theorem matomXchgLit (g : Guard) (t : AtomTy) (d : BitVec 5) (lit : X) (b : BitVec 5) (land : BitVec 21) : Statement (.matomXchgLit g t d lit b land) := by
  intro _ _ lvl
  simp [encode, decodeWords, candidate, lenWords, verdict, failing, decMatom, litWords, memCand, split_encReg, Mem1.split_word]

theorem matomCmpxchgLit (g : Guard) (t : AtomTy) (d : BitVec 5) (lit : X) (b : BitVec 5) (land : BitVec 21) : Statement (.matomCmpxchgLit g t d lit b land) := by
  intro _ _ lvl
  simp [encode, decodeWords, candidate, lenWords, verdict, failing, decMatom, litWords, memCand, split_encReg, Mem1.split_word]

theorem matomAndLit (g : Guard) (t : AtomTy) (d : BitVec 5) (lit : X) (b : BitVec 5) (land : BitVec 21) : Statement (.matomAndLit g t d lit b land) := by
  intro _ _ lvl
  simp [encode, decodeWords, candidate, lenWords, verdict, failing, decMatom, litWords, memCand, split_encReg, Mem1.split_word]

theorem matomOrLit (g : Guard) (t : AtomTy) (d : BitVec 5) (lit : X) (b : BitVec 5) (land : BitVec 21) : Statement (.matomOrLit g t d lit b land) := by
  intro _ _ lvl
  simp [encode, decodeWords, candidate, lenWords, verdict, failing, decMatom, litWords, memCand, split_encReg, Mem1.split_word]

theorem matomXorLit (g : Guard) (t : AtomTy) (d : BitVec 5) (lit : X) (b : BitVec 5) (land : BitVec 21) : Statement (.matomXorLit g t d lit b land) := by
  intro _ _ lvl
  simp [encode, decodeWords, candidate, lenWords, verdict, failing, decMatom, litWords, memCand, split_encReg, Mem1.split_word]

theorem xacc (g : Guard) (t : XaccTy) (d : BitVec 5) (a : BitVec 5) (b : BitVec 5) : Statement (.xacc g t d a b) := by
  intro _ _ lvl
  simp [encode, decodeWords, candidate, lenWords, verdict, failing, decExact, memCand, split_encReg, Mem1.split_word]

theorem xaccLit (g : Guard) (t : XaccTy) (d : BitVec 5) (lit : X) (b : BitVec 5) : Statement (.xaccLit g t d lit b) := by
  intro _ _ lvl
  simp [encode, decodeWords, candidate, lenWords, verdict, failing, decExact, litWords, memCand, split_encReg, Mem1.split_word]

theorem xfin (g : Guard) (d : BitVec 5) (a : BitVec 5) (b : BitVec 5) (land : BitVec 21) : Statement (.xfin g d a b land) := by
  intro _ _ lvl
  simp [encode, decodeWords, candidate, lenWords, verdict, failing, decExact, memCand, split_encReg, Mem1.split_word]

theorem xfinLit (g : Guard) (d : BitVec 5) (lit : X) (b : BitVec 5) (land : BitVec 21) : Statement (.xfinLit g d lit b land) := by
  intro _ _ lvl
  simp [encode, decodeWords, candidate, lenWords, verdict, failing, decExact, litWords, memCand, split_encReg, Mem1.split_word]

theorem xclr (g : Guard) (d : BitVec 5) (a : BitVec 5) : Statement (.xclr g d a) := by
  intro _ _ lvl
  simp [encode, decodeWords, candidate, lenWords, verdict, failing, decExact, memCand, split_encReg]

theorem xclrLit (g : Guard) (d : BitVec 5) (lit : X) : Statement (.xclrLit g d lit) := by
  intro _ _ lvl
  simp [encode, decodeWords, candidate, lenWords, verdict, failing, decExact, litWords, memCand, split_encReg]

theorem tlook (g : Guard) (d : BitVec 5) (a : BitVec 5) : Statement (.tlook g d a) := by
  intro _ _ lvl
  simp [encode, decodeWords, candidate, lenWords, verdict, failing, decTail, plain, split_encReg]

theorem tset (g : Guard) (a : BitVec 5) (b : BitVec 5) : Statement (.tset g a b) := by
  intro _ _ lvl
  simp [encode, decodeWords, candidate, lenWords, verdict, failing, decTail, plain, split_encReg]

theorem tclr (g : Guard) (a : BitVec 5) : Statement (.tclr g a) := by
  intro _ _ lvl
  simp [encode, decodeWords, candidate, lenWords, verdict, failing, decTail, plain, split_encReg]

theorem touch (g : Guard) (d : BitVec 5) (a : BitVec 5) : Statement (.touch g d a) := by
  intro _ _ lvl
  simp [encode, decodeWords, candidate, lenWords, verdict, failing, decTail, plain, split_encReg]

theorem landq (g : Guard) (d : BitVec 5) (a : BitVec 5) : Statement (.landq g d a) := by
  intro _ _ lvl
  simp [encode, decodeWords, candidate, lenWords, verdict, failing, decTail, plain, split_encReg]

theorem leaseSd (g : Guard) (d : BitVec 5) (a : BitVec 5) : Statement (.leaseSd g d a) := by
  intro _ _ lvl
  simp [encode, decodeWords, candidate, lenWords, verdict, failing, decTail, plain, split_encReg]

theorem leaseRv (g : Guard) (d : BitVec 5) (a : BitVec 5) : Statement (.leaseRv g d a) := by
  intro _ _ lvl
  simp [encode, decodeWords, candidate, lenWords, verdict, failing, decTail, plain, split_encReg]

theorem renew (g : Guard) (d : BitVec 5) (a : BitVec 5) : Statement (.renew g d a) := by
  intro _ _ lvl
  simp [encode, decodeWords, candidate, lenWords, verdict, failing, decTail, plain, split_encReg]

theorem lfree (g : Guard) (d : BitVec 5) : Statement (.lfree g d) := by
  intro _ _ lvl
  simp [encode, decodeWords, candidate, lenWords, verdict, failing, decTail, plain, split_encReg]

theorem ecmd (g : Guard) (d : BitVec 5) (a : BitVec 5) : Statement (.ecmd g d a) := by
  intro _ _ lvl
  simp [encode, decodeWords, candidate, lenWords, verdict, failing, decTail, plain, split_encReg]

theorem preempt (g : Guard) (a : BitVec 5) : Statement (.preempt g a) := by
  intro _ _ lvl
  simp [encode, decodeWords, candidate, lenWords, verdict, failing, decTail, plain, split_encReg]

theorem kill (g : Guard) (a : BitVec 5) : Statement (.kill g a) := by
  intro _ _ lvl
  simp [encode, decodeWords, candidate, lenWords, verdict, failing, decTail, plain, split_encReg]

theorem mapset (g : Guard) (a : BitVec 5) (b : BitVec 5) : Statement (.mapset g a b) := by
  intro _ _ lvl
  simp [encode, decodeWords, candidate, lenWords, verdict, failing, decTail, plain, split_encReg]

theorem keysel (g : Guard) (a : BitVec 5) (b : BitVec 5) : Statement (.keysel g a b) := by
  intro _ _ lvl
  simp [encode, decodeWords, candidate, lenWords, verdict, failing, decTail, plain, split_encReg]

theorem resultLanding : Statement .resultLanding := ofEvent _ rfl

theorem trapEntry : Statement .trapEntry := ofEvent _ rfl

theorem escalation : Statement .escalation := ofEvent _ rfl

theorem haltComplete : Statement .haltComplete := ofEvent _ rfl

theorem holdEnd (t : Nat) : Statement (.holdEnd t) := ofEvent _ rfl

theorem resyncTRestart (t : Nat) : Statement (.resyncTRestart t) := ofEvent _ rfl

theorem bandAwake : Statement .bandAwake := ofEvent _ rfl

theorem shadowPlaneLoad : Statement .shadowPlaneLoad := ofEvent _ rfl

theorem mmaRowLanding : Statement .mmaRowLanding := ofEvent _ rfl

theorem postDelivery (id : Nat) (k : Nat) : Statement (.postDelivery id k) := ofEvent _ rfl

theorem postRelease (id : Nat) : Statement (.postRelease id) := ofEvent _ rfl

theorem fencedRelease (id : Nat) : Statement (.fencedRelease id) := ofEvent _ rfl

theorem homeStationPerform (id : Nat) (line : Nat) : Statement (.homeStationPerform id line) := ofEvent _ rfl

theorem copyDataArrival (id : Nat) (line : Nat) : Statement (.copyDataArrival id line) := ofEvent _ rfl

theorem cpyLanding : Statement .cpyLanding := ofEvent _ rfl

theorem matomLanding : Statement .matomLanding := ofEvent _ rfl

theorem xfinLanding : Statement .xfinLanding := ofEvent _ rfl

theorem touchWalk (id : Nat) : Statement (.touchWalk id) := ofEvent _ rfl

theorem ringSlot (t : Nat) : Statement (.ringSlot t) := ofEvent _ rfl

theorem leaseArrival (k : Nat) : Statement (.leaseArrival k) := ofEvent _ rfl

theorem renewArrival (k : Nat) : Statement (.renewArrival k) := ofEvent _ rfl

theorem lfreeArrival (k : Nat) : Statement (.lfreeArrival k) := ofEvent _ rfl

theorem ecmdArrival (k : Nat) : Statement (.ecmdArrival k) := ofEvent _ rfl

theorem grant (k : Nat) : Statement (.grant k) := ofEvent _ rfl

theorem wakeDone (k : Nat) (id : Nat) : Statement (.wakeDone k id) := ofEvent _ rfl

theorem leaseExpiry (k : Nat) (id : Nat) : Statement (.leaseExpiry k id) := ofEvent _ rfl

theorem endingLeash (k : Nat) (id : Nat) : Statement (.endingLeash k id) := ofEvent _ rfl

theorem fullnessReport (k : Nat) : Statement (.fullnessReport k) := ofEvent _ rfl

theorem capRecovery (k : Nat) : Statement (.capRecovery k) := ofEvent _ rfl

theorem gather (k : Nat) (id : Nat) : Statement (.gather k id) := ofEvent _ rfl

theorem scatter (k : Nat) (id : Nat) : Statement (.scatter k id) := ofEvent _ rfl

theorem loadg (k : Nat) (id : Nat) : Statement (.loadg k id) := ofEvent _ rfl

theorem mask (k : Nat) (id : Nat) : Statement (.mask k id) := ofEvent _ rfl

theorem step (k : Nat) (id : Nat) : Statement (.step k id) := ofEvent _ rfl

theorem snap (k : Nat) (id : Nat) : Statement (.snap k id) := ofEvent _ rfl

theorem restore (k : Nat) (id : Nat) : Statement (.restore k id) := ofEvent _ rfl

theorem engineResult (k : Nat) (id : Nat) : Statement (.engineResult k id) := ofEvent _ rfl

theorem lseqReread (ctx : BitVec 16) : Statement (.lseqReread ctx) := ofEvent _ rfl

theorem tileStart (t : Nat) : Statement (.tileStart t) := ofEvent _ rfl

theorem lstatRunning (ctx : BitVec 16) : Statement (.lstatRunning ctx) := ofEvent _ rfl

theorem saveComplete (t : Nat) : Statement (.saveComplete t) := ofEvent _ rfl

theorem killTileStop (t : Nat) : Statement (.killTileStop t) := ofEvent _ rfl

theorem killComplete (ctx : BitVec 16) : Statement (.killComplete ctx) := ofEvent _ rfl

theorem readBufferInvalidate (loc : Nat) : Statement (.readBufferInvalidate loc) := ofEvent _ rfl

theorem notify (v : X) : Statement (.notify v) := ofEvent _ rfl

theorem serveNotify (ctx : BitVec 16) : Statement (.serveNotify ctx) := ofEvent _ rfl

theorem controlWordWrite (t : Nat) (idx : Nat) (record : List Byte) : Statement (.controlWordWrite t idx record) := ofEvent _ rfl

theorem thermalSensorRead (t : Nat) (temp : Nat) : Statement (.thermalSensorRead t temp) := ofEvent _ rfl

theorem currentAlarm (d : Nat) (src : BitVec 4) : Statement (.currentAlarm d src) := ofEvent _ rfl

theorem occauseClear (v : X) : Statement (.occauseClear v) := ofEvent _ rfl

theorem freqRequest (f : Nat) : Statement (.freqRequest f) := ofEvent _ rfl

theorem dieReset (d : Nat) : Statement (.dieReset d) := ofEvent _ rfl

theorem dieReturn (d : Nat) : Statement (.dieReturn d) := ofEvent _ rfl

theorem powerOnReset : Statement .powerOnReset := ofEvent _ rfl

theorem bootgo : Statement .bootgo := ofEvent _ rfl

theorem ago : Statement .ago := ofEvent _ rfl

theorem attestReportReady : Statement .attestReportReady := ofEvent _ rfl

theorem voltageRampDone : Statement .voltageRampDone := ofEvent _ rfl

theorem changeoverEnd : Statement .changeoverEnd := ofEvent _ rfl

theorem hostMemoryWrite (off : Nat) (bytes : List Byte) (ro : Bool) : Statement (.hostMemoryWrite off bytes ro) := ofEvent _ rfl

theorem hostMemoryRead (off : Nat) (len : Nat) (buf : BufferUse) : Statement (.hostMemoryRead off len buf) := ofEvent _ rfl

theorem debugWindowWrite (t : Nat) (off : Nat) (v : X) : Statement (.debugWindowWrite t off v) := ofEvent _ rfl

theorem registerWrite (win : Nat) (off : Nat) (v : X) : Statement (.registerWrite win off v) := ofEvent _ rfl

theorem firmwarePriorityEviction (k : Nat) (id : Nat) : Statement (.firmwarePriorityEviction k id) := ofEvent _ rfl

theorem camrakLinkDown (l : Nat) : Statement (.camrakLinkDown l) := ofEvent _ rfl

theorem camrakLinkUp (l : Nat) : Statement (.camrakLinkUp l) := ofEvent _ rfl

theorem registerFileParity (t : Nat) (file : BitVec 2) (r : BitVec 5) : Statement (.registerFileParity t file r) := ofEvent _ rfl

theorem managementCoreMemoryWrite (d : Nat) (dpa : Nat) (bytes : List Byte) : Statement (.managementCoreMemoryWrite d dpa bytes) := ofEvent _ rfl

theorem frozenResume (t : Nat) : Statement (.frozenResume t) := ofEvent _ rfl

theorem frozenHandlerEntry (t : Nat) : Statement (.frozenHandlerEntry t) := ofEvent _ rfl

theorem droopStretch (t : Nat) : Statement (.droopStretch t) := ofEvent _ rfl

theorem hostCommit (t : Nat) (ro : Bool) : Statement (.hostCommit t ro) := ofEvent _ rfl

theorem stationInvalidation (ctx : BitVec 16) (page : Option Nat) : Statement (.stationInvalidation ctx page) := ofEvent _ rfl

theorem stationReport (id : Nat) : Statement (.stationReport id) := ofEvent _ rfl

end Sys2Proof.Laws.RoundTrip
end

