-- ==== Sys2Proof/Safety.lean ====
section
/-! DEFINITION. What counts as a safe run, in the terms the statements use: the canonical form of every byte store, a slot
at which nothing of 04:R84 fails, and what an instruction leaves as it was. -/

namespace Sys2Proof.Machine

/-! ### Invariants -/

/-- Every byte store of a tile in canonical form: instruction store, scratchpad with engine window, array stores. -/
def Tile.memOk (t : Tile) : Bool :=
  t.imem.wf && t.mem.wf && Memory.wf t.arr.wsram && Memory.wf t.arr.acc
    && Memory.wf t.arr.plane0.weights && Memory.wf t.arr.plane1.weights

/-- Every byte store of the package in canonical form. -/
def State.memOk (s : State) : Bool :=
  s.tiles.all (fun e => e.2.memOk) && Memory.wf s.mem && Memory.wf s.fwin
    && Memory.wf s.boot.flash && Memory.wf s.boot.window && Memory.wf s.boot.attest

/-! ### The slot -/

/-- None of the conditions of 04:R84 that the state alone decides holds in the turn tile's current cycle: no escalated
cause, no period overrun, no slip that occurs again (06:R123), no failing outlier entry, no bank with two uses, no late landing. -/
def quiet (s : State) : Bool :=
  (pickEscalated (escalatedNow false s)).isNone && !overrun s.tl false && (recurs s.tl 0x01).isNone && (recurs s.tl 0x16).isNone
    && (outlierNow s.tl).isNone
    && collided s.tl == 0 && (lateNow s).isNone

/-- As `quiet`, at a slot whose instruction is PERIOD: the reports of the stations count (16:R257), the overrun does not. -/
def quietPeriod (s : State) : Bool :=
  (pickEscalated (escalatedNow true s)).isNone && (recurs s.tl 0x01).isNone && (recurs s.tl 0x16).isNone
    && (outlierNow s.tl).isNone && collided s.tl == 0 && (lateNow s).isNone

/-- A unit of the turn tile is free in the current cycle (04:R74). -/
def unitFree (s : State) (u : Nat) : Bool := !unitHeld s.tl u

/-! ### Frames -/

/-- Every byte of the tile's port address space and of device memory reads as before. -/
def SameBytes (s t : State) : Prop :=
  (∀ a, mread t.tl.mem a = mread s.tl.mem a) ∧ (∀ a, mread t.mem a = mread s.mem a)

/-- Nothing but the turn tile differs. -/
def OnlyTile (s t : State) : Prop := t = { s with tiles := t.tiles } ∧ ∀ p, p ≠ s.turn → t.tile p = s.tile p

/-- Of the turn tile only its place in the timetable differs: unit occupancy, the instructions issued, the pc, loops,
delay slots, and what is listed beside. -/
def Advanced (s t : State) (u : Tile) : Prop :=
  t.tl = { u with units := t.tl.units, order := s.tl.order + 1, issued := true, pc := t.tl.pc, loops := t.tl.loops
                  redirect := t.tl.redirect }

/-- x[r] at the next cycle is v where r is d, and x0 reads zero; every other register of the four files, every byte and
everything else is as before but for the timetable (04:R72, 05:R88). -/
def WritesX (s t : State) (d : BitVec 5) (v : X) : Prop :=
  (∀ r, rx t.tl r = if r = 0 then 0 else if r = d then v else rx s.tl r) ∧ t.tl.regs.g = s.tl.regs.g
    ∧ t.tl.regs.b = s.tl.regs.b ∧ t.tl.regs.v = s.tl.regs.v ∧ SameBytes s t ∧ OnlyTile s t
    ∧ Advanced s t { s.tl with regs := t.tl.regs, landed := t.tl.landed }

/-- g[r] at the next cycle is v where r is d, and g0 reads all ones; everything else as before but for the timetable. -/
def WritesG (s t : State) (d : BitVec 3) (v : X) : Prop :=
  (∀ r, rg t.tl r = if r = 0 then BitVec.allOnes 64 else if r = d then v else rg s.tl r) ∧ t.tl.regs.x = s.tl.regs.x
    ∧ t.tl.regs.b = s.tl.regs.b ∧ t.tl.regs.v = s.tl.regs.v ∧ SameBytes s t ∧ OnlyTile s t
    ∧ Advanced s t { s.tl with regs := t.tl.regs, landed := t.tl.landed }

/-- Nothing but the timetable differs: registers, bytes, special registers, other tiles and the package are as before. -/
def WritesNothing (s t : State) : Prop :=
  SameBytes s t ∧ OnlyTile s t ∧ Advanced s t s.tl

/-- One result in flight is added: it is written to a destination at the end of the cycle l − 1 after this one (04:R72).
Registers, bytes and everything else are as before but for the timetable. -/
def Sends (s t : State) (l unit : Nat) (d : Dest) (v : VReg) : Prop :=
  t.tl.pend = { due := s.tl.abs + l - 1, order := s.tl.order, unit := unit, dest := d, val := v } :: s.tl.pend
    ∧ SameBytes s t ∧ OnlyTile s t ∧ Advanced s t { s.tl with pend := t.tl.pend }

/-- Only the turn tile differs, no byte does, and the tile is `u` but for its place in the timetable. -/
def Becomes (s t : State) (u : Tile) : Prop := SameBytes s t ∧ OnlyTile s t ∧ Advanced s t u

/-- The cycles of bank use and timed actions that an instruction adds, in their order; everything else as before but for
the timetable (and what `u` lists). -/
def Uses (s t : State) (unit : Nat) (l : List (Nat × BitVec 32 × JobOp)) (u : Tile) : Prop :=
  t.tl.jobs = s.tl.jobs ++ l.map (fun e =>
      { cyc := s.tl.abs + e.1, order := s.tl.order, unit := unit, banks := e.2.1, op := e.2.2 })
    ∧ SameBytes s t ∧ OnlyTile s t ∧ Advanced s t { u with jobs := t.tl.jobs }

/-- The slip of a cause at the turn tile's slot (06:R119): what will be reported, and that nothing is issued. Registers and
bytes are as before. -/
def Slips (s t : State) (c : BitVec 8) (info : X) : Prop :=
  (∃ sl, t.tl.slip = some sl ∧ sl.cause = c ∧ sl.info = info ∧ sl.slot = s.tl.cyc ∧ (s.tl.nopn = none → sl.pc = s.tl.pc))
    ∧ t.tl.phase = .drain ∧ t.tl.issued = true ∧ t.tl.regs = s.tl.regs ∧ t.tl.trap = s.tl.trap ∧ SameBytes s t
    ∧ OnlyTile s t

/-- exec answers a next state, and R holds of it. -/
def Gives (i : Instr) (s : State) (R : State → Prop) : Prop := ∃ t, exec i s = .next t ∧ R t

/-- What the issue of an enabled instruction leaves, and of a nullified one (04:R77). -/
def IfEnabled (s : State) (g : Guard) (R N : State → Prop) (t : State) : Prop := if enabled s.tl g then R t else N t

/-! ### Operands, as the statements write them -/

/-- The addresses an access of n bytes permits (05:R96, R99). -/
def PermitsAddr (a : X) (n : Nat) : Prop := a.toNat ≤ 0x10FFFF ∧ a.toNat % n = 0

/-- The bank of an address: bits 9:6 of it, in its region (04:R85). -/
def bankSet (a : X) : BitVec 32 :=
  if a.toNat < 0x100000 then BitVec.ofNat 32 (2 ^ (a.toNat / 64 % 16)) else BitVec.ofNat 32 (2 ^ (16 + a.toNat / 64 % 16))

/-- The address a branch's target must not be (05:R102). -/
def BadTarget (a : X) : Prop := a.toNat % 4 ≠ 0 ∨ 0x20000 ≤ a.toNat

/-- The value of an integer lane of a type (07:R139). -/
def laneZ (t : IntTy) (v : W32) : Int :=
  match t with
  | .i32 => v.toInt
  | .n32 => v.toNat

/-- An exact result clamped to the type's range (07:R139). -/
def clampLane (t : IntTy) (z : Int) : W32 :=
  match t with
  | .i32 => BitVec.ofInt 32 (max (-(2 ^ 31)) (min z (2 ^ 31 - 1)))
  | .n32 => BitVec.ofInt 32 (max 0 (min z (2 ^ 32 - 1)))

/-- A number of n bytes is extended, by its sign or by zeros (05:R97, R99, 07:R137, 16:R260). -/
def Extends {w : Nat} (signed : Bool) (n v : Nat) (r : BitVec w) : Prop :=
  if signed then r.toInt = (v : Int).bmod (2 ^ (8 * n)) else r.toNat = v % 2 ^ (8 * n)

/-- The new word of a read-modify-write, of its old word, operand and compare value (05:R99, 07:R157, 16:R260). -/
def RmwGives {w : Nat} (op : RmwOp) (signed : Bool) (old b cmp new : BitVec w) : Prop :=
  let atMost := fun u v : BitVec w => if signed then u.toInt ≤ v.toInt else u.toNat ≤ v.toNat
  match op with
  | .add => new.toNat = (old.toNat + b.toNat) % 2 ^ w
  | .min => (new = old ∨ new = b) ∧ atMost new old ∧ atMost new b
  | .max => (new = old ∨ new = b) ∧ atMost old new ∧ atMost b new
  | .xchg => new = b
  | .cmpxchg => (old = cmp → new = b) ∧ (old ≠ cmp → new = old)
  | .and => ∀ i, new.getLsbD i = (old.getLsbD i && b.getLsbD i)
  | .or => ∀ i, new.getLsbD i = (old.getLsbD i || b.getLsbD i)
  | .xor => ∀ i, new.getLsbD i = (old.getLsbD i ^^ b.getLsbD i)

/-- The four words that Philox4x32-10 gives for a counter and a key, round by round (07:R160). -/
def PhiloxGives (c : BitVec 128) (k0 k1 : W32) (y : W32 × W32 × W32 × W32) : Prop :=
  ∃ x : Nat → W32 × W32 × W32 × W32,
    x 0 = (c.extractLsb' 0 32, c.extractLsb' 32 32, c.extractLsb' 64 32, c.extractLsb' 96 32) ∧ x 10 = y
    ∧ ∀ r, r < 10 →
      let a : W32 := BitVec.ofNat 32 (k0.toNat + r * 0x9E3779B9)
      let b : W32 := BitVec.ofNat 32 (k1.toNat + r * 0xBB67AE85)
      let p := 0xD2511F53 * (x r).1.toNat
      let q := 0xCD9E8D57 * (x r).2.2.1.toNat
      x (r + 1) = (BitVec.ofNat 32 (q / 2 ^ 32) ^^^ (x r).2.1 ^^^ a, BitVec.ofNat 32 q
                   , BitVec.ofNat 32 (p / 2 ^ 32) ^^^ (x r).2.2.2 ^^^ b, BitVec.ofNat 32 p)

/-- A value is a number (03:R57); NaN and the infinities are none. -/
def IsNumber (v : Ext) (q : ℚ) : Prop := ∃ neg m e, v = .fin neg m e ∧ q = (if neg then -1 else 1) * (m : ℚ) * 2 ^ e

/-- A code of a float format is its nearest to a number, an even code where two are (03:R60). The number is given by the bounds
that it keeps: `below q`, it is at most q; `above q`, it is at least q. -/
def Nearest (f : FloatFmt) (below above : ℚ → Prop) (c : Nat) : Prop :=
  ∃ r, IsNumber (decodeFloat f c) r ∧ ∀ d q, IsNumber (decodeFloat f d) q →
    (r < q → below ((r + q) / 2) ∧ (above ((r + q) / 2) → c % 2 = 0))
      ∧ (q < r → above ((r + q) / 2) ∧ (below ((r + q) / 2) → c % 2 = 0))

/-- A number is beyond a float format in a mode (03:R61), M its largest finite value, P the one before: what it rounds to has
an infinity's code, or the largest one's where the format has no infinity. -/
def Overflows (f : FloatFmt) (rnd : Rnd) (x : ℚ) : Prop :=
  ∃ M P, IsNumber (decodeFloat f f.maxFin) M ∧ IsNumber (decodeFloat f (f.maxFin - 1)) P ∧
    match rnd with
    | .ne => f.hasInf = true ∧ M + (M - P) / 2 ≤ |x|
    | .tz => False
    | .dn => x < -M
    | .up => M < x

/-- A code of a float format is what a number that is not beyond it rounds to in a mode (03:R60). -/
def RoundsTo (f : FloatFmt) (rnd : Rnd) (x : ℚ) (c : Nat) : Prop :=
  let best := fun (ok : ℚ → Prop) (worse : ℚ → ℚ → Prop) =>
    ∃ r, IsNumber (decodeFloat f c) r ∧ ok r ∧ ∀ d q, IsNumber (decodeFloat f d) q → ok q → worse q r
  match rnd with
  | .ne => Nearest f (fun q => x ≤ q) (fun q => q ≤ x) c
  | .tz => best (fun q => |q| ≤ |x|) (fun q r => |q| ≤ |r|)
  | .dn => best (fun q => q ≤ x) (fun q r => q ≤ r)
  | .up => best (fun q => x ≤ q) (fun q r => r ≤ q)

/-- An integer is what a number rounds to in a mode (03:R55, R60). -/
def RoundsToInt (rnd : Rnd) (x : ℚ) (y : Int) : Prop :=
  match rnd with
  | .ne => |x - y| ≤ 1 / 2 ∧ (|x - y| = 1 / 2 → y % 2 = 0)
  | .tz => |(y : ℚ)| ≤ |x| ∧ |x| < |(y : ℚ)| + 1 ∧ 0 ≤ x * y
  | .dn => (y : ℚ) ≤ x ∧ x < y + 1
  | .up => (y : ℚ) - 1 < x ∧ x ≤ y

/-- The enabled lanes' values of a register, in rising order (07:R149). -/
def enabledLanes (mask : X) (v : VReg) : List W32 := ((List.range 64).filter (fun i => mask.getLsbD i)).map (lane v)

/-- The lanes that the effective guard enables. -/
def onLanes (m : X) : List Nat := (List.range 64).filter (fun i => m.getLsbD i)

/-- The scratchpad access of an instruction is complete once cycle k after its issue has passed (16:R265). -/
def accessed (t : Tile) (k : Nat) : Tile := { t with evs := { kind := 0, id := t.bindNo, cyc := t.abs + k } :: t.evs }

/-- The block position of an address in its line, the block's bytes dividing its offset (07:R155). -/
def BlocksPermitted (ty : Ty) (m : X) (a : X) : Prop :=
  a.toNat ≤ 0x10FFFF ∧ a.toNat % 64 % elemSize ty = 0 ∧ a.toNat % 64 / elemSize ty < blocksPerLine ty
    ∧ ∀ b, b < 4 → m.getLsbD (4 * b) = true → a.toNat % 64 / elemSize ty + b < blocksPerLine ty

/-- The held cycles from the k-th on, n of them, on some banks. -/
def heldUses (banks : BitVec 32) (k n : Nat) : List (Nat × BitVec 32 × JobOp) := (List.range n).map (fun i => (k + i, banks, .idle))

/-- A resource of the array is free for an instruction's interval (09:R187). -/
def arrFree (t : Tile) (r first last : Nat) : Prop := ∀ h ∈ t.arr.holds, h.1 = r → last < h.2.1 ∨ h.2.2 < first

/-- The lines of a transfer in groups of up to eight a cycle (04:R87): the k-th group's first line and its addresses. -/
def landingGroups (k addr n : Nat) (op : Nat → List Nat → JobOp) : List (Nat × BitVec 32 × JobOp) :=
  (List.range ((n + 7) / 8)).map (fun i =>
    let l := (List.range (min 8 (n - 8 * i))).map (fun j => addr + 64 * (8 * i + j))
    (k + i, banksOf l, op (8 * i) l))

/-- The bank uses and timed cycles that an instruction adds for its operation. -/
def Adds (s t : State) (l : List (Nat × BitVec 32 × JobOp)) : Prop :=
  t.tl.jobs = s.tl.jobs ++ l.map (fun e =>
    { cyc := s.tl.abs + e.1, order := s.tl.order, unit := 13, banks := e.2.1, op := e.2.2 })

/-- The port after an instruction that sends a message: one more in its queue, with the instant by which it arrives, and its
ring slot due (21:R300). -/
def SendsMessage (s t : State) (kind : BitVec 2) (term : X) (p : Port) : Prop :=
  (∃ m : Msg, t.tl.port = { p with queue := s.tl.port.queue ++ [m] } ∧ m.id = s.nextId ∧ m.kind = kind ∧ m.term = term ∧ m.gen = p.gen
      ∧ m.due = s.tl.clk.start + (150 + 76 * s.tl.port.queue.length) * subTick)
    ∧ t.nextId = s.nextId + 1
    ∧ (cycEnd s.tl + 76 * (s.tl.port.queue.length + 1) * subTick, Instr.ringSlot s.turn) ∈ t.timers

/-- An identifier names one lease of its kennel (identifiers are new each time, `State.fresh`). -/
def NamesOne (s : State) (k : Nat) (l : Lease) : Prop := (s.kennel k).leases.filter (fun m => m.id == l.id) = [l]

/-- A lease of an identifier stands at a kennel. -/
def LeaseNow (t : State) (k id : Nat) (R : Lease → Prop) : Prop := ∃ l ∈ (t.kennel k).leases, l.id = id ∧ R l

/-- A post of the hardware to a tile's mirror is under way. -/
def Posted (t : State) (w : Who) (m : Nat) (R : Line → Prop) : Prop :=
  ∃ p ∈ t.posts, p.src = none ∧ R p.payload ∧ ∃ d ∈ p.dsts, d.who = w ∧ d.mirror = m ∧ d.done = false

/-- A token is legal in a configuration, whose index entry holds the edges `es` (23:R324). -/
def Legal (g : Gram) (es : List Edge) (t : Nat) : Prop :=
  g.finished = false ∧
    ((t = g.endtok ∧ (mread g.acc (g.s / 8)).getLsbD (g.s % 8) = true ∧ g.stack = [])
      ∨ (t ≠ g.endtok ∧ ∃ e ∈ es, e.lo ≤ t ∧ t ≤ e.hi ∧ e.pop ≤ g.stack.length ∧ g.stack.length - e.pop + e.push ≤ 4096))

/-- A lease whose idle engine holds one delivered command. -/
def Delivered (s : State) (k : Nat) (l : Lease) (cls : Bool) (line : Line) : Prop :=
  NamesOne s k l ∧ l.cls = cls ∧ l.st = .held ∧ l.run = none ∧ ∃ id, l.cmds = [(id, line, [])]

/-- A lease whose engine is at work on a command, no error met. -/
def AtWork (s : State) (k : Nat) (l : Lease) (cls : Bool) (r : CmdRun) : Prop :=
  NamesOne s k l ∧ l.cls = cls ∧ l.st = .held ∧ l.run = some r ∧ r.ecode = 0

/-- A Sheepdog reads for a command, with the lines read so far. -/
def Reading (s : State) (k : Nat) (l : Lease) (line : Line) (got : Got) : Prop :=
  ∃ r, AtWork s k l false r ∧ r.line = line ∧ r.got = some got ∧ r.work = [] ∧ r.rows = [] ∧ r.done = 0 ∧ r.wrote = []

/-- The line of a byte address. -/
def lineAddr (a : X) : X := a &&& ~~~0x3F

/-- A lease whose engine works on a command with one item of work and no row left. -/
def Working (s : State) (k : Nat) (l : Lease) (cls : Bool) (line : Line) (w : Work) : Prop :=
  ∃ r, AtWork s k l cls r ∧ r.line = line ∧ r.work = [w] ∧ r.rows = [] ∧ r.got = none

/-- The lease's engine goes on with its command. -/
def RunNow (t : State) (k id : Nat) (R : CmdRun → Prop) : Prop := LeaseNow t k id (fun q => ∃ r, q.run = some r ∧ R r)

/-- The lease's engine has ended its command with a code, and nothing is left of it but the result. -/
def RunStops (t : State) (k id : Nat) (code : BitVec 8) (R : CmdRun → Prop) : Prop :=
  RunNow t k id (fun r => r.ecode = code ∧ r.work = [] ∧ r.rows = [] ∧ r.got = none ∧ R r)

end Sys2Proof.Machine
end

