-- ==== Sys2Proof/Certificates/Slice0/Obligations.lean ====
section
/-! DEFINITION. The statements for the provers: what the rules of spec/ say that a word means, that an instruction does, that
the machine does between instructions. A statement names the rules it formalises; where it rests on a choice of the model, it
names the log entry. -/

open Sys2Proof Sys2Proof.Machine

/-- A first word of the register layout, field by field (02:R37, R38): F, B, A, D, GN, G, MAJ, LEN. -/
def regWord (maj : BitVec 6) (len : BitVec 2) (fn : BitVec 5) (g : Guard) (d a b : BitVec 5) : W32 :=
  fn ++ b ++ a ++ d ++ BitVec.ofBool g.neg ++ g.reg ++ maj ++ len

/-- A first word of the immediate or flow layout with LEN 00 (02:R37, R38): imm10, FN, D, GN, G, MAJ, LEN. -/
def immWord (maj : BitVec 6) (g : Guard) (d fn : BitVec 5) (imm : BitVec 10) : W32 :=
  imm ++ fn ++ d ++ BitVec.ofBool g.neg ++ g.reg ++ maj ++ 0#2

/-- What decoding gives for words of which a field that must be zero is not (02:R39, R46). -/
def reservedIn (word : BitVec 2) : Except Reject Instr := .error { cause := 0x02, word := word }

/-- What decoding gives for words whose function or LEN names no instruction (02:R46). -/
def unassigned : Except Reject Instr := .error { cause := 0x01, word := 0 }

/-! ### Words -/

/-- 02:R35-R45: every bit of an encoding is read back. For every well-formed instruction, at either level, the words the
encoder gives decode to it, with every operand at every value. -/
def Obligations.DecodeOfEncode : Prop := ∀ i : Instr, Sys2Proof.Laws.RoundTrip.Statement i

/-- The words that 02:R51 prints beside their assembly, and some of the other chapters' tables. -/
def Obligations.SampleWordsDecode : Prop :=
  ∀ e ∈ ([([0x01CC5000#32], .add ⟨false, 0⟩ 5 6 7), ([0x81CC5000#32], .seq ⟨false, 0⟩ 5 6 7),
    ([0x09CC5A00#32], .sub ⟨true, 2⟩ 5 6 7), ([0xFF4C5004#32], .addi ⟨false, 0⟩ 5 6 0x3FD),
    ([0x19009008#32], .li ⟨false, 0⟩ 9 100),
    ([0x00009009#32, 0x9ABCDEF0#32, 0x12345678#32], .liLit ⟨false, 0⟩ 9 0x123456789ABCDEF0),
    ([0x2088501C#32], .ld ⟨false, 0⟩ .i32 5 4 16), ([0x118A3014#32], .glt ⟨false, 0⟩ 3 5 6),
    ([0xFE001024#32], .pbr ⟨false, 0⟩ 1 0x3F8), ([0x00021024#32], .br ⟨false, 0⟩ 1), ([0x01060028#32], .nopn ⟨false, 0⟩ 4),
    ([0x0040502C#32], .sysr ⟨false, 0⟩ 5 0x010), ([0x00040030#32], .halt ⟨false, 0⟩),
    ([0x01483046#32, 0x00002108#32, 0#32], .vfadd ⟨false, 0⟩ 3 4 5),
    ([0x000000BA#32, 0x00604004#32, 0#32], .fence ⟨false, 0⟩ .package 0x020 0x004),
    ([0x214030A0#32], .post ⟨false, 0⟩ .cluster 5 3), ([0x314800A0#32], .postScratch ⟨false, 0⟩ .cluster 5 4),
    ([0x030070A4#32], .peek ⟨false, 0⟩ 7 12), ([0x030050A8#32], .seqMirror ⟨false, 0⟩ 5 12)] : List (List W32 × Instr)),
    decodeWords false e.1 = .ok e.2

/-- 02:R46 and R47 for a routine: a reserved major is cause 0x01 with word number 0 whatever follows it, and four of the words
that 02:R48 lists are no instructions, for the causes it gives, in their first word (the fifth, PREEMPT, is judged when it is
executed: `PrivilegedForms`). 02:R47: the slip of words that are no instruction reports the first word, the number of the
failing word and zeros. -/
def Obligations.WordsThatAreNoInstruction : Prop :=
  ((∀ (lvl : Bool) (w : W32) (ws : List W32),
     w.extractLsb' 2 6 ∈ [0x0D#6, 0x0E, 0x0F, 0x1F, 0x27, 0x38, 0x39, 0x3A, 0x3B, 0x3C, 0x3D, 0x3E] →
       decodeWords lvl (w :: ws) = .error { cause := 0x01, word := 0 })
   ∧ (∀ e ∈ ([(0x00000034, 0x01), (0x00000002, 0x01), (0x89CC5000, 0x02), (0x00000828, 0x02)] : List (W32 × BitVec 8)),
       ∀ w1 w2, decodeWords false [e.1, w1, w2] = .error { cause := e.2, word := 0 }))
  ∧ (∀ (s : State) (r : Reject), quiet s = true →
     ∃ t info, issueIllegal r s = .next t ∧ Slips s t r.cause info ∧ info.extractLsb' 0 32 = fetchWord s.tl s.tl.pc.toNat
       ∧ info.extractLsb' 32 2 = r.word ∧ info.extractLsb' 34 30 = 0)

/-- 02:R35, R36: the tile fetches the instruction that the bytes at the pc encode, one whole instruction of LEN's length; one
whose last word lies beyond byte 0x1_FFFF is cause 0x01 with word number 0. -/
def Obligations.FetchReadsTheBytesAtThePc : Prop :=
  ∀ (t : Tile) (lvl : Bool),
    let bytes := (List.range 20).map (fun k => mread t.imem (t.pc.toNat + k))
    (t.pc.toNat + instrLen t t.pc.toNat ≤ 0x20000 →
      fetch t lvl = (decode lvl bytes).map (fun r => r.1)
        ∧ ∀ i n, decode lvl bytes = .ok (i, n) → n = instrLen t t.pc.toNat)
    ∧ (0x20000 < t.pc.toNat + instrLen t t.pc.toNat → fetch t lvl = .error { cause := 0x01, word := 0 })

/-- 02:R36, 04:R72: a step runs the decoded instruction: when nothing comes first (log entries 2 and 3) and the slot of a running tile is
the next entry, the step is exec of the instruction at the pc, in the state whose turn it is, after the landings that start
the cycle; words that are no instruction slip there. -/
def Obligations.StepRunsTheInstructionAtThePc : Prop :=
  ∀ (s : State) (p : Nat) (e : Entry),
    atOnce s = none → recoveryFirst s = false → soonest (entries s) = some e → e.due = .slot p →
    forceLanding (focus p e.at_ s) = none → (focus p e.at_ s).tl.phase = .run →
    let u := landingSlot (focus p e.at_ s)
    u.tl.nopn = none →
      (∀ i, fetch u.tl u.level = .ok i → step s = exec i u)
      ∧ (∀ r, fetch u.tl u.level = .error r → step s = issueIllegal r u)

/-! ### Scalar arithmetic, logic and guards (05) -/

/-- 05:R90-R92: the integer instructions of majors 0x00 to 0x03 but CLZ, POPC and SEL: x[D] at the next cycle, every other
register, every byte and everything else as before. A shift amount is bits 5:0 of b; a literal replaces sext(imm10). -/
def Obligations.AluResults : Prop :=
  ∀ (s : State) (g : Guard) (d a b : BitVec 5) (imm : BitVec 10) (sh : BitVec 6) (lit : X), quiet s = true → unitFree s 0 = true → enabled s.tl g = true →
    let x := rx s.tl a
    let y := rx s.tl b
    ∀ e ∈ [(Instr.add g d a b, x + y), (.sub g d a b, x - y), (.and g d a b, x &&& y), (.or g d a b, x ||| y),
      (.xor g d a b, x ^^^ y), (.andn g d a b, x &&& ~~~y), (.shl g d a b, x <<< (y.toNat % 64)),
      (.shr g d a b, x >>> (y.toNat % 64)), (.sar g d a b, x.sshiftRight (y.toNat % 64)),
      (.rol g d a b, (x <<< (y.toNat % 64)) ||| (x >>> ((64 - y.toNat % 64) % 64))),
      (.min g d a b, if x.slt y then x else y), (.max g d a b, if x.slt y then y else x),
      (.minn g d a b, if x.ult y then x else y), (.maxn g d a b, if x.ult y then y else x),
      (.slt g d a b, if x.slt y then 1 else 0), (.sltn g d a b, if x.ult y then 1 else 0),
      (.seq g d a b, if x = y then 1 else 0), (.addi g d a imm, x + imm.signExtend 64), (.addiLit g d a lit, x + lit),
      (.li g d imm, imm.signExtend 64), (.liLit g d lit, lit), (.shli g d a sh, x <<< sh.toNat), (.shri g d a sh, x >>> sh.toNat),
      (.sari g d a sh, x.sshiftRight sh.toNat), (.roli g d a sh, x.rotateLeft sh.toNat)],
      Gives e.1 s (fun t => WritesX s t d e.2)

/-- 05:R90: CLZ counts the zeros above the highest one bit, 64 for 0; POPC counts the one bits; SEL chooses by bit 0 of the
effective guard and is never nullified. -/
def Obligations.CountAndSelectResults : Prop :=
  ∀ (s : State) (g : Guard) (d a b : BitVec 5), quiet s = true → unitFree s 0 = true →
    let x := rx s.tl a
    (enabled s.tl g = true →
      (∃ n : Nat, Gives (.clz g d a) s (fun t => WritesX s t d (BitVec.ofNat 64 n))
        ∧ n ≤ 64 ∧ (∀ k, k < n → x.getLsbD (63 - k) = false) ∧ (n < 64 → x.getLsbD (63 - n) = true))
      ∧ Gives (.popc g d a) s (fun t =>
          WritesX s t d (BitVec.ofNat 64 ((List.range 64).countP (fun k => x.getLsbD k)))))
    ∧ Gives (.sel g d a b) s (fun t => WritesX s t d (if enabled s.tl g then x else rx s.tl b))

/-- 05:R93: MULDIV sends its result to x[D] with latency 3 or 20, the products and quotients over the integers, with the fixed
results where there is no ordinary quotient; a divide holds SMUL for four cycles, nullified too; while SMUL is held it is cause 0x16. Its words: major 0x04,
register layout, LEN 00, F 0 to 6. -/
def Obligations.MulDivResults : Prop :=
  (∀ (s : State) (g : Guard) (d a b : BitVec 5), quiet s = true →
    let x := rx s.tl a
    let y := rx s.tl b
    ∀ e ∈ [(Instr.mul g d a b, 3, 1, (x.signExtend 128 * y.signExtend 128).extractLsb' 0 64),
      (.mulh g d a b, 3, 1, (x.signExtend 128 * y.signExtend 128).extractLsb' 64 64),
      (.mulhn g d a b, 3, 1, (x.setWidth 128 * y.setWidth 128).extractLsb' 64 64),
      (.div g d a b, 20, 4, if y = 0 then -1 else x.sdiv y), (.divn g d a b, 20, 4, if y = 0 then -1 else x / y),
      (.rem g d a b, 20, 4, if y = 0 then x else x - y * x.sdiv y), (.remn g d a b, 20, 4, if y = 0 then x else x - y * (x / y))],
      (unitFree s 1 = true → Gives e.1 s (fun t => tget 0 t.tl.units 1 = s.tl.abs + e.2.2.1
        ∧ IfEnabled s g (fun u => Sends s u e.2.1 1 (.x d) (val64 e.2.2.2)) (fun u => WritesNothing s u) t))
      ∧ (unitFree s 1 = false → Gives e.1 s (fun t => Slips s t 0x16 1)))
  ∧ (∀ (lvl : Bool) (g : Guard) (d a b : BitVec 5),
      (∀ e ∈ [(0, Instr.mul g d a b), (1, .mulh g d a b), (2, .mulhn g d a b), (3, .div g d a b), (4, .divn g d a b),
        (5, .rem g d a b), (6, .remn g d a b)], decodeWords lvl [regWord 0x04 0 e.1 g d a b] = .ok e.2)
      ∧ (∀ fn : BitVec 5, 7 ≤ fn.toNat → decodeWords lvl [regWord 0x04 0 fn g d a b] = unassigned)
      ∧ (∀ (len : BitVec 2) (fn : BitVec 5) (ws : List W32), len ≠ 0 →
          decodeWords lvl (regWord 0x04 len fn g d a b :: ws) = unassigned))

/-- 05:R94, R95: GCMP writes all 64 bits of g[D] with the relation, GLOG the bitwise result; a write to g0 is discarded, and g0
still reads all ones. SALU is held for one cycle. Nullified, they leave g[D] and everything else unchanged. Their words: majors 0x05 and 0x06, register layout, a guard
field of more than 7 and a nonzero unused field cause 0x02, GSETI with LEN 01 only. -/
def Obligations.GuardResults : Prop :=
  (∀ (s : State) (g : Guard) (d p q : BitVec 3) (a b : BitVec 5) (lit : X), quiet s = true → unitFree s 0 = true →
    let x := rx s.tl a
    let y := rx s.tl b
    let all : Bool → X := fun r => if r then -1 else 0
    ∀ e ∈ [(Instr.geq g d a b, all (x == y)), (.gne g d a b, all (x != y)), (.glt g d a b, all (x.slt y)),
      (.gle g d a b, all (x.sle y)), (.gltn g d a b, all (x.ult y)), (.glen g d a b, all (x.ule y)),
      (.gand g d p q, rg s.tl p &&& rg s.tl q), (.gor g d p q, rg s.tl p ||| rg s.tl q),
      (.gxor g d p q, rg s.tl p ^^^ rg s.tl q), (.gnot g d p, ~~~rg s.tl p), (.gmov g d p, rg s.tl p), (.gseti g d lit, lit)],
      Gives e.1 s (fun t => tget 0 t.tl.units 0 = s.tl.abs + 1
        ∧ IfEnabled s g (fun u => WritesG s u d e.2) (fun u => WritesNothing s u) t))
  ∧ (∀ (lvl : Bool) (g : Guard) (d a b : BitVec 5),
      let low : BitVec 5 → BitVec 3 := fun f => f.extractLsb' 0 3
      (∀ e ∈ [(0, Instr.geq g (low d) a b), (1, .gne g (low d) a b), (2, .glt g (low d) a b), (3, .gle g (low d) a b),
        (4, .gltn g (low d) a b), (5, .glen g (low d) a b)],
        decodeWords lvl [regWord 0x05 0 e.1 g d a b] = if d.toNat < 8 then .ok e.2 else reservedIn 0)
      ∧ (∀ fn : BitVec 5, 6 ≤ fn.toNat → decodeWords lvl [regWord 0x05 0 fn g d a b] = unassigned)
      ∧ (∀ (len : BitVec 2) (fn : BitVec 5) (ws : List W32), len ≠ 0 →
          decodeWords lvl (regWord 0x05 len fn g d a b :: ws) = unassigned)
      ∧ (∀ e ∈ [(0, Instr.gand g (low d) (low a) (low b)), (1, .gor g (low d) (low a) (low b)),
        (2, .gxor g (low d) (low a) (low b))], decodeWords lvl [regWord 0x06 0 e.1 g d a b]
          = if d.toNat < 8 ∧ a.toNat < 8 ∧ b.toNat < 8 then .ok e.2 else reservedIn 0)
      ∧ (∀ e ∈ [(3, Instr.gnot g (low d) (low a)), (4, .gmov g (low d) (low a))],
        decodeWords lvl [regWord 0x06 0 e.1 g d a b] = if d.toNat < 8 ∧ a.toNat < 8 ∧ b = 0 then .ok e.2 else reservedIn 0)
      ∧ (∀ w1 w2 : W32, decodeWords lvl [regWord 0x06 1 5 g d a b, w1, w2]
          = if d.toNat < 8 ∧ a = 0 ∧ b = 0 then .ok (.gseti g (low d) (w2 ++ w1)) else reservedIn 0)
      ∧ (∀ (len : BitVec 2) (fn : BitVec 5) (ws : List W32), (len ≠ 0 ∨ 5 ≤ fn.toNat) → (len ≠ 1 ∨ fn ≠ 5) →
          decodeWords lvl (regWord 0x06 len fn g d a b :: ws) = unassigned))

/-- 04:R77, 05:R95: a nullified scalar instruction of SALU or SMUL completes and changes nothing but the timetable; a
nullified divide still holds SMUL for four cycles (R93). -/
def Obligations.NullifiedScalars : Prop :=
  ∀ (s : State) (g : Guard) (d a b : BitVec 5) (gd p q : BitVec 3) (imm : BitVec 10) (sh : BitVec 6) (lit : X),
    quiet s = true → unitFree s 0 = true → unitFree s 1 = true → enabled s.tl g = false →
    (∀ i ∈ [Instr.add g d a b, .sub g d a b, .and g d a b, .or g d a b, .xor g d a b, .andn g d a b, .shl g d a b,
      .shr g d a b, .sar g d a b, .rol g d a b, .min g d a b, .max g d a b, .minn g d a b, .maxn g d a b, .slt g d a b,
      .sltn g d a b, .seq g d a b, .clz g d a, .popc g d a, .addi g d a imm, .addiLit g d a lit, .li g d imm, .liLit g d lit,
      .shli g d a sh, .shri g d a sh, .sari g d a sh, .roli g d a sh, .mul g d a b, .mulh g d a b, .mulhn g d a b,
      .geq g gd a b, .gne g gd a b, .glt g gd a b, .gle g gd a b, .gltn g gd a b, .glen g gd a b, .gand g gd p q, .gor g gd p q,
      .gxor g gd p q, .gnot g gd p, .gmov g gd p, .gseti g gd lit], Gives i s (fun t => WritesNothing s t))
    ∧ (∀ i ∈ [Instr.div g d a b, .divn g d a b, .rem g d a b, .remn g d a b],
        Gives i s (fun t => WritesNothing s t ∧ tget 0 t.tl.units 1 = s.tl.abs + 4))

/-! ### Scratchpad loads, stores and ATOM (05, 04) -/

/-- 05:R96: LD and ST use the bank of their address at c + 1, whether or not they are enabled; the address is x[A] + sext(imm7)
times the size, or x[A] + the literal; one that is out of range or misaligned is cause 0x17. The load's value or the store's
bytes go with the use: the low bytes of x[D] as read at c (R98). -/
def Obligations.LoadStoreUses : Prop :=
  ∀ (s : State) (g : Guard) (ty : MemTy) (d a : BitVec 5) (imm : BitVec 7) (lit : X), quiet s = true → unitFree s 2 = true →
    let n := memSize ty
    let near := rx s.tl a + imm.signExtend 64 * BitVec.ofNat 64 n
    let far := rx s.tl a + lit
    let done : Tile := { s.tl with evs := { kind := 0, id := s.tl.bindNo, cyc := s.tl.abs + 1 } :: s.tl.evs }
    (∀ e ∈ [(Instr.ld g ty d a imm, near), (.ldLit g ty d a lit, far)],
      (PermitsAddr e.2 n → Gives e.1 s (IfEnabled s g
        (fun t => Uses s t 2 [(1, bankSet e.2, .load d n (memSigned ty) e.2.toNat)] done)
        (fun t => Uses s t 2 [(1, bankSet e.2, .idle)] s.tl)))
      ∧ (¬PermitsAddr e.2 n → Gives e.1 s (fun t => Slips s t 0x17 e.2)))
    ∧ (∀ e ∈ [(Instr.st g ty d a imm, near), (.stLit g ty d a lit, far)],
      (PermitsAddr e.2 n → Gives e.1 s (IfEnabled s g
        (fun t => Uses s t 2 [(1, bankSet e.2, .writes (cellsLE e.2.toNat n (rx s.tl d).toNat))] done)
        (fun t => Uses s t 2 [(1, bankSet e.2, .idle)] s.tl)))
      ∧ (¬PermitsAddr e.2 n → Gives e.1 s (fun t => Slips s t 0x17 e.2)))

/-- 05:R99: ATOM reserves the bank of x[A] for three cycles, also when nullified; the first carries the read with the operand
x[B] and the compare value x[D]. -/
def Obligations.AtomReserves : Prop :=
  ∀ (s : State) (g : Guard) (ty : AtomTy) (d a b : BitVec 5), quiet s = true → unitFree s 2 = true →
    let n := atomSize ty
    let at_ := rx s.tl a
    let done : Tile := { s.tl with evs := { kind := 0, id := s.tl.bindNo, cyc := s.tl.abs + 3 } :: s.tl.evs }
    ∀ e ∈ [(Instr.atomAdd g ty d a b, RmwOp.add), (.atomMin g ty d a b, .min), (.atomMax g ty d a b, .max),
      (.atomXchg g ty d a b, .xchg), (.atomCmpxchg g ty d a b, .cmpxchg)],
      (PermitsAddr at_ n → Gives e.1 s (IfEnabled s g
        (fun t => Uses s t 2 [(1, bankSet at_, .atomRead d n (atomSigned ty) e.2 at_.toNat (rx s.tl b) (rx s.tl d)),
          (2, bankSet at_, .idle), (3, bankSet at_, .idle)] done)
        (fun t => Uses s t 2 [(1, bankSet at_, .idle), (2, bankSet at_, .idle), (3, bankSet at_, .idle)] s.tl)))
      ∧ (¬PermitsAddr at_ n → Gives e.1 s (fun t => Slips s t 0x17 at_))

/-! ### Flow, loops and the period (04, 05) -/

/-- 05:R101: PBR sends addr(PBR) + 4 × sext(imm10), or its literal, to b[D] with latency 2; nullified it does nothing. 04:R78,
05:R102: BR, CALL and RET outside a delay slot: the next instruction in program order follows, or the start of a loop's next
pass where the branch ends its body (R80); two delay slots are open whether or not the branch is nullified, the target goes with
them when it is enabled, and CALL writes x31 with addr(CALL) + 12. A bad target of an enabled one is cause 0x17; a nullified one
reads none. 04:R79: a branch of which a delay slot would hold the last instruction of an active loop body is cause 0x01.
That the delay slots of a branch which ends a pass are the two at the body's start is the model's reading (log entry 18). -/
def Obligations.BranchesOpenDelaySlots : Prop :=
  ∀ (s : State) (g : Guard) (d : BitVec 2) (r : BitVec 5) (imm : BitVec 10) (lit : X),
    quiet s = true → unitFree s 3 = true →
    (∀ e ∈ [(Instr.pbr g d imm, s.tl.pc + 4 * imm.signExtend 64), (.pbrLit g d lit, lit)],
      Gives e.1 s (IfEnabled s g (fun t => Sends s t 2 3 (.b d) (val64 e.2)) (fun t => WritesNothing s t)))
    ∧ (s.tl.redirect = none → ∀ e ∈ [(Instr.br g d, rb s.tl d, false), (.call g d, rb s.tl d, true), (.ret g r, rx s.tl r, false)],
      let ends := fun a : X => ∃ l ∈ s.tl.loops, l.last = a
      let second := fun a : X => a + BitVec.ofNat 64 (instrLen s.tl a.toNat)
      let next := s.tl.pc + 4
      let opens := fun (slot : X) (loops : List LoopRec) =>
        (enabled s.tl g = true → ¬BadTarget e.2.1 → Gives e.1 s (fun t =>
          t.tl.redirect = some { slots := 2, target := some e.2.1 } ∧ t.tl.pc = slot ∧ t.tl.loops = loops
            ∧ if e.2.2 then WritesX s t 31 (s.tl.pc + 12) else WritesNothing s t))
        ∧ (enabled s.tl g = true → BadTarget e.2.1 → Gives e.1 s (fun t => Slips s t 0x17 e.2.1))
        ∧ (enabled s.tl g = false → Gives e.1 s (fun t =>
            t.tl.redirect = some { slots := 2, target := none } ∧ t.tl.pc = slot ∧ t.tl.loops = loops ∧ WritesNothing s t))
      (¬ends s.tl.pc → ¬ends next → ¬ends (second next) → opens next s.tl.loops)
      ∧ (¬ends s.tl.pc → ends next ∨ ends (second next) → Gives e.1 s (fun t => Slips s t 0x01 (wordInfo s.tl 0)))
      ∧ (∀ l q, s.tl.loops = l :: q → l.last = s.tl.pc → 1 < l.left → ¬ends l.start → ¬ends (second l.start) →
          opens l.start ({ l with left := l.left - 1 } :: q)))

/-- 04:R78: an instruction in the first delay slot leaves the second open; the one in the second is followed by the target, or
by the next instruction in program order where the branch was nullified. Without a branch, and where no active loop body ends, the
next instruction in program order follows, four or twelve bytes on, and the active loops stay. 04:R79: BR, CALL, RET, LOOP, HALT, ERET, RESYNC and RESYNC.T in a delay slot are
cause 0x01 with word number 0, whether or not they are nullified. -/
def Obligations.DelaySlotsThenTarget : Prop :=
  (∀ (s : State) (g : Guard) (d a b : BitVec 5) (lit : X), quiet s = true → unitFree s 0 = true →
    (∀ l ∈ s.tl.loops, l.last ≠ s.tl.pc) → ∀ e ∈ [(Instr.add g d a b, (4 : X)), (.liLit g d lit, 12)],
      Gives e.1 s (fun t => t.tl.loops = s.tl.loops ∧
        (s.tl.redirect = none → t.tl.pc = s.tl.pc + e.2 ∧ t.tl.redirect = none)
        ∧ (∀ tgt, s.tl.redirect = some { slots := 2, target := tgt } →
            t.tl.pc = s.tl.pc + e.2 ∧ t.tl.redirect = some { slots := 1, target := tgt })
        ∧ (∀ tgt, s.tl.redirect = some { slots := 1, target := tgt } →
            t.tl.pc = tgt.getD (s.tl.pc + e.2) ∧ t.tl.redirect = none)))
  ∧ (∀ (s : State) (g : Guard) (d : BitVec 2) (r : BitVec 5) (imm : BitVec 10), quiet s = true →
      s.tl.redirect.isSome = true →
      ∀ i ∈ [Instr.br g d, .call g d, .ret g r, .loop g r imm, .resync r, .resyncT r, .eret, .halt g],
        Gives i s (fun t => Slips s t 0x01 (wordInfo s.tl 0)))

/-- 04:R80, R81, 05:R103: an enabled LOOP reads x[D] as n; from 1 on its body is active for n passes, at 0 the instruction after
the body follows at once, and nullified it makes one pass. A LOOP under four active loops, or one whose body ends after the
end of an active body that holds it, is cause 0x01; an enabled one whose last instruction's first word lies at byte 0x2_0000 or
above is cause 0x17 with that address.
Which active bodies hold the LOOP, and where n = 0 goes, are the model's reading (log entry 18). -/
def Obligations.LoopStarts : Prop :=
  (∀ (s : State) (g : Guard) (d : BitVec 5) (imm : BitVec 10), quiet s = true → unitFree s 3 = true → s.tl.redirect = none →
    imm ≠ 0 → s.tl.pc.toNat + 4 * imm.toNat < 0x20000 → s.tl.loops.length < 4 →
    let n := if enabled s.tl g then (rx s.tl d).toNat else 1
    let last := s.tl.pc + 4 * imm.setWidth 64
    (∀ l ∈ s.tl.loops, l.last ≠ s.tl.pc
      ∧ (l.start.toNat ≤ s.tl.pc.toNat → s.tl.pc.toNat ≤ l.last.toNat → last.toNat ≤ l.last.toNat)) →
    Gives (.loop g d imm) s (fun t => WritesNothing s t ∧ t.tl.redirect = none ∧
      if n = 0 then t.tl.pc = last + BitVec.ofNat 64 (instrLen s.tl last.toNat) ∧ t.tl.loops = s.tl.loops
      else t.tl.pc = s.tl.pc + 4 ∧ t.tl.loops = { start := s.tl.pc + 4, last := last, left := n } :: s.tl.loops))
  ∧ (∀ (s : State) (g : Guard) (d : BitVec 5) (imm : BitVec 10), quiet s = true → s.tl.redirect = none →
    let last := s.tl.pc + 4 * imm.setWidth 64
    (4 ≤ s.tl.loops.length
        ∨ (∃ l ∈ s.tl.loops, l.start.toNat ≤ s.tl.pc.toNat ∧ s.tl.pc.toNat ≤ l.last.toNat ∧ l.last.toNat < last.toNat) →
      Gives (.loop g d imm) s (fun t => Slips s t 0x01 (wordInfo s.tl 0)))
    ∧ (s.tl.loops = [] → enabled s.tl g = true → 0x20000 ≤ last.toNat →
        Gives (.loop g d imm) s (fun t => Slips s t 0x17 last)))

/-- 04:R80, R81: when the instruction at a body's last address issues, of the active loops that end there the innermost one's
passes are completed first; a pass still to come begins at the body's first instruction, else that loop has ended and the next
one that ends there completes a pass. A loop that a branch has left, and that ends elsewhere, stays active. -/
def Obligations.LoopPassesRepeat : Prop :=
  ∀ (s : State) (g : Guard) (d a b : BitVec 5), quiet s = true → unitFree s 0 = true → s.tl.redirect = none →
    Gives (.add g d a b) s (fun t =>
      let elsewhere := fun k : LoopRec => k.last ≠ s.tl.pc
      ((∀ k ∈ s.tl.loops, elsewhere k) → t.tl.pc = s.tl.pc + 4 ∧ t.tl.loops = s.tl.loops)
      ∧ (∀ i l r, s.tl.loops = i ++ l :: r → (∀ k ∈ i, elsewhere k) → l.last = s.tl.pc →
          (1 < l.left → t.tl.pc = l.start ∧ t.tl.loops = i ++ { l with left := l.left - 1 } :: r)
          ∧ (l.left ≤ 1 → (∀ k ∈ r, elsewhere k) → t.tl.pc = s.tl.pc + 4 ∧ t.tl.loops = i ++ r)
          ∧ (∀ j m q, l.left ≤ 1 → r = j ++ m :: q → (∀ k ∈ j, elsewhere k) → m.last = s.tl.pc → 1 < m.left →
              t.tl.pc = m.start ∧ t.tl.loops = i ++ j ++ { m with left := m.left - 1 } :: q)))

/-- 04:R82, R83, 05:R104, 01:R29: a PERIOD at cycle PERLEN − 1 with nothing in flight ends the period: PERSTAMP is the time base
at the end of its cycle, STRETCH the stretched cycles counted, PERLEN the last value written, MEMUSED 0, a pre-emption asked for
is begun; no register and no byte changes. Early it is cause 0x11, with something in flight 0x14 and the lowest busy unit, in
trap mode 0x01. 04:R83: what counts as in flight at the end of PERIOD's cycle: the lowest unit that a unit's hold, a result, a
bank cycle or timed cycle still to come (with the result that follows it), or a resource of the array still keeps busy, else 3
for a loop that is still active, else nothing.
The exact instants are the model's reading (log entry 22). -/
def Obligations.PeriodEnds : Prop :=
  (∀ (s : State), quietPeriod s = true → unitFree s 4 = true →
     (s.tl.trap.mode = false → s.tl.cyc + 1 = s.tl.perlen → inFlight s.tl = none → Gives .period s (fun t =>
       t.tl.clk.perstamp = timeBase s s.turn (cycEnd s.tl) ∧ t.tl.perlen = s.tl.perlenNext ∧ t.tl.memused = 0
         ∧ t.tl.clk.stretch = BitVec.ofNat 64 (s.tl.clk.count + (if s.tl.clk.stretched then 1 else 0))
         ∧ t.tl.perEnd = true ∧ (preemptAsked s.tl = true → t.tl.saveDue = true) ∧ t.tl.regs = s.tl.regs
         ∧ t.tl.trap.cause = s.tl.trap.cause ∧ t.tl.arr = s.tl.arr ∧ SameBytes s t ∧ OnlyTile s t))
     ∧ (s.tl.trap.mode = false → s.tl.cyc + 1 < s.tl.perlen →
         Gives .period s (fun t => Slips s t 0x11 (BitVec.ofNat 64 (s.tl.perlen - 1))))
     ∧ (∀ u, s.tl.trap.mode = false → s.tl.cyc + 1 = s.tl.perlen → inFlight s.tl = some u →
         Gives .period s (fun t => Slips s t 0x14 u))
     ∧ (s.tl.trap.mode = true → Gives .period s (fun t => Slips s t 0x01 (wordInfo s.tl 0))))
  ∧ (∀ (t : Tile),
     let after : JobOp → Nat := fun op => match op with
       | .load .. => 1 | .atomRead .. => 2 | .vload _ _ _ _ n => n | .vloadSe .. => 2 | .vatomRead .. => 18
       | .rowRead .. => 1 | .sampleMirror .. => 2 | .landq .. => 1 | _ => 0
     let busy := fun u => decide (t.abs + 1 < tget 0 t.units u) || t.pend.any (fun p => p.unit == u && decide (t.abs < p.due))
       || t.jobs.any (fun j => j.unit == u && decide (t.abs ≤ j.cyc) && decide (t.abs < j.cyc + after j.op))
       || (u == 11 && t.arr.holds.any (fun h => decide (t.abs < h.2.2)))
     (∀ u, u < 16 → busy u = true → (∀ v, v < u → busy v = false) → inFlight t = some (BitVec.ofNat 64 u))
     ∧ ((∀ u, u < 16 → busy u = false) → (∃ l ∈ t.loops, l.last ≠ t.pc ∨ 1 < l.left) → inFlight t = some 3)
     ∧ ((∀ u, u < 16 → busy u = false) → (∀ l ∈ t.loops, l.last = t.pc ∧ l.left ≤ 1) → inFlight t = none))

/-- 04:R82: outside trap mode, whatever instruction other than PERIOD is due at cycle PERLEN − 1 is not issued: cause 0x10 with
PERLEN − 1, before every other cause that does not escalate. That a SLOT whose own cycle is past, which R106 stops with cause 0x10
too, reports the overrun there, with PERLEN − 1 and not with x[D], is the model's choice (log entry 96). -/
def Obligations.OverrunStopsEveryInstruction : Prop :=
  ∀ (s : State) (i : Instr), i.isEvent = false → i ≠ .period → s.level = false → s.tl.trap.mode = false →
    s.tl.cyc + 1 = s.tl.perlen → pickEscalated (escalatedNow false s) = none → s.tl.arr.badBytes = [] →
    s.tl.arr.plane0.bad = [] → s.tl.arr.plane1.bad = [] →
      Gives i s (fun t => Slips s t 0x10 (BitVec.ofNat 64 (s.tl.perlen - 1)))

/-- 05:R105: NOPN n holds SYS for n cycles and has no other effect, nullified too; each later cycle uses one up. 05:R106: SLOT
before its cycle is cause 0x11, after it 0x10, TRAPINFO x[D]; at its cycle, and nullified, it does nothing. 05:R114: an enabled
TRAP takes cause 0x30 at its slot with its code, TRAPPC to be its own address; a nullified one does nothing. -/
def Obligations.CyclesPassedAssertedTrapped : Prop :=
  (∀ (s : State) (g : Guard) (imm : BitVec 10), quiet s = true →
     (unitFree s 4 = true → s.tl.nopn = none → Gives (.nopn g imm) s (fun t =>
       Becomes s t { s.tl with nopn := if imm = 0 then none else some { pc := s.tl.pc, left := imm.toNat } }
         ∧ tget 0 t.tl.units 4 = s.tl.abs + imm.toNat + 1))
     ∧ (∀ n, s.tl.nopn = some n → ∃ t, nopnCycle s = .next t
         ∧ t.tl = { s.tl with issued := true, nopn := if n.left ≤ 1 then none else some { n with left := n.left - 1 } }
         ∧ OnlyTile s t))
  ∧ (∀ (s : State) (g : Guard) (d : BitVec 5), quiet s = true → unitFree s 4 = true →
     let v := rx s.tl d
     (enabled s.tl g = true → s.tl.cyc < v.toNat → Gives (.slot g d) s (fun t => Slips s t 0x11 v))
     ∧ (enabled s.tl g = true → v.toNat < s.tl.cyc → Gives (.slot g d) s (fun t => Slips s t 0x10 v))
     ∧ (enabled s.tl g = false ∨ v.toNat = s.tl.cyc → Gives (.slot g d) s (fun t => WritesNothing s t)))
  ∧ (∀ (s : State) (g : Guard) (code : BitVec 10), quiet s = true → unitFree s 4 = true →
     Gives (.trap g code) s (IfEnabled s g (fun t => Slips s t 0x30 (code.setWidth 64)) (fun t => WritesNothing s t)))
  ∧ (∀ (lvl : Bool) (g : Guard) (d : BitVec 5) (imm : BitVec 10),
     decodeWords lvl [immWord 0x0A g d 4 imm] = (if imm = 0 then .ok (.slot g d) else reservedIn 0)
     ∧ decodeWords lvl [immWord 0x0C g d 0 imm] = (if d = 0 then .ok (.trap g imm) else reservedIn 0))

/-! ### Traps and restarts (05, 06) -/

/-- 04:R84 and 06:R117 at a slot with an ADD: which of several conditions is reported. 04:R86: the banks on which two uses fall
in a cycle are exactly those that two of its uses name, and TRAPINFO is the lowest of them, scratchpad banks before engine-
window banks. A slip that occurs again (06:R123) stands where its cause does.
Where a failing outlier entry stands in the order is the model's reading (log entry 20). -/
def Obligations.FirstConditionIsReported : Prop :=
  (∀ (s : State) (g : Guard) (d a b : BitVec 5),
     let slip := fun c info => Gives (.add g d a b) s (fun t => Slips s t c info)
     (∀ e, pickEscalated (escalatedNow false s) = some e → slip e.1 e.2)
     ∧ (pickEscalated (escalatedNow false s) = none →
         (overrun s.tl false = true → slip 0x10 (BitVec.ofNat 64 (s.tl.perlen - 1)))
         ∧ (overrun s.tl false = false →
             (∀ v, recurs s.tl 0x01 = some v → slip 0x01 v)
             ∧ (recurs s.tl 0x01 = none →
                 (∀ v, outlierNow s.tl = some v → slip 0x17 v)
                 ∧ (outlierNow s.tl = none →
                     (unitFree s 0 = false → slip 0x16 0)
                     ∧ (unitFree s 0 = true →
                         (∀ v, recurs s.tl 0x16 = some v → slip 0x16 v)
                         ∧ (recurs s.tl 0x16 = none →
                             (collided s.tl ≠ 0 → slip 0x13 (bankInfo (collided s.tl)))
                             ∧ (∀ v, collided s.tl = 0 → lateNow s = some v → slip 0x12 v))))))))
  ∧ (∀ (t : Tile) (k : Nat), k < 32 →
     ((collided t).getLsbD k = true ↔ 2 ≤ ((t.jobs.filter (fun j => j.cyc == t.abs)).filter (fun j => j.banks.getLsbD k)).length)
     ∧ ((collided t).getLsbD k = true → (∀ m, m < k → (collided t).getLsbD m = false) →
         bankInfo (collided t) = BitVec.ofNat 64 k))

/-- 06:R118: a slip goes to the management core when its cause's own row says so, when TRAPVEC is 0, or in trap mode, where it
is nested. 06:R121, R125, R118: at the end of the drain of a cause that the tile handles the trap registers are written, the
loop stack is emptied, a redirect is cancelled, trap mode begins and the instruction at TRAPVEC is due; of one that escalates
STATE is 011, trap mode is over, the escalation record is written, and the trap registers too unless it is nested. Nothing else of the tile
changes, but that the registers and words that a cause 0x01 or 0x16 found are kept for its re-issue (06:R123). That an escalation empties the loop
stack and cancels a redirect is the model's choice (log entry 81). -/
def Obligations.CausesEnterHandlerOrFreeze : Prop :=
  (∀ (s : State) (c : BitVec 8) (info : X),
     ∃ sl, (beginSlip c info s.tl).slip = some sl ∧ sl.nested = s.tl.trap.mode
       ∧ (sl.escal = true ↔ c ∈ [0x20#8, 0x21, 0x22, 0x23] ∨ s.tl.trap.vec = 0 ∨ s.tl.trap.mode = true))
  ∧ (∀ (s : State) (sl : Slip), s.tl.slip = some sl → s.tl.phase = .drain → drained s.tl = true →
     (sl.escal = false → Gives .trapEntry s (fun t => OnlyTile s t ∧ t.tl = { s.tl with
       trap := { mode := true, entered := true, vec := s.tl.trap.vec, cause := sl.cause.setWidth 64
                 slot := BitVec.ofNat 64 sl.slot, pc := sl.pc, info := sl.info }
       resumeNopn := sl.nopnLeft, loops := [], redirect := none, pc := s.tl.trap.vec, slip := none, phase := .run
       issued := false, seen := if sl.cause = 0x01 ∨ sl.cause = 0x16 then some (s.tl.regs, fetchWords s.tl sl.pc.toNat) else none }))
     ∧ (sl.escal = true → Gives .escalation s (fun t => OnlyTile s t ∧ t.tl = { s.tl with
         trap := if sl.nested then { s.tl.trap with mode := false } else
           { mode := false, entered := s.tl.trap.entered, vec := s.tl.trap.vec, cause := sl.cause.setWidth 64
             slot := BitVec.ofNat 64 sl.slot, pc := sl.pc, info := sl.info }
         resumeNopn := if sl.nested then s.tl.resumeNopn else sl.nopnLeft
         esc := { cause := sl.cause, nested := sl.nested, slot := BitVec.ofNat 64 sl.slot, pc := sl.pc, info := sl.info }
         loops := [], redirect := none, state := 3, slip := none, phase := .off, issued := false
         seen := if sl.nested then s.tl.seen else
           if sl.cause = 0x01 ∨ sl.cause = 0x16 then some (s.tl.regs, fetchWords s.tl sl.pc.toNat) else none })))

/-- 05:R115, 06:R123: ERET in trap mode leaves it: after a TRAP the next instruction follows as the next cycle number, after any
other cause the instruction that slipped as its own, a NOPN with its remaining cycles. The slip of a cause whose registers were
kept occurs again in that cycle with its TRAPINFO, unless the words of the instruction or a register that it reads have changed;
of another cause, or of a NOPN under way, none does (log entry 44). No unit but SYS is held. Outside trap mode it is cause 0x01. -/
def Obligations.EretReturns : Prop :=
  ∀ (s : State), quiet s = true → s.tl.redirect = none →
    (s.tl.trap.mode = true → unitFree s 4 = true → Gives .eret s (fun t =>
      let tr := s.tl.trap
      t.tl.trap = { tr with mode := false } ∧ t.tl.loops = [] ∧ t.tl.redirect = none ∧ t.tl.regs = s.tl.regs
        ∧ SameBytes s t ∧ OnlyTile s t
        ∧ (tr.cause = 0x30 → t.tl.pc = tr.pc + 4 ∧ t.tl.cycNext = some (tr.slot.toNat + 1) ∧ t.tl.nopn = s.tl.nopn)
        ∧ (tr.cause ≠ 0x30 → s.tl.resumeNopn = 0 → t.tl.pc = tr.pc ∧ t.tl.cycNext = some tr.slot.toNat
            ∧ t.tl.nopn = s.tl.nopn)
        ∧ (tr.cause ≠ 0x30 → s.tl.resumeNopn ≠ 0 → t.tl.pc = tr.pc + 4 ∧ t.tl.cycNext = some tr.slot.toNat
            ∧ t.tl.nopn = some { pc := tr.pc, left := s.tl.resumeNopn }
            ∧ tget 0 t.tl.units 4 = s.tl.abs + 1 + s.tl.resumeNopn)
        ∧ (∀ old, s.tl.resumeNopn = 0 → s.tl.seen = some old →
            let same := fetchWords s.tl tr.pc.toNat = old.2
              ∧ ∀ i, fetch { s.tl with pc := tr.pc } false = .ok i → ∀ r ∈ sources i, sameSrc old.1 s.tl.regs r = true
            (same → t.tl.again = some (tr.cause.setWidth 8, tr.info, s.tl.abs + 1)) ∧ (¬same → t.tl.again = none))
        ∧ (s.tl.resumeNopn ≠ 0 ∨ s.tl.seen = none → t.tl.again = none)
        ∧ t.tl.seen = none ∧ (∀ u, u ≠ 4 → tget 0 t.tl.units u = tget 0 s.tl.units u)))
    ∧ (s.tl.trap.mode = false → Gives .eret s (fun t => Slips s t 0x01 (wordInfo s.tl 0)))

/-- 05:R108: RESYNC in trap mode: the instruction at ADDR follows as cycle CYC, trap mode ends and the loop stack is empty; a
field that is violated is cause 0x17 with x[D]. Outside trap mode it is cause 0x01. 05:R109: RESYNC.T in trap mode waits: its
restart is due at the smallest T of its cluster's time base from the end of its cycle on with T − START a multiple of M, and
restarts the tile then, not before, as cycle 0 of a new period, trap mode over. Outside trap mode it is cause 0x01; a violated field is cause 0x17.
That the restart clears MEMUSED is the model's reading (log entry 22). -/
def Obligations.ResyncsRestart : Prop :=
  (∀ (s : State) (d : BitVec 5), quiet s = true → s.tl.redirect = none →
     let v := rx s.tl d
     let ok := v.extractLsb' 40 24 = 0 ∧ v.extractLsb' 17 3 = 0 ∧ (v.extractLsb' 20 20).toNat < s.tl.perlen
       ∧ v.extractLsb' 0 2 = 0
     (s.tl.trap.mode = true → unitFree s 4 = true → ok → Gives (.resync d) s (fun t =>
       t.tl.trap = { s.tl.trap with mode := false } ∧ t.tl.loops = [] ∧ t.tl.redirect = none
         ∧ t.tl.pc = (v.extractLsb' 0 17).setWidth 64 ∧ t.tl.cycNext = some (v.extractLsb' 20 20).toNat
         ∧ t.tl.regs = s.tl.regs ∧ SameBytes s t ∧ OnlyTile s t))
     ∧ (s.tl.trap.mode = true → ¬ok → Gives (.resync d) s (fun t => Slips s t 0x17 v))
     ∧ (s.tl.trap.mode = false → Gives (.resync d) s (fun t => Slips s t 0x01 (wordInfo s.tl 0))))
  ∧ ((∀ (s : State) (d : BitVec 5), quiet s = true → s.tl.redirect = none →
     let v := rx s.tl d
     let ok := v.extractLsb' 17 15 = 0 ∧ v.extractLsb' 0 2 = 0 ∧ v.extractLsb' 32 32 ≠ 0
     (s.tl.trap.mode = true → unitFree s 4 = true → ok → Gives (.resyncT d) s (fun t =>
       let from_ := cycEnd s.tl
       let tick := realign (timeBase s s.turn from_).toNat s.tl.bind.start.toNat (v.extractLsb' 32 32).toNat
       let at_ := max from_ ((tick - s.skew.getD (clusterOf s.turn) 0) * subTick)
       t.tl.phase = .waitT ((v.extractLsb' 0 17).setWidth 64) at_ ∧ t.timers = s.timers ++ [(at_, .resyncTRestart s.turn)]
         ∧ t.tl.regs = s.tl.regs ∧ SameBytes s t))
     ∧ (s.tl.trap.mode = true → ¬ok → Gives (.resyncT d) s (fun t => Slips s t 0x17 v))
     ∧ (s.tl.trap.mode = false → Gives (.resyncT d) s (fun t => Slips s t 0x01 (wordInfo s.tl 0))))
   ∧ (∀ e start m : Nat, 0 < m → let r := realign e start m
       e ≤ r ∧ (m : Int) ∣ (r : Int) - start ∧ ∀ k : Nat, e ≤ k → (m : Int) ∣ (k : Int) - start → r ≤ k)
   ∧ (∀ (s : State) (p at_ : Nat) (a : X), (s.tile p).phase = .waitT a at_ → (s.tile p).issued = false →
       (s.now < at_ → exec (.resyncTRestart p) s = .next s)
       ∧ (at_ ≤ s.now → Gives (.resyncTRestart p) s (fun t =>
         let u := t.tile p
         u.pc = a ∧ u.cyc = 0 ∧ u.phase = .run ∧ u.trap.mode = false ∧ u.loops = [] ∧ u.redirect = none
           ∧ u.clk.perstamp = timeBase s p s.now ∧ u.perlen = (s.tile p).perlenNext ∧ u.memused = 0
           ∧ u.regs = (s.tile p).regs ∧ u.mem = (s.tile p).mem ∧ ∀ q, q ≠ p → t.tile q = s.tile q))))

/-- 05:R116: an enabled HALT outside a delay slot issues and nothing follows it; when the drain has ended STATE is 000, and
registers and scratchpad stay, and device memory too but for the writes of an ending lease's engine (21:R304) and LSTAT of a context
that is over (01:R19). A nullified HALT does nothing. -/
def Obligations.HaltEndsTheRoutine : Prop :=
  (∀ (s : State) (g : Guard), quiet s = true → unitFree s 4 = true → s.tl.redirect = none →
    Gives (.halt g) s (IfEnabled s g (fun t => Becomes s t { s.tl with phase := .halting }) (fun t => WritesNothing s t)))
  ∧ (∀ s : State, s.tl.phase = .halting → drained s.tl = true → Gives .haltComplete s (fun t =>
      t.tl.state = 0 ∧ t.tl.phase = .off ∧ t.tl.trap.mode = false ∧ t.tl.regs = s.tl.regs ∧ t.tl.mem = s.tl.mem
        ∧ ((∀ e ∈ s.kennels, ∀ l ∈ e.2.leases, l.who ≠ whoOf s.tl) → t.mem = s.mem ∨ ∃ c k d dva, c ∈ s.ctxs ∧ c.id = s.tl.bind.ctx
            ∧ c.slot = some k ∧ barPlace s (k + 0x30) = some (d, dva) ∧ t.mem = (dvaWrite d dva 8 3 s).mem)))

/-- 06:R126: the management core restarts a frozen tile (whose context is not being killed) as ERET would, or at its handler with
the recorded cause, which is permitted only when the fault was not nested and TRAPVEC is not 0.
Where a nested fault goes on is the model's reading (log entry 17). -/
def Obligations.FrozenTileRestarts : Prop :=
  ∀ (s : State) (p : Nat), mayThaw s (s.tile p) = true →
    Gives (.frozenResume p) s (fun t =>
      let o := s.tile p
      let u := t.tile p
      u.state = 2 ∧ u.phase = .run ∧ u.trap = { o.trap with mode := false } ∧ u.loops = [] ∧ u.regs = o.regs ∧ u.mem = o.mem
        ∧ (o.trap.cause = 0x30 → u.pc = o.trap.pc + 4 ∧ u.cyc = o.trap.slot.toNat + 1)
        ∧ (o.trap.cause ≠ 0x30 → u.cyc = o.trap.slot.toNat
            ∧ u.pc = if o.resumeNopn = 0 then o.trap.pc else o.trap.pc + 4)
        ∧ ∀ q, q ≠ p → t.tile q = s.tile q)
    ∧ ((s.tile p).esc.nested = false → (s.tile p).trap.vec ≠ 0 → Gives (.frozenHandlerEntry p) s (fun t =>
        let o := s.tile p
        let u := t.tile p
        u.state = 2 ∧ u.phase = .run ∧ u.trap = { o.trap with mode := true, entered := true } ∧ u.pc = o.trap.vec
          ∧ u.loops = [] ∧ u.redirect = none ∧ u.regs = o.regs ∧ u.mem = o.mem ∧ ∀ q, q ≠ p → t.tile q = s.tile q))
    ∧ ((s.tile p).esc.nested = true ∨ (s.tile p).trap.vec = 0 → exec (.frozenHandlerEntry p) s = .next s)

/-! ### Bank uses, results and system registers (04, 05) -/

/-- 05:R96-R99, 06:R119: what a bank use does in its cycle where its bank serves it. LD's bytes are on their way to the register at
the next cycle's end, extended as its type says; a store's cells are the number's bytes, lowest address first, and no other byte
changes; ATOM's old value goes to its register two cycles on, and its cycle c + 3 will write the new word. A use whose bank two
uses met in moves nothing: the bytes stay, and no result comes. -/
def Obligations.BankUsesMoveBytes : Prop :=
  ∀ (s : State) (bad : BitVec 32) (j : Job) (d : BitVec 5) (n addr v : Nat) (sgn : Bool) (op : RmwOp) (b cmp : X),
    let cut := bad.getLsbD (bankOf addr) = true
    let pends := fun (t : State) (due : Nat) (val : X) =>
      t.tl.pend = { due := due, order := j.order, unit := j.unit, dest := .x d, val := val64 val } :: s.tl.pend
    (j.op = .load d n sgn addr → n ≤ 8 → ¬cut → SameBytes s (runJob bad j s)
      ∧ ∃ val, Extends sgn n (mreadLE s.tl.mem addr n) val ∧ pends (runJob bad j s) (s.tl.abs + 1) val)
    ∧ (j.op = .load d n sgn addr → cut → runJob bad j s = s)
    ∧ (j.op = .writes (cellsLE addr n v) → addr % 64 + n ≤ 64 → ¬cut →
        (∀ k, k < n → mread (runJob bad j s).tl.mem (addr + k) = BitVec.ofNat 8 (v / 256 ^ k))
        ∧ (∀ a, a < addr ∨ addr + n ≤ a → mread (runJob bad j s).tl.mem a = mread s.tl.mem a)
        ∧ (runJob bad j s).tl.regs = s.tl.regs)
    ∧ (j.op = .writes (cellsLE addr n v) → addr % 64 + n ≤ 64 → cut → (runJob bad j s).tl.mem = s.tl.mem)
    ∧ (j.op = .atomRead d 4 sgn op addr b cmp → ¬cut →
        let old : W32 := BitVec.ofNat 32 (mreadLE s.tl.mem addr 4)
        ∃ val new, Extends sgn 4 old.toNat val ∧ RmwGives op sgn old (b.setWidth 32) (cmp.setWidth 32) new
          ∧ pends (runJob bad j s) (s.tl.abs + 2) val ∧ SameBytes s (runJob bad j s)
          ∧ ∀ q ∈ s.tl.jobs, q.order = j.order → q.cyc = s.tl.abs + 2 → q.op = .idle →
              { q with op := .writes (cellsLE addr 4 new.toNat) } ∈ (runJob bad j s).tl.jobs)
    ∧ (j.op = .atomRead d 8 sgn op addr b cmp → ¬cut →
        let old : X := BitVec.ofNat 64 (mreadLE s.tl.mem addr 8)
        ∃ new, RmwGives op sgn old b cmp new ∧ pends (runJob bad j s) (s.tl.abs + 2) old ∧ SameBytes s (runJob bad j s)
          ∧ ∀ q ∈ s.tl.jobs, q.order = j.order → q.cyc = s.tl.abs + 2 → q.op = .idle →
              { q with op := .writes (cellsLE addr 8 new.toNat) } ∈ (runJob bad j s).tl.jobs)
    ∧ (j.op = .atomRead d n sgn op addr b cmp → cut → runJob bad j s = s)

/-- 04:R72, R75, R76: RESULT_LANDING at the end of a cycle writes every result due and leaves the others in flight. Of several for
one register the latest issued counts: a scalar or branch-target register takes its value, a guard register those of its bits
that the result writes, a vector register those lanes; a bit or lane that no due result writes, x0 and g0 stay. COLLIDE rises
by the results beyond the first of each register. What the cycle's own instruction, the latest issued, has written already (any
list of registers, guard bits and lanes) keeps its value, and meets the due results too.
That a cycle's end is a step of its own is the model's choice (log entry 3). -/
def Obligations.ResultsLandInIssueOrder : Prop :=
  ∀ (s : State),
    let due := s.tl.pend.filter (fun p => p.due == s.tl.abs)
    let latest := fun (p : Pending) (meets : Dest → Prop) =>
      p ∈ due ∧ meets p.dest ∧ ∀ q ∈ due, meets q.dest → q.order < p.order ∨ q = p
    let register : Dest → Option Nat := fun d => match d with
      | .x r => if r = 0 then none else some r.toNat
      | .g r _ => if r = 0 then none else some (32 + r.toNat)
      | .b r => some (40 + r.toNat)
      | .v r _ => some (64 + r.toNat)
    let own := s.tl.landed
    let met := ((List.range 96).map (fun k =>
      (own ++ due.map (fun p => p.dest)).countP (fun d => register d == some k) - 1)).sum
    let lands := fun (meets : Dest → Prop) (stays : Prop) (takes : VReg → Prop) =>
      ((∃ d ∈ own, meets d) ∨ (∀ p ∈ due, ¬meets p.dest) → stays)
        ∧ ((∀ d ∈ own, ¬meets d) → ∀ p, latest p meets → takes p.val)
    Gives .resultLanding s (fun t => OnlyTile s t ∧ SameBytes s t
      ∧ t.tl.pend = s.tl.pend.filter (fun p => p.due != s.tl.abs)
      ∧ t.tl.collide = s.tl.collide + BitVec.ofNat 64 met
      ∧ rx t.tl 0 = 0 ∧ rg t.tl 0 = BitVec.allOnes 64
      ∧ (∀ r, r ≠ 0 → lands (fun d => d = .x r) (rx t.tl r = rx s.tl r) (fun v => rx t.tl r = v.extractLsb' 0 64))
      ∧ (∀ r, lands (fun d => d = .b r) (rb t.tl r = rb s.tl r) (fun v => rb t.tl r = v.extractLsb' 0 64))
      ∧ (∀ r i, r ≠ 0 → i < 64 → lands (fun d => ∃ bits : X, d = .g r bits ∧ bits.getLsbD i = true)
          ((rg t.tl r).getLsbD i = (rg s.tl r).getLsbD i) (fun v => (rg t.tl r).getLsbD i = v.getLsbD i))
      ∧ (∀ r i, i < 64 → lands (fun d => ∃ lanes : X, d = .v r lanes ∧ lanes.getLsbD i = true)
          (lane (rv t.tl r) i = lane (rv s.tl r) i) (fun v => lane (rv t.tl r) i = lane v i)))

/-- 05:R110, R111, 21:R307: SYSR at user level, neither recording nor replaying, sends each register's value at c to x[D]; a
privileged number is cause 0x03; nullified it does nothing. TBASE sends the time base at the start of its cycle (R107). -/
def Obligations.SystemRegistersRead : Prop :=
  ∀ (s : State) (g : Guard) (d : BitVec 5), quiet s = true → unitFree s 4 = true → s.level = false →
    s.tl.bind.replay = 0 →
    let t := s.tl
    (∀ e ∈ ([(0x000, t.bind.logtile.setWidth 64), (0x001, t.bind.packid.setWidth 64), (0x002, t.bind.packsize.setWidth 64 + 1),
        (0x010, BitVec.ofNat 64 t.perlenNext), (0x011, BitVec.ofNat 64 t.cyc), (0x012, t.clk.perstamp), (0x013, t.clk.stretch),
        (0x014, t.clk.holds), (0x020, t.trap.vec), (0x021, t.trap.cause), (0x022, t.trap.slot), (0x023, t.trap.pc),
        (0x024, t.trap.info), (0x030, t.arr.ashape.setWidth 64), (0x031, t.arr.bandOk.setWidth 64),
        (0x040, t.bind.memquota.setWidth 64), (0x041, BitVec.ofNat 64 t.memused), (0x060, t.collide), (0x070, 0)] :
        List (BitVec 12 × X)),
      Gives (.sysr g d e.1) s (IfEnabled s g (fun u => Sends s u 2 4 (.x d) (val64 e.2)) (fun u => WritesNothing s u)))
    ∧ Gives (.sysr g d 0x032) s (IfEnabled s g
        (fun u => ∃ v, Sends s u 2 4 (.x d) (val64 v) ∧
          ∀ k, v.getLsbD k = true ↔ ∃ h : k < 4, t.arr.band[k] = .awake) (fun u => WritesNothing s u))
    ∧ Gives (.sysr g d 0x050) s (IfEnabled s g
        (fun u => ∃ v : X, Sends s u 2 4 (.x d) (val64 v) ∧ v.extractLsb' 0 3 = t.port.state ∧ v.getLsbD 3 = t.port.cls
          ∧ v.extractLsb' 4 3 = t.port.outst ∧ v.extractLsb' 16 5 = t.port.eng ∧ v.extractLsb' 32 32 = t.port.gen)
        (fun u => WritesNothing s u))
    ∧ (∀ n : BitVec 12, 0x800 ≤ n.toNat → n.toNat ≤ 0x805 →
        Gives (.sysr g d n) s (fun u => Slips s u 0x03 (wordInfo t 0))
        ∧ Gives (.sysw g d n) s (fun u => Slips s u 0x03 (wordInfo t 0)))
    ∧ Gives (.tbase g d) s (IfEnabled s g
        (fun u => Sends s u 2 4 (.x d) (val64 (timeBase s s.turn t.clk.start))) (fun u => WritesNothing s u))

/-- 05:R110-R112: SYSW at user level writes PERLEN for the next period, TRAPVEC or COLLIDE; a value out of range is cause 0x17 with
it, a read-only register 0x17 with its number; nullified it writes nothing and is not checked. -/
def Obligations.SystemRegistersWritten : Prop :=
  ∀ (s : State) (g : Guard) (d : BitVec 5), quiet s = true → unitFree s 4 = true → s.level = false →
    let v := rx s.tl d
    (enabled s.tl g = true →
      (64 ≤ v.toNat ∧ v.toNat ≤ 1048576 → Gives (.sysw g d 0x010) s (fun t => Becomes s t { s.tl with perlenNext := v.toNat }))
      ∧ (v.toNat < 64 ∨ 1048576 < v.toNat → Gives (.sysw g d 0x010) s (fun t => Slips s t 0x17 v))
      ∧ (v.toNat % 4 = 0 ∧ v.toNat < 0x20000 →
          Gives (.sysw g d 0x020) s (fun t => Becomes s t { s.tl with trap := { s.tl.trap with vec := v } }))
      ∧ (v.toNat % 4 ≠ 0 ∨ 0x20000 ≤ v.toNat → Gives (.sysw g d 0x020) s (fun t => Slips s t 0x17 v))
      ∧ Gives (.sysw g d 0x060) s (fun t => Becomes s t { s.tl with collide := v })
      ∧ ∀ n : BitVec 12, sysUser n = true → n ≠ 0x010 → n ≠ 0x020 → n ≠ 0x060 →
          Gives (.sysw g d n) s (fun t => Slips s t 0x17 (n.setWidth 64)))
    ∧ (enabled s.tl g = false → ∀ n : BitVec 12, sysUser n = true → Gives (.sysw g d n) s (fun t => WritesNothing s t))

/-! ### The vector unit (07) -/

/-- 07:R141, R146, R153, 04:R73: the integer and move instructions send each enabled lane its value, with latency 2 on VALU and 3 on
VXFORM; disabled lanes are not written. With SAT the exact result is clamped, without it wraps. That a VLANESET whose lane bit is
0 sends no result at all is the model's choice (log entry 49). -/
def Obligations.VectorIntegerLanes : Prop :=
  ∀ (s : State) (g : Guard) (ty : IntTy) (d a b : BitVec 5) (n : BitVec 6) (lit : X),
    quiet s = true → unitFree s 5 = true → unitFree s 7 = true →
    let x := fun i => lane (rv s.tl a) i
    let y := fun i => lane (rv s.tl b) i
    let wide : W32 → BitVec 64 := fun v => match ty with | .i32 => v.signExtend 64 | .n32 => v.setWidth 64
    (∀ e ∈ ([(.vadd g ty false d a b, fun i => x i + y i), (.vsub g ty false d a b, fun i => x i - y i),
        (.vmul g ty false d a b, fun i => x i * y i),
        (.vadd g ty true d a b, fun i => clampLane ty (laneZ ty (x i) + laneZ ty (y i))),
        (.vsub g ty true d a b, fun i => clampLane ty (laneZ ty (x i) - laneZ ty (y i))),
        (.vmul g ty true d a b, fun i => clampLane ty (laneZ ty (x i) * laneZ ty (y i))),
        (.vmulh g ty d a b, fun i => (wide (x i) * wide (y i)).extractLsb' 32 32),
        (.vabs g ty false d a, fun i => if laneZ ty (x i) < 0 then - x i else x i), (.vneg g ty false d a, fun i => - x i),
        (.vabs g ty true d a, fun i => clampLane ty (laneZ ty (x i)).natAbs),
        (.vneg g ty true d a, fun i => clampLane ty (- laneZ ty (x i))),
        (.vand g ty d a b, fun i => x i &&& y i), (.vor g ty d a b, fun i => x i ||| y i),
        (.vxor g ty d a b, fun i => x i ^^^ y i), (.vandn g ty d a b, fun i => x i &&& ~~~y i),
        (.vshl g ty d a b, fun i => x i <<< ((y i).toNat % 32)), (.vshr g ty d a b, fun i => x i >>> ((y i).toNat % 32)),
        (.vsar g ty d a b, fun i => (x i).sshiftRight ((y i).toNat % 32)),
        (.vmin g ty d a b, fun i => if laneZ ty (x i) < laneZ ty (y i) then x i else y i),
        (.vmax g ty d a b, fun i => if laneZ ty (x i) < laneZ ty (y i) then y i else x i),
        (.vmov g d a, x), (.vbcast g d a, fun _ => (rx s.tl a).extractLsb' 0 32)] : List (Instr × (Nat → W32))),
      Gives e.1 s (fun t => Sends s t 2 5 (.v d (effGuard s.tl g)) (ofLanes e.2)))
    ∧ (∀ e ∈ ([(.vperm g d a b, fun i => x ((y i).toNat % 64)), (.vrot g d a n, fun i => x ((i + n.toNat) % 64))] :
        List (Instr × (Nat → W32))),
      Gives e.1 s (fun t => Sends s t 3 7 (.v d (effGuard s.tl g)) (ofLanes e.2)))
    ∧ Gives (.vsel g d a b) s (fun t => Sends s t 2 5 (.v d (BitVec.allOnes 64))
        (ofLanes (fun i => if (effGuard s.tl g).getLsbD i then x i else y i)))
    ∧ (lit.extractLsb' 32 32 = 0 → Gives (.vbcastLit g d lit) s (fun t =>
        Sends s t 2 5 (.v d (effGuard s.tl g)) (ofLanes (fun _ => lit.extractLsb' 0 32))))
    ∧ (lit.extractLsb' 32 32 ≠ 0 → Gives (.vbcastLit g d lit) s (fun t => Slips s t 0x17 lit))
    ∧ Gives (.vlaneget g d a n) s (fun t => if (effGuard s.tl g).getLsbD n.toNat
        then Sends s t 2 5 (.x d) (val64 ((x n.toNat).setWidth 64)) else WritesNothing s t)
    ∧ Gives (.vlaneset g d a n) s (fun t => if (effGuard s.tl g).getLsbD n.toNat
        then Sends s t 2 5 (.v d (1 <<< n.toNat)) (ofLanes (fun _ => (rx s.tl a).extractLsb' 0 32)) else WritesNothing s t)

/-- 07:R142-R144, R147, R148, R160, 04:R73: latency, unit and occupancy of the floating-point, conversion and random
instructions, and what each enabled lane gets: the correctly rounded exact value (03:R60, R61), the canonical NaN for a NaN
source. 07:R148, 03:R66: VPACKSE sends to slot b, lanes 4b to 4b + 3, of every slot whose guard bit 4b is set, the block of
lanes 16b to 16b + 15 with zero padding, latency 4 on VXFORM; a slot is written whole or not at all.
R142, R143: a quotient is the nearest FP32 to the exact quotient, a square root to the exact root, with R143's results where there
is none. R147: a conversion reads the source's low bits as its format's value, rounds it in the named mode, clamps it (R61, R55)
and places the code (R137). fExp2 and fLog2 are the model's functions (log entry 24 for their last bit). -/
def Obligations.VectorFloatLanes : Prop :=
  (∀ (s : State) (g : Guard) (d a b c : BitVec 5) (td ta : Ty) (rnd : Rnd) (se : SeTy) (j : BitVec 2), quiet s = true →
     let x := fun i => lane (rv s.tl a) i
     let y := fun i => lane (rv s.tl b) i
     let z := fun i => lane (rv s.tl c) i
     ∀ e ∈ ([(.vfadd g d a b, 6, 4, 1, fun i => rneF32 (exactSum [valF32 (x i), valF32 (y i)])),
         (.vfsub g d a b, 6, 4, 1, fun i => rneF32 (exactSum [valF32 (x i), (valF32 (y i)).negate])),
         (.vfmul g d a b, 6, 4, 1, fun i => rneF32 (mulExt (valF32 (x i)) (valF32 (y i)))),
         (.vfma g d a b c, 6, 5, 1, fun i => rneF32 (exactSum [mulExt (valF32 (x i)) (valF32 (y i)), valF32 (z i)])),
         (.vfmin g d a b, 6, 4, 1, fun i => if isNan (x i) || isNan (y i) then 0x7FC00000
           else if fpKey (y i) < fpKey (x i) then y i else x i),
         (.vfmax g d a b, 6, 4, 1, fun i => if isNan (x i) || isNan (y i) then 0x7FC00000
           else if fpKey (x i) < fpKey (y i) then y i else x i),
         (.vfabs g d a, 6, 4, 1, fun i => if isNan (x i) then 0x7FC00000 else x i &&& 0x7FFFFFFF),
         (.vfneg g d a, 6, 4, 1, fun i => if isNan (x i) then 0x7FC00000 else x i ^^^ 0x80000000),
         (.vfdiv g d a b, 6, 16, 8, fun i => fDiv (x i) (y i)), (.vfsqrt g d a, 6, 16, 8, fun i => fSqrt (x i)),
         (.vfexp2 g d a, 6, 12, 4, fun i => fExp2 (x i)), (.vflog2 g d a, 6, 12, 4, fun i => fLog2 (x i)),
         (.vcvt g td ta rnd d a, 7, 3, 1, fun i => convert td ta rnd (x i)),
         (.vunpackse g se d a, 7, 4, 1, fun i =>
           rneF32 (seDecode se (((rv s.tl a).extractLsb' (128 * (i / 16)) 128).toNat) (i % 16))),
         (.philox g d a j, 9, 8, 1, fun i =>
           let w := philox ((rv s.tl a).extractLsb' 0 128 + BitVec.ofNat 128 i) (lane (rv s.tl a) 4) (lane (rv s.tl a) 5)
           if j = 0 then w.1 else if j = 1 then w.2.1 else if j = 2 then w.2.2.1 else w.2.2.2)] :
         List (Instr × Nat × Nat × Nat × (Nat → W32))),
       unitFree s e.2.1 = true → Gives e.1 s (fun t => Sends s t e.2.2.1 e.2.1 (.v d (effGuard s.tl g)) (ofLanes e.2.2.2.2)
         ∧ tget 0 t.tl.units e.2.1 = s.tl.abs + e.2.2.2.1))
  ∧ (∀ (c : BitVec 128) (k0 k1 : W32), PhiloxGives c k0 k1 (philox c k0 k1))
  ∧ (∀ (s : State) (g : Guard) (se : SeTy) (d a : BitVec 5), quiet s = true → unitFree s 7 = true →
     Gives (.vpackse g se d a) s (fun t => ∃ m w, Sends s t 4 7 (.v d m) w
       ∧ (∀ i, m.getLsbD i = (decide (i < 16) && (effGuard s.tl g).getLsbD (4 * (i / 4))))
       ∧ ∀ b, b < 4 → (w.extractLsb' (128 * b) 128).toNat
           = seEncode se ((List.range 16).map (fun k => valF32 (lane (rv s.tl a) (16 * b + k))))))
  ∧ (∀ (x y : W32) (p q : ℚ), IsNumber (valF32 x) p → IsNumber (valF32 y) q →
     let r := fDiv x y
     let neg := x.getLsbD 31 != y.getLsbD 31
     (q ≠ 0 → r.getLsbD 31 = neg ∧ (Overflows f32 .ne (p / q) → r.extractLsb' 0 31 = 0x7F800000)
       ∧ (¬Overflows f32 .ne (p / q) → RoundsTo f32 .ne (p / q) r.toNat))
     ∧ (q = 0 → p ≠ 0 → r = if neg then 0xFF800000 else 0x7F800000) ∧ (q = 0 → p = 0 → r = 0x7FC00000))
  ∧ (∀ x y : W32,
     let neg := x.getLsbD 31 != y.getLsbD 31
     let inf := fun v : W32 => v.extractLsb' 0 31 = 0x7F800000
     (isNan x = true ∨ isNan y = true ∨ inf x ∧ inf y → fDiv x y = 0x7FC00000)
     ∧ (inf x → isNan y = false → ¬inf y → fDiv x y = if neg then 0xFF800000 else 0x7F800000)
     ∧ (isNan x = false → ¬inf x → inf y → fDiv x y = if neg then 0x80000000 else 0))
  ∧ (∀ x : W32,
     (∀ p : ℚ, IsNumber (valF32 x) p → 0 < p → (fSqrt x).getLsbD 31 = false
       ∧ Nearest f32 (fun q => 0 ≤ q ∧ p ≤ q * q) (fun q => q < 0 ∨ q * q ≤ p) (fSqrt x).toNat)
     ∧ (∀ p : ℚ, IsNumber (valF32 x) p → p < 0 → fSqrt x = 0x7FC00000)
     ∧ (x ∈ [0, 0x80000000, 0x7F800000] → fSqrt x = x) ∧ (isNan x = true ∨ x = 0xFF800000 → fSqrt x = 0x7FC00000))
  ∧ (∀ (ta : Ty) (rnd : Rnd) (v : W32), ta ∈ [.i8, .i16, .i32, .n8, .n16, .n32, .f32, .f16, .bf16, .e4m3, .e5m2, .e2m1] →
     let x := elemValue ta (v.toNat % 2 ^ elemBits ta)
     (∀ e ∈ ([(.f32, f32, 0x7FC00000, 0x7F800000, 0xFF800000), (.f16, f16, 0x7E00, 0x7C00, 0xFC00), (.bf16, bf16, 0x7FC0, 0x7F80, 0xFF80),
         (.e4m3, e4m3, 0x7F, 0x7F, 0x7F), (.e5m2, e5m2, 0x7E, 0x7C, 0xFC), (.e2m1, e2m1, 0x0, 0x7, 0xF)] :
         List (Ty × FloatFmt × W32 × W32 × W32)),
       let (td, f, nan, inf, minf) := e
       let c := convert td ta rnd v
       c.toNat < 2 ^ f.width ∧ (x = .nan → c = nan) ∧ (x = .inf false → c = inf) ∧ (x = .inf true → c = minf)
         ∧ ∀ neg m k, x = .fin neg m k → ∀ p : ℚ, IsNumber x p → c.getLsbD (f.width - 1) = neg
           ∧ (Overflows f rnd p → c.toNat % 2 ^ (f.width - 1) = if f.hasInf then f.top else f.maxFin)
           ∧ (¬Overflows f rnd p → RoundsTo f rnd p c.toNat))
     ∧ (∀ e ∈ ([(.i8, -(2 ^ 7), 2 ^ 7 - 1), (.i16, -(2 ^ 15), 2 ^ 15 - 1), (.i32, -(2 ^ 31), 2 ^ 31 - 1), (.n8, 0, 2 ^ 8 - 1),
         (.n16, 0, 2 ^ 16 - 1), (.n32, 0, 2 ^ 32 - 1)] : List (Ty × Int × Int)),
       let (td, least, most) := e
       let c := convert td ta rnd v
       (x = .nan → c = 0) ∧ (x = .inf false → c = BitVec.ofInt 32 most) ∧ (x = .inf true → c = BitVec.ofInt 32 least)
         ∧ ∀ p : ℚ, IsNumber x p → ∃ y, RoundsToInt rnd p y ∧ c = BitVec.ofInt 32 (max least (min y most))))

/-- 03:R57, R58: the value of every code of each float format, by its exponent's width, its fraction's and its bias, and which codes
are infinities and NaN. 03:R63, R64: the value of every element of a block, by E, its micro-exponent and its code. 03:R66: the block
that sixteen numbers are encoded into: its E, its micro-exponents, its elements. 03:R60, R61 and 07:R143: rounding to nearest takes the nearer integer and the even one of two; a format's code that
is no NaN survives reading and rounding; NaN sources give the canonical NaN, ∞ − ∞ and 0 × ∞ too; any infinity or NaN makes a
whole block NaN. -/
def Obligations.NumberFormats : Prop :=
  (∀ m d : Nat, let r := roundShift .ne false m d
    2 * (r * 2 ^ d) ≤ 2 * m + 2 ^ d ∧ 2 * m ≤ 2 * (r * 2 ^ d) + 2 ^ d
      ∧ (2 * (m % 2 ^ d) = 2 ^ d → r % 2 = 0))
  ∧ (∀ (m d : Nat) (neg : Bool), roundShift .tz neg m d = m / 2 ^ d
      ∧ roundShift .dn false m d = m / 2 ^ d ∧ roundShift .up true m d = m / 2 ^ d
      ∧ roundShift .up false m d = (m + 2 ^ d - 1) / 2 ^ d ∧ roundShift .dn true m d = (m + 2 ^ d - 1) / 2 ^ d)
  ∧ (∀ f ∈ [e4m3, e5m2, e2m1], ∀ c, c < 2 ^ f.width → decodeFloat f c ≠ .nan → roundFloat f .ne (decodeFloat f c) = c)
  ∧ (∀ w : W32, isNan w = false → rneF32 (valF32 w) = w)
  ∧ (∀ a b : W32, (isNan a = true ∨ isNan b = true) →
      fAdd a b = 0x7FC00000 ∧ fSub a b = 0x7FC00000 ∧ fMul a b = 0x7FC00000 ∧ fDiv a b = 0x7FC00000 ∧ fMin a b = 0x7FC00000
        ∧ fMax a b = 0x7FC00000)
  ∧ fSub 0x7F800000 0x7F800000 = 0x7FC00000 ∧ fMul 0 0x7F800000 = 0x7FC00000 ∧ fDiv 0x3F800000 0 = 0x7F800000
  ∧ (∀ (t : SeTy) (xs : List Ext), (∃ v ∈ xs, v.isFin = false) → seEncode t xs = 255)
  ∧ (∀ e ∈ ([(f32, 8, 23, 127), (f16, 5, 10, 15), (bf16, 8, 7, 127), (e4m3, 4, 3, 7), (e5m2, 5, 2, 15), (e2m1, 2, 1, 1)] :
      List (FloatFmt × Nat × Nat × Int)), ∀ c : Nat, c < 2 ^ (1 + e.2.1 + e.2.2.1) →
      let (f, ebits, mbits, bias) := e
      let neg := decide (2 ^ (ebits + mbits) ≤ c)
      let ex := c / 2 ^ mbits % 2 ^ ebits
      let frac := c % 2 ^ mbits
      let ones := ex = 2 ^ ebits - 1
      let inf := ones ∧ frac = 0 ∧ f ∉ [e4m3, e2m1]
      let nan := ones ∧ (if f = e4m3 then frac = 7 else f ≠ e2m1 ∧ frac ≠ 0)
      let mag : ℚ := if ex = 0 then 2 ^ (1 - bias) * (frac : ℚ) / 2 ^ mbits else 2 ^ (ex - bias) * (1 + (frac : ℚ) / 2 ^ mbits)
      (nan → decodeFloat f c = .nan) ∧ (inf → decodeFloat f c = .inf neg)
        ∧ (¬nan → ¬inf → ∃ m k, decodeFloat f c = .fin neg m k ∧ IsNumber (.fin neg m k) ((if neg then -1 else 1) * mag)))
  ∧ (∀ (t : SeTy),
      let w := match t with | .se2 => 2 | .se4 => 4 | .se7 => 7
      let exp := fun b : Nat => b % 256
      let micro := fun b j : Nat => b / 2 ^ (8 + j) % 2
      let el := fun b i : Nat => b / 2 ^ (16 + w * i) % 2 ^ w
      let scale := fun b j : Nat => (2 : ℚ) ^ ((exp b : Int) - 127 - micro b j)
      let most : ℚ := 2 ^ (w - 1) - 1
      (∀ b i, i < 16 → (exp b = 255 → seDecode t b i = .nan) ∧ (exp b ≠ 255 → ∃ m k,
          let neg := decide (2 ^ (w - 1) ≤ el b i)
          seDecode t b i = .fin neg m k
            ∧ IsNumber (.fin neg m k) ((if neg then -1 else 1) * (el b i % 2 ^ (w - 1) : Nat) * scale b (i / 2))))
      ∧ (∀ (xs : List Ext) (v : Nat → ℚ), xs.length = 16 → (∀ i, i < 16 → IsNumber (xs.getD i .nan) (v i)) →
          let b := seEncode t xs
          b < 2 ^ (16 + 16 * w) ∧ exp b ≤ 254
            ∧ (exp b < 254 → ∀ i, i < 16 → |v i| ≤ most * 2 ^ ((exp b : Int) - 127))
            ∧ (∀ k, k < exp b → ∃ i, i < 16 ∧ most * 2 ^ ((k : Int) - 127) < |v i|)
            ∧ (∀ j, j < 8 → (micro b j = 1 ↔ |v (2 * j)| ≤ most * 2 ^ ((exp b : Int) - 128)
                ∧ |v (2 * j + 1)| ≤ most * 2 ^ ((exp b : Int) - 128)))
            ∧ (∀ i, i < 16 → ∃ neg m k, xs.getD i .nan = .fin neg m k ∧ ∃ y : Nat, RoundsToInt .ne (|v i| / scale b (i / 2)) y
                ∧ el b i = min y (2 ^ (w - 1) - 1) + if neg then 2 ^ (w - 1) else 0)))

/-- 07:R145: VCMP sends to the bits of g[GD] of the enabled lanes whether the relation holds, latency 2 on VALU; a NaN makes EQ,
LT and LE of .f32 false and NE true, and zeros of either sign are equal; the order of .f32 lanes is that of the values their codes
have (03:R57, R59, 07:R144), −∞ below and +∞ above every other. 07:R159: VMASK.CNT counts the one bits of g[B],
VMASK.FIRST gives the index of the lowest one bit or 64; latency 2, to x[D]. -/
def Obligations.VectorCompares : Prop :=
  ((∀ (s : State) (g : Guard) (ty : LaneTy) (gd : BitVec 3) (a b : BitVec 5), quiet s = true → unitFree s 5 = true →
     ∀ e ∈ ([(.vcmpEq g ty gd a b, laneEq ty), (.vcmpNe g ty gd a b, fun x y => !laneEq ty x y),
         (.vcmpLt g ty gd a b, laneLt ty), (.vcmpLe g ty gd a b, fun x y => laneLt ty x y || laneEq ty x y)] :
         List (Instr × (W32 → W32 → Bool))),
       Gives e.1 s (fun t => ∃ v : VReg, Sends s t 2 5 (.g gd (effGuard s.tl g)) v
         ∧ ∀ i, i < 64 → v.getLsbD i = e.2 (lane (rv s.tl a) i) (lane (rv s.tl b) i)))
   ∧ (∀ x y : W32, laneEq .i32 x y = decide (x = y) ∧ laneEq .n32 x y = decide (x = y)
       ∧ laneLt .i32 x y = decide (x.toInt < y.toInt) ∧ laneLt .n32 x y = decide (x.toNat < y.toNat)
       ∧ ((isNan x = true ∨ isNan y = true) → laneEq .f32 x y = false ∧ laneLt .f32 x y = false)
       ∧ (isNan x = false → isNan y = false →
           (laneEq .f32 x y = true ∨ laneLt .f32 x y = true ∨ laneLt .f32 y x = true)
           ∧ ¬(laneLt .f32 x y = true ∧ laneLt .f32 y x = true) ∧ ¬(laneEq .f32 x y = true ∧ laneLt .f32 x y = true)))
   ∧ (∀ (x y : W32) (p q : ℚ), IsNumber (valF32 x) p → IsNumber (valF32 y) q →
       (laneLt .f32 x y = true ↔ p < q) ∧ (laneEq .f32 x y = true ↔ p = q))
   ∧ (∀ x : W32, isNan x = false → laneEq .f32 x x = true ∧ (x ≠ 0xFF800000 → laneLt .f32 0xFF800000 x = true)
       ∧ (x ≠ 0x7F800000 → laneLt .f32 x 0x7F800000 = true))
   ∧ laneEq .f32 0 0x80000000 = true ∧ laneLt .f32 0x80000000 0 = false ∧ laneLt .f32 0xBF800000 0x3F800000 = true)
  ∧ (∀ (s : State) (g : Guard) (d : BitVec 5) (p : BitVec 3), quiet s = true → unitFree s 5 = true →
     let m := rg s.tl p
     Gives (.vmaskCnt g d p) s (IfEnabled s g
         (fun t => Sends s t 2 5 (.x d) (val64 (BitVec.ofNat 64 (onLanes m).length))) (fun t => WritesNothing s t))
     ∧ Gives (.vmaskFirst g d p) s (IfEnabled s g
         (fun t => Sends s t 2 5 (.x d) (val64 (BitVec.ofNat 64 ((onLanes m).headD 64)))) (fun t => WritesNothing s t)))

/-- 07:R149-R151, 04:R73: a reduction writes x[D] whatever the guard, latency 6 on VXFORM. Over the enabled lanes: the sum that
wraps, or the exact sum clamped once; the least and the greatest; the bitwise ones; with none enabled the neutral result. The
results of .i32 are sign-extended. Of .f32, the sum runs through the fixed tree of six levels, each pair rounded; the least and
the greatest follow the order of R144, a NaN among the lanes giving the canonical NaN; ARGMAX ranks a NaN above and ARGMIN
below everything and report it as the canonical NaN, ties to the lower lane. A lone lane's NaN is the canonical NaN too
(03:R59). -/
def Obligations.VectorReductions : Prop :=
  ∀ (s : State) (g : Guard) (ty : IntTy) (d a : BitVec 5), quiet s = true → unitFree s 7 = true →
    let l := enabledLanes (effGuard s.tl g) (rv s.tl a)
    let lt : LaneTy := match ty with | .i32 => .i32 | .n32 => .n32
    let ext : W32 → X := fun v => match ty with | .i32 => v.signExtend 64 | .n32 => v.setWidth 64
    let least : W32 := match ty with | .i32 => 0x80000000 | .n32 => 0
    let most : W32 := match ty with | .i32 => 0x7FFFFFFF | .n32 => 0xFFFFFFFF
    (∀ e ∈ ([(.vredSum g lt false d a, ext (l.foldl (· + ·) 0)),
        (.vredSum g lt true d a, ext (clampLane ty ((l.map (laneZ ty)).sum))),
        (.vredMin g lt d a, ext (l.foldl (fun u v => if laneZ ty v < laneZ ty u then v else u) most)),
        (.vredMax g lt d a, ext (l.foldl (fun u v => if laneZ ty u < laneZ ty v then v else u) least)),
        (.vredAnd g d a, (l.foldl (· &&& ·) 0xFFFFFFFF).setWidth 64), (.vredOr g d a, (l.foldl (· ||| ·) 0).setWidth 64),
        (.vredXor g d a, (l.foldl (· ^^^ ·) 0).setWidth 64)] : List (Instr × X)),
      Gives e.1 s (fun t => Sends s t 6 7 (.x d) (val64 e.2)))
    ∧ (let rank : Int → LaneTy → W32 → Int := fun nan q v =>
        match q with | .i32 => v.toInt | .n32 => (v.toNat : Int) | .f32 => if isNan v then nan else fpKey v
      ∀ q : LaneTy, ∀ e ∈ ([(.vredArgmax g q d a, fun u v => decide (rank (2 ^ 40) q u < rank (2 ^ 40) q v)),
        (.vredArgmin g q d a, fun u v => decide (rank (-(2 ^ 40)) q v < rank (-(2 ^ 40)) q u))] : List (Instr × (W32 → W32 → Bool))),
      Gives e.1 s (fun t => ∃ r : X, Sends s t 6 7 (.x d) (val64 r)
        ∧ (effGuard s.tl g = 0 → r = 0xFFFFFFFF)
        ∧ (effGuard s.tl g ≠ 0 → ∃ i, i < 64 ∧ (effGuard s.tl g).getLsbD i = true
            ∧ r = (if q = .f32 ∧ isNan (lane (rv s.tl a) i) = true then (0x7FC00000 : W32) else lane (rv s.tl a) i) ++ BitVec.ofNat 32 i
            ∧ ∀ k, k < 64 → (effGuard s.tl g).getLsbD k = true →
                e.2 (lane (rv s.tl a) i) (lane (rv s.tl a) k) = false
                ∧ (k < i → e.2 (lane (rv s.tl a) k) (lane (rv s.tl a) i) = true))))
    ∧ Gives (.vredXsum g d a) s (fun t => tget 0 t.tl.units 7 = s.tl.abs + 2
        ∧ Sends s t 12 7 (.x d) (val64 ((rneF32 (exactSum (l.map valF32))).setWidth 64)))
    ∧ (let comb : Option W32 → Option W32 → Option W32 := fun u v => match u, v with
        | some x, some y => some (rneF32 (exactSum [valF32 x, valF32 y]))
        | some x, none => some x
        | none, w => w
      let level := fun (p : Nat → Option W32) (j : Nat) => comb (p (2 * j)) (p (2 * j + 1))
      let p0 := fun i : Nat => if (effGuard s.tl g).getLsbD i then some (lane (rv s.tl a) i) else none
      let r := match level (level (level (level (level (level p0))))) 0 with
        | none => (0 : W32)
        | some v => if isNan v then 0x7FC00000 else v
      Gives (.vredSum g .f32 false d a) s (fun t => Sends s t 6 7 (.x d) (val64 (r.setWidth 64))))
    ∧ (∀ e ∈ ([(.vredMin g .f32 d a, 0x7F800000, fun u v => decide (fpKey u ≤ fpKey v)),
        (.vredMax g .f32 d a, 0xFF800000, fun u v => decide (fpKey v ≤ fpKey u))] : List (Instr × W32 × (W32 → W32 → Bool))),
      Gives e.1 s (fun t => ∃ r : W32, Sends s t 6 7 (.x d) (val64 (r.setWidth 64))
        ∧ (l = [] → r = e.2.1) ∧ ((∃ v ∈ l, isNan v = true) → r = 0x7FC00000)
        ∧ (l ≠ [] → (∀ v ∈ l, isNan v = false) → r ∈ l ∧ ∀ v ∈ l, e.2.2 r v = true)))

/-- 07:R152, 04:R73: a scan sends each enabled lane, latency 8 on VXFORM, the combination of the enabled lanes up to and with it in
rising order: integers added modulo 2^32, .f32 sums rounded at every step, the smaller or the greater of two values in the order
of R144; with SAT the exact sum clamped. A NaN of .f32 is the canonical NaN (03:R59). -/
def Obligations.VectorScans : Prop :=
  ∀ (s : State) (g : Guard) (ty : IntTy) (lt : LaneTy) (d a : BitVec 5), quiet s = true → unitFree s 7 = true →
    let m := effGuard s.tl g
    let upTo := fun i => ((List.range (i + 1)).filter (fun k => m.getLsbD k)).map (fun k => lane (rv s.tl a) k)
    let canon := fun v : W32 => if lt = .f32 ∧ isNan v = true then (0x7FC00000 : W32) else v
    let key : W32 → Int := fun v => match lt with | .i32 => v.toInt | .n32 => (v.toNat : Int) | .f32 => fpKey v
    let fold := fun (op : W32 → W32 → W32) (l : List W32) => canon ((l.tail).foldl op (l.headD 0))
    let noNan := fun (op : W32 → W32 → W32) (u v : W32) =>
      if lt = .f32 ∧ (isNan u = true ∨ isNan v = true) then (0x7FC00000 : W32) else op u v
    let plus := fun u v : W32 => match lt with
      | .i32 => u + v | .n32 => u + v | .f32 => rneF32 (exactSum [valF32 u, valF32 v])
    ∀ e ∈ ([(.vscanSum g lt false d a, fold plus), (.vscanMin g lt d a, fold (noNan (fun u v => if key v < key u then v else u))),
        (.vscanMax g lt d a, fold (noNan (fun u v => if key u < key v then v else u))),
        (.vscanSum g (match ty with | .i32 => .i32 | .n32 => .n32) true d a,
          fun l => clampLane ty ((l.map (laneZ ty)).sum))] : List (Instr × (List W32 → W32))),
      Gives e.1 s (fun t => ∃ w, Sends s t 8 7 (.v d m) w
        ∧ ∀ i, i < 64 → m.getLsbD i = true → lane w i = e.2 (upTo i))

/-- 07:R154, R159, R140: VLD, VST, VMASK.LD and VMASK.ST use the banks of every line of their range at c + 1, whatever lanes are
enabled, and carry the enabled lanes' elements; an address that is not a multiple of the width, or a range outside one region,
is cause 0x17. 07:R155: VLD and VST of shared-exponent blocks use the one line of their address; the enabled slots b, those with
guard bit 4b, move the blocks at positions j + b; a store that writes a block also writes zeros into the line's pad bytes. Else
cause 0x17. That a form with no lane, or no slot, enabled counts as no scratchpad access for a fence is the model's choice (log
entry 97, against the words of 07:R158). -/
def Obligations.VectorRangeUses : Prop :=
  (∀ (s : State) (g : Guard) (ty : Ty) (d a : BitVec 5) (p : BitVec 3) (imm : BitVec 32), quiet s = true →
     let w := elemSize ty
     let at_ := rx s.tl a + imm.signExtend 64
     let m := effGuard s.tl g
     let ok := at_.toNat % w = 0 ∧ (at_.toNat + 64 * w ≤ 0x100000 ∨ (0x100000 ≤ at_.toNat ∧ at_.toNat + 64 * w ≤ 0x110000))
     let u : Tile := if onLanes m = [] then s.tl else accessed s.tl 1
     (ty.isSe = false → unitFree s 8 = true →
       (ok → Gives (.vld g ty d a imm) s (fun t => Uses s t 8
           [(1, rangeBanks at_.toNat (64 * w), .vload d w (laneSigned ty) ((onLanes m).map (fun i => (i, at_.toNat + w * i))) 2)] u))
       ∧ (ok → Gives (.vst g ty d a imm) s (fun t => Uses s t 8
           [(1, rangeBanks at_.toNat (64 * w), if onLanes m = [] then .idle else .writes
             ((onLanes m).map (fun i => cellsLE (at_.toNat + w * i) w (lane (rv s.tl d) i).toNat)).flatten)] u))
       ∧ (¬ok → Gives (.vld g ty d a imm) s (fun t => Slips s t 0x17 at_) ∧ Gives (.vst g ty d a imm) s (fun t => Slips s t 0x17 at_)))
     ∧ (unitFree s 5 = true →
         (PermitsAddr at_ 8 → Gives (.vmaskLd g p a imm) s (IfEnabled s g
             (fun t => Uses s t 5 [(1, bankSet at_, .maskLoad p at_.toNat)] (accessed s.tl 1))
             (fun t => Uses s t 5 [(1, bankSet at_, .idle)] s.tl))
           ∧ Gives (.vmaskSt g a p imm) s (IfEnabled s g
             (fun t => Uses s t 5 [(1, bankSet at_, .writes (cellsLE at_.toNat 8 (rg s.tl p).toNat))] (accessed s.tl 1))
             (fun t => Uses s t 5 [(1, bankSet at_, .idle)] s.tl)))
         ∧ (¬PermitsAddr at_ 8 → Gives (.vmaskLd g p a imm) s (fun t => Slips s t 0x17 at_)
             ∧ Gives (.vmaskSt g a p imm) s (fun t => Slips s t 0x17 at_))))
  ∧ (∀ (s : State) (g : Guard) (ty : Ty) (d a : BitVec 5) (imm : BitVec 32), quiet s = true → unitFree s 8 = true →
     ty.isSe = true →
     let w := elemSize ty
     let at_ := rx s.tl a + imm.signExtend 64
     let m := effGuard s.tl g
     let slots := (List.range 4).filter (fun b => m.getLsbD (4 * b))
     let u : Tile := if slots = [] then s.tl else accessed s.tl 1
     let pad := if ty = .se7 then [] else (List.range 4).map (fun k => (at_.toNat / 64 * 64 + 60 + k, (0 : Byte)))
     (BlocksPermitted ty m at_ →
       Gives (.vld g ty d a imm) s (fun t => Uses s t 8
         [(1, bankSet at_, .vloadSe d w (slots.map (fun b => (b, at_.toNat + w * b))))] u)
       ∧ Gives (.vst g ty d a imm) s (fun t => Uses s t 8 [(1, bankSet at_, if slots = [] then .idle else .writes
           ((slots.map (fun b => cellsLE (at_.toNat + w * b) w ((rv s.tl d).extractLsb' (128 * b) 128).toNat)).flatten ++ pad))] u))
     ∧ (¬BlocksPermitted ty m at_ → Gives (.vld g ty d a imm) s (fun t => Slips s t 0x17 at_)
         ∧ Gives (.vst g ty d a imm) s (fun t => Slips s t 0x17 at_)))

/-- 07:R156-R158: VGATHER, VSCATTER and VATOM use all 16 banks of the region of x[A] for sixteen cycles; a gather reads at c + 1, a
scatter writes at c + 16, an atomic reads at c + 1 what it will write at c + 16. Outside both regions x[A] is cause 0x17, and so is
the address of the lowest enabled lane that leaves the region or is misaligned. That a form with no lane enabled counts as no
scratchpad access for a fence is the model's choice (log entry 97, against the words of 07:R158). -/
def Obligations.LaneAddressedUses : Prop :=
  ∀ (s : State) (g : Guard) (ty : Ty) (it : IntTy) (d a b c : BitVec 5), quiet s = true → unitFree s 8 = true →
    let m := effGuard s.tl g
    let base := rx s.tl a
    let at_ := fun i => base + (lane (rv s.tl b) i).setWidth 64
    let good := fun (w i : Nat) => (at_ i).toNat ≤ 0x10FFFF ∧ ((at_ i).toNat < 0x100000 ↔ base.toNat < 0x100000)
      ∧ (at_ i).toNat % w = 0
    let banks : BitVec 32 := if base.toNat < 0x100000 then 0x0000FFFF else 0xFFFF0000
    let u : Tile := if m = 0 then s.tl else accessed s.tl 16
    let w := elemSize ty
    let sgn := match it with | .i32 => true | .n32 => false
    (base.toNat ≤ 0x10FFFF → (∀ i ∈ onLanes m, good w i) →
      Gives (.vgather g ty d a b) s (fun t => tget 0 t.tl.units 8 = s.tl.abs + 16 ∧ Uses s t 8
        ((1, banks, .vload d w (laneSigned ty) ((onLanes m).map (fun i => (i, (at_ i).toNat))) 18) :: heldUses banks 2 15) u)
      ∧ Gives (.vscatter g ty d a b) s (fun t => tget 0 t.tl.units 8 = s.tl.abs + 16 ∧ Uses s t 8
        (heldUses banks 1 15 ++ [(16, banks, if m = 0 then .idle else .writes
          ((onLanes m).map (fun i => cellsLE (at_ i).toNat w (lane (rv s.tl d) i).toNat)).flatten)]) u))
    ∧ (base.toNat ≤ 0x10FFFF → (∀ i ∈ onLanes m, good 4 i) →
        ∀ e ∈ [(Instr.vatomAdd g it d a b c, RmwOp.add), (.vatomMin g it d a b c, .min), (.vatomMax g it d a b c, .max),
          (.vatomXchg g it d a b c, .xchg)],
          Gives e.1 s (fun t => tget 0 t.tl.units 8 = s.tl.abs + 16 ∧ Uses s t 8
            ((1, banks, .vatomRead d sgn e.2 ((onLanes m).map (fun i => (i, (at_ i).toNat, lane (rv s.tl c) i))))
              :: heldUses banks 2 15) u))
    ∧ (∀ e ∈ [(Instr.vgather g ty d a b, w), (.vscatter g ty d a b, w), (.vatomAdd g it d a b c, 4), (.vatomMin g it d a b c, 4),
        (.vatomMax g it d a b c, 4), (.vatomXchg g it d a b c, 4)],
        (0x10FFFF < base.toNat → Gives e.1 s (fun t => Slips s t 0x17 base))
        ∧ (∀ i ∈ onLanes m, base.toNat ≤ 0x10FFFF → ¬good e.2 i → (∀ k ∈ onLanes m, k < i → good e.2 k) →
            Gives e.1 s (fun t => Slips s t 0x17 (at_ i))))

/-- 07:R137, R154-R159, 06:R119: what the uses carry. A vector read sends every lane whose bank serves it its bytes, extended as its
format says, and nothing when no bank of its lanes does; the one line of shared-exponent blocks, and a mask's eight bytes, come
whole or not at all. The lanes of one VATOM run in rising order, a later lane of the same word seeing the earlier one's update;
the old values come at the end of c + 19 and the words are written at c + 16. -/
def Obligations.VectorUsesMoveLanes : Prop :=
  (∀ (s : State) (bad : BitVec 32) (j : Job) (d : BitVec 5) (w after : Nat) (sgn : Bool) (lanes : List (Nat × Nat)),
    j.op = .vload d w sgn lanes after → (lanes.map (fun l => l.1)).Nodup → (∀ l ∈ lanes, l.1 < 64) →
    let served := fun l : Nat × Nat => l ∈ lanes ∧ bad.getLsbD (bankOf l.2) = false
    w ≤ 4 → ((lanes = [] ∨ ∃ l, served l) → ∃ m v,
      (runJob bad j s).tl.pend = { due := s.tl.abs + after, order := j.order, unit := j.unit, dest := .v d m, val := v } :: s.tl.pend
      ∧ (∀ i, i < 64 → (m.getLsbD i = true ↔ ∃ l, served l ∧ l.1 = i))
      ∧ (∀ l, served l → Extends sgn w (mreadLE s.tl.mem l.2 w) (lane v l.1)) ∧ SameBytes s (runJob bad j s))
    ∧ (lanes ≠ [] → (∀ l, ¬served l) → runJob bad j s = s))
  ∧ (∀ (s : State) (bad : BitVec 32) (j : Job) (d : BitVec 5) (w : Nat) (slots : List (Nat × Nat)), j.op = .vloadSe d w slots →
    (slots.map (fun l => l.1)).Nodup → (∀ l ∈ slots, l.1 < 4) →
    ((∀ l ∈ slots, bad.getLsbD (bankOf l.2) = false) → ∃ m v,
      (runJob bad j s).tl.pend = { due := s.tl.abs + 2, order := j.order, unit := j.unit, dest := .v d m, val := v } :: s.tl.pend
      ∧ (∀ i, i < 64 → (m.getLsbD i = true ↔ ∃ l ∈ slots, l.1 = i / 4))
      ∧ (∀ l ∈ slots, ∀ k, k < 4 → lane v (4 * l.1 + k) = BitVec.ofNat 32 (mreadLE s.tl.mem l.2 w / 2 ^ (32 * k)))
      ∧ SameBytes s (runJob bad j s))
    ∧ ((∃ l ∈ slots, bad.getLsbD (bankOf l.2) = true) → runJob bad j s = s))
  ∧ (∀ (s : State) (bad : BitVec 32) (j : Job) (p : BitVec 3) (addr : Nat), j.op = .maskLoad p addr →
    (bad.getLsbD (bankOf addr) = false → (runJob bad j s).tl.pend = { due := s.tl.abs, order := j.order, unit := j.unit
                                                                      dest := .g p (BitVec.allOnes 64), val := BitVec.ofNat 2048 (mreadLE s.tl.mem addr 8) } :: s.tl.pend
      ∧ SameBytes s (runJob bad j s))
    ∧ (bad.getLsbD (bankOf addr) = true → runJob bad j s = s))
  ∧ (∀ (s : State) (bad : BitVec 32) (j : Job) (d : BitVec 5) (sgn : Bool) (op : RmwOp) (lanes : List (Nat × Nat × W32)),
    j.op = .vatomRead d sgn op lanes → (lanes.map (fun l => l.1)).Nodup → (∀ l ∈ lanes, l.1 < 64) →
    let kept := lanes.filter (fun l => !bad.getLsbD (bankOf l.2.1))
    let word := fun a : Nat => (BitVec.ofNat 32 (mreadLE s.tl.mem a 4) : W32)
    let upTo := fun (l : List (Nat × Nat × W32)) (a : Nat) =>
      (l.filter (fun e => e.2.1 == a)).foldl (fun v e => rmw op sgn v e.2.2 0) (word a)
    (lanes = [] ∨ kept ≠ [] → ∃ m v,
      (runJob bad j s).tl.pend = { due := s.tl.abs + 18, order := j.order, unit := j.unit, dest := .v d m, val := v } :: s.tl.pend
      ∧ (∀ i, i < 64 → (m.getLsbD i = true ↔ ∃ l ∈ kept, l.1 = i))
      ∧ (∀ i a x r, kept = i ++ a :: r → x = a.2.1 → lane v a.1 = upTo i x)
      ∧ SameBytes s (runJob bad j s)
      ∧ ∀ q ∈ s.tl.jobs, q.order = j.order → q.cyc = s.tl.abs + 15 → q.op = .idle → ∃ cells,
          { q with op := .writes cells } ∈ (runJob bad j s).tl.jobs
          ∧ ((∀ l ∈ kept, l.2.1 % 4 = 0) → ∀ l ∈ kept, ∀ k, k < 4 →
              mread (mwrites s.tl.mem cells) (l.2.1 + k) = (upTo kept l.2.1).extractLsb' (8 * k) 8)
          ∧ ∀ b, (∀ l ∈ kept, b < l.2.1 ∨ l.2.1 + 4 ≤ b) → mread (mwrites s.tl.mem cells) b = mread s.tl.mem b)
    ∧ (lanes ≠ [] → kept = [] → runJob bad j s = s))
  ∧ (∀ (op : RmwOp) (sgn : Bool) (old b cmp : W32), RmwGives op sgn old b cmp (rmw op sgn old b cmp))

/-- 07:R161, R164: SAMPLE holds SAMPLER for 4G + 16 cycles and reads its four logit lines of group k in pass p at c + 1 + p(G +
4) + k, with a mask line where k is a multiple of 8; its results come at c + 4G + 23. A vocabulary out of range, when enabled,
is cause 0x17, and so is an address that fails its limits, in either case. 07:R162, R163: from the lines read, each logit times τ is
legal where its mask bit is set and it is no NaN; its weight comes from its distance below the greatest legal one and the table
E of the integers nearest to 2^31 · 2^(−j/256); with k other than 0 the k largest weights are kept, ties to the lowest index; the
token is the first whose running sum of weights exceeds floor(u · W / 2^64), u the first two Philox words, with the guard all
ones, or NOLEGAL with the guard all zeros where every weight is 0; NANSEEN says that a NaN stood at a set mask bit. Where a line
changed between its reads the result is open (log entry 9) within the bounds of R164.
The order of SAMPLE's checks is the model's reading (log entry 39). -/
def Obligations.SamplesDrawLegalTokens : Prop :=
  (∀ (s : State) (g : Guard) (d : BitVec 5) (gd : BitVec 3) (a b c : BitVec 5) (v : BitVec 32), quiet s = true →
     unitFree s 10 = true →
     let n := (v.toNat + 63) / 64
     let xa := (rx s.tl a).toNat
     let xb := (rx s.tl b).toNat
     let inRange := 1 ≤ v.toNat ∧ v.toNat ≤ 262144
     let addrA := xa % 256 = 0 ∧ xa + 256 * n ≤ 0x100000
     let addrB := xb % 64 = 0 ∧ 0x100000 ≤ xb ∧ xb + 64 * ((v.toNat + 511) / 512) ≤ 0x110000
     let lines := fun k => [xa + 256 * k, xa + 256 * k + 64, xa + 256 * k + 128, xa + 256 * k + 192]
       ++ (if k % 8 = 0 then [xb + 64 * (k / 8)] else [])
     (inRange ∨ enabled s.tl g = false → addrA → addrB → Gives (.sample g d gd a b c v) s (fun t =>
       tget 0 t.tl.units 10 = s.tl.abs + 4 * n + 16 ∧ t.tl.regs = s.tl.regs ∧ SameBytes s t ∧ OnlyTile s t ∧ t.tl.pend = s.tl.pend
         ∧ (∀ q k, q < 4 → k < n → { cyc := s.tl.abs + (1 + q * (n + 4) + k), order := s.tl.order, unit := 10, banks := banksOf (lines k)
                                     op := if enabled s.tl g then .sampleRead q k else .idle } ∈ t.tl.jobs)
         ∧ (enabled s.tl g = true →
             { cyc := s.tl.abs + (4 * n + 23), order := s.tl.order, unit := 10, banks := 0, op := .sampleEnd } ∈ t.tl.jobs
             ∧ t.tl.samples = s.tl.samples ++ [{ order := s.tl.order, d := d, gd := gd, a := xa, b := xb, ctl := rv s.tl c, v := v.toNat
                                                 lines := [], changed := false, cancelled := false }])))
     ∧ (¬inRange → enabled s.tl g = true → Gives (.sample g d gd a b c v) s (fun t => Slips s t 0x17 (v.setWidth 64)))
     ∧ (inRange ∨ enabled s.tl g = false → ¬addrA → Gives (.sample g d gd a b c v) s (fun t => Slips s t 0x17 (rx s.tl a)))
     ∧ (inRange ∨ enabled s.tl g = false → addrA → ¬addrB → Gives (.sample g d gd a b c v) s (fun t => Slips s t 0x17 (rx s.tl b))))
  ∧ ((∀ (r : SampleRun) (m : W32) (w : Nat → Nat), r.v ≤ 262144 →
     let scaled := fun i => rneF32 (mulExt (valF32 (sampleLogit r i)) (valF32 (lane r.ctl 6)))
     let legal := fun i => sampleMask r i = true ∧ isNan (scaled i) = false
     let steps : W32 → Nat := fun t => match valF32 t with
       | .fin false n e => min (if 0 ≤ e + 8 then n * 2 ^ (e + 8).toNat else n / 2 ^ (-(e + 8)).toNat) 65535
       | .fin true _ _ => 0
       | _ => 65535
     let k := (lane r.ctl 7).toNat
     let kept := fun i => k = 0 ∨ (List.range r.v).countP (fun j => decide (w i < w j) || (w j == w i && decide (j < i))) < k
     let v := fun i => if kept i then w i else 0
     let upTo := fun n => ((List.range n).map v).sum
     let y := philox (r.ctl.extractLsb' 0 128) (lane r.ctl 4) (lane r.ctl 5)
     let q := sampleResult r
     ((∀ i, i < r.v → ¬legal i) → m = 0xFF800000) →
     ((∃ i, i < r.v ∧ legal i) → (∃ i, i < r.v ∧ legal i ∧ scaled i = m) ∧ ∀ i, i < r.v → legal i → fpKey (scaled i) ≤ fpKey m) →
     (∀ i, i < r.v → w i = if legal i ∧ scaled i ≠ 0xFF800000 then
         let d := if laneEq .f32 (scaled i) m then 0 else rneF32 (exactSum [valF32 m, (valF32 (scaled i)).negate])
         let n := steps (rneF32 (mulExt (valF32 d) (valF32 0x3FB8AA3B)))
         if 32 ≤ n / 256 then 0 else weightE (n % 256) / 2 ^ (n / 256)
       else 0) →
     PhiloxGives (r.ctl.extractLsb' 0 128) (lane r.ctl 4) (lane r.ctl 5) y
     ∧ (q.1.getLsbD 32 = true ↔ ∃ i, i < r.v ∧ sampleMask r i = true ∧ isNan (scaled i) = true) ∧ q.1.extractLsb' 34 30 = 0
     ∧ (upTo r.v = 0 → q.2 = 0 ∧ q.1.extractLsb' 0 32 = 0xFFFFFFFF ∧ q.1.getLsbD 33 = true)
     ∧ (upTo r.v ≠ 0 → q.2 = BitVec.allOnes 64 ∧ q.1.getLsbD 33 = false ∧ ∃ tok, tok < r.v ∧ q.1.extractLsb' 0 32 = BitVec.ofNat 32 tok
         ∧ upTo tok ≤ (y.2.1 ++ y.1).toNat * upTo r.v / 2 ^ 64 ∧ (y.2.1 ++ y.1).toNat * upTo r.v / 2 ^ 64 < upTo (tok + 1)))
   ∧ (∀ j, j < 256 → (2 * weightE j - 1) ^ 256 * 2 ^ j ≤ 2 ^ 8192 ∧ 2 ^ 8192 < (2 * weightE j + 1) ^ 256 * 2 ^ j)
   ∧ (∀ (r : SampleRun) (f : BitVec 64), 1 ≤ r.v → r.v ≤ 262144 →
       let q := sampleOpen r f
       (q.2 = 0 ∧ q.1.extractLsb' 0 32 = 0xFFFFFFFF ∧ q.1.getLsbD 33 = true ∧ q.1.extractLsb' 34 30 = 0)
       ∨ (q.2 = BitVec.allOnes 64 ∧ q.1.extractLsb' 33 31 = 0 ∧ (q.1.extractLsb' 0 32).toNat < r.v)))

/-! ### The array (08, 09) -/

/-- 09:R189, 08:R166, R168: ASHAPE names the bands: one named begins its wake of 2,000 cycles unless it wakes or is awake, one
not named is asleep and its rows of both planes are empty; a band in use by an earlier instruction is cause 0x16 with 11.
BAND_AWAKE makes awake what has woken. 09:R190, R194: WFILL and CTAB use the banks of what they read, WFILL one record a cycle
and the WSRAM port; the records and the table they carry; a violated field is cause 0x17.
That WFILL holds the WSRAM port, nullified too, is the model's reading (log entry 21). -/
def Obligations.ArrayShapesAndFills : Prop :=
  (∀ (s : State) (g : Guard) (m : BitVec 4), quiet s = true →
    (unitFree s 11 = true → (∀ k, k < 4 → m.getLsbD k = false → s.tl.arr.bandUse.getD k 0 ≤ s.tl.abs) → Gives (.ashape g m) s (IfEnabled s g
      (fun t => Becomes s t { s.tl with arr := { s.tl.arr with
          ashape := m, band := t.tl.arr.band
          plane0 := { s.tl.arr.plane0 with loaded := s.tl.arr.plane0.loaded &&& m }
          plane1 := { s.tl.arr.plane1 with loaded := s.tl.arr.plane1.loaded &&& m } } }
        ∧ ∀ k : Fin 4, t.tl.arr.band[k] = if m.getLsbD k
            then (if s.tl.arr.band[k] = .asleep ∧ s.tl.arr.bandOk.getLsbD k = true then .waking 2000 else s.tl.arr.band[k])
            else .asleep)
      (fun t => WritesNothing s t)))
    ∧ (∀ k, k < 4 → m.getLsbD k = false → s.tl.abs < s.tl.arr.bandUse.getD k 0 →
        Gives (.ashape g m) s (fun t => Slips s t 0x16 11)))
  ∧ (∀ s : State, Gives .bandAwake s (fun t => OnlyTile s t
      ∧ t.tl = { s.tl with arr := { s.tl.arr with band := t.tl.arr.band } }
      ∧ ∀ k : Fin 4, t.tl.arr.band[k] = if s.tl.arr.band[k] = .waking 1 then .awake
          else if s.tl.arr.band[k] = .waking 0 then .awake else s.tl.arr.band[k]))
  ∧ (∀ (s : State) (g : Guard) (a b : BitVec 5) (nrow : BitVec 8) (spoff : BitVec 21), quiet s = true →
      let at_ := rx s.tl a + spoff.setWidth 64
      let xb := rx s.tl b
      let n := nrow.toNat + 1
      let col := (xb.extractLsb' 8 7).toNat
      let set := (xb.extractLsb' 0 6).toNat
      let held := { s.tl.arr with holds := s.tl.arr.holds ++ [(0, s.tl.abs, s.tl.abs + n)] }
      let rows := fun (op : Nat → JobOp) => (List.range n).map (fun j => (1 + j, rangeBanks (at_.toNat + 512 * j) 512, op j))
      (xb &&& ~~~0x7F3F = 0 → col + n ≤ 128 → spanOk at_ 64 (512 * n) = true → arrFree s.tl 0 s.tl.abs (s.tl.abs + n) →
        Gives (.wfill g a b nrow spoff) s (IfEnabled s g
          (fun t => Uses s t 11 (rows (fun j => .wfill ((col + j) * 0x8000 + 512 * set) (at_.toNat + 512 * j)))
            { accessed s.tl n with arr := { held with wsramDirty := true } })
          (fun t => Uses s t 11 (rows (fun _ => .idle)) { s.tl with arr := held })))
      ∧ (xb &&& ~~~0x7F3F ≠ 0 → Gives (.wfill g a b nrow spoff) s (fun t => Slips s t 0x17 xb))
      ∧ (xb &&& ~~~0x7F3F = 0 → 128 < col + n → Gives (.wfill g a b nrow spoff) s (fun t => Slips s t 0x17 (BitVec.ofNat 64 (col + n))))
      ∧ (xb &&& ~~~0x7F3F = 0 → col + n ≤ 128 → spanOk at_ 64 (512 * n) = false →
          Gives (.wfill g a b nrow spoff) s (fun t => Slips s t 0x17 at_))
      ∧ (spanOk at_ 32 32 = true → Gives (.ctab g a spoff) s (IfEnabled s g
          (fun t => Uses s t 11 [(1, bankSet at_, .ctab at_.toNat)] (accessed s.tl 1))
          (fun t => Uses s t 11 [(1, bankSet at_, .idle)] s.tl)))
      ∧ (spanOk at_ 32 32 = false → Gives (.ctab g a spoff) s (fun t => Slips s t 0x17 at_)))
  ∧ (∀ (s : State) (j : Job) (dst src : Nat), let u := runJob 0 j s
      (j.op = .wfill dst src → (∀ k, k < 512 → mread u.tl.arr.wsram (dst + k) = mread s.tl.mem (src + k))
        ∧ (∀ a, a < dst ∨ dst + 512 ≤ a → mread u.tl.arr.wsram a = mread s.tl.arr.wsram a) ∧ SameBytes s u)
      ∧ (j.op = .ctab src → SameBytes s u ∧ u.tl.arr.stage.length = 16
          ∧ ∀ i, i < 16 → u.tl.arr.stage.getD i 0 = mread s.tl.mem (src + 2 * i + 1) ++ mread s.tl.mem (src + 2 * i)))

/-- 09:R198-R200: ACCRD and ACCSAVE read accumulator row AROW + m at c + 1 + m and write its lines at c + 2 + m; ACCWR and ACCREST
read the lines at c + 1 + m and write the row at the end of c + 2 + m; ACCZ writes zeros at the end of c + 1 + m; with the ports
they hold. ACCRD gives each of a row's 128 elements rounded to the nearest code of its format, or the row's eight shared-exponent
blocks with zeros in the bytes that none covers; ACCWR writes each element's value as the nearest FP32; ACCSAVE and ACCREST move
the 512 bytes as they are. A row is written whole, and no other row. Rows beyond 255 (of ACCRD and ACCWR, in a format of R198's
table, the only ones that their words have) or an address that is not permitted are
cause 0x17; that the address is judged first is the model's reading (log entry 63). -/
def Obligations.AccumulatorTransfers : Prop :=
  (∀ (s : State) (g : Guard) (ty : Ty) (a : BitVec 5) (arow nrow : BitVec 8) (spoff : BitVec 21), quiet s = true →
    s.tl.arr.badBytes = [] →
    let at_ := rx s.tl a + spoff.setWidth 64
    let n := nrow.toNat + 1
    let held := fun (h : Nat × Nat × Nat) (t : Tile) => { t with arr := { t.arr with holds := t.arr.holds ++ [h] } }
    let outH := (4, s.tl.abs + 1, s.tl.abs + n)
    let inH := (2, s.tl.abs + 2, s.tl.abs + 1 + n)
    let zH := (2, s.tl.abs + 1, s.tl.abs + n)
    (∀ e ∈ ([(.accrd g ty a arow nrow spoff, some ty), (.accsave g a arow nrow spoff, none)] : List (Instr × Option Ty)),
      let ls := accLines e.2
      let line := fun i => at_.toNat + 64 * ls * i
      arow.toNat + n ≤ 256 → spanOk at_ 64 (64 * ls * n) = true → arrFree s.tl 4 (s.tl.abs + 1) (s.tl.abs + n) →
        Gives e.1 s (IfEnabled s g
          (fun t => Uses s t 11 ((List.range n).flatMap (fun i => [(1 + i, 0, .accRead (arow.toNat + i) e.2 (line i)),
              (2 + i, rangeBanks (line i) (64 * ls), .idle)])) (held outH (accessed s.tl (n + 1))))
          (fun t => Uses s t 11 ((List.range n).map (fun i => (2 + i, rangeBanks (line i) (64 * ls), .idle))) (held outH s.tl))))
    ∧ (∀ e ∈ ([(.accwr g ty a arow nrow spoff, some ty), (.accrest g a arow nrow spoff, none)] : List (Instr × Option Ty)),
      let ls := accLines e.2
      let line := fun i => at_.toNat + 64 * ls * i
      arow.toNat + n ≤ 256 → spanOk at_ 64 (64 * ls * n) = true → arrFree s.tl 2 (s.tl.abs + 2) (s.tl.abs + 1 + n) →
        Gives e.1 s (IfEnabled s g
          (fun t => Uses s t 11 ((List.range n).map (fun i =>
              (1 + i, rangeBanks (line i) (64 * ls), .rowRead (arow.toNat + i) e.2 (line i) ls))) (held inH (accessed s.tl n)))
          (fun t => Uses s t 11 ((List.range n).map (fun i => (1 + i, rangeBanks (line i) (64 * ls), .idle))) (held inH s.tl))))
    ∧ (arow.toNat + n ≤ 256 → arrFree s.tl 2 (s.tl.abs + 1) (s.tl.abs + n) → Gives (.accz g arow nrow) s (IfEnabled s g
        (fun t => Uses s t 11 ((List.range n).map (fun i => (1 + i, 0, .accWrite (arow.toNat + i) 0))) (held zH s.tl))
        (fun t => Becomes s t (held zH s.tl))))
    ∧ (accLines (some ty) ≠ 0 → ∀ e ∈ ([(.accrd g ty a arow nrow spoff, accLines (some ty)), (.accsave g a arow nrow spoff, 8),
        (.accwr g ty a arow nrow spoff, accLines (some ty)), (.accrest g a arow nrow spoff, 8)] : List (Instr × Nat)),
        (256 < arow.toNat + n → spanOk at_ 64 (64 * e.2 * n) = true →
          Gives e.1 s (fun t => Slips s t 0x17 (BitVec.ofNat 64 (arow.toNat + n))))
        ∧ (spanOk at_ 64 (64 * e.2 * n) = false → Gives e.1 s (fun t => Slips s t 0x17 at_)))
    ∧ (256 < arow.toNat + n → Gives (.accz g arow nrow) s (fun t => Slips s t 0x17 (BitVec.ofNat 64 (arow.toNat + n)))))
  ∧ (∀ e ∈ ([(none, 8), (some .f32, 8), (some .bf16, 4), (some .f16, 4), (some .e4m3, 2), (some .e5m2, 2), (some .se7, 2),
      (some .se4, 2), (some .se2, 1), (some .i32, 8), (some .n32, 8), (some .i16, 4), (some .n16, 4), (some .i8, 2), (some .n8, 2)] : List (Option Ty × Nat)), accLines e.1 = e.2)
  ∧ (∀ (s : State) (j : Job) (row addr : Nat) (v : BitVec 4096), let u := runJob 0 j s
      (j.op = .accWrite row v → SameBytes s u ∧ (∀ n, n < 128 → accElem u.tl row n = v.extractLsb' (32 * n) 32)
        ∧ ∀ r n, r ≠ row → n < 128 → accElem u.tl r n = accElem s.tl r n)
      ∧ (j.op = .accRead row none addr → SameBytes s u ∧ ∀ q ∈ s.tl.jobs, q.order = j.order → q.cyc = s.tl.abs + 1 → q.op = .idle →
          { q with op := .writes (cellsLE addr 512 (rowNat (accElem s.tl row) 128)) } ∈ u.tl.jobs)
      ∧ (j.op = .rowRead row none addr 8 →
          let next : Job := { cyc := s.tl.abs + 1, order := j.order, unit := 11, banks := 0
                              op := .accWrite row (BitVec.ofNat 4096 (mreadLE s.tl.mem addr 512)) }
          u.tl.jobs = s.tl.jobs ++ [next] ∧ SameBytes s u)
      ∧ (∀ fmt : Ty, let ls := accLines (some fmt)
          let elem := fun (bits n v : Nat) => v / 2 ^ (bits * n) % 2 ^ bits
          let bytesAt := fun (k n v : Nat) => v / 2 ^ (8 * k) % 2 ^ (8 * n)
          let gives := fun (R : Nat → Prop) => SameBytes s u ∧ ∀ q ∈ s.tl.jobs, q.order = j.order → q.cyc = s.tl.abs + 1 →
            q.op = .idle → ∃ w : Nat, R w ∧ { q with op := .writes (cellsLE addr (64 * ls) w) } ∈ u.tl.jobs
          let takes := fun (R : Nat → W32) => SameBytes s u ∧ ∃ w : BitVec 4096, (∀ n, n < 128 → w.extractLsb' (32 * n) 32 = R n)
            ∧ u.tl.jobs = s.tl.jobs ++ [{ cyc := s.tl.abs + 1, order := j.order, unit := 11, banks := 0, op := .accWrite row w }]
          let bytes := mreadLE s.tl.mem addr (64 * ls)
          (∀ bits, (fmt, bits) ∈ ([(.f32, 32), (.i32, 32), (.n32, 32), (.bf16, 16), (.f16, 16), (.i16, 16), (.n16, 16), (.e4m3, 8)
              , (.e5m2, 8), (.i8, 8), (.n8, 8)] : List (Ty × Nat)) →
            (j.op = .accRead row (some fmt) addr → gives (fun w => ∀ n, n < 128 →
              elem bits n w = elemRound fmt .ne (valF32 (accElem s.tl row n))))
            ∧ (j.op = .rowRead row (some fmt) addr ls → takes (fun n => rneF32 (elemValue fmt (elem bits n bytes)))))
          ∧ (∀ q sz per, (fmt, q, sz, per) ∈ ([(.se2, .se2, 6, 10), (.se4, .se4, 10, 6), (.se7, .se7, 16, 4)] :
              List (Ty × SeTy × Nat × Nat)) →
            let place := fun b : Nat => 64 * (b / per) + sz * (b % per)
            (j.op = .accRead row (some fmt) addr → gives (fun w =>
              (∀ b, b < 8 → bytesAt (place b) sz w = seEncode q ((List.range 16).map (fun i => valF32 (accElem s.tl row (16 * b + i)))))
              ∧ ∀ k, k < 64 * ls → (∀ b, b < 8 → k < place b ∨ place b + sz ≤ k) → bytesAt k 1 w = 0))
            ∧ (j.op = .rowRead row (some fmt) addr ls →
                takes (fun n => rneF32 (seDecode q (bytesAt (place (n / 16)) sz bytes) (n % 16)))))))
  ∧ (∀ (lvl : Bool) (g : Guard) (arow nrow : BitVec 8),
      decodeWords lvl [regWord 0x25 2 2 g 0 0 0, 0#4 ++ arow ++ 0#2 ++ nrow ++ 0#10, 0] = .ok (.accz g arow nrow))

/-- 09:R191-R193, R195-R197, 08:R167, R176, R177: WLOAD and MMA use the banks of the lines they read and hold their resources and
bands; a band of ASHAPE that is not awake is cause 0x15 with those bands. SHADOW_PLANE_LOAD gives the plane the set's records, the
latched format, table, bands and outlier entries. MMA_ROW_LANDING writes one accumulator row: in every format, element n is the
rounded exact sum of the products of the active pairs (k, e) of the named bands (R176: p the lesser packing, h the group; empty rows have
none), of the applicable outliers' products (R179), and, when it accumulates, of the element before. What an element of a row and a
weight of a record are in each format (R170, 03:R54, R67, R69).
What a spoiled outlier list and a nullified load or product hold is the model's reading (log entries 20, 21). -/
def Obligations.WeightLoadsAndProducts : Prop :=
  (∀ (s : State) (g : Guard) (ty : Ty) (acc swap : Bool) (h : BitVec 3) (d a b : BitVec 5) (arow nrow : BitVec 8)
      (spoff : BitVec 21), quiet s = true → s.tl.arr.badBytes = [] → s.tl.arr.plane0.bad = [] → s.tl.arr.plane1.bad = [] → s.tl.arr.ashape ≠ 0 →
    let at_ := rx s.tl a + spoff.setWidth 64
    let bands := s.tl.arr.ashape
    let nb := popFrom bands 4
    let cnt := (rx s.tl d).toNat
    let nl := (cnt + 7) / 8
    let fin := 32 * nb
    let lines := fun i => (List.range 2).filterMap (fun k => if 2 * i + k < nl then some (at_.toNat + 64 * (2 * i + k)) else none)
    let used := fun (last : Nat) (t : Tile) => ∀ k, k < 4 → t.arr.bandUse.getD k 0
      = if bands.getLsbD k then max (s.tl.arr.bandUse.getD k 0) (last + 1) else s.tl.arr.bandUse.getD k 0
    let awake := ∀ k : Fin 4, bands.getLsbD k = true → s.tl.arr.band[k] = .awake
    let loadOk := (rx s.tl b).toNat ≤ 63 ∧ cnt ≤ 512 ∧ (cnt ≠ 0 → spanOk at_ 64 (64 * nl) = true)
    let pl := if s.tl.arr.active1 != swap then s.tl.arr.plane1 else s.tl.arr.plane0
    let p := min (packing pl.fmt) (packing ty)
    let rows := nrow.toNat + 1
    let rl := actLines ty p nb
    let land := s.tl.abs + fin + 8
    let mmaOk := arow.toNat + rows ≤ 256 ∧ at_.toNat % 64 = 0 ∧ at_.toNat + 64 * rl * rows ≤ 0x100000
      ∧ h.toNat < packing pl.fmt / p
    (loadOk → awake → arrFree s.tl 0 s.tl.abs (s.tl.abs + fin) → arrFree s.tl 5 s.tl.abs (s.tl.abs + fin) →
      (∀ m ∈ s.tl.arr.mmas, m.plane1 = !s.tl.arr.active1 → m.lastLand < s.tl.abs + fin) →
      let en := enabled s.tl g
      let run : WloadRun := { order := s.tl.order, fmt := ty, set := (rx s.tl b).toNat, codes := s.tl.arr.stage, bands := bands
                              nout := cnt, outl := [], failed := false, plane1 := !s.tl.arr.active1 }
      Gives (.wload g ty d a b spoff) s (fun t => ∃ u : Tile, Uses s t 11
          ((List.range ((nl + 1) / 2)).map (fun i => (1 + i, banksOf (lines i), if en then .listRead (2 * i) (lines i) else .idle))
            ++ [(fin, 0, if en then .shadowLoad else .idle)]) u
        ∧ u = { s.tl with evs := u.evs, arr := u.arr }
        ∧ u.arr = { s.tl.arr with holds := u.arr.holds, bandUse := u.arr.bandUse, wloads := u.arr.wloads }
        ∧ u.arr.holds = s.tl.arr.holds ++ [(0, s.tl.abs, s.tl.abs + fin), (5, s.tl.abs, s.tl.abs + fin)]
        ∧ u.arr.wloads = s.tl.arr.wloads ++ (if en then [run] else [])
        ∧ used (s.tl.abs + fin) u))
    ∧ (mmaOk → awake → arrFree s.tl 1 s.tl.abs (s.tl.abs + rows - 1) → arrFree s.tl 2 land (land + rows - 1) →
        (acc = true → arrFree s.tl 3 land (land + rows - 1)) → (swap = true → arrFree s.tl 5 s.tl.abs s.tl.abs) →
        let en := enabled s.tl g
        let one := if en then s.tl.arr.active1 != swap else s.tl.arr.active1
        let run : MmaRun := { order := s.tl.order, fmt := ty, acc := acc, h := h.toNat, arow := arow.toNat, rows := rows, plane1 := one
                              bands := bands, act := [], lastLand := land + rows - 1 }
        Gives (.mma g ty acc swap h a arow nrow spoff) s (fun t => ∃ u : Tile, Uses s t 11
          ((List.range rows).map (fun i => (1 + i, rangeBanks (at_.toNat + 64 * rl * i) (64 * rl),
              if en then .mmaRead i (at_.toNat + 64 * rl * i) rl else .idle))
            ++ (if en then (List.range rows).map (fun i => (fin + 8 + i, 0, .mmaLand i)) else [])) u
        ∧ u = { s.tl with evs := u.evs, arr := u.arr }
        ∧ u.arr = { s.tl.arr with holds := u.arr.holds, bandUse := u.arr.bandUse, active1 := one, mmas := u.arr.mmas }
        ∧ u.arr.mmas = s.tl.arr.mmas ++ [run]
        ∧ u.arr.holds = s.tl.arr.holds ++ [(1, s.tl.abs, s.tl.abs + rows - 1), (2, land, land + rows - 1)]
            ++ (if acc then [(3, land, land + rows - 1)] else [])
        ∧ used (s.tl.abs + rows + fin + 7) u))
    ∧ (∀ m : BitVec 4, m ≠ 0 → (∀ k : Fin 4, m.getLsbD k = true ↔ bands.getLsbD k = true ∧ s.tl.arr.band[k] ≠ .awake) →
        unitFree s 11 = true → s.tl.arr.holds = [] → s.tl.arr.mmas = [] →
        (loadOk → Gives (.wload g ty d a b spoff) s (fun t => Slips s t 0x15 (m.setWidth 64)))
        ∧ (mmaOk → Gives (.mma g ty acc swap h a arow nrow spoff) s (fun t => Slips s t 0x15 (m.setWidth 64)))))
  ∧ (∀ (s : State) (j : Job) (r : WloadRun), s.tl.jobs = [j] → j.cyc = s.tl.abs → j.op = .shadowLoad → s.tl.arr.wloads = [r] →
      r.order = j.order → r.set ≤ 63 → Memory.wf s.tl.arr.wsram = true → Gives .shadowPlaneLoad s (fun t =>
        let pick := fun (a : ArraySt) (one : Bool) => if one then a.plane1 else a.plane0
        OnlyTile s t ∧ t.tl.arr.wloads = [] ∧ pick t.tl.arr (!r.plane1) = pick s.tl.arr (!r.plane1)
          ∧ (r.failed = true → pick t.tl.arr r.plane1 = pick s.tl.arr r.plane1)
          ∧ (r.failed = false → let q := pick t.tl.arr r.plane1
              q.loaded = r.bands ∧ q.fmt = r.fmt ∧ q.codes = r.codes ∧ q.outl = r.outl.map (fun e => e.2) ∧ q.woff = 512 * r.set
                ∧ q.latched = true ∧ q.stale = false
                ∧ ∀ n k, n < 128 → k < 512 → mread q.weights (512 * n + k)
                    = if usedByte r.fmt k then mread s.tl.arr.wsram (0x8000 * n + 512 * r.set + k) else 0)))
  ∧ (∀ (s : State) (j : Job) (r : MmaRun) (m row : Nat), s.tl.jobs = [j] → j.cyc = s.tl.abs → j.op = .mmaLand m →
      s.tl.arr.mmas = [r] → r.order = j.order → tfind r.act m = some row → r.arow + m < 256 →
      let pl := if r.plane1 then s.tl.arr.plane1 else s.tl.arr.plane0
      Gives .mmaRowLanding s (fun t => OnlyTile s t ∧ SameBytes s t
        ∧ (∀ k n, k ≠ r.arow + m → n < 128 → accElem t.tl k n = accElem s.tl k n)
        ∧ (let pw := packing pl.fmt
           let p := min pw (packing r.fmt)
           let active : List (Nat × Nat) := ((List.range 4).filter (fun b => r.bands.getLsbD b)).zipIdx.flatMap (fun (b, rank) =>
             if pl.loaded.getLsbD b then (List.range 32).flatMap (fun i => (List.range p).map (fun j =>
               (pw * (32 * b + i) + r.h * p + j, 32 * p * rank + p * i + j))) else [])
           ∀ n, n < 128 → accElem t.tl (r.arow + m) n = rneF32 (exactSum (
             active.map (fun (k, e) => mulExt (rowElem r.fmt row e) (weightElem pl (mreadLE pl.weights (512 * n) 512) k))
             ++ (pl.outl.filter (fun o => (o.extractLsb' 42 7).toNat == n)).flatMap (fun o =>
                 (active.filter (fun a => a.1 == (o.extractLsb' 32 10).toNat)).map (fun (_, e) =>
                   mulExt (rowElem r.fmt row e) (valF32 (o.extractLsb' 0 32))))
             ++ (if r.acc then [valF32 (accElem s.tl (r.arow + m) n)] else []))))))
  ∧ (∀ v e : Nat,
      (∀ q ∈ ([(.bf16, 16), (.f16, 16), (.i16, 16), (.n16, 16), (.e4m3, 8), (.e5m2, 8), (.i8, 8), (.n8, 8)] : List (Ty × Nat)),
        rowElem q.1 v e = elemValue q.1 (v / 2 ^ (q.2 * e) % 2 ^ q.2) ∧ packing q.1 * q.2 = 16)
      ∧ (∀ q ∈ ([(.se7, .se7, 16, 4, 2), (.se4, .se4, 10, 6, 4), (.se2, .se2, 6, 10, 8)] : List (Ty × SeTy × Nat × Nat × Nat)),
          let (ty, se, size, per, pack) := q
          packing ty = pack ∧ rowElem ty v e
            = seDecode se (v / 2 ^ (8 * (64 * (e / 16 / per) + size * (e / 16 % per))) % 2 ^ (8 * size)) (e % 16))
      ∧ ∀ pl : Plane, (pl.fmt = .lut4 → packing pl.fmt = 4
            ∧ weightElem pl v e = decodeFloat bf16 (pl.codes.getD (v / 2 ^ (4 * e) % 16) 0).toNat)
          ∧ (pl.fmt ≠ .lut4 → weightElem pl v e = rowElem pl.fmt v e))

/-! ### The sampling fabric (12, 13) -/

/-- 13:R225, 12:R206: POST changes its out-slot at the end of its cycle, POST from the scratchpad reads its line at c + 1; the
payload, the next sequence and the time base at the start of c. 13:R224, R227, R228: PEEK, SEQ, AGE and MQUERY sample their mirror at
the end of c (no fence holding them, no log in use); their results land with latency 3. Nullified they do nothing. 12:R211, R212: a
sample returns the mirror's latest post, and in the tick of that post's arrival no later one follows it. Which post it returns where
one arrives at the very instant of the sample and another is under way to the mirror is the model's choice (log entry 67). -/
def Obligations.PostsAndSamples : Prop :=
  (∀ (s : State) (g : Guard) (sc : Scope) (n d a : BitVec 5) (m : BitVec 6), quiet s = true → unitFree s 12 = true →
    let addr := rx s.tl a
    let ok := addr.toNat % 64 = 0 ∧ addr.toNat ≤ 0x10FFC0
    let job := fun (k : Nat) (banks : BitVec 32) (op : JobOp) =>
      ({ cyc := s.tl.abs + k, order := s.tl.order, unit := 12, banks := banks, op := op } : Job)
    Gives (.post g sc n d) s (IfEnabled s g
      (fun t => t.tl.jobs = s.tl.jobs ++ [job 0 0 (.postWrite s.nextId n ((rv s.tl d).extractLsb' 0 512) (cycTime s))]
        ∧ t.nextId = s.nextId + 1 ∧ (∃ p, t.posts = s.posts ++ [p] ∧ p.id = s.nextId ∧ p.src = some (whoOf s.tl, n.toNat) ∧ p.sent = false
          ∧ p.scope = sc)
        ∧ t.tl.regs = s.tl.regs ∧ t.tl.outs = s.tl.outs ∧ SameBytes s t)
      (fun t => WritesNothing s t))
    ∧ (ok → Gives (.postScratch g sc n a) s (IfEnabled s g
        (fun t => t.tl.jobs = s.tl.jobs ++ [job 1 (bankSet addr) (.postRead s.nextId n addr.toNat (cycTime s))]
          ∧ t.nextId = s.nextId + 1 ∧ t.tl.regs = s.tl.regs ∧ t.tl.outs = s.tl.outs ∧ SameBytes s t)
        (fun t => Uses s t 12 [(1, bankSet addr, .idle)] s.tl)))
    ∧ (¬ok → Gives (.postScratch g sc n a) s (fun t => Slips s t 0x17 addr))
    ∧ (∀ e ∈ [(Instr.peek g d m, 0), (.seqMirror g d m, 1), (.age g d m, 2), (.mquery g d m, 3)],
        Gives e.1 s (IfEnabled s g
          (fun t => ∃ ws, t.tl.jobs = s.tl.jobs ++ [job 0 0 (.sampleMirror e.2 d m ws)] ∧ (s.tl.fences = [] → ws = [])
            ∧ t.tl.regs = s.tl.regs ∧ t.tl.mirs = s.tl.mirs ∧ SameBytes s t ∧ OnlyTile s t)
          (fun t => WritesNothing s t))))
  ∧ (∀ (s : State) (j : Job) (id : Nat) (n : BitVec 5) (v : Line) (stamp : X) (addr : Nat),
      let old := tget outInit s.tl.outs n.toNat
      (j.op = .postWrite id n v stamp → tget outInit (runJob 0 j s).tl.outs n.toNat = { payload := v, seq := old.seq + 1, stamp := stamp })
      ∧ (j.op = .postRead id n addr stamp → tget outInit (runJob 0 j s).tl.outs n.toNat
          = { payload := mreadLine s.tl.mem addr, seq := old.seq + 1, stamp := stamp }))
  ∧ (∀ (s : State) (j : Job) (d : BitVec 5) (n : BitVec 6), s.tl.bind.replay = 0 →
      let old := tget mirrorInit s.tl.mirs n.toNat
      let now := timeBase s s.turn s.now
      let more := ∃ p ∈ s.posts, ∃ d ∈ p.dsts, d.done = false ∧ d.far = none ∧ d.who = whoOf s.tl ∧ d.mirror = n.toNat
      let m : MirPost := if old.seen = true ∧ old.arrival = now ∧ more then old.before.getD old.post else old.post
      let pends := fun (dst : Dest) (v : VReg) => (runJob 0 j s).tl.pend
        = { due := s.tl.abs + 2, order := j.order, unit := j.unit, dest := dst, val := v } :: s.tl.pend
      (j.op = .sampleMirror 0 d n [] → ∃ v, pends (.v d (BitVec.allOnes 64)) v ∧ v.extractLsb' 0 512 = m.payload
        ∧ v.extractLsb' 512 32 = m.seq ∧ v.extractLsb' 544 32 = (if m.seen then 0 else 1) ∧ v.extractLsb' 576 64 = m.stamp
        ∧ v.extractLsb' 640 64 = m.arrival ∧ v.extractLsb' 704 1344 = 0)
      ∧ (j.op = .sampleMirror 1 d n [] → pends (.x d) (val64 (m.seq.setWidth 64 ||| (if m.seen then 0 else 1 <<< 32))))
      ∧ (j.op = .sampleMirror 2 d n [] → pends (.x d) (val64 (if m.seen = false then BitVec.allOnes 64
          else if now.toNat < m.stamp.toNat then 0 else now - m.stamp)))
      ∧ (j.op = .sampleMirror 3 d n [] → pends (.x d) (val64 old.binding))
      ∧ (∀ kind, kind < 3 → j.op = .sampleMirror kind d n [] → (tget mirrorInit (runJob 0 j s).tl.mirs n.toNat).sampled
          = if m.seen = true ∧ m.arrival = now then s.now / subTick + 1 else old.sampled))

/-- 12:R207, R211, R214: POST_DELIVERY writes the mirror of the tile that carries the destination: payload, sequence, writer stamp,
and the arrival stamp of its own cluster; its binding and every other mirror, register and byte stay. A held post is not
delivered, nor is one whose out-slot's earlier post is still under way to the mirror, one to a mirror of which a sample has
returned a post of the same tick (R212), or any at its issue instant (17:R272). 12:R218, 06:R129: a post to a tile that is saved goes
into its image, the later of two by their sequences, and is discarded when its context is being killed (log entry 104). 25:R351: a
post that another package sends arrives at a mirror that is bound to one, where a live route leads there, with contents this package
does not know (log entry 106). POST_RELEASE lets a held post go when its fenced predecessors are complete, and its bounds
of 150, 400 or 1,500 ticks begin, counted from the tick. That it is the later post that a sample of the tick holds back is the
model's reading of R212 (log entry 67). -/
def Obligations.DeliveriesReachMirrors : Prop :=
  (∀ (s : State) (p : Post) (d : PostDst) (k q : Nat), p.id ≠ 0 → s.posts.find? (fun r => r.id == p.id) = some p →
    p.dsts[k]? = some d → d.done = false → p.held = false → p.sent = true → p.at_ < s.now → earlierPost s p d = false →
    sampledNow s d = false → noPath s p d = false → physOf s d.who = some q → takesPosts (s.tile q) = true →
    Gives (.postDelivery p.id k) s (fun t =>
      let m := fun (u : State) => tget mirrorInit (u.tile q).mirs
      (m t d.mirror).before = (if (m s d.mirror).seen = true ∧ (m s d.mirror).arrival = timeBase s q s.now then (m s d.mirror).before
          else some (m s d.mirror).post) ∧ (m t d.mirror).payload = p.payload ∧ (m t d.mirror).seq = p.seq ∧ (m t d.mirror).stamp = p.stamp
        ∧ (m t d.mirror).arrival = timeBase s q s.now ∧ (m t d.mirror).seen = true
        ∧ (m t d.mirror).binding = (m s d.mirror).binding ∧ (∀ n, n ≠ d.mirror → m t n = m s n)
        ∧ (t.tile q).regs = (s.tile q).regs ∧ (t.tile q).mem = (s.tile q).mem ∧ t.mem = s.mem
        ∧ ∀ r, r ≠ q → t.tile r = s.tile r))
  ∧ (∀ (s : State) (p : Post) (d : PostDst) (k : Nat), p.id ≠ 0 → s.posts.find? (fun r => r.id == p.id) = some p →
      p.dsts[k]? = some d → (earlierPost s p d = true ∨ sampledNow s d = true ∨ s.now ≤ p.at_) → exec (.postDelivery p.id k) s = .next s)
  ∧ (∀ (s : State) (p : Post) (d : PostDst) (k : Nat), p.id ≠ 0 → s.posts.find? (fun r => r.id == p.id) = some p →
      p.dsts[k]? = some d → d.done = false → p.held = false → p.sent = true → p.at_ < s.now → earlierPost s p d = false →
      physOf s d.who = none → d.far = none →
      ((∀ c ∈ s.ctxs, c.id = d.who.ctx → c.killing = true) → Gives (.postDelivery p.id k) s (fun t =>
        t.mem = s.mem ∧ t.tiles = s.tiles ∧ t.ctxs = s.ctxs))
      ∧ (∀ c ∈ s.ctxs, (∀ e ∈ s.ctxs, e.id = d.who.ctx → e = c) → c.id = d.who.ctx → c.life = d.who.life → c.killing = false →
          d.who.idx ∈ c.saved → d.mirror ≠ 62 →
          let at_ := c.save + BitVec.ofNat 64 (d.who.idx * 0x600000) + BitVec.ofNat 64 (0x5800 + 128 * d.mirror)
          ∀ v, dvaRead s c.id at_ 96 = some v →
          let ahead := (p.seq - BitVec.ofNat 32 (v / 2 ^ 512)).toNat
          let later := v / 2 ^ 576 % 2 ^ 64 = 0 ∨ 1 ≤ ahead ∧ ahead < 2 ^ 31
          Gives (.postDelivery p.id k) s (fun t => t.tiles = s.tiles ∧ t.mem = if later then
            (dvaWrite c.id (at_ + 80) 8 (s.now / subTick % 2 ^ 64) (dvaWrite c.id at_ 80
              (p.payload.toNat + p.seq.toNat * 2 ^ 512 + p.stamp.toNat * 2 ^ 576) s)).mem else s.mem)))
  ∧ (∀ (s : State) (k : Nat) (r : PeerDst), (peerLive s ++ peerSaved s)[k]? = some r →
      (peerRoute s r = false → exec (.postDelivery 0 k) s = .next s)
      ∧ (∀ q, physOf s r.dst.who = some q → (timeBase s q s.now).toNat + 40 < 2 ^ 64 → peerRoute s r = true →
          sampledNow s r.dst = false → takesPosts (s.tile q) = true → Gives (.postDelivery 0 k) s (fun t =>
            let m := fun (u : State) => tget mirrorInit (u.tile q).mirs
            let x := m t r.dst.mirror
            x.seen = true ∧ x.arrival = timeBase s q s.now ∧ 1 ≤ x.stamp.toNat ∧ x.stamp.toNat ≤ (timeBase s q s.now).toNat + 40
              ∧ (∀ old, r.held = some old → 1 ≤ (x.seq - old).toNat ∧ (x.seq - old).toNat < 2 ^ 31)
              ∧ x.binding = (m s r.dst.mirror).binding ∧ (∀ n, n ≠ r.dst.mirror → m t n = m s n)
              ∧ (t.tile q).regs = (s.tile q).regs ∧ (t.tile q).mem = (s.tile q).mem ∧ t.mem = s.mem ∧ t.posts = s.posts
              ∧ ∀ p, p ≠ q → t.tile p = s.tile p)))
  ∧ (∀ (s : State) (p : Post) (k : Nat), p.id ≠ 0 → s.posts.find? (fun r => r.id == p.id) = some p → p.held = true →
      exec (.postDelivery p.id k) s = .next s
      ∧ (∀ who slot, p.src = some (who, slot) → p.sent = true → waitsDone s who p.waits = true →
          Gives (.postRelease p.id) s (fun t => t.tiles = s.tiles ∧ t.mem = s.mem
            ∧ (∀ q ∈ t.posts, q.id = p.id → q.held = false)
            ∧ ∀ k d, p.dsts[k]? = some d →
                (s.now / subTick * subTick + d.bound * subTick, .postDelivery p.id k) ∈ t.timers)))
  ∧ (∀ a b : Nat, deliveryBound a b = if a / 34 = b / 34 then 150 else if a / 136 = b / 136 then 400 else 1500)

/-! ### Device memory (15, 16) -/

/-- 16:R250-R255, R258-R263: a memory instruction with permitted fields. Accepted: its operation joins those under way, each
line of it with the place that the station's entries give it then (log entry 91), with a ticket, the status word with ST 00 in x[D] (latency 2), the quota charged, its bank cycles added; an XACC carries x[B]. Beyond its quota: ST 01, nothing
sent, the bank cycles held. Nullified: the bank cycles held. A check of R254 that fails is cause 0x17 with the value the rule names,
the first of them in the order of R254's table (04:R84 makes a section's list the order within one cause). TOUCH costs 1 (15:R244), takes no
ticket, and its walk is due (R269). -/
def Obligations.MemoryInstructionsAreAccepted : Prop :=
  (∀ (s : State) (g : Guard) (ty : AtomTy) (xt : XaccTy) (d a b : BitVec 5) (lit : X) (count land : BitVec 21),
    quiet s = true → unitFree s 13 = true →
    let xb := rx s.tl b
    let n := count.toNat / 64
    let id := s.nextId
    let inPeriod := fun last : Nat => land ≠ 0 ∧ (s.tl.trap.mode = true ∨ s.tl.cyc + last < s.tl.perlen)
    let copied : List (Prop × X) := [(count.toNat % 64 = 0 ∧ 0 < count.toNat ∧ count.toNat ≤ 0x100000, count.setWidth 64),
      (xb.toNat % 64 = 0 ∧ inOneRegion xb.toNat count.toNat = true, xb)]
    let lined : Prop × X := (xb.toNat % 64 = 0 ∧ xb.toNat ≤ 0x10FFFF, xb)
    let whole := fun (v : X) (n : Nat) => (v.toNat % n = 0, v)
    let lands := fun last : Nat => (inPeriod last, land.setWidth 64)
    let cpyJobs := fun op : Nat → List Nat → JobOp => landingGroups land.toNat xb.toNat n op
    let at_ := fun (k : Nat) (op : JobOp) => (k, bankSet xb, op)
    ∀ e ∈ ([(.cpy g d a b count land, .cpy, rx s.tl a, n, copied ++ [whole (rx s.tl a) 64, lands (land.toNat + (n - 1) / 8)],
          cpyJobs (fun i l => .cpyLand id i l), cpyJobs (fun _ _ => .idleLand)),
        (.cpyLit g d lit b count land, .cpy, lit, n, copied ++ [whole lit 64, lands (land.toNat + (n - 1) / 8)],
          cpyJobs (fun i l => .cpyLand id i l), cpyJobs (fun _ _ => .idleLand)),
        (.cpyw g d a b count, .cpyw, rx s.tl a, n, copied ++ [whole (rx s.tl a) 64],
          landingGroups 1 xb.toNat n (fun i l => .cpywRead id i l), landingGroups 1 xb.toNat n (fun _ _ => .idle)),
        (.cpywLit g d lit b count, .cpyw, lit, n, copied ++ [whole lit 64],
          landingGroups 1 xb.toNat n (fun i l => .cpywRead id i l), landingGroups 1 xb.toNat n (fun _ _ => .idle)),
        (.xacc g xt d a b, .xacc xt, rx s.tl a, 1, [whole (rx s.tl a) 64], [], []),
        (.xaccLit g xt d lit b, .xacc xt, lit, 1, [whole lit 64], [], []),
        (.xclr g d a, .xclr, rx s.tl a, 1, [whole (rx s.tl a) 64], [], []),
        (.xclrLit g d lit, .xclr, lit, 1, [whole lit 64], [], []),
        (.xfin g d a b land, .xfin, rx s.tl a, 1, [lined, whole (rx s.tl a) 64, lands land.toNat],
          [at_ land.toNat (.xfinLand id xb.toNat)], [at_ land.toNat .idleLand]),
        (.xfinLit g d lit b land, .xfin, lit, 1, [lined, whole lit 64, lands land.toNat],
          [at_ land.toNat (.xfinLand id xb.toNat)], [at_ land.toNat .idleLand])]
        ++ [RmwOp.add, .min, .max, .xchg, .cmpxchg, .and, .or, .xor].flatMap (fun o =>
          let near := match o with
            | .add => Instr.matomAdd g ty d a b land | .min => .matomMin g ty d a b land | .max => .matomMax g ty d a b land
            | .xchg => .matomXchg g ty d a b land | .cmpxchg => .matomCmpxchg g ty d a b land
            | .and => .matomAnd g ty d a b land | .or => .matomOr g ty d a b land | .xor => .matomXor g ty d a b land
          let far := match o with
            | .add => Instr.matomAddLit g ty d lit b land | .min => .matomMinLit g ty d lit b land
            | .max => .matomMaxLit g ty d lit b land | .xchg => .matomXchgLit g ty d lit b land
            | .cmpxchg => .matomCmpxchgLit g ty d lit b land | .and => .matomAndLit g ty d lit b land
            | .or => .matomOrLit g ty d lit b land | .xor => .matomXorLit g ty d lit b land
          [near, far].zip [rx s.tl a, lit] |>.map (fun e => (e.1, .matom o ty, e.2, 1,
            [lined, whole e.2 (atomSize ty), lands land.toNat],
            [at_ 1 (.matomRead id xb.toNat), at_ land.toNat (.matomLand id xb.toNat)],
            [at_ 1 .idle, at_ land.toNat .idleLand]))) : List (Instr × OpKind × X × Nat × List (Prop × X)
          × List (Nat × BitVec 32 × JobOp) × List (Nat × BitVec 32 × JobOp))),
      let (i, kind, dva, cost, checks, used, held) := e
      (∀ pre c post, checks = pre ++ c :: post → (∀ b ∈ pre, b.1) → ¬c.1 → Gives i s (fun t => Slips s t 0x17 c.2)) ∧
      ((∀ c ∈ checks, c.1) → Gives i s (fun t => t.tl.regs = s.tl.regs ∧ SameBytes s t ∧ t.tl.outs = s.tl.outs ∧
        if enabled s.tl g = false then Adds s t held ∧ t.ops = s.ops ∧ t.tl.pend = s.tl.pend ∧ t.tl.memused = s.tl.memused
        else if s.tl.bind.memquota.toNat < s.tl.memused + cost then
          Adds s t held ∧ t.ops = s.ops ∧ t.tl.memused = s.tl.memused ∧ t.tl.tickets = s.tl.tickets
            ∧ t.tl.pend = { due := s.tl.abs + 1, order := s.tl.order, unit := 13, dest := .x d
                            val := val64 (1 ||| (BitVec.ofNat 16 cost).setWidth 64 <<< 32) } :: s.tl.pend
        else
          Adds s t used ∧ t.tl.memused = s.tl.memused + cost ∧ t.nextId = id + 1 ∧ t.tl.nextTicket = s.tl.nextTicket + 1
            ∧ (∃ k, t.tl.tickets.head? = some k ∧ k.no = s.tl.nextTicket ∧ k.op = id ∧ k.landed = false ∧ k.performed = false)
            ∧ (∃ o, t.ops = s.ops ++ [o] ∧ o.id = id ∧ o.who = whoOf s.tl ∧ o.kind = kind ∧ o.dva = dva ∧ o.lines.length = cost
                ∧ (∀ ty, kind = .xacc ty → o.b = xb)
                ∧ (∀ l ∈ o.lines, l.performed = false ∧ l.arrived = false ∧ l.dropped = false)
                ∧ ∀ j, j < cost → lineRoute o j = routeOf s (whoOf s.tl) (dva + BitVec.ofNat 64 (64 * j)) (opWrites kind))
            ∧ t.tl.pend = { due := s.tl.abs + 1, order := s.tl.order, unit := 13, dest := .x d
                            val := val64 ((BitVec.ofNat 16 cost).setWidth 64 <<< 32 ||| s.tl.nextTicket.setWidth 64 <<< 16) }
                :: s.tl.pend)))
  ∧ (∀ (s : State) (g : Guard) (d a : BitVec 5), quiet s = true → unitFree s 13 = true →
      Gives (.touch g d a) s (IfEnabled s g
        (fun t => t.tl.regs = s.tl.regs ∧ SameBytes s t ∧ t.tl.tickets = s.tl.tickets ∧
          ∃ v, t.tl.pend = { due := s.tl.abs + 1, order := s.tl.order, unit := 13, dest := .x d, val := val64 v } :: s.tl.pend ∧
          if s.tl.bind.memquota.toNat < s.tl.memused + 1 then v = 0x100000001 ∧ t.ops = s.ops ∧ t.timers = s.timers
          else v = 0x100000000 ∧ t.tl.memused = s.tl.memused + 1
            ∧ t.timers = s.timers ++ [(s.tl.clk.start + 4000 * subTick, .touchWalk s.nextId)])
        (fun t => WritesNothing s t)))

/-- 16:R264, R265: FENCE names the incomplete events of its predecessor kinds, those of before it, and holds its successor kinds by them.
16:R268, 15:R235: TLOOK finds the lowest valid entry of an address's page, TSET and TCLR write and clear one entry; an index above 255
or a value with high bits is cause 0x17. 16:R270: LANDQ samples its ticket at the end of c; its bits, none but EXPIRED for a ticket
that is not known. 16:R265, 12:R214, 17:R279: when a predecessor of each kind is complete at each scope: a scratchpad access or a
sample once its cycle is over; a post once it has arrived at every mirror within the FENCE's scope and within its own; a command
once no queue, ring or fence holds it; an operation, or an engine's write, once every line is performed, or has left a scope that
ends before its home, and at the scopes package and system once the host's copies are gone.
That a FENCE's hold on its successor kinds lasts (log entry 14), that both scopes of a post count (log entry 71), where posts and
images lie (log entry 78), and when the accesses of a killed tile are over (log entry 102), are the model's reading. -/
def Obligations.FencesTagsAndTickets : Prop :=
  (∀ (s : State) (g : Guard) (sc : Scope) (succ pred : BitVec 9), quiet s = true → unitFree s 13 = true →
    Gives (.fence g sc succ pred) s (IfEnabled s g
      (fun t => ∃ l : List Ev, (∀ e, e ∈ l ↔ e ∈ s.tl.evs ∧ pred.getLsbD e.kind = true ∧ evDone s (whoOf s.tl) sc e = false)
        ∧ Becomes s t { s.tl with fenced := s.tl.fenced ||| succ, fences := t.tl.fences }
        ∧ t.tl.fences = if l = [] then s.tl.fences else s.tl.fences ++ [{ scope := sc, succ := succ, preds := l }])
      (fun t => WritesNothing s t)))
  ∧ (∀ (s : State) (who : Who) (sc : Scope) (e : Ev),
      let done := evDone s who sc e = true
      let within := fun (w : Scope) (p : Post) (d : PostDst) => match w with
        | .tile => d.far = none ∧ d.who = who
        | .cluster => d.far = none ∧ (d.who = who ∨ ∃ q, physOf s d.who = some q ∧ clusterOf p.home = clusterOf q)
        | .die => d.far = none ∧ (d.who = who ∨ ∃ q, physOf s d.who = some q ∧ dieOf p.home = dieOf q)
        | .package => d.far = none
        | .system => True
      let beyond := fun (o : MemOp) (j : Nat) => match sc with
        | .tile | .cluster | .die =>
          (∃ pkg, lineRoute o j = .to (.remote pkg)) ∨ ∃ da key line, lineRoute o j = .to (.home da key line) ∧ homeDie da ≠ o.die
        | .package => ∃ pkg, lineRoute o j = .to (.remote pkg)
        | .system => False
      (e.kind = 0 ∨ e.kind = 6 → (physOf s who = none → done)
        ∧ ∀ p, physOf s who = some p → (done ↔ (s.tile p).bindNo ≠ e.id ∨ e.cyc < (s.tile p).abs))
      ∧ (e.kind = 5 → (done ↔ ∀ p, s.posts.find? (fun p => p.id == e.id) = some p → p.sent = true
          ∧ ∀ d ∈ p.dsts, d.done = true ∨ ¬within sc p d ∧ ¬within p.scope p d))
      ∧ (e.kind = 7 → (done ↔ (∀ t ∈ s.tiles, ∀ m ∈ t.2.port.queue, m.id ≠ e.id) ∧ ∀ k ∈ s.kennels,
          (∀ m ∈ k.2.ring, m.msg.id ≠ e.id) ∧ ∀ l ∈ k.2.leases, ∀ c ∈ l.cmds, c.1 = e.id → c.2.2 = []))
      ∧ (e.kind ∉ [0, 5, 6, 7] → (done ↔ ∀ o, s.op e.id = some o → o.held = false
          ∧ (∀ j l, o.lines[j]? = some l → l.performed = true ∨ l.dropped = true ∨ l.ready = true ∧ beyond o j)
          ∧ (sc = .package ∨ sc = .system → ∀ i ∈ s.hostInval, i.2 ≠ o.id))))
  ∧ (∀ (s : State) (who : Who) (ws : List Wait), waitsDone s who ws = true ↔ ∀ w ∈ ws, evDone s who w.scope w.ev = true)
  ∧ (∀ (s : State) (g : Guard) (d a b : BitVec 5), quiet s = true → unitFree s 14 = true →
      let va := rx s.tl a
      let i := rx s.tl a
      let v := rx s.tl b
      let entry := fun k => tget 0 s.tl.tags k
      let hit := fun k : Nat => (entry k).getLsbD 63 = true ∧ (entry k).extractLsb' 12 40 = va.extractLsb' 12 40
      (enabled s.tl g = true →
        (∀ k, k < 256 → hit k → (∀ m, m < k → ¬hit m) → Gives (.tlook g d a) s (fun t =>
          Sends s t 2 14 (.x d) (val64 (BitVec.ofNat 64 (k + 256 * ((entry k).extractLsb' 0 12).toNat)))))
        ∧ ((∀ k, k < 256 → ¬hit k) → Gives (.tlook g d a) s (fun t => Sends s t 2 14 (.x d) (val64 (BitVec.allOnes 64))))
        ∧ (i.toNat ≤ 255 → v.extractLsb' 52 12 = 0 → Gives (.tset g a b) s (fun t =>
            Becomes s t { s.tl with tags := t.tl.tags } ∧ tget 0 t.tl.tags i.toNat = v ||| 0x8000000000000000
              ∧ ∀ k, k ≠ i.toNat → tget 0 t.tl.tags k = entry k))
        ∧ (i.toNat ≤ 255 → Gives (.tclr g a) s (fun t =>
            Becomes s t { s.tl with tags := t.tl.tags } ∧ tget 0 t.tl.tags i.toNat = 0 ∧ ∀ k, k ≠ i.toNat → tget 0 t.tl.tags k = entry k))
        ∧ (255 < i.toNat → Gives (.tset g a b) s (fun t => Slips s t 0x17 i) ∧ Gives (.tclr g a) s (fun t => Slips s t 0x17 i))
        ∧ (i.toNat ≤ 255 → v.extractLsb' 52 12 ≠ 0 → Gives (.tset g a b) s (fun t => Slips s t 0x17 v)))
      ∧ (enabled s.tl g = false → ∀ x ∈ [Instr.tlook g d a, .tset g a b, .tclr g a], Gives x s (fun t => WritesNothing s t)))
  ∧ (∀ (s : State) (g : Guard) (d a : BitVec 5), quiet s = true → unitFree s 13 = true →
      let v := rx s.tl a
      (enabled s.tl g = true → v.extractLsb' 16 48 = 0 → Gives (.landq g d a) s (fun t =>
        Uses s t 13 [(0, 0, .landq d (v.extractLsb' 0 16))] s.tl))
      ∧ (enabled s.tl g = true → v.extractLsb' 16 48 ≠ 0 → Gives (.landq g d a) s (fun t => Slips s t 0x17 v))
      ∧ (enabled s.tl g = false → Gives (.landq g d a) s (fun t => WritesNothing s t)))
  ∧ (∀ (s : State) (j : Job) (d : BitVec 5) (no : BitVec 16), s.tl.bind.replay = 0 → j.op = .landq d no →
      let found := s.tl.tickets.find? (fun k => k.no == no)
      ∃ v : X, (runJob 0 j s).tl.pend = { due := s.tl.abs + 1, order := j.order, unit := j.unit, dest := .x d, val := val64 v } :: s.tl.pend
        ∧ v.extractLsb' 6 58 = 0 ∧ (v.getLsbD 5 = true ↔ found = none) ∧ (found = none → v = 0x20)
        ∧ ∀ k, found = some k → v.getLsbD 0 = k.performed ∧ v.getLsbD 1 = k.arrived ∧ v.getLsbD 2 = k.landed
            ∧ v.getLsbD 3 = k.abandoned ∧ v.getLsbD 4 = k.failed)
  ∧ (∀ (lvl : Bool) (g : Guard) (d a b : BitVec 5),
      decodeWords lvl [regWord 0x32 0 0 g d a b] = (if b = 0 then .ok (.tlook g d a) else reservedIn 0)
      ∧ decodeWords lvl [regWord 0x32 0 1 g d a b] = (if d = 0 then .ok (.tset g a b) else reservedIn 0)
      ∧ decodeWords lvl [regWord 0x32 0 2 g d a b] = (if d = 0 ∧ b = 0 then .ok (.tclr g a) else reservedIn 0)
      ∧ (∀ fn : BitVec 5, 3 ≤ fn.toNat → decodeWords lvl [regWord 0x32 0 fn g d a b] = unassigned)
      ∧ (∀ (len : BitVec 2) (fn : BitVec 5) (ws : List W32), len ≠ 0 →
          decodeWords lvl (regWord 0x32 len fn g d a b :: ws) = unassigned))

/-- 16:R256-R263, 15:R241, R242, R247, R248, R249: a line that its home station performs is read or written as one unit, and no other line of device memory
changes; one whose page cannot be read leaves all memory and has its cause with its address, 0x20 where no line of the tables
reads as failing. An engine's write takes the place its engine gave it, a line of a tile's operation the place that its station's
entries gave it at the issue (log entry 91). No line is performed at its operation's issue instant (17:R272). Performed data arrives
at the tile. FENCED_RELEASE ends a hold (16:R266), TOUCH_WALK takes in one page entry (16:R269), STATION_REPORT tells the tile and the
management core's log, STATION_INVALIDATION drops a context's entries (15:R242). That FAILED is set when the report reaches the tile,
not when a PERIOD takes it, is the model's choice (log entry 103).
Lines under another key and lines of another package are opaque or free values (log entries 10, 12). -/
def Obligations.StationsPerform : Prop :=
  (∀ (s u : State) (o : MemOp) (j da : Nat) (tag : LineTag), o.id ≠ 0 → s.op o.id = some o → canPerform s o j = true →
    opTarget o j s = (.ok (.home da tag), u) →
    pathUp u o.die (homeDie da) = true → u.badLines = [] →
    Gives (.homeStationPerform o.id j) s (fun t =>
      let line := devLine u tag da
      let data := (o.lines[j]?.map (fun l => l.data)).getD 0
      let k := o.dva.toNat % 64
      (∀ a, a / 64 ≠ da / 64 → mread t.mem a = mread s.mem a)
        ∧ (∀ p, (t.tile p).regs = (s.tile p).regs ∧ (t.tile p).mem = (s.tile p).mem)
        ∧ (∀ q ∈ t.ops, q.id = o.id → ∀ l, q.lines[j]? = some l → l.performed = true
            ∧ (o.kind = .cpy → l.data = line) ∧ (o.kind = .xfin → l.data = (xfinCell line).setWidth 512)
            ∧ ∀ op ty, o.kind = .matom op ty → ∃ v : X, l.data.extractLsb' 0 64 = v
              ∧ Extends (atomSigned ty) (atomSize ty) (lineBytes line k (atomSize ty)) v)
        ∧ (o.kind = .cpy ∨ o.kind = .xfin → t.mem = s.mem)
        ∧ (o.kind = .cpyw ∨ o.kind = .engWrite → devLine t tag da = data) ∧ (o.kind = .xclr → devLine t tag da = 0)
        ∧ (∀ xt, o.kind = .xacc xt → devLine t tag da = xaccCell (xaccValue xt o.b) line)
        ∧ (∀ op ty, o.kind = .matom op ty → devLine t tag da = lineSplice line k (atomSize ty) (matomWord op ty k line o.b o.cmp).2)))
  ∧ (∀ (s : State) (o : MemOp) (j : Nat), o.id ≠ 0 → s.op o.id = some o → s.now ≤ o.at_ →
      exec (.homeStationPerform o.id j) s = .next s)
  ∧ (∀ (s u : State) (o : MemOp) (j : Nat) (c : BitVec 8), o.id ≠ 0 → s.op o.id = some o → canPerform s o j = true → opTarget o j s = (.error c, u) →
      Gives (.homeStationPerform o.id j) s (fun t => t.mem = s.mem ∧ (∀ p, (t.tile p).regs = (s.tile p).regs ∧ (t.tile p).mem = (s.tile p).mem)
        ∧ (o.fault = none → ∀ q ∈ t.ops, q.id = o.id → q.fault = some (c, if c = 0x21 then lineDva o j &&& ~~~0x3F else lineDva o j))))
  ∧ (∀ (op : RmwOp) (ty : AtomTy) (k : Nat) (line : Line) (b cmp : X),
      let old := lineBytes line k (atomSize ty)
      ∃ new : BitVec (8 * atomSize ty), RmwGives op (atomSigned ty) (BitVec.ofNat _ old) (b.setWidth _) (cmp.setWidth _) new
        ∧ matomWord op ty k line b cmp = (old, new.toNat))
  ∧ (∀ (xt : XaccTy) (b : X) (line : Line),
      let v := xaccValue xt b
      let c := xaccCell v line
      let sum := fun l : Line => l.extractLsb' 0 480
      v = (match xt with | .f32 => valF32 (b.extractLsb' 0 32) | .bf16 => decodeFloat bf16 (b.extractLsb' 0 16).toNat)
        ∧ c.extractLsb' 485 27 = line.extractLsb' 485 27 ∧ c.getLsbD 483 = true
        ∧ (c.getLsbD 480 = true ↔ line.getLsbD 480 = true ∨ v = .nan)
        ∧ (c.getLsbD 481 = true ↔ line.getLsbD 481 = true ∨ v = .inf false)
        ∧ (c.getLsbD 482 = true ↔ line.getLsbD 482 = true ∨ v = .inf true)
        ∧ (c.getLsbD 484 = true ↔ line.getLsbD 484 = true ∨ ∀ e, v ≠ .fin true 0 e)
        ∧ ((∀ p, ¬IsNumber v p) → sum c = sum line)
        ∧ ∀ p : ℚ, IsNumber v p → ∃ i : Int, (i : ℚ) = p * 2 ^ 149 ∧ sum c = BitVec.ofInt 480 ((sum line).toInt + i))
  ∧ (∀ c : Line,
      let nan := c.getLsbD 480 = true ∨ c.getLsbD 481 = true ∧ c.getLsbD 482 = true
      let i := (c.extractLsb' 0 480).toInt
      let x : ℚ := i / 2 ^ 149
      let r := xfinCell c
      (nan → r = 0x7FC00000) ∧ (¬nan → c.getLsbD 481 = true → r = 0x7F800000) ∧ (¬nan → c.getLsbD 482 = true → r = 0xFF800000)
        ∧ (¬nan → c.getLsbD 481 = false → c.getLsbD 482 = false →
            (i = 0 → r = if c.getLsbD 483 = true ∧ c.getLsbD 484 = false then 0x80000000 else 0)
            ∧ (i ≠ 0 → r.getLsbD 31 = decide (i < 0) ∧ (Overflows f32 .ne x → r.extractLsb' 0 31 = 0x7F800000)
                ∧ (¬Overflows f32 .ne x → RoundsTo f32 .ne x r.toNat))))
  ∧ (∀ (s : State) (o : MemOp) (j : Nat),
      (∀ p, lineRoute o j = .to p → (opTarget o j s).1 = .ok p.target)
      ∧ (∀ c, lineRoute o j = .stop c → (opTarget o j s).1 = .error c)
      ∧ (lineRoute o j = .unset → s.badLines = [] → (opLook s o j).1 = none → (opTarget o j s).1 = .error 0x20))
  ∧ (∀ (s : State) (w : Who) (dva : X) (write : Bool) (p : Nat), physOf s w = some p →
      let found := (stationLook s w.ctx dva (s.tile p).pages).1
      (found = none → s.badLines = [] → routeOf s w dva write = .stop 0x20)
      ∧ (∀ e, found = some e → throughPage s e dva write = none → routeOf s w dva write = .stop 0x20)
      ∧ (∀ e da tag, found = some e → throughPage s e dva write = some (.home da tag) → routeOf s w dva write = .to (.home da tag.1 tag.2)))
  ∧ (∀ (s : State) (o : MemOp) (j : Nat) (l : LineSt), s.op o.id = some o → opLands o.kind = true → o.lines[j]? = some l →
      l.performed = true → Gives (.copyDataArrival o.id j) s (fun t => t.mem = s.mem ∧ ∃ q, t.op o.id = some q
        ∧ q.lines[j]? = some { l with arrived := true } ∧ ∀ i, i ≠ j → q.lines[i]? = o.lines[i]?))
  ∧ (∀ (s : State) (o : MemOp), s.op o.id = some o → o.held = true →
      (waitsDone s o.who o.waits = true → Gives (.fencedRelease o.id) s (fun t => t.op o.id = some { o with held := false }
        ∧ t.tiles = s.tiles ∧ t.mem = s.mem))
      ∧ (waitsDone s o.who o.waits = false → exec (.fencedRelease o.id) s = .next s))
  ∧ (∀ (s : State) (o : MemOp) (p : Nat), s.op o.id = some o → o.kind = .touch → physOf s o.who = some p →
      Gives (.touchWalk o.id) s (fun t => t.mem = s.mem ∧ (t.tile p).regs = (s.tile p).regs ∧ (t.tile p).mem = (s.tile p).mem
        ∧ (t.tile p).pages = (stationLook s o.who.ctx (lineDva o 0) (s.tile p).pages).2))
  ∧ (∀ (s : State) (o : MemOp) (f : BitVec 8 × X) (p : Nat), s.op o.id = some o → o.fault = some f → o.reported = false →
      reportsLater o.kind = true → o.lines.all lineDone = true → physOf s o.who = some p → (s.tile p).state ≠ 0 →
      Gives (.stationReport o.id) s (fun t => (t.tile p).reports = (s.tile p).reports ++ [f] ∧ (t.tile p).regs = (s.tile p).regs
        ∧ t.mclog = s.mclog ++ [{ ctx := o.who.ctx, cause := f.1, dva := f.2, gen := 0, stack := faultStack s o.who.ctx f }]
        ∧ (∀ k ∈ (t.tile p).tickets, k.op = o.id → k.failed = true) ∧ t.mem = s.mem))
  ∧ (∀ (s : State) (ctx : BitVec 16) (page : Option Nat), Gives (.stationInvalidation ctx page) s (fun t =>
      ∀ p, (t.tile p).regs = (s.tile p).regs ∧ (t.tile p).mem = (s.tile p).mem ∧ ∀ e, e ∈ (t.tile p).pages ↔ e ∈ (s.tile p).pages
        ∧ ¬(e.ctx = ctx ∧ ∀ v, page = some v → v * 0x8000 / e.size = e.vpn)))

/-- 04:R87, 16:R258, R260, R262: a landing writes the bytes that arrived: a copy, in each of its cycles, the up to eight lines of its
group, MATOM the eight and XFIN the four low bytes of the line it lands in; no other byte of the tile changes. Its ticket is landed
with its last line when nothing of it was lost, and is as before in an earlier cycle. (One landing in the cycle, its banks serving
it; every line at the tile, no fault met and no late mark of a replayed log.)
What a partly lost landing leaves is the model's reading (log entry 19). -/
def Obligations.LandingsWriteTheScratchpad : Prop :=
  ∀ (s : State) (j : Job) (o : MemOp) (addr : Nat), s.tl.jobs = [j] → j.cyc = s.tl.abs → s.op o.id = some o →
    landsWhole o = true →
    let same := fun (t : State) (n : Nat) => OnlyTile s t ∧ t.tl.regs = s.tl.regs ∧ t.mem = s.mem
      ∧ (∀ a, a < addr ∨ addr + n ≤ a → mread t.tl.mem a = mread s.tl.mem a)
    let landed := fun t : State => ∀ k ∈ t.tl.tickets, k.op = o.id → k.abandoned = false → k.lost = false → k.landed = true
    (∀ first n, j.op = .cpyLand o.id first ((List.range n).map (fun i => addr + 64 * i)) → addr % 64 = 0 → n ≤ 8 →
        first + n ≤ o.lines.length → Gives .cpyLanding s (fun t => same t (64 * n)
      ∧ (∀ i l, i < n → o.lines[first + i]? = some l → ∀ k, k < 64 →
          mread t.tl.mem (addr + 64 * i + k) = l.data.extractLsb' (8 * k) 8)
      ∧ (o.lines.length = first + n → landed t) ∧ (first + n < o.lines.length → t.tl.tickets = s.tl.tickets)))
    ∧ (∀ l, o.lines = [l] → j.op = .matomLand o.id addr → Gives .matomLanding s (fun t => same t 8 ∧ landed t
      ∧ ∀ k, k < 8 → mread t.tl.mem (addr + k) = l.data.extractLsb' (8 * k) 8))
    ∧ (∀ l, o.lines = [l] → j.op = .xfinLand o.id addr → Gives .xfinLanding s (fun t => same t 4 ∧ landed t
      ∧ ∀ k, k < 4 → mread t.tl.mem (addr + k) = l.data.extractLsb' (8 * k) 8))

/-! ### Leases (21) -/

/-- 21:R306-R311: LEASE, RENEW, LFREE and ECMD write their status word, the port's generation and ST, to x[D] with latency 2, and when ST is
00 place their message: LEASE with the next generation, the port Queued; an ECMD raises OUTST. ST 01: nothing held; 10: the port is
busy; 11: the class queue is full. A term of 0 or above 10,000,000, or an ECMD address that is not a line of the engine window, is
cause 0x17. Nullified they do nothing, but for ECMD's engine-window bank. A message is due at the kennel within 150 ticks and 76 for
each one before it (R300); at which of the ring's cycles it leaves the queue is the model's choice (log entry 55). -/
def Obligations.LeaseInstructions : Prop :=
  ∀ (s : State) (g : Guard) (d a : BitVec 5), quiet s = true → unitFree s 15 = true → s.tl.bind.replay = 0 →
    let q := s.tl.port
    let v := rx s.tl a
    let full := 4 ≤ q.queue.length
    let termOk := v ≠ 0 ∧ v.toNat ≤ 10000000
    let lineOk := v.toNat % 64 = 0 ∧ 0x100000 ≤ v.toNat ∧ v.toNat ≤ 0x10FFC0
    let next : Port := { q with gen := q.gen + 1, state := 1 }
    let gives := fun (i : Instr) (gen : BitVec 32) (st : BitVec 2) (R : State → Prop) => Gives i s (fun t => R t
      ∧ t.tl.pend = { due := s.tl.abs + 1, order := s.tl.order, unit := 15, dest := .x d
                      val := val64 (gen.setWidth 64 <<< 32 ||| st.setWidth 64) } :: s.tl.pend
      ∧ t.tl.regs = s.tl.regs ∧ SameBytes s t)
    let stays := fun t : State => t.tl.port = q
    let ecmd := fun (op : JobOp) (t : State) => ∃ job : Job, t.tl.jobs = s.tl.jobs ++ [job] ∧ job.cyc = s.tl.abs + 1
      ∧ job.banks = bankSet v ∧ job.op = op
    (enabled s.tl g = true →
      (∀ e ∈ [(Instr.leaseSd g d a, false), (.leaseRv g d a, true)],
        (¬termOk → Gives e.1 s (fun t => Slips s t 0x17 v))
        ∧ (termOk → (q.state ≠ 0 ∨ full) → gives e.1 q.gen 2 stays)
        ∧ (termOk → q.state = 0 → ¬full → (if e.2 then q.fullRv else q.fullSd) = true → gives e.1 q.gen 3 stays)
        ∧ (termOk → q.state = 0 → ¬full → (if e.2 then q.fullRv else q.fullSd) = false →
            gives e.1 (q.gen + 1) 0 (fun t => SendsMessage s t 0 v { next with cls := e.2 })))
      ∧ (¬termOk → Gives (.renew g d a) s (fun t => Slips s t 0x17 v))
      ∧ (termOk → q.state ≠ 4 → gives (.renew g d a) q.gen 1 stays)
      ∧ (termOk → q.state = 4 → full → gives (.renew g d a) q.gen 2 stays)
      ∧ (termOk → q.state = 4 → ¬full → gives (.renew g d a) q.gen 0 (fun t => SendsMessage s t 1 v q))
      ∧ (q.state = 0 → gives (.lfree g d) q.gen 1 stays)
      ∧ (q.state ≠ 0 → full → gives (.lfree g d) q.gen 2 stays)
      ∧ (q.state ≠ 0 → ¬full → gives (.lfree g d) q.gen 0 (fun t => SendsMessage s t 2 0 q))
      ∧ (¬lineOk → Gives (.ecmd g d a) s (fun t => Slips s t 0x17 v))
      ∧ (lineOk → q.state ≠ 4 → gives (.ecmd g d a) q.gen 1 (fun t => stays t ∧ ecmd .idle t))
      ∧ (lineOk → q.state = 4 → q.outst = 4 ∨ full → gives (.ecmd g d a) q.gen 2 (fun t => stays t ∧ ecmd .idle t))
      ∧ (lineOk → q.state = 4 → q.outst ≠ 4 → ¬full → gives (.ecmd g d a) q.gen 0 (fun t =>
          SendsMessage s t 3 0 { q with outst := q.outst + 1 } ∧ ecmd (.ecmdRead d v.toNat s.nextId (s.tl.replay.ptr + 1)) t)))
    ∧ (enabled s.tl g = false →
        (∀ i ∈ [Instr.leaseSd g d a, .leaseRv g d a, .renew g d a, .lfree g d], Gives i s (fun t => WritesNothing s t))
        ∧ Gives (.ecmd g d a) s (fun t => Uses s t 15 [(1, BitVec.ofNat 32 (2 ^ (16 + v.toNat / 64 % 16)), .idle)] s.tl))

/-! ### Kennels and their engines (21-23) -/

/-- 21:R299-R306, R310, R311, 25:R342: what the kennel's events do: a ring slot, one in 32 cluster cycles, carries a tile's oldest message;
arrivals queue, renew, free, deliver;
a grant wakes the lowest asleep engine of the class for the oldest request; wake, expiry, eviction and the ending record, each with its
leash record at mirror 63, posted while the tile lives in the bind that the lease was taken in; ports learn of full queues; the cap
recovers. How the ring's instants are counted is the model's choice (log entry 55).
What a lease for a tile that has left, and a command under a fence, come to is the model's reading (log entry 26). -/
def Obligations.KennelEvents : Prop :=
  (∀ (s : State) (p : Nat) (m : Msg) (r : List Msg), (s.tile p).port.queue = m :: r →
    let u := s.tile p
    let k := clusterOf p
    (m.ready = true → u.port.slotAt ≤ s.now → Gives (.ringSlot p) s (fun t => (t.tile p).regs = u.regs
      ∧ (t.tile p).port = { u.port with queue := r, slotAt := s.now + 32 * cycLen s.freq.current false }
      ∧ (t.kennel k).ring = (s.kennel k).ring ++ [{ who := whoOf u, bindNo := u.bindNo, msg := m }]
      ∧ (m.due, arrivalEvent k m.kind) ∈ t.timers))
    ∧ (m.ready = false → exec (.ringSlot p) s = .next s)
    ∧ (m.ready = true → s.now < u.port.slotAt → exec (.ringSlot p) s = .next (s.timer u.port.slotAt (.ringSlot p))))
  ∧ (∀ (s : State) (k : Nat) (m : RingMsg) (r : List RingMsg), (s.kennel k).ring = m :: r →
      let now := kTime s k
      let posted := fun t w b n R => bindNoOf s w = some b → Posted t w n R
      (m.msg.kind = 0 → (∀ l ∈ (s.kennel k).leases, l.id ≠ m.msg.id) →
        (classFull (s.kennel k) m.msg.cls = false → mayLease s m.who m.bindNo = true → Gives (.leaseArrival k) s (fun t =>
          (t.kennel k).ring = r ∧ LeaseNow t k m.msg.id (fun l => l.who = m.who ∧ l.bindNo = m.bindNo ∧ l.gen = m.msg.gen ∧ l.cls = m.msg.cls
            ∧ l.term = m.msg.term.toNat ∧ l.st = .queued ∧ l.accept = now)
          ∧ Posted t m.who 63 (fun v => v.extractLsb' 0 32 = m.msg.gen ∧ v.extractLsb' 32 8 = 1)))
        ∧ (classFull (s.kennel k) m.msg.cls = true → Gives (.leaseArrival k) s (fun t =>
            (t.kennel k).ring = r ∧ (t.kennel k).leases = (s.kennel k).leases
              ∧ posted t m.who m.bindNo 63 (fun v => v.extractLsb' 0 32 = m.msg.gen ∧ v.extractLsb' 32 8 = 6))))
      ∧ (∀ l, leaseNamed s k m = some l → NamesOne s k l →
          (m.msg.kind = 1 → l.st = .held → Gives (.renewArrival k) s (fun t => (t.kennel k).ring = r
            ∧ LeaseNow t k l.id (fun q => q = { l with expiry := min (now + m.msg.term.toNat) (l.wakeDone + 10000000) })
            ∧ posted t l.who l.bindNo 63 (fun v => v.extractLsb' 32 8 = 3)))
          ∧ (m.msg.kind = 2 → Gives (.lfreeArrival k) s (fun t => (t.kennel k).ring = r
            ∧ LeaseNow t k l.id (fun q => q.st = .ended ∧ q.endCode = 7 ∧ q.endAt = now ∧ q.cmds = [] ∧ q.run = none)))
          ∧ (m.msg.kind = 3 → l.st = .held → waitsDone s m.who m.msg.waits = true → Gives (.ecmdArrival k) s (fun t =>
            (t.kennel k).ring = r ∧ LeaseNow t k l.id (fun q => q = { l with cmds := l.cmds ++ [(m.msg.id, m.msg.line, [])] }))))
      ∧ (m.msg.kind = 3 → leaseNamed s k m = none → Gives (.ecmdArrival k) s (fun t => (t.kennel k).ring = r
          ∧ (t.kennel k).leases = (s.kennel k).leases
          ∧ posted t m.who m.bindNo 62 (fun v => v.extractLsb' 0 32 = m.msg.gen ∧ v.extractLsb' 56 8 = 2))))
  ∧ (∀ (s : State) (k : Nat) (l : Lease) (r : List Lease), canGrant (s.kennel k) = true → waiting (s.kennel k) = l :: r →
      NamesOne s k l → (awakeLeases (s.kennel k)).length < 12 → Gives (.grant k) s (fun t => ∃ e : Nat,
        LeaseNow t k l.id (fun q => q.st = .waking ∧ q.eng = e ∧ q.granted = kTime s k
          ∧ q.wakeDone = kTime s k + (if l.cls then 2000 else 8000) ∧ q.expiry = q.wakeDone + l.term)
        ∧ (∀ m ∈ awakeLeases (s.kennel k), m.cls = l.cls → m.eng ≠ e)
        ∧ (∀ n, n < e → ∃ m ∈ awakeLeases (s.kennel k), m.cls = l.cls ∧ m.eng = n)
        ∧ (bindNoOf s l.who = some l.bindNo → Posted t l.who 63 (fun v => v.extractLsb' 32 8 = 2))))
  ∧ (∀ (s : State) (k : Nat) (l : Lease), NamesOne s k l →
      let posted := fun t R => bindNoOf s l.who = some l.bindNo → Posted t l.who 63 R
      (l.st = .waking → l.wakeDone ≤ kTime s k → Gives (.wakeDone k l.id) s (fun t =>
        LeaseNow t k l.id (fun q => q = { l with st := .held }) ∧ posted t (fun v => v.extractLsb' 32 8 = 3)
          ∧ (s.now + l.term * subTick, .leaseExpiry k l.id) ∈ t.timers))
      ∧ (l.st = .held → l.expiry ≤ kTime s k → Gives (.leaseExpiry k l.id) s (fun t =>
          LeaseNow t k l.id (fun q => q.st = .ended ∧ q.endCode = 5 ∧ q.endAt = kTime s k ∧ q.cmds = [] ∧ q.run = none)
            ∧ (s.now + 4850 * subTick, .endingLeash k l.id) ∈ t.timers))
      ∧ (l.st = .held → kTime s k < l.expiry → exec (.leaseExpiry k l.id) s = .next s)
      ∧ (l.st ≠ .ended → Gives (.firmwarePriorityEviction k l.id) s (fun t =>
          LeaseNow t k l.id (fun q => q.st = .ended ∧ q.endCode = 4 ∧ q.cause = 3 ∧ q.cmds = [] ∧ q.run = none)))
      ∧ (l.st = .ended → resultUnderWay s l = false → Gives (.endingLeash k l.id) s (fun t =>
          (t.kennel k).leases = (s.kennel k).leases.filter (fun m => m.id != l.id)
            ∧ posted t (fun v => v.extractLsb' 0 32 = l.gen ∧ v.extractLsb' 32 8 = l.endCode))))
  ∧ (∀ (s : State) (k : Nat), let q := s.kennel k
      (Gives (.fullnessReport k) s (fun t => ∀ p, (tfind s.tiles p).isSome = true → t.tile p = if clusterOf p = k
          then { s.tile p with port := { (s.tile p).port with fullSd := classFull q false, fullRv := classFull q true } }
          else s.tile p))
      ∧ (q.cap < 6 → q.capAt + 1000000 ≤ kTime s k → Gives (.capRecovery k) s (fun t =>
          (t.kennel k).cap = q.cap + 1 ∧ (t.kennel k).capAt = kTime s k)))

/-- 22:R314-R318, 23:R321-R323, R326-R330, 21:R312: a command block that fails a check ends with the check's code and does nothing
else; a grammar's header, an index entry with its edges and a snapshot's record are refused exactly where they miss a limit of
their layout. A Retriever reads all its indices when it begins, and stops with
code 0x21 at a window line that reads as failing: of a SCATTER's row with the index and the address of the table line that it was to
write, of an index list with FAILIDX the first index where its own line is not the failing one. It reads the lines of a GATHER's row,
and stops with the first of them, in their order, that could not be read; a row's lines reach the window, a scatter's writes are
issued from it. A Sheepdog reads the lines that its command needs, one an event, none while a write of its own is at its issue
instant, and then loads, masks, steps or restores its grammar, or ends with a code: LOADG takes the header's start configuration
(R327), bit t of a mask is 1 exactly when token t is legal (R324, R328), a STEP takes its edge's symbols, pushes and next state (R329),
a snapshot's record is R330's; its mask's lines reach the window and a snapshot's lines are issued. ENGINE_RESULT posts the result to
mirror 62 and the engine is idle.
The model's choices: the orders in which an engine reads and writes its lines (log entries 27, 107), that an index list is read at one
instant (log entry 108), that a row's paths are looked up before its lines move (log entry 109), that every edge is read before any is
checked (log entry 110), and what FAILIDX and FAILDVA name where a line of an index list fails (log entry 59). -/
def Obligations.EngineEvents : Prop :=
  (∀ (s : State) (k : Nat) (l : Lease) (line : Line), Delivered s k l true line → rvCheck line = none →
    ∀ e ∈ [(Instr.gather k l.id, 1), (.scatter k l.id, 2)], lineBytes line 0 1 = e.2 →
      (badIndex s l.who line = none → Gives e.1 s (fun t =>
        LeaseNow t k l.id (fun q => q.cmds = [] ∧ ∃ r, q.run = some r ∧ r.line = line ∧ r.ecode = 0 ∧ r.done = 0
          ∧ r.rows = (List.range (rvCount line)).map (fun i => BitVec.ofNat 64 (windowRead s l.who (rvIdx line + 4 * i) 4)))))
      ∧ (∀ a, badIndex s l.who line = some a → Gives e.1 s (fun t => LeaseNow t k l.id (fun q => q.cmds = [])
          ∧ RunStops t k l.id 0x21 (fun r => r.line = line ∧ r.done = 0
            ∧ (a ≠ rvIdx line / 64 * 64 → r.failidx = BitVec.ofNat 32 (windowRead s l.who (rvIdx line) 4))))))
  ∧ (∀ line : Line,
      let f := fun off n : Nat => line.toNat / 2 ^ (8 * off) % 2 ^ (8 * n)
      let fits := fun a n : Nat => 0x100000 ≤ a ∧ a + n ≤ 0x110000
      (rvCheck line = some 1 ↔ f 0 1 ≠ 1 ∧ f 0 1 ≠ 2) ∧ (∀ c, rvCheck line = some c → c = 1 ∨ c = 2)
      ∧ (rvCheck line = none ↔ (f 0 1 = 1 ∨ f 0 1 = 2) ∧ f 1 1 = 0 ∧ f 0x20 32 = 0
          ∧ f 4 2 % 64 = 0 ∧ 64 ≤ f 4 2 ∧ f 4 2 ≤ 8192 ∧ 1 ≤ f 6 2 ∧ f 6 2 ≤ 4096 ∧ f 8 8 % 64 = 0 ∧ f 0x10 4 % 64 = 0
          ∧ f 0x18 4 % 4 = 0 ∧ fits (f 0x18 4) (4 * f 6 2) ∧ f 0x1C 4 % 64 = 0 ∧ fits (f 0x1C 4) (f 4 2 * f 6 2))
      ∧ (sdCheck line = some 1 ↔ f 0 1 = 0 ∨ 5 < f 0 1) ∧ (∀ c, sdCheck line = some c → c = 1 ∨ c = 2)
      ∧ (sdCheck line = none ↔ (1 ≤ f 0 1 ∧ f 0 1 ≤ 5) ∧ f 1 1 = 0 ∧ f 4 4 = 0 ∧ f 0x10 48 = 0
          ∧ (f 0 1 = 2 ∨ f 0 1 = 3 → f 8 8 < 2 ^ 32) ∧ (f 0 1 ≠ 3 → f 8 8 % 64 = 0) ∧ (f 0 1 = 2 → 0x100000 ≤ f 8 8)))
  ∧ (∀ (s : State) (k : Nat) (l : Lease) (line : Line) (e : BitVec 8), Delivered s k l l.cls line →
      let refused := fun (c : BitVec 8) (t : State) => t.mem = s.mem ∧ t.tiles = s.tiles
        ∧ LeaseNow t k l.id (fun q => q.gram = l.gram ∧ q.cmds = []) ∧ RunStops t k l.id c (fun r => r.line = line ∧ r.done = 0)
      let op := lineBytes line 0 1
      (l.cls = true → rvCheck line = some e → Gives (if op = 2 then .scatter k l.id else .gather k l.id) s (refused e))
      ∧ (l.cls = false → let i := if op = 2 then Instr.mask k l.id else if op = 3 then .step k l.id else if op = 4 then .snap k l.id
            else if op = 5 then .restore k l.id else .loadg k l.id
          (sdCheck line = some e → Gives i s (refused e))
          ∧ (sdCheck line = none → 2 ≤ op → op ≤ 4 → l.gram = none → Gives i s (refused 4))
          ∧ ∀ g, sdCheck line = none → l.gram = some g →
            (op = 2 → 0x110000 < sdOperand line + 64 * ((g.vocab + 511) / 512) → Gives i s (refused 2))
            ∧ (op = 3 → g.vocab ≤ sdOperand line → Gives i s (refused 2))))
  ∧ (∀ (gbase : X) (h : Nat), h < 2 ^ 512 →
      let f := fun off n : Nat => h / 2 ^ (8 * off) % 2 ^ (8 * n)
      (gramOk h (gramOf gbase h) = true ↔ f 0 4 = 0x53444731 ∧ f 4 2 = 1 ∧ f 6 2 = 0 ∧ 1 ≤ f 8 4 ∧ f 8 4 ≤ 262144 ∧ f 0xC 4 < f 8 4
        ∧ 1 ≤ f 0x10 4 ∧ f 0x10 4 ≤ 65536 ∧ f 0x14 2 ≤ 4095 ∧ f 0x16 2 ≤ f 0x14 2 ∧ f 0x18 4 < f 0x10 4 ∧ f 0x1C 4 ≤ 2 ^ 30
        ∧ f 0x20 8 % 64 = 0 ∧ f 0x28 8 % 64 = 0 ∧ f 0x30 8 % 64 = 0 ∧ f 0x38 4 ≤ 2 ^ 26 ∧ f 0x3C 4 = 0
        ∧ f 0x20 8 + 8 * (f 0x10 4 * (f 0x14 2 + 1)) ≤ f 0x1C 4 ∧ f 0x28 8 + (f 0x10 4 + 7) / 8 ≤ f 0x1C 4
        ∧ f 0x30 8 + 16 * f 0x38 4 ≤ f 0x1C 4)
      ∧ (snapOk h = true ↔ f 0 4 = 0x53445331 ∧ f 8 2 ≤ 4096 ∧ f 0xA 1 ≤ 1 ∧ f 0xB 5 = 0 ∧ f 0x10 8 % 64 = 0 ∧ f 0x20 32 = 0))
  ∧ (∀ (got : Got) (a : X) (n : Nat),
      let line := fun i : Nat => lineAddr (a + BitVec.ofNat 64 i)
      (∀ v, gotBytes got a n = .ok v → v < 2 ^ (8 * n) ∧ ∀ i, i < n → ∃ d, gotLine got (line i) = some (0, d)
        ∧ v / 2 ^ (8 * i) % 256 = lineBytes d ((a + BitVec.ofNat 64 i).toNat % 64) 1)
      ∧ (∀ c b, gotBytes got a n = .fail (c, b) → c ≠ 0 ∧ ∃ i d, i < n ∧ line i = b ∧ gotLine got b = some (c, d)
          ∧ (∀ j, j < n → (gotLine got (line j)).isSome = true) ∧ ∀ j e d, j < i → gotLine got (line j) = some (e, d) → line j ≠ b → e = 0)
      ∧ (∀ ls, gotBytes got a n = .need ls → ls ≠ [] ∧ ∀ b, b ∈ ls ↔ gotLine got b = none ∧ ∃ i, i < n ∧ line i = b))
  ∧ (∀ (got : Got) (g : Gram) (x w : Nat),
      gotBytes got (g.gbase + BitVec.ofNat 64 (g.indexoff + 8 * (g.s * (g.nsym + 1) + gramTop g))) 8 = .ok x →
      let first := x % 2 ^ 32
      let count := x / 2 ^ 32 % 2 ^ 16
      let read := entryEdges got g
      (x / 2 ^ 48 ≠ 0 ∨ g.nedge < first + count → read = .fail (5, 0))
      ∧ (x / 2 ^ 48 = 0 → first + count ≤ g.nedge →
          gotBytes got (g.gbase + BitVec.ofNat 64 (g.edgeoff + 16 * first)) (16 * count) = .ok w →
          let f := fun i off n : Nat => w / 2 ^ (128 * i + off) % 2 ^ n
          let lo := fun i => f i 0 18
          let hi := fun i => f i 32 18
          let push := fun i => f i 20 2
          let sym := fun i j => f i (80 + 16 * j) 16
          let meets := (∀ i, i < count → f i 22 10 = 0 ∧ f i 50 14 = 0 ∧ lo i ≤ hi i ∧ hi i < g.vocab ∧ f i 64 16 < g.nstate
              ∧ ∀ j, j < 3 → (j < push i → 1 ≤ sym i j ∧ sym i j ≤ g.nsym) ∧ (push i ≤ j → sym i j = 0))
            ∧ ∀ i, i + 1 < count → hi i < lo (i + 1)
          (¬meets → read = .fail (5, 0))
          ∧ (meets → ∃ es, read = .ok es ∧ es.map (fun e => (e.lo, e.hi, e.pop, e.push, e.nxt, e.syms))
              = (List.range count).map (fun i => (lo i, hi i, f i 18 2, push i, f i 64 16, [sym i 0, sym i 1, sym i 2])))))
  ∧ (∀ (got : Got) (gbase : X) (h a : Nat), gotBytes got gbase 64 = .ok h →
      let field := fun off n : Nat => h / 2 ^ (8 * off) % 2 ^ (8 * n)
      let g0 := gramOf gbase h
      gotBytes got (gbase + BitVec.ofNat 64 (field 0x28 8)) ((field 0x10 4 + 7) / 8) = .ok a →
      (gramOk h g0 = false → loadGram got gbase = .fail (5, 0))
      ∧ (gramOk h g0 = true → ∃ g, loadGram got gbase = .ok g ∧ g.gbase = gbase ∧ g.vocab = field 8 4 ∧ g.endtok = field 0xC 4
        ∧ g.nstate = field 0x10 4 ∧ g.nsym = field 0x14 2 ∧ g.indexoff = field 0x20 8 ∧ g.edgeoff = field 0x30 8
        ∧ g.nedge = field 0x38 4 ∧ g.s = field 0x18 4 ∧ g.stack = (if field 0x16 2 = 0 then [] else [field 0x16 2])
        ∧ g.finished = false ∧ g.steps = 0
        ∧ ∀ i, i < (field 0x10 4 + 7) / 8 → mread g.acc i = BitVec.ofNat 8 (a / 2 ^ (8 * i))))
  ∧ (∀ (got : Got) (x v : Nat), gotBytes got (BitVec.ofNat 64 x) 64 = .ok v →
      let depth := v / 2 ^ 64 % 2 ^ 16
      let at_ := v / 2 ^ 32 % 2 ^ 32
      let sym := fun (w i : Nat) => w / 2 ^ (16 * i) % 2 ^ 16
      (snapOk v = false → snapGram got x = .fail (8, 0))
      ∧ ∀ w g, snapOk v = true → gotBytes got (BitVec.ofNat 64 (x + 64)) (2 * depth) = .ok w →
          loadGram got (BitVec.ofNat 64 (v / 2 ^ 128)) = .ok g →
          let good := at_ < g.nstate ∧ ∀ i, i < depth → 1 ≤ sym w i ∧ sym w i ≤ g.nsym
          (¬good → snapGram got x = .fail (8, 0))
          ∧ (good → snapGram got x = .ok { g with s := at_, stack := ((List.range depth).map (sym w)).reverse
                                                  finished := v / 2 ^ 80 % 2 == 1, steps := BitVec.ofNat 64 (v / 2 ^ 192) }))
  ∧ (∀ (line : Line) (gram : Option Gram) (got : Got), let op := lineBytes line 0 1
      (op = 1 → sdAsk line gram got = (loadGram got (BitVec.ofNat 64 (sdOperand line))).bind (fun g => .ok (.gram g)))
      ∧ (op = 5 → sdAsk line gram got = (snapGram got (sdOperand line)).bind (fun g => .ok (.gram g)))
      ∧ (∀ g, op = 2 ∨ op = 3 → gram = some g → sdAsk line gram got = (entryEdges got g).bind (fun es => .ok (.edges g es))))
  ∧ (∀ (s : State) (k p win : Nat) (l : Lease) (line data : Line), physOf s l.who = some p → portHeld s.now (s.tile p) win = false →
      ∀ e ∈ [(Instr.gather k l.id, true, 1), (.mask k l.id, false, 2)], lineBytes line 0 1 = e.2.2 →
        Working s k l e.2.1 line (.maskLine win data) → Gives e.1 s (fun t =>
          (∀ i, i < 64 → mread (t.tile p).mem (win + i) = data.extractLsb' (8 * i) 8)
            ∧ (∀ a, a < win ∨ win + 64 ≤ a → mread (t.tile p).mem a = mread (s.tile p).mem a)
            ∧ (t.tile p).regs = (s.tile p).regs ∧ t.mem = s.mem ∧ ∀ q, q ≠ p → t.tile q = s.tile q))
  ∧ (∀ (s u : State) (k win row : Nat) (l : Lease) (line data : Line) (dva : X) (tg : Target) (place : Place),
      let issued := fun (t : State) (v : Line) (at_ : Place) => t.mem = s.mem ∧ ∃ o ∈ t.ops, o.kind = .engWrite ∧ o.who = l.who
        ∧ o.dva = dva ∧ o.place = some at_ ∧ o.lines.map (fun x => (x.data, x.ready, x.performed)) = [(v, true, false)]
      (lineBytes line 0 1 = 2 → Working s k l true line (.scatter row win dva place) → badWindow s l.who win = false →
        Gives (.scatter k l.id) s (fun t => issued t (BitVec.ofNat 512 (windowRead s l.who win 64)) place))
      ∧ (lineBytes line 0 1 = 4 → Working s k l false line (.snapLine dva data) → engTarget k l.id dva true s = (.ok tg, u) →
        Gives (.snap k l.id) s (fun t => issued t data tg.place))
      ∧ (∀ (r : CmdRun) (idx : X) (rest : List Work) (rows : List X), AtWork s k l true r → lineBytes r.line 0 1 = 2 →
          r.work = .scatter row win dva place :: rest → (∀ w ∈ rest, ∀ a b c, w ≠ .gather a b c) → r.rows = idx :: rows →
          badWindow s l.who win = true → Gives (.scatter k l.id) s (fun t => t.mem = s.mem ∧ t.tiles = s.tiles
            ∧ RunStops t k l.id 0x21 (fun q => q.done = r.done ∧ q.failidx = idx.setWidth 32 ∧ q.faildva = dva)
            ∧ t.mclog = s.mclog ++ [{ ctx := l.who.ctx, cause := 0x21, dva := dva, gen := l.gen, stack := none }])))
  ∧ (∀ (s : State) (k : Nat) (l : Lease) (r : CmdRun), AtWork s k l true r → lineBytes r.line 0 1 = 1 →
      (∃ a b c, Work.gather a b c ∈ r.work) → Gives (.gather k l.id) s (fun t => t.mem = s.mem ∧ t.tiles = s.tiles
        ∧ ∃ (i row win : Nat) (dva : X) (u : State), r.work[i]? = some (.gather row dva win) ∧ u = { s with freeCount := u.freeCount } ∧
          let work := r.work.set i (match (engLine k l.id dva u).1 with | .ok d => .maskLine win d | .error f => .lost f.1 f.2)
          let left := ∃ a b c, Work.gather a b c ∈ work
          (left ∨ (∀ c a, Work.lost c a ∉ work) → RunNow t k l.id (fun q => q.ecode = 0 ∧ q.work = work ∧ q.rows = r.rows ∧ q.done = r.done))
          ∧ ∀ (j : Nat) (c : BitVec 8) (a : X), ¬left → work[j]? = some (.lost c a) →
              (∀ m e b, m < j → work[m]? ≠ some (.lost e b)) →
              RunStops t k l.id c (fun q => q.faildva = a ∧ q.done = r.done ∧ ∀ idx rows, r.rows = idx :: rows → q.failidx = idx.setWidth 32)))
  ∧ (∀ (s u : State) (k : Nat) (l : Lease) (dva : X), NamesOne s k l →
      (∀ c, engTarget k l.id dva false s = (.error c, u) → (engLine k l.id dva s).1 = .error (c, dva))
      ∧ (∀ da tag, engTarget k l.id dva false s = (.ok (.home da tag), u) → l.cls = true ∨ (∀ o ∈ s.ops, o.kind ≠ .engWrite) →
          (engLine k l.id dva s).1 = if failing u da = true then .error (0x21, dva) else .ok (devLine u tag da)))
  ∧ (∀ (s : State) (k : Nat) (l : Lease) (line : Line), Delivered s k l false line → sdCheck line = none →
      let x := sdOperand line
      let op := lineBytes line 0 1
      let i := if op = 2 then Instr.mask k l.id else if op = 3 then .step k l.id else if op = 5 then .restore k l.id else .loadg k l.id
      let reads := op = 1 ∨ op = 5 ∨ ∃ g, l.gram = some g ∧ (op = 2 ∧ x + 64 * ((g.vocab + 511) / 512) ≤ 0x110000 ∨ op = 3 ∧ x < g.vocab)
      (reads → Gives i s (fun t => t.mem = s.mem ∧ t.tiles = s.tiles ∧ LeaseNow t k l.id (fun q => q.gram = l.gram ∧ q.cmds = [])
        ∧ RunNow t k l.id (fun r => r.line = line ∧ r.ecode = 0 ∧ r.done = 0 ∧ r.work = [] ∧ r.rows = [] ∧ r.got = some [])))
      ∧ (∀ g, op = 4 → l.gram = some g → Gives (.snap k l.id) s (fun t => RunNow t k l.id (fun r =>
          ∃ (stack : Nat → Line) (head : Line), r.work
              = (List.range ((2 * g.stack.length + 63) / 64)).map (fun j => .snapLine (BitVec.ofNat 64 x + BitVec.ofNat 64 (64 + 64 * j)) (stack j))
                ++ [.snapLine (BitVec.ofNat 64 x) head]
            ∧ (∀ j i, i < 32 → (stack j).extractLsb' (16 * i) 16 = BitVec.ofNat 16 (g.stack.reverse.getD (32 * j + i) 0))
            ∧ head.extractLsb' 0 32 = 0x53445331 ∧ head.extractLsb' 32 32 = BitVec.ofNat 32 g.s
            ∧ head.extractLsb' 64 16 = BitVec.ofNat 16 g.stack.length ∧ head.getLsbD 80 = g.finished
            ∧ head.extractLsb' 81 47 = 0 ∧ head.extractLsb' 128 64 = g.gbase ∧ head.extractLsb' 192 64 = g.steps
            ∧ head.extractLsb' 256 256 = 0))))
  ∧ (∀ (s : State) (k : Nat) (l : Lease) (line : Line) (got : Got) (ls : List X), Reading s k l line got →
      sdAsk line l.gram got = .need ls → ls ≠ [] →
      let x := sdOperand line
      let op := lineBytes line 0 1
      let i := if op = 2 then Instr.mask k l.id else if op = 3 then .step k l.id else if op = 5 then .restore k l.id else .loadg k l.id
      let wrote := ∃ o ∈ s.ops, o.who = l.who ∧ o.kind = .engWrite ∧ s.now ≤ o.at_
      op ∈ [1, 2, 3, 5] →
      (wrote → Gives i s (fun t => t.kennels = s.kennels ∧ t.mem = s.mem ∧ t.tiles = s.tiles))
      ∧ (¬wrote → Gives i s (fun t => ∃ a ∈ ls, ∃ u : State, u = { s with freeCount := u.freeCount } ∧
          let more := got ++ [match (engLine k l.id a u).1 with | .ok d => (a, 0, d) | .error f => (a, f.1, 0)]
          let gramNow := fun g => LeaseNow t k l.id (fun q => q.gram = g)
          let goesOn := fun R => RunNow t k l.id (fun r => r.ecode = 0 ∧ r.rows = [] ∧ R r)
          (∀ ms, sdAsk line l.gram more = .need ms → gramNow l.gram ∧ goesOn (fun r => r.got = some more ∧ r.work = []))
          ∧ (∀ c b, sdAsk line l.gram more = .fail (c, b) → gramNow l.gram
              ∧ RunStops t k l.id c (fun r => r.done = 0 ∧ (c ∈ [0x20#8, 0x21, 0x23] → r.faildva = b)))
          ∧ (∀ g, sdAsk line l.gram more = .ok (.gram g) → gramNow (some g) ∧ goesOn (fun r => r.got = none ∧ r.work = []))
          ∧ (∀ g es, sdAsk line l.gram more = .ok (.edges g es) →
              (op = 2 → gramNow l.gram ∧ goesOn (fun r => r.got = none ∧ ∃ bits : Nat → Line,
                r.work = (List.range ((g.vocab + 511) / 512)).map (fun j => .maskLine (x + 64 * j) (bits j))
                ∧ ∀ j i, i < 512 → ((bits j).getLsbD i = true ↔ 512 * j + i < g.vocab ∧ Legal g es (512 * j + i))))
              ∧ (op = 3 → g.finished = true → gramNow l.gram ∧ RunStops t k l.id 7 (fun _ => True))
              ∧ (op = 3 → g.finished = false → ¬Legal g es x → gramNow l.gram ∧ RunStops t k l.id 6 (fun _ => True))
              ∧ (op = 3 → Legal g es x → goesOn (fun r => r.got = none ∧ r.work = [])
                  ∧ (x = g.endtok → gramNow (some { g with finished := true, steps := g.steps + 1 }))
                  ∧ (x ≠ g.endtok → ∃ e ∈ es, e.lo ≤ x ∧ x ≤ e.hi ∧ gramNow (some { g with
                      s := e.nxt, stack := (e.syms.take e.push).reverse ++ g.stack.drop e.pop, steps := g.steps + 1 })))))))
  ∧ (∀ (s : State) (k : Nat) (l : Lease) (r : CmdRun), NamesOne s k l → l.st = .held → l.run = some r → r.work = [] → r.rows = [] →
      r.got = none → Gives (.engineResult k l.id) s (fun t => LeaseNow t k l.id (fun q => q = { l with run := none, pages := q.pages })
        ∧ (bindNoOf s l.who = some l.bindNo → Posted t l.who 62 (fun v => v.extractLsb' 0 32 = l.gen ∧ v.extractLsb' 32 16 = BitVec.ofNat 16 (lineBytes r.line 2 2)
            ∧ v.extractLsb' 48 8 = BitVec.ofNat 8 (lineBytes r.line 0 1) ∧ v.extractLsb' 56 8 = if r.ecode = 0 then 0 else 1))))

/-! ### Privileged forms and the debug window (02, 25) -/

/-- 05:R110, 13:R229, 25:R355, R356: PREEMPT, KILL, MAPSET, KEYSEL and MBIND are cause 0x03 in a routine. Through the debug window, enabled, they act
at one instant on DBGXA and DBGXB and DBGRES reads 0; SYSR gives DBGXD, SYSW writes DBGXA to its register in STATE 011 or 000 alone. A word written to DBGINSN runs at privileged level when it
is one of those forms, and is 0x01 with the word else. A write of the window sets DBGXA, DBGXB, or, of a tile that is
frozen or empty, its registers and instruction store; of another tile's state it is refused with 0x17.
What guard such an instruction reads (log entry 25), that KEYSEL reads its line as the management core does, under no key (log
entry 10), and delivers none from a failing line (log entry 50), what DBGINFO reads with a refused STATE (log entry 25), that MAPSET of a tile that runs nothing waits for its first PERIOD (log entry
52), and that MAPSET keeps beside its target whether the sensor has asked for a migration too (log entry 75), are the model's
reading. -/
def Obligations.PrivilegedForms : Prop :=
  (∀ (s : State) (g : Guard) (a b : BitVec 5) (n : BitVec 6), quiet s = true → s.level = false →
    ∀ i ∈ [Instr.preempt g a, .kill g a, .mapset g a b, .keysel g a b, .mbind g a n],
      Gives i s (fun t => Slips s t 0x03 (wordInfo s.tl 0)))
  ∧ (∀ (s : State) (g : Guard) (a b d : BitVec 5) (n : BitVec 6) (num : BitVec 12), s.level = true → enabled s.tl g = true →
      let xa := s.tl.dbg.xa
      let xb := s.tl.dbg.xb
      let done := fun t : State => t.tl.dbg.res = 0 ∧ t.tl.dbg.info = 0 ∧ t.tl.regs = s.tl.regs ∧ t.tl.mem = s.tl.mem
      let refused := fun (c info : X) (t : State) => t.tl = { s.tl with dbg := { s.tl.dbg with res := c, info := info } }
        ∧ t = { s with tiles := t.tiles } ∧ ∀ p, p ≠ s.turn → t.tile p = s.tile p
      (∀ c, liveCtx s (xa.extractLsb' 0 16) = some c →
        (xa.extractLsb' 16 48 = 0 → Gives (.kill g a) s (fun t => done t
          ∧ (∀ e ∈ t.ctxs, e.id = xa.extractLsb' 0 16 → e.killing = true)
          ∧ (s.now + 200000 * subTick, .killComplete (xa.extractLsb' 0 16)) ∈ t.timers))
        ∧ (xa.extractLsb' 17 47 = 0 → Gives (.preempt g a) s (fun t => done t
            ∧ ∀ w ∈ ctxTiles s c, Posted t w 61 (fun v => v = if xa.getLsbD 16 then 2 else 1))))
      ∧ (liveCtx s (xa.extractLsb' 0 16) = none →
          ∀ i ∈ [Instr.preempt g a, .kill g a], Gives i s (fun t => t.tl.dbg.res = 0x17 ∧ t.tl.dbg.info = xa ∧ t.ctxs = s.ctxs ∧ t.posts = s.posts))
      ∧ (xa.toNat < 128 * liveDies s → xb.toNat ≤ 33 →
          let q := 34 * s.clusterMap.getD (xa.toNat / 32) 0 + xb.toNat
          (∀ p, carrier s xa.toNat = some p → mayTake s (s.tile p) q = true → Gives (.mapset g a b) s (fun t => done t
            ∧ (t.tile p).migrateTo = some (.mapset q (isHot (s.tile p).migrateTo))))
          ∧ (carrier s xa.toNat = none → (s.tile q).state = 5 ∨ (s.tile q).state = 0 → Gives (.mapset g a b) s (fun t => done t
            ∧ tfind t.mapPend xa.toNat = some q ∧ t.l2p = s.l2p)))
      ∧ (xa.extractLsb' 12 51 = 0 → (∀ c ∈ s.ctxs, c.key ≠ xa.extractLsb' 0 12) →
          let k := (xa.extractLsb' 0 12).toNat
          (xa.getLsbD 63 = true → Gives (.keysel g a b) s (fun t => done t ∧ tfind t.keys k = none ∧ t.mem = s.mem))
          ∧ (∀ da, xa.getLsbD 63 = false → xb.toNat % 64 = 0 → hashPlace 0 s.live xb.toNat = some da → da % 64 = 0 →
              (failing s da = true → Gives (.keysel g a b) s (refused 0x21 xb))
              ∧ (failing s da = false → Gives (.keysel g a b) s (fun t => done t
                ∧ tfind t.keys k = some (lineBytes (cipherLine s da) 0 32, lineBytes (cipherLine s da) 32 32)
                ∧ (∀ i, i < 64 → mread t.mem (da + i) = 0) ∧ ∀ x, x < da ∨ da + 64 ≤ x → mread t.mem x = mread s.mem x))))
      ∧ (let bound := fun (w : X) (t : State) => done t
          ∧ tget mirrorInit t.tl.mirs n.toNat = { seen := false, payload := 0, seq := 0, stamp := 0, arrival := 0, binding := w
                                                  wrote := [], sampled := 0, writer := none }
          ∧ ∀ m, m ≠ n.toNat → tget mirrorInit t.tl.mirs m = tget mirrorInit s.tl.mirs m
        let pkg := xa.extractLsb' 45 13
        let tile := xa.extractLsb' 32 9
        let scope : X := if pkg ≠ s.pkg then 4 else if tile = s.tl.bind.logtile then 0
          else if tile.toNat / 32 = s.tl.bind.logtile.toNat / 32 then 1 else 3
        n.toNat < 60 →
          (xa = 0 → Gives (.mbind g a n) s (bound 0))
          ∧ (xa.getLsbD 63 = true → xa &&& 0x7C001E00FFFFFFE0 = 0 → (pkg ≠ s.pkg ∨ tile.toNat < 128 * liveDies s) →
              Gives (.mbind g a n) s (bound ((xa &&& 0x83FFE1FF0000001F) ||| (scope <<< 60))))
          ∧ (xa.getLsbD 63 = true → (xa &&& 0x7C001E00FFFFFFE0 ≠ 0 ∨ pkg = s.pkg ∧ 128 * liveDies s ≤ tile.toNat) →
              Gives (.mbind g a n) s (refused 0x17 xa))
          ∧ (xa.getLsbD 63 = false → xa ≠ 0 → Gives (.mbind g a n) s (refused 0x17 xa)))
      ∧ (60 ≤ n.toNat → Gives (.mbind g a n) s (refused 0x17 (n.setWidth 64)))
      ∧ Gives (.sysr g d num) s (fun t => done t ∧ t.tl.dbg.xd = sysValue s num)
      ∧ (let wrote := fun (n : BitVec 12) (u : Tile) (o : X) (e : Bool) => Gives (.sysw g d n) s (fun t =>
          t.tl = { u with dbg := { s.tl.dbg with res := 0, info := 0 } } ∧ t.occause = o ∧ t.boostEn = e
            ∧ ∀ p, p ≠ s.turn → t.tile p = s.tile p)
        (s.tl.state = 3 ∨ s.tl.state = 0 →
          (64 ≤ xa.toNat → xa.toNat ≤ 1048576 → wrote 0x010 { s.tl with perlenNext := xa.toNat } s.occause s.boostEn)
          ∧ (xa.toNat < 64 ∨ 1048576 < xa.toNat → Gives (.sysw g d 0x010) s (refused 0x17 xa))
          ∧ (xa.toNat % 4 = 0 → xa.toNat < 0x20000 →
              wrote 0x020 { s.tl with trap := { s.tl.trap with vec := xa } } s.occause s.boostEn)
          ∧ (xa.toNat % 4 ≠ 0 ∨ 0x20000 ≤ xa.toNat → Gives (.sysw g d 0x020) s (refused 0x17 xa))
          ∧ wrote 0x060 { s.tl with collide := xa } s.occause s.boostEn
          ∧ wrote 0x804 s.tl (s.occause &&& ~~~(xa &&& 0xF0F)) s.boostEn
          ∧ wrote 0x805 s.tl s.occause (xa.getLsbD 0)
          ∧ ∀ n : BitVec 12, sysUser n = true ∨ sysPriv n = true → n ∉ [0x010, 0x020, 0x060, 0x804, 0x805] →
              Gives (.sysw g d n) s (refused 0x17 (n.setWidth 64)))
        ∧ (s.tl.state ≠ 3 → s.tl.state ≠ 0 → ∀ n, Gives (.sysw g d n) s (refused 0x17 0))))
  ∧ (∀ (s : State) (p : Nat) (v : X), s.level = false → let o := s.tile p
      Gives (.debugWindowWrite p 0x600008 v) s (fun t => (t.tile p).dbg.xa = v ∧ (t.tile p).regs = o.regs ∧ t.level = false)
      ∧ Gives (.debugWindowWrite p 0x600010 v) s (fun t => (t.tile p).dbg.xb = v ∧ (t.tile p).regs = o.regs ∧ t.level = false)
      ∧ (o.state = 3 ∨ o.state = 0 → (∀ r : BitVec 5, r ≠ 0 →
          Gives (.debugWindowWrite p (0x1000 + 8 * r.toNat) v) s (fun t => rx (t.tile p) r = v ∧ t.level = false)))
      ∧ (o.state = 3 ∨ o.state = 0 → ∀ k, k < 0x4000 → Gives (.debugWindowWrite p (0x620000 + 8 * k) v) s (fun t =>
          mreadLE (t.tile p).imem (8 * k) 8 = v.toNat ∧ (t.tile p).regs = o.regs
            ∧ ∀ a, a < 8 * k ∨ 8 * k + 8 ≤ a → mread (t.tile p).imem a = mread o.imem a))
      ∧ (o.state ≠ 3 → o.state ≠ 0 → ∀ off, off < 0x600000 → Gives (.debugWindowWrite p off v) s (fun t =>
          (t.tile p).dbg.res = 0x17 ∧ (t.tile p).regs = o.regs ∧ (t.tile p).mem = o.mem ∧ ∀ q, q ≠ p → t.tile q = s.tile q))
      ∧ (windowWord (v.extractLsb' 0 32) = false → Gives (.debugWindowWrite p 0x600000 v) s (fun t => t.level = false
          ∧ t.tile p = { o with dbg := { o.dbg with res := 0x01, info := (v.extractLsb' 0 32).setWidth 64 } }
          ∧ ∀ q, q ≠ p → t.tile q = s.tile q))
      ∧ (∀ (g : Guard) (a b d : BitVec 5) (n : BitVec 6) (num : BitVec 12), windowWord (v.extractLsb' 0 32) = true →
          ∀ i ∈ [Instr.sysr g d num, .sysw g d num, .mbind g a n, .preempt g a, .kill g a, .mapset g a b, .keysel g a b],
            decodeWords true [v.extractLsb' 0 32] = .ok i → ∀ u, exec i { s with turn := p, level := true } = .next u →
              exec (.debugWindowWrite p 0x600000 v) s = .next { u with turn := s.turn, level := false }))

/-! ### Contexts (01, 06) -/

/-- 01:R20-R26: a control word with STATE 001 binds an entry that is empty, spare or frozen (routine and list translated), in the
cluster of its logical tile: registers and stores cleared, the eight parameters in x1 to x8, the start due. 06:R134: where the save
address holds a valid image, all of it readable, everything that the image holds is loaded on top. STATE 000,
101 and 110 leave the entry so, its registers and stores as they were; any other write is refused with 0x17. At START the tile
runs cycle 0. A notify is queued, or dropped and counted when 64 wait, and one to a slot whose LSTAT is not 0 is ignored, with vector 1
of the host's each time (25:R349, R350); serving one accepts the record its LSEQ matches, or reads
LSEQ again, eight times at 1,000 ticks. A record that misses a check of 01:R16 to R18 or finds too few free tiles gets the code of
the first of the four steps that fails (01:R20, with 0x12 for a list's entries, and 0x14), LSTAT the values of 01:R19.
What tells a tile's earlier life from a new bind (life 0, log entry 65), what a free choice of context ID counts (freeCount, log
entry 9), the context ID that 0 stands for (log entry 36), where a refusal is read (log entry 60), that the first byte of each address
is tested and an unreadable list judged as zeros (log entry 48), which logical tiles count as free (log entry 73), and what a reader
finds of a plane that was loaded (log entry 58), are the model's choices, and what a refused
or faulting control word leaves its reading (log entry 29). -/
def Obligations.LaunchAndBind : Prop :=
  (∀ (s : State) (p idx : Nat) (record : List Byte), mayBind (s.tile p) = true →
    let b := bindOf record
    let u := fun t : State => t.tile p
    (recState record = 1 → bindPlace s p b = true → firstFault s b.ctx b.routine b.routlen.toNat = none →
      firstFault s b.ctx b.bindlist (4 * b.nbind.toNat) = none → validImage s b = false →
      Gives (.controlWordWrite p idx record) s (fun t =>
        (u t).state = 1 ∧ (u t).phase = .held ∧ (u t).bind = b ∧ (u t).pc = 0 ∧ (u t).mem = [] ∧ (u t).trap.vec = 0
          ∧ (u t).perlen = b.perlen.toNat ∧ (u t).perlenNext = b.perlen.toNat ∧ (u t).port.state = 0 ∧ (u t).collide = 0
          ∧ (∀ r : BitVec 5, rx (u t) r = if 1 ≤ r.toNat ∧ r.toNat ≤ 8 then b.params.getD (r.toNat - 1) 0 else 0)
          ∧ (∀ r : BitVec 3, r ≠ 0 → rg (u t) r = 0) ∧ (∀ r, rb (u t) r = 0) ∧ (∀ r, rv (u t) r = 0)
          ∧ tfind t.latest b.logtile.toNat = some (u t).bindNo
          ∧ (max s.now (tickInstant s p b.start.toNat), .tileStart p) ∈ t.timers
          ∧ ∀ q, q ≠ p → t.tile q = if whoOf (s.tile q) = { ctx := b.ctx, idx := idx, life := lifeOf s b.ctx }
              then { s.tile q with life := 0 } else s.tile q))
    ∧ (recState record = 1 → bindPlace s p b = true → firstFault s b.ctx b.routine b.routlen.toNat = none →
      firstFault s b.ctx b.bindlist (4 * b.nbind.toNat) = none → validImage s b = true → firstFault s b.ctx b.savearea 0x600000 = none →
      Gives (.controlWordWrite p idx record) s (fun t =>
        let y := u t
        let q := fun off n : Nat => (dvaRead s b.ctx (b.savearea + BitVec.ofNat 64 off) n).getD 0
        let q8 := fun off : Nat => (BitVec.ofNat 64 (q off 8) : X)
        y.state = 1 ∧ y.phase = .held ∧ y.pc = q8 0x20 ∧ y.perlen = q 0x1C 4 ∧ y.perlenNext = q 0x1C 4
          ∧ y.clk.perstamp = q8 0x28 ∧ y.clk.stretch = q8 0x30 ∧ y.clk.holds = q8 0x38 ∧ y.collide = q8 0x68
          ∧ y.trap = { mode := false, entered := false, vec := q8 0x40, cause := q8 0x48 &&& 0xFF, slot := q8 0x50, pc := q8 0x58, info := q8 0x60 }
          ∧ y.bind.memquota = BitVec.ofNat 32 (q 0x70 8) ∧ y.bind.replay = BitVec.ofNat 2 (q 0x88 8) ∧ y.pcseq = BitVec.ofNat 32 (q 0xB0 4)
          ∧ y.loops = [] ∧ y.redirect = none ∧ y.port.state = 0 ∧ y.tickets = []
          ∧ (∀ r : BitVec 5, rx y r = if r = 0 then 0 else q8 (0x1000 + 8 * r.toNat))
          ∧ (∀ r : BitVec 3, r ≠ 0 → rg y r = q8 (0x1100 + 8 * r.toNat)) ∧ (∀ r : BitVec 2, rb y r = q8 (0x1140 + 8 * r.toNat))
          ∧ (∀ r : BitVec 5, rv y r = BitVec.ofNat 2048 (q (0x2000 + 256 * r.toNat) 256))
          ∧ (∀ i, i < 256 → tget 0 y.tags i = q8 (0x4000 + 8 * i) &&& 0x800FFFFFFFFFFFFF)
          ∧ (∀ i, i < 32 → let a := 0x4800 + 128 * i
              tget outInit y.outs i = { payload := BitVec.ofNat 512 (q a 64), seq := BitVec.ofNat 32 (q (a + 64) 4), stamp := q8 (a + 72) })
          ∧ (∀ i, i < 64 → let a := 0x5800 + 128 * i
              let x := tget mirrorInit y.mirs i
              x.payload = BitVec.ofNat 512 (q a 64) ∧ x.seq = BitVec.ofNat 32 (q (a + 64) 4) ∧ x.stamp = q8 (a + 72)
                ∧ x.arrival = q8 (a + 80) ∧ (x.seen = true ↔ x.stamp ≠ 0))
          ∧ (∀ a, a < 0x100000 → mread y.mem a = BitVec.ofNat 8 (q (0x100000 + a) 1))
          ∧ (∀ a, a < 0x10000 → mread y.mem (0x100000 + a) = BitVec.ofNat 8 (q (0x40000 + a) 1))
          ∧ (∀ a, a < 0x20000 → mread y.arr.acc a = BitVec.ofNat 8 (q (0x20000 + a) 1))
          ∧ (∀ a, a < 0x400000 → mread y.arr.wsram a = BitVec.ofNat 8 (q (0x200000 + a) 1))
          ∧ y.arr.ashape = BitVec.ofNat 4 (q 0x78 8) ∧ y.arr.active1 = false ∧ y.arr.wsramDirty = true
          ∧ (∀ i, i < 16 → y.arr.stage.getD i 0 = BitVec.ofNat 16 (q (0x90 + 2 * i) 2))
          ∧ (∀ k : Fin 4, y.arr.band[k] = if (s.tile p).arr.bandOk.getLsbD k = false then .asleep
              else if (q 0x80 8).testBit k then .awake else if (q 0x78 8).testBit k then .waking 2000 else .asleep)
          ∧ (∀ e ∈ [(y.arr.plane0, 0x8000, 0x60000), (y.arr.plane1, 0xA000, 0x70000)], let (pl, a, w) := e
              let own := q (a + 8) 1 ≠ 0
              pl.woff = q a 4 ∧ pl.fmt = (Ty.ofCode (BitVec.ofNat 5 (q (a + 4) 1))).getD .bf16 ∧ pl.loaded = BitVec.ofNat 4 (q (a + 5) 1)
                ∧ pl.outl.length = min 512 (q (a + 6) 2) ∧ (∀ j, j < pl.outl.length → pl.outl.getD j 0 = q8 (a + 0x40 + 8 * j))
                ∧ (∀ i, i < 16 → pl.codes.getD i 0 = BitVec.ofNat 16 (q (a + 0x20 + 2 * i) 2))
                ∧ (pl.loaded = 0 → pl.weights = [])
                ∧ (pl.loaded ≠ 0 → own → ∀ i, i < 0x10000 → mread pl.weights i
                    = if usedByte pl.fmt (i % 512) = true then BitVec.ofNat 8 (q (w + i) 1) else 0)
                ∧ (pl.loaded ≠ 0 → ¬own → pl.weights = setRecords y.arr.wsram pl.fmt (pl.woff % 0x8000 / 512)))
          ∧ (max s.now (tickInstant s p b.start.toNat), .tileStart p) ∈ t.timers))
    ∧ (∀ st ∈ [0#3, 5, 6], recState record = st → Gives (.controlWordWrite p idx record) s (fun t =>
        (u t).state = st ∧ (u t).bind = b ∧ (u t).phase = .off ∧ (u t).regs = (s.tile p).regs ∧ (u t).mem = (s.tile p).mem
          ∧ ∀ q, q ≠ p → t.tile q = s.tile q)))
  ∧ (∀ (s : State) (p idx : Nat) (record : List Byte),
      mayBind (s.tile p) = false ∨ recState record ∈ [2#3, 3, 4, 7] ∨ recState record = 1 ∧ bindPlace s p (bindOf record) = false →
      exec (.controlWordWrite p idx record) s = .next { s with mcRes := 0x17 })
  ∧ (∀ (s : State) (p : Nat), let o := s.tile p
      o.state = 1 → o.bind.start.toNat ≤ (timeBase s p s.now).toNat → Gives (.tileStart p) s (fun t =>
        let u := t.tile p
        u.state = 2 ∧ u.phase = .run ∧ u.cyc = 0 ∧ u.issued = false ∧ u.clk.start = s.now ∧ u.regs = o.regs ∧ u.mem = o.mem ∧ u.pc = o.pc
          ∧ ∀ q, q ≠ p → t.tile q = s.tile q))
  ∧ (∀ (s : State) (v : X),
      (s.notifies.length < 64 → exec (.notify v) s = .next { s with notifies := s.notifies ++ [v] })
      ∧ (64 ≤ s.notifies.length → exec (.notify v) s
          = .next { s with notifyDrop := s.notifyDrop + 1, msix := s.msix ++ [1] }))
  ∧ (∀ (s : State) (ctx : BitVec 16) (v : X) (r : List X), s.boot.stat = 1 → s.serving = none → s.notifies = v :: r →
      let u := { s with notifies := r }
      let k := 0x20000 * (v.extractLsb' 0 8).toNat
      (lfield u k 0x30 8 ≠ 0 → exec (.serveNotify ctx) s
          = .next { u with msix := s.msix ++ [1], freeCount := s.freeCount + 1 })
      ∧ (lfield u k 0x30 8 = 0 → lfield u k 0 8 = v.toNat → launchReject u (newCtx u ctx) k = none →
          Gives (.serveNotify ctx) s (fun t => t.notifies = r ∧ t.serving = none ∧ ∃ c, t.ctxs = s.ctxs ++ [c] ∧ c.id = newCtx u ctx
            ∧ c.slot = some k ∧ c.ntiles = lfield u k 0x0E 2 ∧ c.bound = [] ∧ c.killing = false))
      ∧ (lfield u k 0x30 8 = 0 → lfield u k 0 8 = v.toNat → ∀ code, launchReject u (newCtx u ctx) k = some code → code ≠ 1 →
          Gives (.serveNotify ctx) s (fun t => t.ctxs = s.ctxs ∧ t.msix = s.msix ++ [0]))
      ∧ (lfield u k 0x30 8 = 0 → lfield u k 0 8 ≠ v.toNat → Gives (.serveNotify ctx) s (fun t =>
          t.serving = some { value := v, left := 8, at_ := s.now + 1000 * subTick } ∧ t.ctxs = s.ctxs ∧ (s.now + 1000 * subTick, .lseqReread 0) ∈ t.timers)))
  ∧ (∀ (s : State) (ctx : BitVec 16) (k : Nat),
      let f := fun off n : Nat => lfield s k off n
      let e := fun i off n : Nat => lfield s (k + 0x40 + 0x80 * i) off n
      let tiles := f 0x0E 2
      let magic := f 8 4 = 0x4C484C31 ∧ f 0x0C 2 = 1
      let header := 1 ≤ tiles ∧ tiles ≤ 512 ∧ f 0x12 2 ≤ 4095 ∧ (tfind s.keys (f 0x12 2)).isSome = true ∧ 1 ≤ f 0x14 1 ∧ f 0x14 1 < 16
        ∧ (∀ d, d < 4 → (f 0x14 1).testBit d = true → s.live.getLsbD d = true) ∧ f 0x15 1 ≤ 7 ∧ f 0x16 2 = 0 ∧ f 0x20 8 % 4096 = 0
        ∧ f 0x28 8 = 0 ∧ f 0x38 8 = 0
      let entry := fun i => e i 0 8 % 4 = 0 ∧ e i 8 4 % 4 = 0 ∧ 4 ≤ e i 8 4 ∧ e i 8 4 ≤ 131072 ∧ 64 ≤ e i 0x0C 4 ∧ e i 0x0C 4 ≤ 1048576
        ∧ e i 0x20 2 ≤ 60 ∧ e i 0x22 1 < 3 ∧ e i 0x23 5 = 0 ∧ e i 0x68 24 = 0
      let maps := fun dva => (xlate s ctx (BitVec.ofNat 64 dva) false).isSome = true
      let mapped := fun i => maps (e i 0 8) ∧ (e i 0x20 2 = 0 ∨ maps (e i 0x18 8)) ∧ maps (f 0x20 8)
      let word := fun i j => (dvaRead s ctx (BitVec.ofNat 64 (e i 0x18 8)) (4 * e i 0x20 2)).getD 0 / 2 ^ (32 * j) % 2 ^ 32
      let listed := fun i => ∀ j, j < e i 0x20 2 → word i j < 2 ^ 20 ∧ word i j / 2 ^ 11 % 512 < tiles ∧ word i j % 64 < 60
        ∧ ∀ m, m < j → word i m % 64 ≠ word i j % 64
      let every := fun P : Nat → Prop => ∀ i, i < tiles → P i
      let free := fun lt => lt < 128 * liveDies s ∧ (f 0x14 1).testBit (s.clusterMap.getD (lt / 32) 0 / 4) = true
        ∧ ∀ t ∈ s.tiles, t.2.bind.ctx ≠ 0 → t.2.bind.logtile.toNat = lt → t.2.state ∉ [1#3, 2, 3, 4]
      let room := ∃ l : List Nat, l.Nodup ∧ l.length = tiles ∧ ∀ lt ∈ l, free lt
      (¬magic → launchReject s ctx k = some 0x11)
      ∧ (magic → ¬(header ∧ every entry) → launchReject s ctx k = some 0x12)
      ∧ (magic → header → every entry → ¬every mapped → launchReject s ctx k = some 0x13)
      ∧ (magic → header → every entry → every mapped → ¬every listed → launchReject s ctx k = some 0x12)
      ∧ (magic → header → every entry → every mapped → every listed →
          (¬room → launchReject s ctx k = some 0x14) ∧ (room → launchReject s ctx k = none)))
  ∧ (∀ (s : State) (ctx : BitVec 16) (v : Serving), s.serving = some v →
      let k := 0x20000 * (v.value.extractLsb' 0 8).toNat
      (s.now < v.at_ → exec (.lseqReread ctx) s = .next s)
      ∧ (v.at_ ≤ s.now → lfield s k 0 8 ≠ v.value.toNat → 1 < v.left → Gives (.lseqReread ctx) s (fun t =>
        t.serving = some { v with left := v.left - 1, at_ := s.now + 1000 * subTick } ∧ t.ctxs = s.ctxs ∧ (s.now + 1000 * subTick, .lseqReread 0) ∈ t.timers))
      ∧ (v.at_ ≤ s.now → lfield s k 0 8 ≠ v.value.toNat → v.left ≤ 1 → Gives (.lseqReread ctx) s (fun t =>
        t.serving = none ∧ t.ctxs = s.ctxs ∧ t.msix = s.msix ++ [0]))
      ∧ (v.at_ ≤ s.now → lfield s k 0 8 = v.value.toNat → launchReject { s with serving := none } (newCtx s ctx) k = none →
          Gives (.lseqReread ctx) s (fun t => t.serving = none ∧ ∃ c, t.ctxs = s.ctxs ++ [c] ∧ c.id = newCtx s ctx)))
  ∧ (∀ (s : State) (c : Ctx) (k st : Nat), s.ctxs.find? (fun d => d.id == c.id) = some c → c.slot = some k → c.start = some st →
      c.bound.length = c.ntiles → st ≤ s.now / subTick → c.killing = false → lfield s k 0x30 8 = 1 →
      Gives (.lstatRunning c.id) s (fun t => t.msix = s.msix ++ [0] ∧ t.ctxs = s.ctxs ∧ t.tiles = s.tiles
        ∧ ∀ d dva, barPlace s (k + 0x30) = some (d, dva) → t = { dvaWrite d dva 8 2 s with msix := s.msix ++ [0] }))

/-- 06:R129, R136, 01:R28: a save that no operation and no message still outstanding holds back (log entry 92) writes the tile's image
to its save address, SVALID last, frees the tile and marks it saved in its context. 06:R130-R133: the bytes of the image: header,
registers, tags, out-slots, mirrors, plane descriptors, accumulators, window, scratchpad, and the weights and WSRAM that it carries. At
the end of a PERIOD the save begins, or a migration moves the tile's state to another physical tile and holds it (06:R135). A kill
stops the tile,
with nothing in flight, and completes when all of the context has stopped, leaving its places empty; of a tile that has halted by then it
discards the held operations (log entry 76). A hold ends with the next
cycle; a droop doubles a cycle before its issue, one in any sixteen, or the next cycle after it.
That a save is one event, and which cycles a droop may stretch (log entries 30, 37), that CTXID of the slot entry reads 0 after a save
and its whole record after a kill (log entry 93), that a line of the image whose page does not translate is left out (log entry 84),
that a redirect still to come is no part of an image (log entry 57), which rows of a plane's record are written (log entry 111), that
uncorrectable errors move with a migration (log entry 112), and what a halted tile at its target loses (log entry 101), are the
model's choices. -/
def Obligations.SavesKillsAndHolds : Prop :=
  (∀ (s : State) (p : Nat), let o := s.tile p
    (o.state = 4 → outstanding s (whoOf o) = false → o.port.queue = [] → Gives (.saveComplete p) s (fun t =>
      (t.tile p).state = 0 ∧ (t.tile p).phase = .off ∧ (t.tile p).bind.ctx = 0 ∧ (t.tile p).regs = o.regs
        ∧ ((∃ c ∈ s.ctxs, ofCtx c o = true) → ∀ c ∈ t.ctxs, c.id = o.bind.ctx → o.packIdx.toNat ∈ c.saved)
        ∧ (let m := imageOf false o
           let u := dvaLines o.bind.ctx o.bind.savearea (fun j => mreadLine m (64 * j)) 0 (if o.arr.wsramDirty then 0x18000 else 0x8000) s
           t.mem = (dvaWrite o.bind.ctx (o.bind.savearea + 8) 8 (2 ^ 63 + o.bind.ctx.toNat) u).mem)
        ∧ ∀ q, q ≠ p → t.tile q = { s.tile q with mirs := (t.tile q).mirs }
            ∧ ∀ m, let x := tget mirrorInit (t.tile q).mirs m
                x = { tget mirrorInit (s.tile q).mirs m with writer := x.writer }))
    ∧ (o.state = 4 → outstanding s (whoOf o) = true ∨ o.port.queue ≠ [] → exec (.saveComplete p) s = .next s)
    ∧ (beingKilled s o.bind.ctx = true → takesPosts o = true → Gives (.killTileStop p) s (fun t =>
        let u := t.tile p
        u.state = 3 ∧ u.phase = .off ∧ u.pend = [] ∧ u.jobs = [] ∧ u.loops = [] ∧ u.slip = none ∧ u.regs = o.regs ∧ u.mem = o.mem))
    ∧ (beingKilled s o.bind.ctx = true → takesPosts o = false → Gives (.killTileStop p) s (fun t => t = { s with ops := t.ops }
        ∧ (∀ q ∈ t.ops, q.who = whoOf o → q.held = true → ∀ l ∈ q.lines, l.performed = true ∨ l.dropped = true)
        ∧ ∀ q ∈ s.ops, q.who ≠ whoOf o → opAlive s q = true → q ∈ t.ops))
    ∧ (o.phase = .held → o.state = 2 → (∀ j ∈ o.jobs, o.abs ≤ j.cyc) → Gives (.holdEnd p) s (fun t =>
        (t.tile p).phase = .run ∧ (t.tile p).clk.start = s.now ∧ (t.tile p).regs = o.regs ∧ (t.tile p).cyc = o.cyc
          ∧ (t.tile p).clk.stretched = false ∧ ∀ q, q ≠ p → t.tile q = s.tile q))
    ∧ (issuing o = true → o.issued = false → o.clk.stretched = false →
        (16 ≤ o.clk.since → Gives (.droopStretch p) s (fun t =>
          t.tile p = { o with clk := { o.clk with stretched := true } } ∧ t.occause = s.occause ∧ ∀ q, q ≠ p → t.tile q = s.tile q))
        ∧ (o.clk.since < 16 → exec (.droopStretch p) s = .next { s with occause := s.occause ||| 8 }))
    ∧ (issuing o = true → o.issued = true → o.clk.droop = false →
        let next := if o.clk.stretched then 1 else o.clk.since + 1
        (16 ≤ next → Gives (.droopStretch p) s (fun t =>
          t.tile p = { o with clk := { o.clk with droop := true } } ∧ t.occause = s.occause ∧ ∀ q, q ≠ p → t.tile q = s.tile q))
        ∧ (next < 16 → exec (.droopStretch p) s = .next { s with occause := s.occause ||| 8 }))
    ∧ (let u := nextCycle o
       u.clk.start = cycEnd o ∧ u.clk.stretched = o.clk.droop ∧ u.clk.droop = false
         ∧ u.clk.since = if o.clk.stretched then 1 else o.clk.since + 1))
  ∧ (∀ (s : State) (ctx : BitVec 16) (c : Ctx), ctx ≠ 0 → s.ctxs.find? (fun d => d.id == ctx && d.killing) = some c →
      (∀ e ∈ s.tiles, ofCtx c e.2 = true → e.2.phase = .off ∧ e.2.state ≠ 1 ∧ e.2.state ≠ 2 ∧ e.2.state ≠ 4) →
      (∀ o ∈ s.ops, o.who.ctx = ctx → o.who.life = c.life → o.lines.all lineDone = true) → Gives (.killComplete ctx) s (fun t =>
        (∀ d ∈ t.ctxs, d.id ≠ ctx) ∧ ∀ p, ofCtx c (s.tile p) = true → (t.tile p).state = 0 ∧ (t.tile p).bind.ctx = 0
          ∧ (∀ r : BitVec 5, rx (t.tile p) r = 0) ∧ (t.tile p).mem = []))
  ∧ (∀ t : Tile, let m := imageOf false t
      let q := fun off n : Nat => mreadLE m off n
      let active := if t.arr.active1 then t.arr.plane1 else t.arr.plane0
      let shadow := if t.arr.active1 then t.arr.plane0 else t.arr.plane1
      q 0 4 = 0x4C485331 ∧ q 4 2 = 1 ∧ q 8 8 = 0
        ∧ q 6 2 = (if t.arr.wsramDirty then 1 else 0) + (if active.stale then 2 else 0) + (if shadow.stale then 4 else 0)
        ∧ q 0x10 8 = t.bind.routine.toNat ∧ q 0x18 4 = t.bind.routlen.toNat ∧ q 0x1C 4 = t.perlenNext % 2 ^ 32 ∧ q 0x20 8 = t.pc.toNat
        ∧ q 0x28 8 = t.clk.perstamp.toNat ∧ q 0x30 8 = t.clk.stretch.toNat ∧ q 0x38 8 = t.clk.holds.toNat
        ∧ q 0x40 8 = t.trap.vec.toNat ∧ q 0x48 8 = t.trap.cause.toNat ∧ q 0x50 8 = t.trap.slot.toNat ∧ q 0x58 8 = t.trap.pc.toNat
        ∧ q 0x60 8 = t.trap.info.toNat ∧ q 0x68 8 = t.collide.toNat ∧ q 0x70 8 = t.bind.memquota.toNat ∧ q 0x78 8 = t.arr.ashape.toNat
        ∧ q 0x80 8 < 16 ∧ (∀ k : Fin 4, (q 0x80 8).testBit k = true ↔ t.arr.band[k] = .awake) ∧ q 0x88 8 = t.bind.replay.toNat
        ∧ (∀ i, i < 16 → q (0x90 + 2 * i) 2 = (t.arr.stage.getD i 0).toNat) ∧ q 0xB0 4 = t.pcseq.toNat
        ∧ (∀ r : BitVec 5, q (0x1000 + 8 * r.toNat) 8 = (rx t r).toNat) ∧ (∀ r : BitVec 3, q (0x1100 + 8 * r.toNat) 8 = (rg t r).toNat)
        ∧ (∀ r : BitVec 2, q (0x1140 + 8 * r.toNat) 8 = (rb t r).toNat) ∧ (∀ r : BitVec 5, q (0x2000 + 256 * r.toNat) 256 = (rv t r).toNat)
        ∧ (∀ i, i < 256 → q (0x4000 + 8 * i) 8 = (tget 0 t.tags i).toNat)
        ∧ (∀ i, i < 32 → let a := 0x4800 + 128 * i
            let x := tget outInit t.outs i
            q a 64 = x.payload.toNat ∧ q (a + 64) 4 = x.seq.toNat ∧ q (a + 68) 4 = 0 ∧ q (a + 72) 8 = x.stamp.toNat ∧ q (a + 80) 48 = 0)
        ∧ (∀ i, i < 64 → let a := 0x5800 + 128 * i
            let x := tget mirrorInit t.mirs i
            q a 64 = x.payload.toNat ∧ q (a + 64) 4 = x.seq.toNat ∧ q (a + 68) 4 = 0 ∧ q (a + 72) 8 = x.stamp.toNat
              ∧ q (a + 80) 8 = x.arrival.toNat ∧ q (a + 88) 8 = x.binding.toNat ∧ q (a + 96) 32 = 0)
        ∧ (∀ e ∈ [(active, 0x8000, 0x60000), (shadow, 0xA000, 0x70000)], let (pl, a, w) := e
            q a 4 = pl.woff % 2 ^ 32 ∧ q (a + 4) 1 = pl.fmt.code.toNat ∧ q (a + 5) 1 = pl.loaded.toNat
              ∧ q (a + 6) 2 = pl.outl.length % 2 ^ 16 ∧ q (a + 8) 1 = (if pl.stale then 1 else 0) ∧ q (a + 9) 23 = 0
              ∧ (∀ i, i < 16 → q (a + 0x20 + 2 * i) 2 = (pl.codes.getD i 0).toNat)
              ∧ (∀ j, j < 512 → q (a + 0x40 + 8 * j) 8 = (pl.outl.getD j 0).toNat) ∧ (∀ i, 0x1040 ≤ i → i < 0x2000 → mread m (a + i) = 0)
              ∧ ∀ i, i < 0x10000 → mread m (w + i) = if pl.stale then mread pl.weights i else 0)
        ∧ (∀ a, a < 0x20000 → mread m (0x20000 + a) = mread t.arr.acc a)
        ∧ (∀ a, a < 0x10000 → mread m (0x40000 + a) = mread t.mem (0x100000 + a))
        ∧ (∀ a, a < 0x100000 → mread m (0x100000 + a) = mread t.mem a)
        ∧ (∀ a, a < 0x400000 → mread m (0x200000 + a) = if t.arr.wsramDirty then mread t.arr.wsram a else 0)
        ∧ (∀ e ∈ [(0xB4, 0x1000), (0x1160, 0x2000), (0x7800, 0x8000), (0xC000, 0x20000), (0x50000, 0x60000), (0x80000, 0x100000)],
            ∀ a, e.1 ≤ a → a < e.2 → mread m a = 0))
  ∧ (∀ (s : State),
      (s.tl.saveDue = true → let t := afterPeriod s
        t.tl.state = 4 ∧ t.tl.phase = .saving ∧ t.tl.regs = s.tl.regs ∧ t.tl.mem = s.tl.mem
          ∧ (s.now + 500000 * subTick, .saveComplete s.turn) ∈ t.timers)
      ∧ (∀ q, s.tl.saveDue = false → migrationTarget s = some q → q ≠ s.turn → s.freq.phase ≠ 2 → let t := afterPeriod s
          t.turn = q ∧ t.mem = s.mem ∧ (s.now + 30000 * subTick, .holdEnd q) ∈ t.timers
            ∧ t.tile q = { s.tl with
                arr := { s.tl.arr with
                  bandOk := (s.tile q).arr.bandOk, band := s.tl.arr.band.map (fun b => match b with | .waking _ => .waking 2000 | b => b) }
                rail := (s.tile q).rail, dbg := (s.tile q).dbg, migrateTo := none, phase := .held }
            ∧ (let u := t.tile s.turn
               u.state = 5 ∧ u.phase = .off ∧ u.bind.ctx = 0 ∧ u.mem = [] ∧ u.imem = [] ∧ u.arr.wsram = [] ∧ u.arr.bandOk = s.tl.arr.bandOk
                 ∧ (∀ r : BitVec 5, rx u r = 0) ∧ ∀ r, rv u r = 0)
            ∧ tget 0 t.l2p s.tl.bind.logtile.toNat = BitVec.ofNat 8 (0x80 + q % 34) ∧ ∀ p, p ≠ q → p ≠ s.turn → t.tile p = s.tile p)
      ∧ (∀ q hot, s.tl.migrateTo = some (.mapset q hot) →
          ((s.tile q).state = 5 ∨ (s.tile q).state = 0) → s.tl.arr.ashape &&& ~~~(s.tile q).arr.bandOk = 0 → migrationTarget s = some q)
      ∧ (∀ q, migrationTarget s = some q → ((s.tile q).state = 5 ∨ (s.tile q).state = 0) ∧ s.tl.arr.ashape &&& ~~~(s.tile q).arr.bandOk = 0)
      ∧ (s.tl.migrateTo = none → migrationTarget s = none))

/-! ### Power, host, boot, dies (25) -/

/-- 25:R338-R345, 06:R117: a frequency out of range is refused with 0x17; one above 850 MHz while boost is not active is one for 850. One that
needs a higher voltage than the bands' settings give ramps 1 mV in 1,000 ticks, else the changeover begins and tiles that issue nothing switch; it ends when
every tile has, the rail falls where less will do, and a request made meanwhile follows. A reading of 105 °C or more moves a
bound tile at its next PERIOD, a MAPSET that was accepted before standing, or sheds its kennel; a current alarm sets OCCAUSE, asks for 850 MHz when the package runs above it,
and sheds the die's kennels; a register file's parity error is cause 0x22.
Vmin is any function (log entry 8); that the rails fall at once, and what a band's setting adds to them (log entry 35), that a shed that lowers the cap ends an awake lease, the first
in 21:R303's order, whatever their number (log entry 69), that a cooler reading withdraws a migration (log entry 31), that an accepted MAPSET stands whatever the sensor reads (log entry 75), and where a refusal is read (log entry
60), are the model's reading. -/
def Obligations.PowerEvents : Prop :=
  let goal := fun (s : State) (f : Nat) => if 850 < f ∧ ¬(s.boostEn = true ∧ s.occause.extractLsb' 0 12 = 0) then 850 else f
  (∀ (s : State) (f : Nat),
    (f < 425 ∨ 1000 < f ∨ f % 25 ≠ 0 → exec (.freqRequest f) s = .next { s with mcRes := 0x17 })
    ∧ (425 ≤ f → f ≤ 1000 → f % 25 = 0 → let g := goal s f
        let present := fun v => max v (lowestSetting s)
        (s.freq.phase = 0 → present s.freq.rail < Config.vmin g → Gives (.freqRequest f) s (fun t => t.freq.phase = 1 ∧ t.freq.target = g
          ∧ t.freq.current = s.freq.current ∧ t.tiles = s.tiles ∧ t.mcRes = 0
          ∧ t.freq.rail = present s.freq.rail
          ∧ ((s.now / subTick + (Config.vmin g - present s.freq.rail) * 1000) * subTick, .voltageRampDone) ∈ t.timers))
        ∧ (s.freq.phase = 0 → Config.vmin g ≤ present s.freq.rail → Gives (.freqRequest f) s (fun t => t.freq.phase = 2 ∧ t.freq.target = g
          ∧ t.freq.current = s.freq.current ∧ t.freq.chg = s.freq.chg + 1 ∧ t.mcRes = 0
          ∧ ∀ p u, tfind s.tiles p = some u → t.tile p =
              if clockIdle u then { u with clk := { u.clk with mhz := g, chg := s.freq.chg + 1 } } else u))
        ∧ (s.freq.phase = 1 → Gives (.freqRequest f) s (fun t => t.freq.target = g ∧ t.freq.current = s.freq.current
          ∧ (let r := s.freq.rail + (s.now / subTick - s.freq.rampFrom) / 1000
             t.freq.rail = max r (min (present r) (Config.vmin g)))))
        ∧ (s.freq.phase = 2 → Gives (.freqRequest f) s (fun t => t.freq = { s.freq with pending := g } ∧ t.tiles = s.tiles))))
  ∧ (∀ s : State, lowestSetting s ≤ 500
      ∧ (∀ p, p < 544 → s.live.getLsbD (p / 136) = true → ∀ v ∈ (s.tile p).rail, lowestSetting s ≤ v)
      ∧ (lowestSetting s = 500 ∨ ∃ p, p < 544 ∧ s.live.getLsbD (p / 136) = true ∧ lowestSetting s ∈ (s.tile p).rail))
  ∧ (∀ s : State, s.freq.phase = 1 → Config.vmin s.freq.target ≤ max (s.freq.rail + (s.now / subTick - s.freq.rampFrom) / 1000) (lowestSetting s) →
      Gives .voltageRampDone s (fun t => t.freq.phase = 2 ∧ t.freq.rail = Config.vmin s.freq.target ∧ t.freq.target = s.freq.target))
  ∧ (∀ s : State, s.freq.phase = 2 →
      let switched := ∀ e ∈ s.tiles, clockIdle e.2 = true ∨ e.2.clk.chg = s.freq.chg
      (switched → s.freq.pending = 0 → Gives .changeoverEnd s (fun t => t.freq.phase = 0 ∧ t.freq.current = s.freq.target
        ∧ t.freq.rail = min s.freq.rail (Config.vmin s.freq.target)
        ∧ (∀ p, (tfind s.tiles p).isSome = true → (t.tile p).clk.mhz = s.freq.target ∧ (t.tile p).regs = (s.tile p).regs)))
      ∧ (switched → s.freq.pending ≠ 0 → Gives .changeoverEnd s (fun t => t.freq.current = s.freq.target
          ∧ t.freq.target = goal s s.freq.pending ∧ t.freq.pending = 0 ∧ (t.freq.phase = 1 ∨ t.freq.phase = 2)))
      ∧ (¬switched → exec .changeoverEnd s = .next s))
  ∧ (∀ (s : State) (p temp : Nat), let u := { s with temps := tset s.temps p temp }
      let bound := (s.tile p).state = 1 ∨ (s.tile p).state = 2 ∨ (s.tile p).state = 3
      let asked := match (s.tile p).migrateTo with | some (.mapset m _) => some m | some .thermal => none | none => none
      (temp < 105 → Gives (.thermalSensorRead p temp) s (fun t => t.temps = u.temps
        ∧ (t.tile p).migrateTo = asked.map (fun m => .mapset m false) ∧ (t.tile p).regs = (s.tile p).regs))
      ∧ (105 ≤ temp → bound → ∀ q, thermalTarget u p = some q → Gives (.thermalSensorRead p temp) s (fun t =>
          t.temps = u.temps ∧ (t.tile p).migrateTo = some ((asked.map (fun m => Move.mapset m true)).getD .thermal)
            ∧ (t.tile p).regs = (s.tile p).regs))
      ∧ (105 ≤ temp → bound → thermalTarget u p = none → Gives (.thermalSensorRead p temp) s (fun t =>
          t.events = s.events ++ [p] ∧ (t.kennel (clusterOf p)).cap = max 2 ((s.kennel (clusterOf p)).cap - 1)))
      ∧ (105 ≤ temp → ¬bound → exec (.thermalSensorRead p temp) s = .next u))
  ∧ (∀ (s : State) (d : Nat) (src : BitVec 4), d < 4 →
      let high := 850 < s.freq.current ∨ 850 < s.freq.target ∨ 850 < s.freq.pending
      Gives (.currentAlarm d src) s (fun t => (¬high → t.freq = s.freq)
        ∧ (high → t.freq.current = s.freq.current ∧ (s.freq.phase ≤ 1 → t.freq.target = 850)
          ∧ (s.freq.phase = 2 → t.freq = { s.freq with pending := 850 }))
        ∧ (∀ k, t.occause.getLsbD k = true ↔ k < 32 ∧ (s.occause.getLsbD k = true ∨ src.getLsbD k = true ∨ k = 8 + d)
            ∨ 32 ≤ k ∧ k < 64 ∧ (if s.occause.extractLsb' 32 32 = -1 then (-1 : W32) else s.occause.extractLsb' 32 32 + 1).getLsbD (k - 32) = true)
        ∧ ∀ i, i < 4 → (t.kennel (4 * d + i)).cap = max 2 ((s.kennel (4 * d + i)).cap - 1)
          ∧ ∀ l ∈ awakeLeases (s.kennel (4 * d + i)), 2 < (s.kennel (4 * d + i)).cap → NamesOne s (4 * d + i) l →
              (∀ m ∈ awakeLeases (s.kennel (4 * d + i)), (m.st = .waking → l.st = .waking)
                ∧ (m.st = l.st → m ≠ l → m.granted < l.granted)) →
              LeaseNow t (4 * d + i) l.id (fun q => q.st = .ended ∧ q.endCode = 4 ∧ q.cause = 1 ∧ q.cmds = [] ∧ q.run = none)))
  ∧ (∀ (s : State) (v : X), exec (.occauseClear v) s = .next { s with occause := s.occause &&& ~~~(v &&& 0xF0F) })
  ∧ (∀ (s : State) (p : Nat) (file : BitVec 2) (r : BitVec 5), issuing (s.tile p) = true → Gives (.registerFileParity p file r) s (fun t =>
      ∃ v : X, (t.tile p).escCause = (s.tile p).escCause ++ [(0x22, v)] ∧ v.extractLsb' 0 5 = r ∧ v.extractLsb' 6 2 = file
        ∧ v.extractLsb' 8 56 = 0 ∧ (t.tile p).regs = (s.tile p).regs ∧ ∀ q, q ≠ p → t.tile q = s.tile q))

/-- 25:R347-R349, 17:R271, R279, 12:R220: a host byte that translates is written and its copy in the read buffer with it, no other line
changes; a write that does not is discarded whole and recorded. A host read gives the line's bytes, or those of its copy where the
buffer may serve it, or nothing where no page translates or the line reads as failing. The management core writes bytes of the tables'
space (15:R239), under no key. A commit posts its window's payload to mirror 60. Registers written outside the tiles: NOTIFY, AGO and BOOTGO (25:R350, R353, R354),
PKG (25:R351), BOOSTEN and FREQ (25:R342, R343), and a band's supply (25:R338).
The numbers of the windows and the offsets in windows 1 and 2 are the model's (log entry 33), and so is that a write is discarded whole
(log entry 34), that a supply outside 400 to 500 mV, or not in steps of 5 mV, leaves the rail as it was (log entry 117), what a read of a failing line gives (log entry 50), and the management core's line under no key, placed with seed 0,
whose other bytes stay as the memory holds them (log entry 10). -/
def Obligations.HostEvents : Prop :=
  (∀ (s : State) (off : Nat) (ro : Bool),
    (∀ b da tag, hostTarget s off true = some (.home da tag) → Gives (.hostMemoryWrite off [b] ro) s (fun t =>
      lineBytes (devLine t tag da) (da % 64) 1 = b.toNat ∧ (∀ a, a / 64 ≠ da / 64 → mread t.mem a = mread s.mem a)
        ∧ (∀ l, (da / 64, l) ∈ t.hostBuf → lineBytes l (da % 64) 1 = b.toNat) ∧ t.tiles = s.tiles))
    ∧ (∀ bytes i, i < bytes.length → hostTarget s (off + i) true = none → Gives (.hostMemoryWrite off bytes ro) s (fun t =>
        t.mem = s.mem ∧ t.tiles = s.tiles ∧ t.aer.length = s.aer.length + 1))
    ∧ (∀ da tag len (buf : BufferUse), 0 < len → off % 64 + len ≤ 64 → hostTarget s (off / 64 * 64) false = some (.home da tag) →
        let copy := if buf.buffered then s.hostBuf.find? (fun e => e.1 == da / 64) else none
        let reads := fun l : Line => Gives (.hostMemoryRead off len buf) s (fun t => t.mem = s.mem ∧ t.tiles = s.tiles
          ∧ ∃ bytes, t.hostReads = s.hostReads ++ [(off, some bytes)] ∧ bytes.length = len
            ∧ ∀ i, i < len → (bytes.getD i 0).toNat = lineBytes l (off % 64 + i) 1)
        (∀ e, copy = some e → reads e.2)
        ∧ (copy = none → failing s da = false → reads (devLine s tag da))
        ∧ (copy = none → failing s da = true → Gives (.hostMemoryRead off len buf) s (fun t =>
            t.mem = s.mem ∧ t.hostReads = s.hostReads ++ [(off, none)])))
    ∧ (∀ len (buf : BufferUse), 0 < len → hostTarget s (off / 64 * 64) false = none → Gives (.hostMemoryRead off len buf) s (fun t =>
        t.mem = s.mem ∧ t.hostReads = s.hostReads ++ [(off, none)])))
  ∧ (∀ (s : State) (loc id : Nat), (loc, id) ∈ s.hostInval → Gives (.readBufferInvalidate loc) s (fun t =>
      (∀ e ∈ t.hostBuf, e.1 ≠ loc) ∧ (∀ e ∈ t.hostInval, e.1 ≠ loc) ∧ t.mem = s.mem ∧ t.tiles = s.tiles
        ∧ ∀ e ∈ s.hostBuf, e.1 ≠ loc → e ∈ t.hostBuf))
  ∧ (∀ (s : State) (d dpa da : Nat) (b : Byte), hashPlace 0 s.live dpa = some da → Gives (.managementCoreMemoryWrite d dpa [b]) s (fun t =>
      tfind t.lineKeys (da / 64) = none
        ∧ (∀ k, k < 64 → mread t.mem (da / 64 * 64 + k) = if k = da % 64 then b else BitVec.ofNat 8 (lineBytes (cipherLine s da) k 1))
        ∧ (∀ a, a / 64 ≠ da / 64 → mread t.mem a = mread s.mem a) ∧ t.tiles = s.tiles))
  ∧ (∀ (s : State) (lt p : Nat), carrier s lt = some p →
      Gives (.hostCommit lt false) s (fun t => Posted t (whoOf (s.tile p)) 60 (fun v => v = mreadLine s.fwin (0x80 * lt)) ∧ t.mem = s.mem)
      ∧ exec (.hostCommit lt true) s = .next s)
  ∧ (∀ (s : State) (v : X), exec (.registerWrite 0 0x1000 v) s = exec (.notify v) s ∧ exec (.registerWrite 0 0x2020 v) s = exec .ago s
      ∧ exec (.registerWrite 0 0x8 v) s = exec .bootgo s
      ∧ exec (.registerWrite 1 0 v) s = .next { s with pkg := v.extractLsb' 0 13 }
      ∧ exec (.registerWrite 1 2 v) s = .next { s with boostEn := v.getLsbD 0 }
      ∧ exec (.registerWrite 1 3 v) s = exec (.freqRequest (v.extractLsb' 0 16).toNat) s
      ∧ ∀ p b, b < 4 → Gives (.registerWrite 2 (4 * p + b) v) s (fun t =>
          (t.tile p).rail = (if 400 ≤ v.toNat ∧ v.toNat ≤ 500 ∧ v.toNat % 5 = 0 then (s.tile p).rail.set b v.toNat else (s.tile p).rail)
            ∧ (t.tile p).regs = (s.tile p).regs))

/-- 25:R347, R351-R354, 01:R27: power-on empties every tile and device memory, starts the time base and checks flash; an image that passes every check
runs and is written to flash. BOOTGO checks the window's image in recovery. A report latches its nonce and is ready later. A die that resets
kills its contexts at once and its routes switch once its transit traffic is out; back again, its routes return after the like. Die
0's reset keeps the time base and memory; links go down and up. That memory lists nothing after power-on is the model's choice (log
entry 7). No test shows an image that passes every check, since the fuses that it must agree with are any values. What a reset keeps beyond the rules' words (log entries 11, 13, 32),
and that one event ends the drain that it began (log entry 61), are the model's reading. -/
def Obligations.ResetsBootAndLinks : Prop :=
  (∀ s : State, Gives .powerOnReset s (fun t => t.now = 0 ∧ t.tiles = [] ∧ t.mem = [] ∧ t.ctxs = [] ∧ t.posts = [] ∧ t.ops = [] ∧ t.level = false
      ∧ (imageFault s.boot.flash s.boot.minSvn = none → t.boot.stat = 1 ∧ t.boot.flash = s.boot.flash)
      ∧ ∀ c, imageFault s.boot.flash s.boot.minSvn = some c → t.boot.stat = c ∧ t.boot.flash = s.boot.flash ∧ t.boot.minSvn = s.boot.minSvn))
  ∧ (∀ s : State,
      (s.boot.stat = 0x20 → imageFault s.boot.window s.boot.minSvn = none → Gives .bootgo s (fun t =>
        t.boot.stat = 1 ∧ t.boot.flash = s.boot.window ∧ t.boot.minSvn = mreadLE s.boot.window 8 4 ∧ t.tiles = s.tiles))
      ∧ (∀ c, s.boot.stat = 0x20 → imageFault s.boot.window s.boot.minSvn = some c → Gives .bootgo s (fun t =>
        t.boot.stat = c ∧ t.boot.flash = s.boot.flash ∧ t.boot.minSvn = s.boot.minSvn))
      ∧ (s.boot.stat ≠ 0x20 → exec .bootgo s = .next s))
  ∧ (∀ s : State,
      (s.boot.astat ≠ 1 → s.boot.nonce.length = 32 → Gives .ago s (fun t => t.boot.astat = 1
        ∧ (∀ i, i < 32 → mread t.boot.attest (0x150 + i) = s.boot.nonce.getD i 0)
        ∧ (s.now + 10000000 * subTick, .attestReportReady) ∈ t.timers))
      ∧ (s.boot.astat = 1 → exec .ago s = .next s)
      ∧ (s.boot.astat = 1 → s.boot.digest.length = 32 → Gives .attestReportReady s (fun t => t.boot.astat = 2 ∧ t.msix = s.msix ++ [2]
          ∧ mreadLE t.boot.attest 0x100 4 = 0x4C484152 ∧ mreadLE t.boot.attest 0x108 4 = s.boot.svn % 2 ^ 32
          ∧ mreadLE t.boot.attest 0x130 32 = fuseHash s.boot.minSvn % 2 ^ 256
          ∧ mreadLE t.boot.attest 0x170 8 = s.now / subTick % 2 ^ 64
          ∧ ∀ i, i < 32 → mread t.boot.attest (0x150 + i) = mread s.boot.attest (0x150 + i))))
  ∧ (∀ s : State, Gives (.dieReset 0) s (fun t => t.tiles = [] ∧ t.ctxs = [] ∧ t.now = s.now ∧ t.mem = s.mem ∧ t.occause = s.occause
      ∧ t.freq.current = 425 ∧ t.freq.target = 425 ∧ t.freq.phase = 0))
  ∧ (∀ (s : State) (d : Nat), d < 4 →
      let due := (s.now / subTick + 4000) * subTick
      let drains := fun (t : State) (b : Bool) => ∀ k, k < 4 → t.drain.getLsbD k = if k = d then b else s.drain.getLsbD k
      (d ≠ 0 → s.up.getLsbD d = true →
        (s.drain.getLsbD d = false → Gives (.dieReset d) s (fun t => t.up = s.up ∧ drains t true ∧ (due, .dieReset d) ∈ t.timers
          ∧ (∀ c ∈ t.ctxs, c.mask.getLsbD d = true → c.killing = true) ∧ t.mem = s.mem))
        ∧ (s.drain.getLsbD d = true → transitLeft s d = false → Gives (.dieReset d) s (fun t => drains t false
          ∧ (∀ k, k < 4 → t.up.getLsbD k = (s.up.getLsbD k && decide (k ≠ d))) ∧ t.mem = s.mem))
        ∧ (s.drain.getLsbD d = true → transitLeft s d = true → exec (.dieReset d) s = .next s))
      ∧ (s.up.getLsbD d = false →
        (s.drain.getLsbD d = false → Gives (.dieReturn d) s (fun t => t.up = s.up ∧ drains t true ∧ (due, .dieReturn d) ∈ t.timers
          ∧ t.tiles = s.tiles))
        ∧ (s.drain.getLsbD d = true → Gives (.dieReturn d) s (fun t => drains t false
          ∧ (∀ k, k < 4 → t.up.getLsbD k = (s.up.getLsbD k || decide (k = d))) ∧ t.tiles = s.tiles)))
      ∧ (s.up.getLsbD d = true → exec (.dieReturn d) s = .next s))
  ∧ (∀ (s : State) (l : Nat), l < 16 →
      Gives (.camrakLinkDown l) s (fun t => (∀ k, k < 16 → t.links.getLsbD k = (s.links.getLsbD k && decide (k ≠ l))) ∧ t.tiles = s.tiles)
      ∧ Gives (.camrakLinkUp l) s (fun t => (∀ k, k < 16 → t.links.getLsbD k = (s.links.getLsbD k || decide (k = l))) ∧ t.tiles = s.tiles))

/-! ### The machine as a whole -/

/-- 25:R355, R356, and the model: privileged level is that of one instruction of a debug window and lasts no longer than the write that begins
it. From every state at routine level a step answers a next state at routine level; the one fault is an agenda whose first entry is no
event of the environment (log entry 2). -/
def Obligations.StepsAnswerAndStayAtRoutineLevel : Prop :=
  ∀ s : State, s.level = false →
    (∃ t, step s = .next t ∧ t.level = false)
    ∨ (step s = .fault .strayInstruction ∧ ∃ a i r, s.agenda = (a, i) :: r ∧ (i.isEvent && !ownEvent i) = false)

/-- 01:R22, R24, R27, 05:R88, 08:R166, 12:R209, 21:R299, 25:R343: what reset leaves, in the values the spec gives: routine level, time 0, every tile a spare
with nothing bound, cleared stores, bands asleep, the hardware's mirrors bound; kennels with cap 6; FREQ at 425 MHz; nothing under way.
That memory lists nothing, and any value here that no rule states, is the model's choice (log entries 4, 5, 7, 8); that KIND of the
binding words of mirrors 60 to 63 names the hardware at reset too is its reading of 12:R209 (log entry 100). -/
def Obligations.ResetState : Prop :=
  let s := State.reset
  s.level = false ∧ s.now = 0 ∧ s.ctxs = [] ∧ s.posts = [] ∧ s.ops = [] ∧ s.mem = [] ∧ s.occause = 0 ∧ s.boostEn = false
    ∧ s.notifies = [] ∧ s.notifyDrop = 0 ∧ s.freq.current = 425 ∧ s.freq.target = 425 ∧ s.boot.astat = 0
    ∧ (∀ k, (s.kennel k).cap = 6 ∧ (s.kennel k).leases = [])
    ∧ ∀ p, let t := s.tile p
        t.state = 5 ∧ t.phase = .off ∧ t.bind.ctx = 0 ∧ t.mem = [] ∧ t.imem = [] ∧ t.arr.wsram = [] ∧ t.arr.acc = []
          ∧ (∀ k : Fin 4, t.arr.band[k] = .asleep) ∧ t.trap.vec = 0 ∧ t.port.state = 0 ∧ t.collide = 0
          ∧ (tget mirrorInit t.mirs 60).binding = 0xB400000000000000 ∧ (tget mirrorInit t.mirs 61).binding = 0xB800000000000000
          ∧ (tget mirrorInit t.mirs 62).binding = 0x9C00000000000000 ∧ (tget mirrorInit t.mirs 63).binding = 0x9C00000000000000

/-- Equal memories are equal data (the model's own form of memory; 01:R24, log entry 7): reset has every byte store of the tiles and of
the package in canonical form, and from every state that has, whatever comes next, every step that answers a next state gives one
that has. So does the end of a cycle, and every instruction and event, whether it is the next one or not. -/
def Obligations.ByteStoresStayCanonical : Prop :=
  State.reset.memOk = true
  ∧ (∀ s : State, s.memOk = true → (closeCycle s).memOk = true)
  ∧ (∀ (s t : State) (i : Instr), s.memOk = true → exec i s = .next t → t.memOk = true)
  ∧ (∀ s t : State, s.memOk = true → step s = .next t → t.memOk = true)
end

