-- ==== Sys2Proof/Laws/Memory.lean ====
section
/-! SUPPORT. Tables and memories: reading after writing, and the canonical form that every memory operation keeps. -/

namespace Sys2Proof.Machine

/-! ### Tables -/

theorem tfind_tset_self {α : Type} (t : Table α) (k : Nat) (v : α) : tfind (tset t k v) k = some v := by
  induction t with
  | nil => simp [tset, tfind]
  | cons e r ih =>
    obtain ⟨j, w⟩ := e
    simp only [tset]
    split
    · simp [tfind]
    · split
      · simp [tfind]
      · rename_i h _
        simp [tfind, h, ih]

theorem tfind_tset_other {α : Type} (t : Table α) (j k : Nat) (v : α) (h : j ≠ k) :
    tfind (tset t k v) j = tfind t j := by
  induction t with
  | nil => simp [tset, tfind, Ne.symm h]
  | cons e r ih =>
    obtain ⟨i, w⟩ := e
    simp only [tset]
    split
    · rename_i hi; subst hi; simp [tfind, Ne.symm h]
    · split
      · simp [tfind, Ne.symm h]
      · simp [tfind, ih]

@[simp] theorem tget_tset_self {α : Type} (d : α) (t : Table α) (k : Nat) (v : α) : tget d (tset t k v) k = v := by
  simp [tget, tfind_tset_self]

theorem tget_tset_other {α : Type} (d : α) (t : Table α) (j k : Nat) (v : α) (h : j ≠ k) :
    tget d (tset t k v) j = tget d t j := by
  simp [tget, tfind_tset_other t j k v h]

theorem tset_tset {α : Type} (t : Table α) (k : Nat) (v w : α) : tset (tset t k v) k w = tset t k w := by
  induction t with
  | nil => simp [tset]
  | cons e r ih =>
    obtain ⟨j, u⟩ := e
    by_cases h : j = k
    · simp [tset, h]
    · by_cases h2 : k < j
      · simp [tset, h, h2]
      · simp [tset, h, h2, ih]

/-! ### Memory: the canonical form -/

/-- Every address of a memory is greater than a bound. -/
def Memory.above (b : Nat) (m : Memory) : Prop := ∀ c ∈ m, b < c.1

theorem wf_cons {a : Nat} {v : Byte} {r : Memory} :
    Memory.wf ((a, v) :: r) = true ↔ v ≠ 0 ∧ Memory.above a r ∧ Memory.wf r = true := by
  induction r generalizing a v with
  | nil => simp [Memory.wf, Memory.above]
  | cons c r ih =>
    obtain ⟨b, w⟩ := c
    constructor
    · intro h
      simp only [Memory.wf, Bool.and_eq_true, decide_eq_true_eq, bne_iff_ne] at h
      refine ⟨h.1.2, ?_, h.2⟩
      intro c hc
      rcases List.mem_cons.mp hc with rfl | hc
      · exact h.1.1
      · exact Nat.lt_trans h.1.1 ((ih.mp h.2).2.1 c hc)
    · rintro ⟨hv, ha, hw⟩
      simp only [Memory.wf, Bool.and_eq_true, decide_eq_true_eq, bne_iff_ne]
      exact ⟨⟨ha (b, w) (by simp), hv⟩, hw⟩

theorem wf_filter (p : Host.Cell → Bool) {m : Memory} (h : Memory.wf m = true) :
    Memory.wf (m.filter p) = true := by
  induction m with
  | nil => rfl
  | cons c r ih =>
    obtain ⟨a, v⟩ := c
    obtain ⟨hv, ha, hw⟩ := wf_cons.mp h
    simp only [List.filter_cons]
    split
    · exact wf_cons.mpr ⟨hv, fun c hc => ha c (List.mem_filter.mp hc).1, ih hw⟩
    · exact ih hw

/-- Erasing keeps the canonical form. -/
theorem wf_merase {m : Memory} (a : Nat) (h : Memory.wf m = true) : Memory.wf (merase m a) = true := wf_filter _ h

theorem above_minsert {m : Memory} {a b : Nat} {v : Byte} (hb : b < a) (h : Memory.above b m) :
    Memory.above b (minsert m a v) := by
  induction m with
  | nil => intro c hc; simp [minsert] at hc; subst hc; exact hb
  | cons c r ih =>
    obtain ⟨i, w⟩ := c
    simp only [minsert]
    split
    · intro c hc
      rcases List.mem_cons.mp hc with rfl | hc
      · exact hb
      · exact h c hc
    · intro c hc
      rcases List.mem_cons.mp hc with rfl | hc
      · exact h _ (by simp)
      · exact ih (fun d hd => h d (by simp [hd])) c hc

theorem wf_minsert {m : Memory} {a : Nat} {v : Byte} (hv : v ≠ 0) (hn : ∀ c ∈ m, c.1 ≠ a) (h : Memory.wf m = true) :
    Memory.wf (minsert m a v) = true := by
  induction m with
  | nil => simpa [minsert, Memory.wf] using hv
  | cons c r ih =>
    obtain ⟨i, w⟩ := c
    obtain ⟨hw, hi, hr⟩ := wf_cons.mp h
    simp only [minsert]
    split
    · rename_i hlt
      refine wf_cons.mpr ⟨hv, ?_, h⟩
      intro c hc
      rcases List.mem_cons.mp hc with rfl | hc
      · exact hlt
      · exact Nat.lt_trans hlt (hi c hc)
    · rename_i hge
      have hia : i < a := by
        have := hn (i, w) (by simp)
        simp only [ne_eq] at this
        omega
      exact wf_cons.mpr ⟨hw, above_minsert hia hi, ih (fun c hc => hn c (by simp [hc])) hr⟩

/-- Writing a byte keeps the canonical form. -/
theorem wf_mwrite {m : Memory} (a : Nat) (v : Byte) (h : Memory.wf m = true) : Memory.wf (mwrite m a v) = true := by
  unfold mwrite
  split
  · exact wf_merase a h
  · rename_i hv
    exact wf_minsert hv (fun c hc => by simpa [merase] using (List.mem_filter.mp hc).2) (wf_merase a h)

/-- Writing a number keeps the canonical form. -/
theorem wf_mwriteLE {m : Memory} (a n v : Nat) (h : Memory.wf m = true) : Memory.wf (mwriteLE m a n v) = true := by
  induction n generalizing m a v with
  | zero => exact h
  | succ n ih => exact ih _ _ (wf_mwrite a _ h)

/-- Byte writes in order keep the canonical form. -/
theorem wf_mwrites {m : Memory} (l : List Host.Cell) (h : Memory.wf m = true) : Memory.wf (mwrites m l) = true := by
  induction l generalizing m with
  | nil => exact h
  | cons c r ih => exact ih (wf_mwrite c.1 c.2 h)

/-! ### Memory: reading after writing -/

theorem mread_merase_self (m : Memory) (a : Nat) : mread (merase m a) a = 0 := by
  induction m with
  | nil => rfl
  | cons c r ih =>
    obtain ⟨b, v⟩ := c
    by_cases h : b = a
    · simpa [merase, h] using ih
    · have : merase ((b, v) :: r) a = (b, v) :: merase r a := by simp [merase, h]
      simp [this, mread, h, ih]

theorem mread_merase_other (m : Memory) {a b : Nat} (h : b ≠ a) : mread (merase m a) b = mread m b := by
  induction m with
  | nil => rfl
  | cons c r ih =>
    obtain ⟨i, v⟩ := c
    by_cases hi : i = a
    · have : merase ((i, v) :: r) a = merase r a := by simp [merase, hi]
      rw [this, ih]
      simp [mread, hi, Ne.symm h]
    · have : merase ((i, v) :: r) a = (i, v) :: merase r a := by simp [merase, hi]
      simp [this, mread, ih]

theorem mread_minsert_self (m : Memory) (a : Nat) (v : Byte) (hn : ∀ c ∈ m, c.1 ≠ a) : mread (minsert m a v) a = v := by
  induction m with
  | nil => simp [minsert, mread]
  | cons c r ih =>
    obtain ⟨i, w⟩ := c
    have hi : i ≠ a := hn (i, w) (by simp)
    simp only [minsert]
    split
    · simp [mread]
    · simp [mread, hi, ih (fun c hc => hn c (by simp [hc]))]

theorem mread_minsert_other (m : Memory) {a b : Nat} (v : Byte) (h : b ≠ a) : mread (minsert m a v) b = mread m b := by
  induction m with
  | nil => simp [minsert, mread, Ne.symm h]
  | cons c r ih =>
    obtain ⟨i, w⟩ := c
    simp only [minsert]
    split
    · simp [mread, Ne.symm h]
    · simp [mread, ih]

/-- A byte written is the byte read. -/
theorem mread_mwrite_self (m : Memory) (a : Nat) (v : Byte) : mread (mwrite m a v) a = v := by
  unfold mwrite
  split
  · rename_i h; rw [mread_merase_self, h]
  · exact mread_minsert_self _ _ _ (fun c hc => by simpa [merase] using (List.mem_filter.mp hc).2)

/-- A byte written leaves every other byte as it was. -/
theorem mread_mwrite_other (m : Memory) {a b : Nat} (v : Byte) (h : b ≠ a) : mread (mwrite m a v) b = mread m b := by
  unfold mwrite
  split
  · exact mread_merase_other m h
  · rw [mread_minsert_other _ v h, mread_merase_other m h]

theorem mreadLE_lt (m : Memory) (a n : Nat) : mreadLE m a n < 2 ^ (8 * n) := by
  induction n generalizing a with
  | zero => simp [mreadLE]
  | succ n ih =>
    have := ih (a + 1)
    have hb := (mread m a).isLt
    rw [mreadLE, show 8 * (n + 1) = 8 * n + 8 by omega, Nat.pow_add]
    omega

/-- The bytes of a number read little-endian. -/
theorem mreadLE_byte (m : Memory) (a n k : Nat) (h : k < n) : mreadLE m a n / 2 ^ (8 * k) % 256 = (mread m (a + k)).toNat := by
  induction n generalizing a k with
  | zero => omega
  | succ n ih =>
    have hb := (mread m a).isLt
    rw [mreadLE]
    cases k with
    | zero => simp; omega
    | succ k =>
      rw [show 8 * (k + 1) = 8 + 8 * k by omega, Nat.pow_add, ← Nat.div_div_eq_div_mul, show (2 : Nat) ^ 8 = 256 by rfl,
        show ((mread m a).toNat + 256 * mreadLE m (a + 1) n) / 256 = mreadLE m (a + 1) n by omega, ih (a + 1) k (by omega)]
      congr 2; omega

/-- A number written leaves every byte outside it as it was. -/
theorem mread_mwriteLE_other (m : Memory) {a b : Nat} (n v : Nat) (h : b < a ∨ a + n ≤ b) :
    mread (mwriteLE m a n v) b = mread m b := by
  induction n generalizing m a v with
  | zero => rfl
  | succ n ih =>
    rw [mwriteLE, ih _ _ (by omega), mread_mwrite_other _ _ (by omega)]

/-- Byte writes leave every address that they do not name as it was. -/
theorem mread_mwrites_other (m : Memory) (l : List Host.Cell) {b : Nat} (h : ∀ c ∈ l, c.1 ≠ b) :
    mread (mwrites m l) b = mread m b := by
  induction l generalizing m with
  | nil => rfl
  | cons c r ih =>
    obtain ⟨a, v⟩ := c
    rw [mwrites, ih _ (fun c hc => h c (by simp [hc])),
      mread_mwrite_other _ _ (Ne.symm (h (a, v) (by simp)))]

/-- The cells of a number lie in its range. -/
theorem mem_cellsLE {a n v : Nat} {c : Host.Cell} (h : c ∈ cellsLE a n v) : a ≤ c.1 ∧ c.1 < a + n := by
  induction n generalizing a v with
  | zero => simp [cellsLE] at h
  | succ n ih =>
    rcases List.mem_cons.mp h with rfl | h
    · simp
    · have := ih h
      omega

end Sys2Proof.Machine
end

