-- ==== Sys2Proof/Laws/State.lean ====
section
/-! SUPPORT. What each small update of the state changes: one lemma for each field and update, so that no proof unfolds a
record update. -/

namespace Sys2Proof.Machine

/-! ### The turn tile -/

@[simp] theorem tl_setTl (s : State) (t : Tile) : (s.setTl t).tl = t := by simp [State.tl, State.setTl]
@[simp] theorem tl_onTl (s : State) (f : Tile → Tile) : (s.onTl f).tl = f s.tl := by simp [State.onTl]
@[simp] theorem onTl_onTl (s : State) (f g : Tile → Tile) : (s.onTl f).onTl g = s.onTl (fun t => g (f t)) := by
  simp [State.onTl, State.setTl, State.tl, tset_tset]
theorem tile_turn (s : State) : s.tile s.turn = s.tl := rfl

theorem tile_onTl_other (s : State) (f : Tile → Tile) (p : Nat) (h : p ≠ s.turn) : (s.onTl f).tile p = s.tile p := by
  simp [State.onTl, State.setTl, State.tile, tget_tset_other _ _ _ _ _ h]

@[simp] theorem tile_onTile_self (s : State) (p : Nat) (f : Tile → Tile) : (s.onTile p f).tile p = f (s.tile p) := by
  simp [State.onTile, State.tile]

theorem tile_onTile_other (s : State) (p q : Nat) (f : Tile → Tile) (h : q ≠ p) : (s.onTile p f).tile q = s.tile q := by
  simp [State.onTile, State.tile, tget_tset_other _ _ _ _ _ h]

@[simp] theorem onTl_now (s : State) (f : Tile → Tile) : (s.onTl f).now = s.now := rfl
@[simp] theorem onTl_turn (s : State) (f : Tile → Tile) : (s.onTl f).turn = s.turn := rfl
@[simp] theorem onTl_level (s : State) (f : Tile → Tile) : (s.onTl f).level = s.level := rfl
@[simp] theorem onTl_agenda (s : State) (f : Tile → Tile) : (s.onTl f).agenda = s.agenda := rfl
@[simp] theorem onTl_timers (s : State) (f : Tile → Tile) : (s.onTl f).timers = s.timers := rfl
@[simp] theorem onTl_nextId (s : State) (f : Tile → Tile) : (s.onTl f).nextId = s.nextId := rfl
@[simp] theorem onTl_freeCount (s : State) (f : Tile → Tile) : (s.onTl f).freeCount = s.freeCount := rfl
@[simp] theorem onTl_skew (s : State) (f : Tile → Tile) : (s.onTl f).skew = s.skew := rfl
@[simp] theorem onTl_clusterMap (s : State) (f : Tile → Tile) : (s.onTl f).clusterMap = s.clusterMap := rfl
@[simp] theorem onTl_l2p (s : State) (f : Tile → Tile) : (s.onTl f).l2p = s.l2p := rfl
@[simp] theorem onTl_live (s : State) (f : Tile → Tile) : (s.onTl f).live = s.live := rfl
@[simp] theorem onTl_up (s : State) (f : Tile → Tile) : (s.onTl f).up = s.up := rfl
@[simp] theorem onTl_links (s : State) (f : Tile → Tile) : (s.onTl f).links = s.links := rfl
@[simp] theorem onTl_ctxs (s : State) (f : Tile → Tile) : (s.onTl f).ctxs = s.ctxs := rfl
@[simp] theorem onTl_posts (s : State) (f : Tile → Tile) : (s.onTl f).posts = s.posts := rfl
@[simp] theorem onTl_ops (s : State) (f : Tile → Tile) : (s.onTl f).ops = s.ops := rfl
@[simp] theorem onTl_mem (s : State) (f : Tile → Tile) : (s.onTl f).mem = s.mem := rfl
@[simp] theorem onTl_lineKeys (s : State) (f : Tile → Tile) : (s.onTl f).lineKeys = s.lineKeys := rfl
@[simp] theorem onTl_badLines (s : State) (f : Tile → Tile) : (s.onTl f).badLines = s.badLines := rfl
@[simp] theorem onTl_keys (s : State) (f : Tile → Tile) : (s.onTl f).keys = s.keys := rfl
@[simp] theorem onTl_cdtbase (s : State) (f : Tile → Tile) : (s.onTl f).cdtbase = s.cdtbase := rfl
@[simp] theorem onTl_kennels (s : State) (f : Tile → Tile) : (s.onTl f).kennels = s.kennels := rfl
@[simp] theorem onTl_fwin (s : State) (f : Tile → Tile) : (s.onTl f).fwin = s.fwin := rfl
@[simp] theorem onTl_bar2 (s : State) (f : Tile → Tile) : (s.onTl f).bar2 = s.bar2 := rfl
@[simp] theorem onTl_boot (s : State) (f : Tile → Tile) : (s.onTl f).boot = s.boot := rfl
@[simp] theorem onTl_freq (s : State) (f : Tile → Tile) : (s.onTl f).freq = s.freq := rfl
@[simp] theorem onTl_occause (s : State) (f : Tile → Tile) : (s.onTl f).occause = s.occause := rfl
@[simp] theorem onTl_mcRes (s : State) (f : Tile → Tile) : (s.onTl f).mcRes = s.mcRes := rfl
@[simp] theorem onTl_drain (s : State) (f : Tile → Tile) : (s.onTl f).drain = s.drain := rfl
@[simp] theorem onTl_routes (s : State) (f : Tile → Tile) : (s.onTl f).routes = s.routes := rfl
@[simp] theorem onTl_farMirs (s : State) (f : Tile → Tile) : (s.onTl f).farMirs = s.farMirs := rfl
@[simp] theorem onTl_latest (s : State) (f : Tile → Tile) : (s.onTl f).latest = s.latest := rfl
@[simp] theorem onTl_mapPend (s : State) (f : Tile → Tile) : (s.onTl f).mapPend = s.mapPend := rfl
@[simp] theorem onTl_hostBuf (s : State) (f : Tile → Tile) : (s.onTl f).hostBuf = s.hostBuf := rfl
@[simp] theorem onTl_hostInval (s : State) (f : Tile → Tile) : (s.onTl f).hostInval = s.hostInval := rfl
@[simp] theorem onTl_pkg (s : State) (f : Tile → Tile) : (s.onTl f).pkg = s.pkg := rfl

@[simp] theorem timer_tl (s : State) (n : Nat) (i : Instr) : ({ s with timers := s.timers ++ [(n, i)] } : State).tl = s.tl := rfl

/-! ### Holding a unit, ending an issue -/

@[simp] theorem holdUnit_regs (u : Option Nat) (o : Nat) (t : Tile) : (holdUnit u o t).regs = t.regs := by cases u <;> rfl
@[simp] theorem holdUnit_pc (u : Option Nat) (o : Nat) (t : Tile) : (holdUnit u o t).pc = t.pc := by cases u <;> rfl
@[simp] theorem holdUnit_mem (u : Option Nat) (o : Nat) (t : Tile) : (holdUnit u o t).mem = t.mem := by cases u <;> rfl
@[simp] theorem holdUnit_abs (u : Option Nat) (o : Nat) (t : Tile) : (holdUnit u o t).abs = t.abs := by cases u <;> rfl
@[simp] theorem holdUnit_order (u : Option Nat) (o : Nat) (t : Tile) : (holdUnit u o t).order = t.order := by cases u <;> rfl
@[simp] theorem holdUnit_trap (u : Option Nat) (o : Nat) (t : Tile) : (holdUnit u o t).trap = t.trap := by cases u <;> rfl
@[simp] theorem holdUnit_arr (u : Option Nat) (o : Nat) (t : Tile) : (holdUnit u o t).arr = t.arr := by cases u <;> rfl
@[simp] theorem holdUnit_port (u : Option Nat) (o : Nat) (t : Tile) : (holdUnit u o t).port = t.port := by cases u <;> rfl
@[simp] theorem holdUnit_tags (u : Option Nat) (o : Nat) (t : Tile) : (holdUnit u o t).tags = t.tags := by cases u <;> rfl
@[simp] theorem holdUnit_jobs (u : Option Nat) (o : Nat) (t : Tile) : (holdUnit u o t).jobs = t.jobs := by cases u <;> rfl
@[simp] theorem holdUnit_pend (u : Option Nat) (o : Nat) (t : Tile) : (holdUnit u o t).pend = t.pend := by cases u <;> rfl
@[simp] theorem holdUnit_bindNo (u : Option Nat) (o : Nat) (t : Tile) : (holdUnit u o t).bindNo = t.bindNo := by cases u <;> rfl
@[simp] theorem holdUnit_bind (u : Option Nat) (o : Nat) (t : Tile) : (holdUnit u o t).bind = t.bind := by cases u <;> rfl
@[simp] theorem holdUnit_rx (u : Option Nat) (o : Nat) (t : Tile) (r : BitVec 5) : rx (holdUnit u o t) r = rx t r := by
  cases u <;> rfl
@[simp] theorem holdUnit_rg (u : Option Nat) (o : Nat) (t : Tile) (r : BitVec 3) : rg (holdUnit u o t) r = rg t r := by
  cases u <;> rfl
@[simp] theorem holdUnit_rb (u : Option Nat) (o : Nat) (t : Tile) (r : BitVec 2) : rb (holdUnit u o t) r = rb t r := by
  cases u <;> rfl
@[simp] theorem holdUnit_rv (u : Option Nat) (o : Nat) (t : Tile) (r : BitVec 5) : rv (holdUnit u o t) r = rv t r := by
  cases u <;> rfl
@[simp] theorem holdUnit_enabled (u : Option Nat) (o : Nat) (t : Tile) (g : Guard) :
    enabled (holdUnit u o t) g = enabled t g := by cases u <;> rfl
@[simp] theorem holdUnit_effGuard (u : Option Nat) (o : Nat) (t : Tile) (g : Guard) :
    effGuard (holdUnit u o t) g = effGuard t g := by cases u <;> rfl

@[simp] theorem advance_regs (n : Nat) (t : Tile) : (advance n t).regs = t.regs := by
  unfold advance; split <;> [rfl; (split <;> rfl)]
@[simp] theorem advance_mem (n : Nat) (t : Tile) : (advance n t).mem = t.mem := by
  unfold advance; split <;> [rfl; (split <;> rfl)]
@[simp] theorem advance_trap (n : Nat) (t : Tile) : (advance n t).trap = t.trap := by
  unfold advance; split <;> [rfl; (split <;> rfl)]

/-- Moving past an instruction changes the pc, the loops and the delay slots only. -/
theorem advance_eq (n : Nat) (t : Tile) :
    advance n t = { t with pc := (advance n t).pc, loops := (advance n t).loops, redirect := (advance n t).redirect } := by
  unfold advance
  split
  · rfl
  · split <;> rfl

/-- The end of an issue changes the timetable only. -/
theorem endIssue_eq (j : Bool) (n : Nat) (t : Tile) :
    endIssue j n t = { t with order := t.order + 1, issued := true, pc := (endIssue j n t).pc
                              loops := (endIssue j n t).loops, redirect := (endIssue j n t).redirect } := by
  unfold endIssue
  cases j
  · simpa using advance_eq n { t with order := t.order + 1, issued := true }
  · rfl

@[simp] theorem endIssue_regs (j : Bool) (n : Nat) (t : Tile) : (endIssue j n t).regs = t.regs := by
  unfold endIssue; cases j <;> simp
@[simp] theorem endIssue_mem (j : Bool) (n : Nat) (t : Tile) : (endIssue j n t).mem = t.mem := by
  unfold endIssue; cases j <;> simp
@[simp] theorem endIssue_trap (j : Bool) (n : Nat) (t : Tile) : (endIssue j n t).trap = t.trap := by
  unfold endIssue; cases j <;> simp

/-! ### Registers -/

theorem rx_zero (t : Tile) : rx t 0 = 0 := rfl

theorem rx_ne (t : Tile) (r : BitVec 5) (h : r ≠ 0) : rx t r = t.regs.x[r.toNat]'r.isLt := if_neg h
theorem wx_ne (t : Tile) (d : BitVec 5) (v : X) (h : d ≠ 0) :
    wx t d v = { t with regs := { t.regs with x := t.regs.x.set d.toNat v d.isLt } } := if_neg h
theorem wx_zero (t : Tile) (v : X) : wx t 0 v = t := rfl
theorem rg_ne (t : Tile) (r : BitVec 3) (h : r ≠ 0) : rg t r = t.regs.g[r.toNat]'r.isLt := if_neg h
theorem wg_zero (t : Tile) (bits v : X) : wg t 0 bits v = t := rfl

theorem toNat_ne {w : Nat} {r d : BitVec w} (h : r ≠ d) : d.toNat ≠ r.toNat := fun e => h (BitVec.eq_of_toNat_eq e.symm)

theorem rx_wx (t : Tile) (d r : BitVec 5) (v : X) :
    rx (wx t d v) r = if r = 0 then 0 else if r = d then v else rx t r := by
  by_cases hr : r = 0
  · rw [if_pos hr, hr, rx_zero]
  rw [if_neg hr]
  by_cases hd : d = 0
  · subst hd; rw [wx_zero, if_neg hr]
  rw [wx_ne _ _ _ hd, rx_ne _ _ hr]
  by_cases h : r = d
  · subst h; rw [if_pos rfl]; exact Vector.getElem_set_self _
  · rw [if_neg h, rx_ne _ _ hr]; exact Vector.getElem_set_ne d.isLt _ (toNat_ne h)

theorem rg_wg (t : Tile) (d r : BitVec 3) (bits v : X) :
    rg (wg t d bits v) r
      = if r = 0 then BitVec.allOnes 64 else if r = d then (rg t d &&& ~~~bits) ||| (v &&& bits) else rg t r := by
  by_cases hr : r = 0
  · rw [if_pos hr, hr]; rfl
  rw [if_neg hr]
  by_cases hd : d = 0
  · subst hd; rw [wg_zero, if_neg hr]
  unfold wg; rw [if_neg hd, rg_ne _ _ hr]
  by_cases h : r = d
  · subst h; rw [if_pos rfl, rg_ne _ _ hr]; exact Vector.getElem_set_self _
  · rw [if_neg h, rg_ne _ _ hr]; exact Vector.getElem_set_ne d.isLt _ (toNat_ne h)

theorem rb_wb (t : Tile) (d r : BitVec 2) (v : X) : rb (wb t d v) r = if r = d then v else rb t r := by
  unfold rb wb
  by_cases h : r = d
  · subst h; simp
  · have : d.toNat ≠ r.toNat := fun e => h (BitVec.eq_of_toNat_eq e.symm)
    simp [h, Vector.getElem_set_ne _ _ this]

theorem wx_eq (t : Tile) (d : BitVec 5) (v : X) : wx t d v = { t with regs := (wx t d v).regs } := by
  unfold wx; split <;> rfl

end Sys2Proof.Machine
end

