-- ==== Sys2Proof/Laws/Issue.lean ====
section
/-! SUPPORT. What an issue slot can do (04:R84, 06:R119): the effect when no condition holds, else the slip of the first
one; what an issue, a slip and their parts leave as they were. -/

namespace Sys2Proof.Machine

/-! ### The judgement of a slot -/

/-- The conditions that `quiet` excludes. -/
theorem quiet_iff (s : State) : quiet s = true ↔
    pickEscalated (escalatedNow false s) = none ∧ overrun s.tl false = false ∧ recurs s.tl 1#8 = none ∧ recurs s.tl 22#8 = none
      ∧ outlierNow s.tl = none ∧ collided s.tl = 0 ∧ lateNow s = none := by
  simp [quiet, Option.isNone_iff_eq_none, and_assoc]

/-- Nothing in an instruction's plan asks for a slip, but for its unit. -/
def Plan.clear (p : Plan) (s : State) : Prop :=
  p.bad = none ∧ (p.flow = true → s.tl.redirect = none) ∧ p.place = false ∧ p.priv = false ∧ p.c17 = none
    ∧ p.arr = false ∧ p.c15 = none ∧ p.late = none ∧ p.early = none ∧ p.c14 = none ∧ p.code = none ∧ p.esc = none

/-- At a quiet slot a clear plan whose unit is free has no cause. -/
theorem slotCause_none (p : Plan) (s : State) (hq : quiet s = true) (hp : p.clear s) (hn : p.isPeriod = false)
    (hu : ∀ u, p.unit = some u → unitFree s u = true) : slotCause p s = none := by
  obtain ⟨h1, h2, h6, h7, h3, h4, h5⟩ := (quiet_iff s).mp hq
  obtain ⟨a1, a2, a3, a4, a5, a6, a7, a8, a9, a10, a11, a12⟩ := hp
  have hf : (p.flow && s.tl.redirect.isSome) = false := by
    cases hpf : p.flow with
    | false => rfl
    | true => simp [a2 hpf]
  have hu' : ∀ u, p.unit = some u → unitHeld s.tl u = false := fun u h => by simpa [unitFree] using hu u h
  simp [slotCause, slotCauses, hn, h1, h2, h3, h4, h5, h6, h7, a1, a3, a4, a5, a6, a7, a8, a9, a10, a11, a12, hf, causeIf]
  exact hu'

/-- An issue without a cause: the effect, between the hold of the unit and the end of the issue. -/
theorem issue_clear (p : Plan) (len : Nat) (eff : State → State) (s : State) (h : slotCause p s = none) :
    issue p len eff s = .next ((eff (s.onTl (holdUnit p.unit p.occ))).onTl (endIssue p.jump len)) := by
  simp only [issue, h]

/-- An issue with a cause: the slip. -/
theorem issue_slip (p : Plan) (len : Nat) (eff : State → State) (s : State) (c : BitVec 8) (info : X)
    (h : slotCause p s = some (c, info)) :
    issue p len eff s = .next (s.onTl (fun t => dropReports p.isPeriod c (beginSlip c info t))) := by
  simp only [issue, h]

/-- An issue always gives a next state. -/
theorem issue_next (p : Plan) (len : Nat) (eff : State → State) (s : State) : ∃ t, issue p len eff s = .next t := by
  unfold issue; split <;> exact ⟨_, rfl⟩

/-! ### What the parts of an issue change -/

/-- Holding a unit changes the units only. -/
theorem holdUnit_eq (u : Option Nat) (o : Nat) (t : Tile) : holdUnit u o t = { t with units := (holdUnit u o t).units } := by
  cases u <;> rfl

/-- A write at the end of the issue's cycle changes registers and the list of the cycle's writes. -/
theorem write1_eq (d : Dest) (v : VReg) (t : Tile) :
    write1 d v t = { t with regs := (write1 d v t).regs, landed := d :: t.landed } := by
  cases d <;> simp only [write1, wdest, wx, wg, wb, wv] <;> (try split) <;> rfl

/-- The slip's abandoned copies: jobs and tickets change. -/
theorem abandonCopies_eq (t : Tile) :
    abandonCopies t = { t with jobs := (abandonCopies t).jobs, tickets := (abandonCopies t).tickets } := rfl

/-- A slip leaves registers, bytes and trap registers as they are. -/
theorem beginSlip_frame (c : BitVec 8) (info : X) (t : Tile) :
    (beginSlip c info t).regs = t.regs ∧ (beginSlip c info t).mem = t.mem ∧ (beginSlip c info t).trap = t.trap
      ∧ (beginSlip c info t).phase = .drain ∧ (beginSlip c info t).issued = true := ⟨rfl, rfl, rfl, rfl, rfl⟩

theorem dropReports_frame (b : Bool) (c : BitVec 8) (t : Tile) :
    dropReports b c t = { t with reports := (dropReports b c t).reports } := by
  unfold dropReports; split <;> rfl

/-- Changing the turn tile changes nothing else. -/
theorem onlyTile_onTl (s : State) (f : Tile → Tile) : OnlyTile s (s.onTl f) :=
  ⟨rfl, fun _ h => tile_onTl_other s f _ h⟩

/-- Bytes are as before when neither the tile's nor the device's memory changes. -/
theorem sameBytes_of (s t : State) (h1 : t.tl.mem = s.tl.mem) (h2 : t.mem = s.mem) : SameBytes s t :=
  ⟨fun _ => by rw [h1], fun _ => by rw [h2]⟩

/-- Values written as scalars read back. -/
@[simp] theorem val64_low (v : X) : (val64 v).extractLsb' 0 64 = v := by
  simp [val64, BitVec.extractLsb'_setWidth_of_le]

/-! ### An issue that completes -/

/-- The end of an issue keeps the units. -/
@[simp] theorem endIssue_units (j : Bool) (n : Nat) (t : Tile) : (endIssue j n t).units = t.units := by
  rw [endIssue_eq]

/-- A tile that differs in its units only, at the end of its issue: what `Advanced` says. -/
theorem advanced_of (s t : State) (u w : Tile) (j : Bool) (n : Nat) (ht : t.tl = endIssue j n w)
    (hw : ∃ un, w = { u with units := un }) (ho : u.order = s.tl.order) : Advanced s t u := by
  obtain ⟨un, rfl⟩ := hw
  unfold Advanced
  rw [ht]
  conv_lhs => rw [endIssue_eq]
  simp [ho]

/-- An issue whose effect changes the turn tile only, at a quiet slot with a clear plan and a free unit. -/
theorem issue_runs (p : Plan) (len : Nat) (f : Tile → Tile) (eff : State → State) (s : State)
    (hq : quiet s = true) (hp : p.clear s) (hn : p.isPeriod = false) (hu : ∀ u, p.unit = some u → unitFree s u = true)
    (he : eff (s.onTl (holdUnit p.unit p.occ)) = s.onTl (fun t => f (holdUnit p.unit p.occ t))) :
    issue p len eff s = .next (s.onTl (fun t => endIssue p.jump len (f (holdUnit p.unit p.occ t)))) := by
  rw [issue_clear _ _ _ _ (slotCause_none p s hq hp hn hu), he, onTl_onTl]

/-- The next state of such an issue: only the turn tile differs, and no byte when the effect leaves the tile's. -/
theorem runs_frame (s : State) (F : Tile → Tile) (h : (F s.tl).mem = s.tl.mem) :
    SameBytes s (s.onTl F) ∧ OnlyTile s (s.onTl F) :=
  ⟨sameBytes_of _ _ (by rw [tl_onTl, h]) rfl, onlyTile_onTl s F⟩

/-- Nothing but the timetable changes when the effect does nothing. -/
theorem writesNothing_of (s : State) (j : Bool) (n : Nat) (u : Option Nat) (o : Nat) :
    WritesNothing s (s.onTl (fun t => endIssue j n (holdUnit u o t))) := by
  obtain ⟨h1, h2⟩ := runs_frame s (fun t => endIssue j n (holdUnit u o t)) (by simp)
  exact ⟨h1, h2, advanced_of s _ s.tl _ j n (tl_onTl _ _) ⟨_, holdUnit_eq u o s.tl⟩ rfl⟩

/-- A result of the issue's own cycle, written to x[d]. -/
theorem writesX_of (s : State) (j : Bool) (n : Nat) (u : Option Nat) (o : Nat) (d : BitVec 5) (v : X) :
    WritesX s (s.onTl (fun t => endIssue j n (write1 (.x d) (val64 v) (holdUnit u o t)))) d v := by
  have hr : ∀ r, rx (wx (holdUnit u o s.tl) d v) r = if r = 0 then 0 else if r = d then v else rx s.tl r := by
    intro r; rw [rx_wx]; simp
  have hw : write1 (.x d) (val64 v) (holdUnit u o s.tl)
      = { wx (holdUnit u o s.tl) d v with landed := .x d :: (holdUnit u o s.tl).landed } := by
    simp [write1, wdest]
  have hx : ∀ t : Tile, (wx t d v).regs.g = t.regs.g ∧ (wx t d v).regs.b = t.regs.b ∧ (wx t d v).regs.v = t.regs.v
      ∧ (wx t d v).mem = t.mem := by
    intro t; unfold wx; split <;> exact ⟨rfl, rfl, rfl, rfl⟩
  obtain ⟨h1, h2⟩ := runs_frame s (fun t => endIssue j n (write1 (.x d) (val64 v) (holdUnit u o t)))
    (by simp only [endIssue_mem, hw, (hx _).2.2.2, holdUnit_mem])
  refine ⟨fun r => ?_, ?_, ?_, ?_, h1, h2, advanced_of s _ _ _ j n (tl_onTl _ _) ?_ rfl⟩
  · rw [tl_onTl]
    have : rx (endIssue j n (write1 (.x d) (val64 v) (holdUnit u o s.tl))) r = rx (wx (holdUnit u o s.tl) d v) r := by
      unfold rx; rw [endIssue_regs, hw]
    rw [this, hr]
  · rw [tl_onTl, endIssue_regs, hw]; simp [(hx _).1]
  · rw [tl_onTl, endIssue_regs, hw]; simp [(hx _).2.1]
  · rw [tl_onTl, endIssue_regs, hw]; simp [(hx _).2.2.1]
  · refine ⟨(holdUnit u o s.tl).units, ?_⟩
    rw [tl_onTl, endIssue_regs, hw]
    have : (endIssue j n (write1 (.x d) (val64 v) (holdUnit u o s.tl))).landed = .x d :: (holdUnit u o s.tl).landed := by
      rw [endIssue_eq, hw]
    rw [hw] at this
    rw [this, wx_eq, holdUnit_eq]

/-- A guard written whole at the end of the issue's cycle. -/
theorem writesG_of (s : State) (j : Bool) (n : Nat) (u : Option Nat) (o : Nat) (d : BitVec 3) (v : X) :
    WritesG s (s.onTl (fun t => endIssue j n (write1 (.g d (BitVec.allOnes 64)) (val64 v) (holdUnit u o t)))) d v := by
  have hr : ∀ r, rg (wg (holdUnit u o s.tl) d (BitVec.allOnes 64) v) r
      = if r = 0 then BitVec.allOnes 64 else if r = d then v else rg s.tl r := by
    intro r; rw [rg_wg, BitVec.not_allOnes, BitVec.and_zero, BitVec.zero_or, BitVec.and_allOnes, holdUnit_rg]
  have hw : write1 (.g d (BitVec.allOnes 64)) (val64 v) (holdUnit u o s.tl)
      = { wg (holdUnit u o s.tl) d (BitVec.allOnes 64) v with
            landed := .g d (BitVec.allOnes 64) :: (holdUnit u o s.tl).landed } := by
    simp [write1, wdest]
  have hx : ∀ (t : Tile) (b : X), (wg t d b v).regs.x = t.regs.x ∧ (wg t d b v).regs.b = t.regs.b
      ∧ (wg t d b v).regs.v = t.regs.v ∧ (wg t d b v).mem = t.mem := by
    intro t b; unfold wg; split <;> exact ⟨rfl, rfl, rfl, rfl⟩
  have hg : ∀ (t : Tile) (b : X), wg t d b v = { t with regs := (wg t d b v).regs } := by
    intro t b; unfold wg; split <;> rfl
  obtain ⟨h1, h2⟩ := runs_frame s
    (fun t => endIssue j n (write1 (.g d (BitVec.allOnes 64)) (val64 v) (holdUnit u o t)))
    (by simp only [endIssue_mem, hw, (hx _ _).2.2.2, holdUnit_mem])
  refine ⟨fun r => ?_, ?_, ?_, ?_, h1, h2, advanced_of s _ _ _ j n (tl_onTl _ _) ?_ rfl⟩
  · rw [tl_onTl]
    have : rg (endIssue j n (write1 (.g d (BitVec.allOnes 64)) (val64 v) (holdUnit u o s.tl))) r
        = rg (wg (holdUnit u o s.tl) d (BitVec.allOnes 64) v) r := by
      unfold rg; rw [endIssue_regs, hw]
    rw [this, hr]
  · rw [tl_onTl, endIssue_regs, hw]; simp [(hx _ _).1]
  · rw [tl_onTl, endIssue_regs, hw]; simp [(hx _ _).2.1]
  · rw [tl_onTl, endIssue_regs, hw]; simp [(hx _ _).2.2.1]
  · refine ⟨(holdUnit u o s.tl).units, ?_⟩
    rw [tl_onTl, endIssue_regs, hw]
    have : (endIssue j n (write1 (.g d (BitVec.allOnes 64)) (val64 v) (holdUnit u o s.tl))).landed
        = .g d (BitVec.allOnes 64) :: (holdUnit u o s.tl).landed := by
      rw [endIssue_eq, hw]
    rw [hw] at this
    rw [this, hg, holdUnit_eq]

/-- A result in flight. -/
theorem sends_of (s : State) (j : Bool) (n : Nat) (u : Option Nat) (o l unit : Nat) (d : Dest) (v : VReg) :
    Sends s (s.onTl (fun t => endIssue j n (writeL l unit d v (holdUnit u o t)))) l unit d v := by
  have hp : (endIssue j n (writeL l unit d v (holdUnit u o s.tl))).pend
      = { due := s.tl.abs + l - 1, order := s.tl.order, unit := unit, dest := d, val := v } :: s.tl.pend := by
    rw [endIssue_eq]; simp [writeL]
  obtain ⟨h1, h2⟩ := runs_frame s (fun t => endIssue j n (writeL l unit d v (holdUnit u o t)))
    (by rw [endIssue_mem]; exact holdUnit_mem u o s.tl)
  refine ⟨by rw [tl_onTl, hp], h1, h2, advanced_of s _ _ _ j n (tl_onTl _ _) ⟨(holdUnit u o s.tl).units, ?_⟩ rfl⟩
  rw [tl_onTl, hp]
  unfold writeL
  rw [holdUnit_abs, holdUnit_order, holdUnit_pend, holdUnit_eq]

/-- Jobs that an effect adds, and what it changes beside: `w` is the tile after the effect, but for its units. -/
theorem uses_of (s : State) (j : Bool) (n : Nat) (unit : Nat) (l : List (Nat × BitVec 32 × JobOp)) (w : Tile)
    (F : Tile → Tile) (hF : F s.tl = endIssue j n w) (hm : w.mem = s.tl.mem)
    (hj : w.jobs = s.tl.jobs ++ l.map (fun e =>
      { cyc := s.tl.abs + e.1, order := s.tl.order, unit := unit, banks := e.2.1, op := e.2.2 }))
    (u : Tile) (hw : ∃ un, w = { u with jobs := w.jobs, units := un }) (ho : u.order = s.tl.order) :
    Uses s (s.onTl F) unit l u := by
  have hjj : (endIssue j n w).jobs = w.jobs := by rw [endIssue_eq]
  obtain ⟨h1, h2⟩ := runs_frame s F (by rw [hF, endIssue_mem, hm])
  refine ⟨by rw [tl_onTl, hF, hjj, hj], h1, h2, advanced_of s _ _ w j n (by rw [tl_onTl, hF]) ?_ ho⟩
  rw [tl_onTl, hF, hjj]
  exact hw

end Sys2Proof.Machine
end

