-- ==== Sys2Proof/Laws/Scalar.lean ====
section
/-! SUPPORT. What each shared operation of the scalar instructions answers at a quiet slot (05:R90-R100). -/

namespace Sys2Proof.Machine

/-- An issue at a quiet slot whose plan is clear: the effect its guard chooses, on the turn tile. -/
theorem issue_guarded (p : Plan) (len : Nat) (g : Guard) (f n : Tile → Tile) (s : State)
    (hq : quiet s = true) (hp : p.clear s) (hn : p.isPeriod = false) (hu : ∀ u, p.unit = some u → unitFree s u = true) :
    issue p len (fun s => s.onTl (fun t => if enabled t g then f t else n t)) s
      = .next (s.onTl (fun t => endIssue p.jump len ((if enabled s.tl g then f else n) (holdUnit p.unit p.occ t)))) := by
  rw [issue_runs p len (if enabled s.tl g then f else n) _ s hq hp hn hu]
  rw [onTl_onTl]
  unfold State.onTl
  simp only [holdUnit_enabled]
  cases enabled s.tl g <;> rfl

/-- A clear plan: the fields that matter are at their defaults. -/
theorem clear_unit (u : Option Nat) (o : Nat) (s : State) : ({ unit := u, occ := o } : Plan).clear s := by
  simp [Plan.clear]

/-- SALU: the result at the end of the cycle. -/
theorem alu_runs (g : Guard) (d : BitVec 5) (v : X) (len : Nat) (s : State) (hq : quiet s = true)
    (hu : unitFree s 0 = true) (he : enabled s.tl g = true) : ∃ t, alu g d v len s = .next t ∧ WritesX s t d v := by
  refine ⟨_, issue_runs _ len (write1 (.x d) (val64 v)) _ s hq (clear_unit _ _ s) rfl (by simpa using hu) ?_,
    writesX_of s _ _ _ _ d v⟩
  simp only [tl_onTl, holdUnit_enabled, he, if_true, onTl_onTl]

theorem alu_null (g : Guard) (d : BitVec 5) (v : X) (len : Nat) (s : State) (hq : quiet s = true)
    (hu : unitFree s 0 = true) (he : enabled s.tl g = false) : ∃ t, alu g d v len s = .next t ∧ WritesNothing s t := by
  refine ⟨_, issue_runs _ len (fun t => t) _ s hq (clear_unit _ _ s) rfl (by simpa using hu) ?_, writesNothing_of s _ _ _ _⟩
  simp [he]

/-- SALU: a guard written whole. -/
theorem guardWrite_runs (g : Guard) (d : BitVec 3) (v : X) (len : Nat) (s : State) (hq : quiet s = true)
    (hu : unitFree s 0 = true) (he : enabled s.tl g = true) :
    ∃ t, guardWrite g d v len s = .next t ∧ WritesG s t d v := by
  refine ⟨_, issue_runs _ len (write1 (.g d (BitVec.allOnes 64)) (val64 v)) _ s hq (clear_unit _ _ s) rfl (by simpa using hu) ?_,
    writesG_of s _ _ _ _ d v⟩
  simp only [tl_onTl, holdUnit_enabled, he, if_true, onTl_onTl]

theorem guardWrite_null (g : Guard) (d : BitVec 3) (v : X) (len : Nat) (s : State) (hq : quiet s = true)
    (hu : unitFree s 0 = true) (he : enabled s.tl g = false) :
    ∃ t, guardWrite g d v len s = .next t ∧ WritesNothing s t := by
  refine ⟨_, issue_runs _ len (fun t => t) _ s hq (clear_unit _ _ s) rfl (by simpa using hu) ?_, writesNothing_of s _ _ _ _⟩
  simp [he]

/-- SMUL: the result in flight. -/
theorem muldiv_runs (g : Guard) (d : BitVec 5) (l occ : Nat) (v : X) (s : State) (hq : quiet s = true)
    (hu : unitFree s 1 = true) (he : enabled s.tl g = true) :
    ∃ t, muldiv g d l occ v s = .next t ∧ Sends s t l 1 (.x d) (val64 v) := by
  refine ⟨_, issue_runs _ 4 (writeL l 1 (.x d) (val64 v)) _ s hq (clear_unit _ _ s) rfl (by simpa using hu) ?_,
    sends_of s _ _ _ _ _ _ _ _⟩
  simp only [tl_onTl, holdUnit_enabled, he, if_true, onTl_onTl]

theorem muldiv_null (g : Guard) (d : BitVec 5) (l occ : Nat) (v : X) (s : State) (hq : quiet s = true)
    (hu : unitFree s 1 = true) (he : enabled s.tl g = false) :
    ∃ t, muldiv g d l occ v s = .next t ∧ WritesNothing s t ∧ tget 0 t.tl.units 1 = s.tl.abs + occ := by
  refine ⟨_, issue_runs _ 4 (fun t => t) _ s hq (clear_unit _ _ s) rfl (by simpa using hu) ?_,
    writesNothing_of s _ _ _ _, ?_⟩
  · have : enabled (s.onTl (holdUnit (some 1) occ)).tl g = false := by
      simpa [enabled, effGuard, tl_onTl, holdUnit_rg] using he
    simp [he]
  · rw [tl_onTl, endIssue_units]
    simp [holdUnit]

/-! ### Slips -/

/-- What the slip of a cause leaves. -/
theorem slips_of (s : State) (b : Bool) (c : BitVec 8) (info : X) :
    Slips s (s.onTl (fun t => dropReports b c (beginSlip c info t))) c info := by
  have hd : ∀ t : Tile, (dropReports b c t).slip = t.slip ∧ (dropReports b c t).phase = t.phase
      ∧ (dropReports b c t).issued = t.issued ∧ (dropReports b c t).regs = t.regs ∧ (dropReports b c t).trap = t.trap
      ∧ (dropReports b c t).mem = t.mem := by
    intro t; rw [dropReports_frame]; exact ⟨rfl, rfl, rfl, rfl, rfl, rfl⟩
  refine ⟨⟨{ cause := c, slot := s.tl.cyc, pc := match s.tl.nopn with | some n => n.pc | none => s.tl.pc, info := info
             escal := isEscalated c || s.tl.trap.vec == 0 || s.tl.trap.mode, nested := s.tl.trap.mode
             nopnLeft := match s.tl.nopn with | some n => n.left | none => 0 }, ?_, rfl, rfl, rfl, ?_⟩,
    ?_, ?_, ?_, ?_, ?_, onlyTile_onTl _ _⟩
  · rw [tl_onTl, (hd _).1]; rfl
  · intro h; simp only [h]
  · rw [tl_onTl, (hd _).2.1]; rfl
  · rw [tl_onTl, (hd _).2.2.1]; rfl
  · rw [tl_onTl, (hd _).2.2.2.1]; rfl
  · rw [tl_onTl, (hd _).2.2.2.2.1]; rfl
  · exact sameBytes_of _ _ (by rw [tl_onTl, (hd _).2.2.2.2.2]; rfl) rfl

/-- A plan with a cause slips. -/
theorem issue_slips (p : Plan) (len : Nat) (eff : State → State) (s : State) (c : BitVec 8) (info : X)
    (h : slotCause p s = some (c, info)) : ∃ t, issue p len eff s = .next t ∧ Slips s t c info :=
  ⟨_, issue_slip p len eff s c info h, slips_of s _ c info⟩

/-- An operand that is not permitted, at a quiet slot, is the cause: nothing before it in 04:R84 holds. -/
theorem slotCause_c17 (p : Plan) (s : State) (info : X) (hq : quiet s = true) (hn : p.isPeriod = false)
    (h1 : p.esc = none) (h2 : p.late = none) (h3 : p.bad = none) (h4 : p.flow = true → s.tl.redirect = none)
    (h5 : p.place = false) (h6 : p.priv = false) (h7 : p.c17 = some info) : slotCause p s = some (0x17, info) := by
  obtain ⟨q1, q2, q4, _, q3, _⟩ := (quiet_iff s).mp hq
  have hf : (p.flow && s.tl.redirect.isSome) = false := by
    cases hpf : p.flow with
    | false => rfl
    | true => simp [h4 hpf]
  simp [slotCause, slotCauses, hn, q1, q2, q3, q4, h1, h2, h3, h5, h6, h7, hf, causeIf]

/-- SMUL: its cycles are held, and the result is in flight or nothing changes. -/
theorem muldiv_answers (g : Guard) (d : BitVec 5) (l occ : Nat) (v : X) (s : State) (hq : quiet s = true)
    (hu : unitFree s 1 = true) : ∃ t, muldiv g d l occ v s = .next t ∧ tget 0 t.tl.units 1 = s.tl.abs + occ
      ∧ IfEnabled s g (fun u => Sends s u l 1 (.x d) (val64 v)) (fun u => WritesNothing s u) t := by
  cases he : enabled s.tl g with
  | false =>
    obtain ⟨t, h1, h2, h3⟩ := muldiv_null g d l occ v s hq hu he
    exact ⟨t, h1, h3, by simpa [IfEnabled, he] using h2⟩
  | true =>
    refine ⟨_, issue_runs _ 4 (writeL l 1 (.x d) (val64 v)) _ s hq (clear_unit _ _ s) rfl (by simpa using hu) ?_, ?_, ?_⟩
    · simp only [tl_onTl, holdUnit_enabled, he, if_true, onTl_onTl]
    · rw [tl_onTl, endIssue_units]
      simp [holdUnit, writeL]
    · simp only [IfEnabled, he, if_true]
      exact sends_of s _ _ _ _ _ _ _ _

/-- SALU: its cycle is held, and the guard is written whole or nothing changes. -/
theorem guardWrite_answers (g : Guard) (d : BitVec 3) (v : X) (len : Nat) (s : State) (hq : quiet s = true)
    (hu : unitFree s 0 = true) : ∃ t, guardWrite g d v len s = .next t ∧ tget 0 t.tl.units 0 = s.tl.abs + 1
      ∧ IfEnabled s g (fun u => WritesG s u d v) (fun u => WritesNothing s u) t := by
  cases he : enabled s.tl g with
  | false =>
    refine ⟨_, issue_runs _ len (fun t => t) _ s hq (clear_unit _ _ s) rfl (by simpa using hu) (by simp [he]), ?_, ?_⟩
    · rw [tl_onTl, endIssue_units]
      simp [holdUnit]
    · simp only [IfEnabled, he]
      exact writesNothing_of s _ _ _ _
  | true =>
    refine ⟨_, issue_runs _ len (write1 (.g d (BitVec.allOnes 64)) (val64 v)) _ s hq (clear_unit _ _ s) rfl (by simpa using hu) ?_, ?_, ?_⟩
    · simp only [tl_onTl, holdUnit_enabled, he, if_true, onTl_onTl]
    · rw [tl_onTl, endIssue_units]
      have e : ∀ (t : Tile) (b w : X), (wg t d b w).units = t.units := fun t b w => by unfold wg; split <;> rfl
      simp [write1, wdest, holdUnit, e]
    · simp only [IfEnabled, he, if_true]
      exact writesG_of s _ _ _ _ d v

/-- SMUL in use: cause 0x16 with its number. -/
theorem muldiv_held (g : Guard) (d : BitVec 5) (l occ : Nat) (v : X) (s : State) (hq : quiet s = true)
    (hu : unitFree s 1 = false) : ∃ t, muldiv g d l occ v s = .next t ∧ Slips s t 0x16 1 := by
  refine issue_slips _ _ _ s _ _ ?_ 
  obtain ⟨q1, q2, q6, _, q3, _⟩ := (quiet_iff s).mp hq
  simp [slotCause, slotCauses, q1, q2, q3, q6, causeIf, show unitHeld s.tl 1 = true by simpa [unitFree] using hu]

/-! ### Bank uses -/

/-- The bank uses and timed cycles of a list, added in its order. -/
def addJobs (unit : Nat) : List (Nat × BitVec 32 × JobOp) → Tile → Tile
  | [], t => t
  | e :: r, t => addJobs unit r (addJob e.1 unit e.2.1 e.2.2 t)

theorem addJobs_eq (unit : Nat) (l : List (Nat × BitVec 32 × JobOp)) (t : Tile) :
    addJobs unit l t = { t with jobs := t.jobs ++ l.map (fun e =>
      { cyc := t.abs + e.1, order := t.order, unit := unit, banks := e.2.1, op := e.2.2 }) } := by
  induction l generalizing t with
  | nil => simp [addJobs]
  | cons e r ih => simp [addJobs, ih, addJob]

/-- Only what an effect does to the state at the issue matters. -/
theorem issue_congr (p : Plan) (len : Nat) (f f' : State → State) (s : State)
    (h : f (s.onTl (holdUnit p.unit p.occ)) = f' (s.onTl (holdUnit p.unit p.occ))) :
    issue p len f s = issue p len f' s := by
  unfold issue; rw [h]

/-- An issue at a quiet slot that adds bank uses, and completes its scratchpad access where it is enabled. -/
theorem issue_uses (p : Plan) (len : Nat) (g : Guard) (unit k : Nat) (l n : List (Nat × BitVec 32 × JobOp)) (s : State)
    (hq : quiet s = true) (hp : p.clear s) (hn : p.isPeriod = false) (hu : ∀ u, p.unit = some u → unitFree s u = true) :
    ∃ t, issue p len (fun s => s.onTl (fun t =>
        if enabled t g then accessEvent k (addJobs unit l t) else addJobs unit n t)) s = .next t
      ∧ IfEnabled s g
        (fun t => Uses s t unit l { s.tl with evs := { kind := 0, id := s.tl.bindNo, cyc := s.tl.abs + k } :: s.tl.evs })
        (fun t => Uses s t unit n s.tl) t := by
  refine ⟨_, issue_guarded p len g (fun t => accessEvent k (addJobs unit l t)) (addJobs unit n) s hq hp hn hu, ?_⟩
  have hh := holdUnit_eq p.unit p.occ s.tl
  unfold IfEnabled
  cases enabled s.tl g with
  | true =>
    simp only [if_true]
    refine uses_of s p.jump len unit l (accessEvent k (addJobs unit l (holdUnit p.unit p.occ s.tl))) _ rfl ?_ ?_ _ ⟨(holdUnit p.unit p.occ s.tl).units, ?_⟩ rfl
    · simp [addJobs_eq, accessEvent]
    · simp [addJobs_eq, accessEvent]
    · simp only [addJobs_eq, accessEvent, holdUnit_abs, holdUnit_order, holdUnit_bindNo, holdUnit_jobs]
      conv_lhs => rw [hh]
  | false =>
    simp only [Bool.false_eq_true, if_false]
    refine uses_of s p.jump len unit n (addJobs unit n (holdUnit p.unit p.occ s.tl)) _ rfl ?_ ?_ _ ⟨(holdUnit p.unit p.occ s.tl).units, ?_⟩ rfl
    · simp [addJobs_eq]
    · simp [addJobs_eq]
    · simp only [addJobs_eq, holdUnit_abs, holdUnit_order, holdUnit_jobs]
      conv_lhs => rw [hh]

/-- A permitted address passes the check. -/
theorem checkAddr_none (a : X) (n : Nat) (h : a.toNat ≤ 0x10FFFF ∧ a.toNat % n = 0) : checkAddr a n = none := by
  simp [checkAddr, Nat.not_lt.mpr h.1, h.2]

theorem checkAddr_some (a : X) (n : Nat) (h : ¬(a.toNat ≤ 0x10FFFF ∧ a.toNat % n = 0)) : checkAddr a n = some a := by
  unfold checkAddr
  rw [if_pos]
  by_cases h1 : a.toNat ≤ 0x10FFFF
  · have : a.toNat % n ≠ 0 := fun h2 => h ⟨h1, h2⟩
    simp [this]
  · simp [Nat.lt_of_not_le h1]

/-- LD at a permitted address. -/
theorem loadAt_runs (g : Guard) (ty : MemTy) (d : BitVec 5) (a : X) (len : Nat) (s : State) (hq : quiet s = true)
    (hu : unitFree s 2 = true) (ha : a.toNat ≤ 0x10FFFF ∧ a.toNat % memSize ty = 0) :
    ∃ t, loadAt g ty d a len s = .next t ∧ IfEnabled s g
      (fun t => Uses s t 2 [(1, bankBit (bankOf a.toNat), .load d (memSize ty) (memSigned ty) a.toNat)]
        { s.tl with evs := { kind := 0, id := s.tl.bindNo, cyc := s.tl.abs + 1 } :: s.tl.evs })
      (fun t => Uses s t 2 [(1, bankBit (bankOf a.toNat), .idle)] s.tl) t := by
  unfold loadAt
  rw [issue_congr _ len _ (fun s' => s'.onTl (fun t => if enabled t g then accessEvent 1 (addJobs 2
      [(1, bankBit (bankOf a.toNat), .load d (memSize ty) (memSigned ty) a.toNat)] t)
      else addJobs 2 [(1, bankBit (bankOf a.toNat), .idle)] t)) s rfl]
  exact issue_uses _ len g 2 1 _ _ s hq (by simp [Plan.clear, checkAddr_none _ _ ha]) rfl (by simpa using hu)

/-- ST at a permitted address. -/
theorem storeAt_runs (g : Guard) (ty : MemTy) (d : BitVec 5) (a : X) (len : Nat) (s : State) (hq : quiet s = true)
    (hu : unitFree s 2 = true) (ha : a.toNat ≤ 0x10FFFF ∧ a.toNat % memSize ty = 0) :
    ∃ t, storeAt g ty d a len s = .next t ∧ IfEnabled s g
      (fun t => Uses s t 2 [(1, bankBit (bankOf a.toNat), .writes (cellsLE a.toNat (memSize ty) (rx s.tl d).toNat))]
        { s.tl with evs := { kind := 0, id := s.tl.bindNo, cyc := s.tl.abs + 1 } :: s.tl.evs })
      (fun t => Uses s t 2 [(1, bankBit (bankOf a.toNat), .idle)] s.tl) t := by
  unfold storeAt
  rw [issue_congr _ len _ (fun s' => s'.onTl (fun t => if enabled t g then accessEvent 1 (addJobs 2
      [(1, bankBit (bankOf a.toNat), .writes (cellsLE a.toNat (memSize ty) (rx s.tl d).toNat))] t)
      else addJobs 2 [(1, bankBit (bankOf a.toNat), .idle)] t)) s (by simp only [State.onTl, tl_setTl, holdUnit_rx]; rfl)]
  exact issue_uses _ len g 2 1 _ _ s hq (by simp [Plan.clear, checkAddr_none _ _ ha]) rfl (by simpa using hu)

/-- ATOM at a permitted address. -/
theorem atom_runs (op : RmwOp) (g : Guard) (ty : AtomTy) (d a b : BitVec 5) (s : State) (hq : quiet s = true)
    (hu : unitFree s 2 = true) (ha : (rx s.tl a).toNat ≤ 0x10FFFF ∧ (rx s.tl a).toNat % atomSize ty = 0) :
    ∃ t, atom op g ty d a b s = .next t ∧ IfEnabled s g
      (fun t => Uses s t 2 [(1, bankBit (bankOf (rx s.tl a).toNat),
          .atomRead d (atomSize ty) (atomSigned ty) op (rx s.tl a).toNat (rx s.tl b) (rx s.tl d)),
          (2, bankBit (bankOf (rx s.tl a).toNat), .idle), (3, bankBit (bankOf (rx s.tl a).toNat), .idle)]
        { s.tl with evs := { kind := 0, id := s.tl.bindNo, cyc := s.tl.abs + 3 } :: s.tl.evs })
      (fun t => Uses s t 2 [(1, bankBit (bankOf (rx s.tl a).toNat), .idle), (2, bankBit (bankOf (rx s.tl a).toNat), .idle),
        (3, bankBit (bankOf (rx s.tl a).toNat), .idle)] s.tl) t := by
  unfold atom
  rw [issue_congr _ 4 _ (fun s' => s'.onTl (fun t => if enabled t g then accessEvent 3 (addJobs 2
      [(1, bankBit (bankOf (rx s.tl a).toNat),
          .atomRead d (atomSize ty) (atomSigned ty) op (rx s.tl a).toNat (rx s.tl b) (rx s.tl d)),
          (2, bankBit (bankOf (rx s.tl a).toNat), .idle), (3, bankBit (bankOf (rx s.tl a).toNat), .idle)] t)
      else addJobs 2 [(1, bankBit (bankOf (rx s.tl a).toNat), .idle), (2, bankBit (bankOf (rx s.tl a).toNat), .idle),
        (3, bankBit (bankOf (rx s.tl a).toNat), .idle)] t)) s ?_]
  · exact issue_uses _ 4 g 2 3 _ _ s hq (by simp [Plan.clear, checkAddr_none _ _ ha]) rfl (by simpa using hu)
  · simp only [State.onTl, tl_setTl, holdUnit_rx, holdUnit_enabled]
    cases enabled s.tl g <;> rfl

end Sys2Proof.Machine
end

