-- ==== Sys2Proof/Laws/Shared.lean ====
section
/-! SUPPORT. What the shared operations of restarts, routes, sheds, migrations, snapshots, masks and grammar entries do: one
lemma for each, which the provers cite instead of unfolding it. -/

namespace Sys2Proof.Machine

/-! ### The return from a trap (05:R115, 06:R123) -/

/-- What makes the slip of a re-issue occur again, and the kept registers are let go. -/
theorem slipAgain_frame (n : Nat) (t : Tile) : slipAgain n t = { t with seen := none, again := (slipAgain n t).again } := rfl
theorem slipAgain_again (n : Nat) (t : Tile) : (slipAgain n t).again
    = if t.resumeNopn = 0 && unchanged t then some (t.trap.cause.setWidth 8, t.trap.info, n) else none := rfl

/-- A slip occurs again in one cycle only, with its own cause. -/
theorem recurs_some (t : Tile) (c : BitVec 8) (i : X) (h : recurs t c = some i) : t.again = some (c, i, t.abs) := by
  unfold recurs at h
  cases ha : t.again with
  | none => simp [ha] at h
  | some e =>
    simp only [ha, Option.bind_some, Option.ite_none_right_eq_some] at h
    obtain ⟨⟨rfl, e2⟩, h⟩ := h
    rw [← e2, ← Option.some.inj h]
theorem recurs_self (t : Tile) (c : BitVec 8) (i : X) (h : t.again = some (c, i, t.abs)) : recurs t c = some i := by
  simp [recurs, h]
theorem recurs_none (t : Tile) (c : BitVec 8) (h : ∀ e, t.again = some e → e.2.2 ≠ t.abs) : recurs t c = none := by
  unfold recurs
  cases ha : t.again with
  | none => rfl
  | some e => simp [h e ha]

/-- Everything that a return from a trap changes. -/
theorem returnFromTrap_frame (n : Nat) (t : Tile) : ∃ us pc c q, returnFromTrap n t
    = { t with trap := { t.trap with mode := false }, loops := [], redirect := none, resumeNopn := 0, seen := none
               again := (slipAgain n t).again, units := us, pc := pc, cycNext := c, nopn := q } := by
  unfold returnFromTrap slipAgain
  dsimp only
  split
  · exact ⟨_, _, _, _, rfl⟩
  · split <;> exact ⟨_, _, _, _, rfl⟩

/-! ### Routes (15:R241, R242) -/

/-- An operation's line goes where its route says, whatever the tables say then. -/
theorem opTarget_to (o : MemOp) (j : Nat) (s : State) (p : Place) (h : lineRoute o j = .to p) : (opTarget o j s).1 = .ok p.target := by
  simp [opTarget, h]
theorem opTarget_stop (o : MemOp) (j : Nat) (s : State) (c : BitVec 8) (h : lineRoute o j = .stop c) :
    (opTarget o j s).1 = .error c := by
  simp [opTarget, h]

/-! ### Sheds (21:R303), migrations (25:R339, R356), inputs (25:R359) -/

theorem evictOne_some (k : Nat) (c : BitVec 8) (s : State) (l : Lease) (h : evictNext (s.kennel k) = some l) :
    evictOne k c s = endLease k l.id 4 c s := by
  simp [evictOne, h]
theorem evictOne_none (k : Nat) (c : BitVec 8) (s : State) (h : evictNext (s.kennel k) = none) : evictOne k c s = s := by
  simp [evictOne, h]

@[simp] theorem setHot_mapset (h b : Bool) (q : Nat) : setHot h (some (.mapset q b)) = some (.mapset q h) := rfl
@[simp] theorem setHot_false_thermal : setHot false (some .thermal) = none := rfl
@[simp] theorem setHot_true_thermal : setHot true (some .thermal) = some .thermal := rfl
@[simp] theorem setHot_none (h : Bool) : setHot h none = if h then some .thermal else none := rfl

/-- What a tile that neither records nor replays takes as an input is the live value. -/
theorem logInput_off (k n l : Nat) (s : State) (h : s.tl.bind.replay = 0) : logInput k n l s = (l, s) := by
  simp [logInput, h]
theorem logNoted_off (k n l w : Nat) (s : State) (h : s.tl.bind.replay = 0) : logNoted k n l w s = (l, false, s) := by
  simp [logNoted, logInput_off _ _ _ _ h, fromLog]
theorem logX_off (v : X) (s : State) (h : s.tl.bind.replay = 0) : logX v s = (v, s) := by
  simp [logX, logInput_off _ _ _ _ h]
theorem sampleInput_off (k : Nat) (n : BitVec 6) (m : MirPost) (l : Nat) (s : State) (h : s.tl.bind.replay = 0) :
    sampleInput k n m l s = (l, s) := by
  simp only [sampleInput, logNoted_off _ _ _ _ _ h, logInput_off _ _ _ _ h]
  split <;> simp [fromLog]
theorem sysInput_off (n : BitVec 12) (s : State) (h : s.tl.bind.replay = 0) : sysInput n s = (sysValue s n, s) := by
  simp only [sysInput, logNoted_off _ _ _ _ _ h, logX_off _ _ h]
  split
  · rfl
  · split <;> simp [fromLog]

/-- A system register that no log holds is the live one. -/
theorem sysInput_live (n : BitVec 12) (s : State) (h : sysLogged n = false) : sysInput n s = (sysValue s n, s) := by
  simp [sysInput, h]

/-- A replayed entry notes a result that has not arrived, n + 1 in its low 33 bits for the one of sequence n, or an idle port
beside a live one that is held. -/
theorem noteMissing_iff (k : Nat) (t : Tile) :
    noteMissing k t = true ↔ (k % 2 ^ 33 ≠ 0 ∧ ∀ e ∈ t.replay.results, e.1 + 1 ≠ k % 2 ^ 33)
      ∨ (k / 2 ^ 33 % 8 = 1 ∧ t.port.state = 4) := by
  simp [noteMissing]

/-- What a status of the port gives of an input that no log holds. -/
theorem statusInput_off (f : BitVec 2 → Bool) (d : BitVec 5) (st : BitVec 2) (s : State) (h : s.tl.bind.replay = 0) :
    statusInput f d st s = s.onTl (writeL 2 15 (.x d) (val64 (leaseStatus s.tl.port.gen st))) := by
  simp [statusInput, logX_off _ _ h, fromLog]

/-! ### What a Sheepdog's reads give (23:R322, R327, R330) -/

/-- A command goes on with a value exactly when the reads before gave one and what follows them does. -/
theorem Ask.bind_ok {α β : Type} (x : Ask α) (f : α → Ask β) (b : β) : x.bind f = .ok b ↔ ∃ a, x = .ok a ∧ f a = .ok b := by
  cases x <;> simp [Ask.bind]

/-- Two values are there when each is. -/
theorem Ask.both_ok {α β : Type} (x : Ask α) (y : Ask β) (p : α × β) : x.both y = .ok p ↔ x = .ok p.1 ∧ y = .ok p.2 := by
  cases x <;> cases y <;> simp [Ask.both, Prod.ext_iff]

/-- Bytes are known when every line of them has been read and none has failed. -/
theorem gotBytes_ok (g : Got) (dva : X) (n v : Nat) :
    gotBytes g dva n = .ok v ↔ (∀ a ∈ readLines dva n, (gotLine g a).isSome = true) ∧ gotFault g (readLines dva n) = none
      ∧ gotNat g (readLines dva n) / 2 ^ (8 * (dva.toNat % 64)) % 2 ^ (8 * n) = v := by
  have key : (readLines dva n).filter (fun a => (gotLine g a).isNone) = [] ↔ ∀ a ∈ readLines dva n, (gotLine g a).isSome = true := by
    simp [List.filter_eq_nil_iff, Option.isSome_iff_ne_none]
  unfold gotBytes
  dsimp only
  rw [← key]
  split
  · rename_i h
    cases gotFault g (readLines dva n) <;> simp [List.isEmpty_iff.mp h]
  · rename_i h
    simp [mt List.isEmpty_iff.mpr h]

/-- A line just read is the one that the reads hold, when they did not hold it before. -/
theorem gotLine_append (g : Got) (e : X × BitVec 8 × Line) (h : gotLine g e.1 = none) : gotLine (g ++ [e]) e.1 = some e.2 := by
  simp only [gotLine, Option.map_eq_none_iff, List.find?_eq_none, beq_iff_eq] at h
  simp only [gotLine, List.find?_append, Option.map_eq_some_iff]
  refine ⟨e, ?_, rfl⟩
  rw [List.find?_eq_none.mpr (by simpa using h)]
  simp

/-! ### A snapshot (23:R330), a mask (23:R328), an entry's edges (23:R323) -/

/-- The n-th symbol's two bytes of a stack area. -/
theorem stackNat_symbol (l : List Nat) (n : Nat) : stackNat l / 2 ^ (16 * n) % 2 ^ 16 = l.getD n 0 % 2 ^ 16 := by
  induction l generalizing n with
  | nil => simp [stackNat]
  | cons y r ih =>
    cases n with
    | zero => simp [stackNat]
    | succ n =>
      rw [show 16 * (n + 1) = 16 + 16 * n by omega, Nat.pow_add, ← Nat.div_div_eq_div_mul, stackNat,
        Nat.add_mul_div_left _ _ (by decide : 0 < 2 ^ 16), Nat.div_eq_of_lt (Nat.mod_lt _ (by decide)), Nat.zero_add, ih]
      rfl

/-- Bit i of the bits of a predicate. -/
theorem bitsNat_testBit (f : Nat → Bool) (k n i : Nat) : (bitsNat f k n).testBit i = (decide (i < n) && f (k + i)) := by
  induction n generalizing k i with
  | zero => simp [bitsNat]
  | succ n ih =>
    unfold bitsNat
    cases i with
    | zero =>
      rw [Nat.testBit_zero]
      cases f k <;> simp
    | succ i =>
      rw [Nat.testBit_succ]
      have : ((if f k = true then 1 else 0) + 2 * bitsNat f (k + 1) n) / 2 = bitsNat f (k + 1) n := by
        split <;> omega
      rw [this, ih]
      simp [Nat.add_assoc, Nat.add_comm 1 i]

/-- No token lies in two edges of a checked entry. -/
theorem edgesSorted_lo (g : Gram) (a : Edge) (r : List Edge) (hs : edgesSorted (a :: r) = true) (hok : r.all (edgeOk g) = true) :
    ∀ e ∈ r, a.hi < e.lo := by
  induction r generalizing a with
  | nil => simp
  | cons b r ih =>
    simp only [edgesSorted, Bool.and_eq_true, decide_eq_true_eq] at hs
    simp only [List.all_cons, Bool.and_eq_true] at hok
    have hb : b.lo ≤ b.hi := by simp [edgeOk] at hok; omega
    intro e he
    rcases List.mem_cons.mp he with rfl | he
    · exact hs.1
    · have := ih b hs.2 hok.2 e he; omega

theorem edges_unique (g : Gram) (es : List Edge) (hs : edgesSorted es = true) (hok : es.all (edgeOk g) = true) (t : Nat)
    (a b : Edge) (ha : a ∈ es) (hb : b ∈ es) (h1 : a.lo ≤ t ∧ t ≤ a.hi) (h2 : b.lo ≤ t ∧ t ≤ b.hi) : a = b := by
  induction es with
  | nil => simp at ha
  | cons c r ih =>
    have hc := edgesSorted_lo g c r hs (by simp only [List.all_cons, Bool.and_eq_true] at hok; exact hok.2)
    have hr : edgesSorted r = true := by
      cases r with
      | nil => rfl
      | cons d r => simp only [edgesSorted, Bool.and_eq_true] at hs; exact hs.2
    simp only [List.all_cons, Bool.and_eq_true] at hok
    rcases List.mem_cons.mp ha with ea | ma <;> rcases List.mem_cons.mp hb with eb | mb
    · rw [ea, eb]
    · subst ea; have := hc b mb; omega
    · subst eb; have := hc a ma; omega
    · exact ih hr hok.2 ma mb

end Sys2Proof.Machine
end

