-- ==== Sys2Proof/Laws/Stores.lean ====
section
/-! SUPPORT. The shared writes of byte stores keep their canonical form: parts of a memory moved to another base, a context's bytes,
a tile changed, a line and bytes of device memory written. -/

namespace Sys2Proof.Machine

/-! ### Memories taken from memories -/

/-- Cells moved in rising order, none to zero, keep the canonical form. -/
theorem wf_filterMap {m : Memory} (f : Host.Cell → Option Host.Cell) (h : Memory.wf m = true)
    (hv : ∀ c d, c.2 ≠ 0 → f c = some d → d.2 ≠ 0)
    (hm : ∀ b c d e, b.1 < c.1 → f b = some d → f c = some e → d.1 < e.1) : Memory.wf (m.filterMap f) = true := by
  induction m with
  | nil => rfl
  | cons c r ih =>
    obtain ⟨a, v⟩ := c
    obtain ⟨hn, ha, hw⟩ := wf_cons.mp h
    cases hf : f (a, v) with
    | none => rw [List.filterMap_cons_none hf]; exact ih hw
    | some d =>
      rw [List.filterMap_cons_some hf]
      refine wf_cons.mpr ⟨hv _ _ hn hf, ?_, ih hw⟩
      intro e he
      obtain ⟨c, hc, hce⟩ := List.mem_filterMap.mp he
      exact hm _ _ _ _ (ha c hc) hf hce

theorem wf_slice {m : Memory} (lo n base : Nat) (h : Memory.wf m = true) : Memory.wf (slice m lo n base) = true := by
  refine wf_filterMap _ h (fun c d hc hd => ?_) (fun b c d e hbc hd he => ?_)
  · simp only [Option.ite_none_right_eq_some, Option.some.injEq] at hd
    rw [← hd.2]; exact hc
  · simp only [Option.ite_none_right_eq_some, Option.some.injEq] at hd he
    rw [← hd.2, ← he.2]; dsimp only; omega

theorem wf_setRecords {m : Memory} (f : Ty) (set : Nat) (h : Memory.wf m = true) : Memory.wf (setRecords m f set) = true := by
  refine wf_filterMap _ h (fun c d hc hd => ?_) (fun b c d e hbc hd he => ?_)
  · simp only [Option.ite_none_right_eq_some, Option.some.injEq] at hd
    rw [← hd.2]; exact hc
  · simp only [Option.ite_none_right_eq_some, Option.some.injEq, Bool.and_eq_true, decide_eq_true_eq] at hd he
    rw [← hd.2, ← he.2]
    have h1 := hd.1.1
    have h2 := he.1.1
    dsimp only
    omega

set_option exponentiation.threshold 600 in
/-- One byte of a stored line. -/
theorem lineBytes_mreadLine (m : Memory) (a k : Nat) (h : k < 64) : lineBytes (mreadLine m a) k 1 = (mread m (a + k)).toNat := by
  rw [lineBytes, mreadLine, BitVec.toNat_ofNat, Nat.mod_eq_of_lt (mreadLE_lt m a 64), show 8 * 1 = 8 by rfl, show (2 : Nat) ^ 8 = 256 by rfl, mreadLE_byte m a 64 k h]

theorem dvaCells_addr (s : State) (ctx : BitVec 16) (dva : X) (a n : Nat) : ∀ c ∈ dvaCells s ctx dva a n, a ≤ c.1 ∧ c.1 < a + n := by
  induction n generalizing dva a with
  | zero => simp [dvaCells]
  | succ n ih =>
    intro c hc
    unfold dvaCells at hc
    dsimp only at hc
    split at hc
    · have := ih _ _ c hc; omega
    · rcases List.mem_cons.mp hc with rfl | hc
      · dsimp only; omega
      · have := ih _ _ c hc; omega

/-- A context's bytes, zeros left out, are in canonical form. -/
theorem wf_dvaCells (s : State) (ctx : BitVec 16) (dva : X) (a n : Nat) : Memory.wf (dvaCells s ctx dva a n) = true := by
  induction n generalizing dva a with
  | zero => rfl
  | succ n ih =>
    unfold dvaCells
    dsimp only
    split
    · exact ih _ _
    · rename_i hb
      refine wf_cons.mpr ⟨fun h0 => ?_, fun c hc => by have := dvaCells_addr s ctx _ _ _ c hc; omega, ih _ _⟩
      have hlt : (dvaByte s ctx dva).getD 0 < 256 := by
        unfold dvaByte
        split
        · split
          · simp
          · simpa [lineBytes] using Nat.mod_lt _ (by decide : 0 < 256)
        · split
          · simpa [lineBytes] using Nat.mod_lt _ (by decide : 0 < 256)
          · simp
        · simp
      apply hb
      have := congrArg BitVec.toNat h0
      simpa [Nat.mod_eq_of_lt hlt] using this

/-! ### The package's stores -/

/-- What `State.memOk` says of the stores outside the tiles. -/
theorem memOk_iff (s : State) : s.memOk = true ↔ (∀ e ∈ s.tiles, e.2.memOk = true) ∧ Memory.wf s.mem = true
    ∧ Memory.wf s.fwin = true ∧ Memory.wf s.boot.flash = true ∧ Memory.wf s.boot.window = true ∧ Memory.wf s.boot.attest = true := by
  simp [State.memOk, and_assoc]

theorem tset_mem {α : Type} {t : Table α} {k : Nat} {v : α} {e : Nat × α} (h : e ∈ tset t k v) : e = (k, v) ∨ e ∈ t := by
  induction t with
  | nil => simpa [tset] using h
  | cons d r ih =>
    obtain ⟨j, w⟩ := d
    simp only [tset] at h
    split at h
    · rcases List.mem_cons.mp h with h | h
      · exact .inl h
      · exact .inr (by simp [h])
    · split at h
      · rcases List.mem_cons.mp h with h | h
        · exact .inl h
        · exact .inr h
      · rcases List.mem_cons.mp h with h | h
        · exact .inr (by simp [h])
        · rcases ih h with h | h
          · exact .inl h
          · exact .inr (by simp [h])

theorem tfind_mem {α : Type} {t : Table α} {k : Nat} {v : α} (h : tfind t k = some v) : ∃ e ∈ t, e.2 = v := by
  induction t with
  | nil => simp [tfind] at h
  | cons d r ih =>
    obtain ⟨j, w⟩ := d
    simp only [tfind] at h
    split at h
    · exact ⟨_, List.mem_cons_self .., Option.some.inj h⟩
    · obtain ⟨e, he, hv⟩ := ih h
      exact ⟨e, List.mem_cons_of_mem _ he, hv⟩

/-- A tile of a package whose stores are in canonical form has its own so. -/
theorem memOk_tile {s : State} (h : s.memOk = true) (p : Nat) : (s.tile p).memOk = true := by
  unfold State.tile tget
  cases hf : tfind s.tiles p with
  | none => decide
  | some t =>
    obtain ⟨e, he, hv⟩ := tfind_mem hf
    simpa [hv] using ((memOk_iff s).mp h).1 e he

/-- Changing one tile keeps the form when the tile's stores keep it. -/
theorem memOk_onTile {s : State} (h : s.memOk = true) (p : Nat) (f : Tile → Tile) (hf : (f (s.tile p)).memOk = true) :
    (s.onTile p f).memOk = true := by
  obtain ⟨h1, h2⟩ := (memOk_iff s).mp h
  refine (memOk_iff _).mpr ⟨fun e he => ?_, h2⟩
  rcases tset_mem he with rfl | he
  · exact hf
  · exact h1 e he

/-- A line of device memory written keeps the form. -/
theorem memOk_devStore {s : State} (h : s.memOk = true) (tag : LineTag) (da : Nat) (l : Line) : (devStore s tag da l).memOk = true := by
  obtain ⟨h1, h2, h3⟩ := (memOk_iff s).mp h
  exact (memOk_iff _).mpr ⟨h1, wf_mwrites _ h2, h3⟩

@[simp] theorem memOk_bufferStale (da id : Nat) (s : State) : (bufferStale da id s).memOk = s.memOk := by
  unfold bufferStale; split <;> rfl
@[simp] theorem memOk_lineRenewed (da : Nat) (s : State) : (lineRenewed da s).memOk = s.memOk := rfl

/-- Bytes of a context written keep the form. -/
theorem memOk_dvaBytes {s : State} (h : s.memOk = true) (ctx : BitVec 16) (dva : X) (n v : Nat) :
    (dvaBytes ctx dva n v s).memOk = true := by
  induction n generalizing dva v s with
  | zero => exact h
  | succ n ih =>
    unfold dvaBytes
    split
    · rename_i da tag _
      refine ih ?_ _ _
      rw [memOk_bufferStale]
      exact memOk_devStore h tag da _
    · exact ih h _ _

theorem memOk_dvaWrite {s : State} (h : s.memOk = true) (ctx : BitVec 16) (dva : X) (n v : Nat) :
    (dvaWrite ctx dva n v s).memOk = true := by
  unfold dvaWrite
  have h0 := memOk_dvaBytes h ctx dva n v
  generalize dvaBytes ctx dva n v s = u at h0
  induction wholeLines dva.toNat n generalizing u with
  | nil => exact h0
  | cons o r ih =>
    refine ih _ ?_
    dsimp only
    split
    · simpa using h0
    · exact h0

end Sys2Proof.Machine
end

