-- ==== Sys2Proof/Laws/Updates.lean ====
section
/-! SUPPORT. What the updates of the array's stores, of a released slot-table entry, of a sample and of a landing in HALT's
drain change and what they leave: one lemma for each, so that no proof unfolds them. -/

namespace Sys2Proof.Machine

/-! ### The array's stores (08:R182) -/

@[simp] theorem renewed_acc (a n : Nat) (q : ArraySt) : (q.renewed a n).acc = q.acc := rfl
@[simp] theorem renewed_wsram (a n : Nat) (q : ArraySt) : (q.renewed a n).wsram = q.wsram := rfl
@[simp] theorem renewed_plane0 (a n : Nat) (q : ArraySt) : (q.renewed a n).plane0 = q.plane0 := rfl
@[simp] theorem renewed_plane1 (a n : Nat) (q : ArraySt) : (q.renewed a n).plane1 = q.plane1 := rfl

theorem mem_renewed (a n b : Nat) (q : ArraySt) : b ∈ (q.renewed a n).badBytes ↔ b ∈ q.badBytes ∧ (b < a ∨ a + n ≤ b) := by
  simp [ArraySt.renewed]

/-- An accumulator write changes the row's bytes and what of the row read as failing. -/
theorem accWrite_frame (row v : Nat) (t : Tile) :
    accWrite row v t = { t with arr := { t.arr with
      acc := (accWrite row v t).arr.acc, badBytes := (accWrite row v t).arr.badBytes } } := by
  simp only [accWrite, ArraySt.renewed]
@[simp] theorem accWrite_acc (row v : Nat) (t : Tile) : (accWrite row v t).arr.acc = mwriteLE t.arr.acc (512 * row) 512 v := by
  simp only [accWrite, renewed_acc]

/-- A record's write changes WSRAM, the marks of the planes loaded from the set, and what of the record read as failing. -/
theorem wfillWrite_frame (dst src : Nat) (t : Tile) :
    wfillWrite dst src t = { t with arr := { t.arr with
      wsram := (wfillWrite dst src t).arr.wsram, plane0 := (wfillWrite dst src t).arr.plane0
      plane1 := (wfillWrite dst src t).arr.plane1, badBytes := (wfillWrite dst src t).arr.badBytes } } := by
  simp only [wfillWrite, ArraySt.renewed]
@[simp] theorem wfillWrite_wsram (dst src : Nat) (t : Tile) :
    (wfillWrite dst src t).arr.wsram = mwriteLE t.arr.wsram dst 512 (mreadLE t.mem src 512) := by
  simp only [wfillWrite, renewed_wsram]

/-! ### A released entry (05:R116), a sample, a landing that comes to nothing -/

@[simp] theorem releaseTile_regs (r : List Byte) (t : Tile) : (releaseTile r t).regs = t.regs := rfl
@[simp] theorem releaseTile_mem (r : List Byte) (t : Tile) : (releaseTile r t).mem = t.mem := rfl
@[simp] theorem releaseTile_arr (r : List Byte) (t : Tile) : (releaseTile r t).arr = t.arr := rfl
@[simp] theorem releaseTile_bind (r : List Byte) (t : Tile) : (releaseTile r t).bind = bindOf r := rfl
@[simp] theorem releaseTile_state (r : List Byte) (t : Tile) : (releaseTile r t).state = recState r := rfl

/-- Noting a sample changes nothing but that mark of its mirror. -/
theorem noteSample_eq (n : BitVec 6) (s : State) :
    noteSample n s = s ∨ noteSample n s = s.onTl (fun t => { t with mirs := tset t.mirs n.toNat { (tget mirrorInit t.mirs n.toNat) with sampled := s.now / subTick + 1 } }) := by
  unfold noteSample
  dsimp only
  split
  · right; simp [State.onTl]
  · left; rfl

/-- A sample returns the post that the mirror holds unless it arrived at this instant and another is under way (12:R211). -/
theorem sampledPost_latest (s : State) (n : BitVec 6)
    (h : (tget mirrorInit s.tl.mirs n.toNat).arrival ≠ timeBase s s.turn s.now ∨ underWay s n.toNat = false) :
    sampledPost s n = (tget mirrorInit s.tl.mirs n.toNat).post := by
  unfold sampledPost
  rcases h with h | h <;> simp [h]

/-- A post that has just been issued arrives later (17:R272). -/
theorem canArrive_later (s : State) (p : Post) (d : PostDst) (h : canArrive s p d = true) : p.at_ < s.now := by
  simp only [canArrive, Bool.and_eq_true, decide_eq_true_eq] at h
  exact h.1.1.2

/-- A line of an operation that has just been issued is performed later (17:R272). -/
theorem canPerform_later (s : State) (o : MemOp) (j : Nat) (h : canPerform s o j = true) : o.at_ < s.now := by
  simp only [canPerform, Bool.and_eq_true, decide_eq_true_eq] at h
  exact h.1.1.1.2

/-- A landing that comes to nothing leaves every register and byte. -/
theorem passLanding_frame (id : Nat) (t : Tile) :
    passLanding id t = { t with jobs := (passLanding id t).jobs, tickets := (passLanding id t).tickets } := rfl

/-- The least of a list and a start is no greater than any of them. -/
theorem foldl_min_le (l : List Nat) (m : Nat) : l.foldl min m ≤ m ∧ ∀ v ∈ l, l.foldl min m ≤ v := by
  induction l generalizing m with
  | nil => simp
  | cons a r ih =>
    obtain ⟨h1, h2⟩ := ih (min m a)
    refine ⟨h1.trans (Nat.min_le_left ..), ?_⟩
    intro v hv
    rcases List.mem_cons.mp hv with rfl | hv
    · exact h1.trans (Nat.min_le_right ..)
    · exact h2 v hv

end Sys2Proof.Machine
end

