-- ==== Sys2Proof/Laws/Vector.lean ====
section
/-! SUPPORT. What each shared operation of the vector instructions answers at a quiet slot (07:R141-R160), lanes, folds over the
enabled lanes, and the compares. -/

namespace Sys2Proof.Machine

/-! ### Issues that send one result or add uses -/

/-- An issue that sends one result, whatever the guard: destination and value are those of the registers at the issue. -/
theorem send_runs (p : Plan) (len l unit : Nat) (D : Tile → Dest) (V : Tile → VReg) (s : State) (hq : quiet s = true)
    (hp : p.clear s) (hn : p.isPeriod = false) (hu : ∀ u, p.unit = some u → unitFree s u = true)
    (hD : D (holdUnit p.unit p.occ s.tl) = D s.tl) (hV : V (holdUnit p.unit p.occ s.tl) = V s.tl) :
    ∃ t, issue p len (fun s => s.onTl (fun t => writeL l unit (D t) (V t) t)) s = .next t
      ∧ Sends s t l unit (D s.tl) (V s.tl) ∧ ∀ u, p.unit = some u → tget 0 t.tl.units u = s.tl.abs + p.occ := by
  refine ⟨_, issue_runs p len (writeL l unit (D s.tl) (V s.tl)) _ s hq hp hn hu ?_, sends_of s _ _ _ _ _ _ _ _, ?_⟩
  · rw [onTl_onTl]; simp only [State.onTl]; rw [hD, hV]
  · intro u h
    rw [tl_onTl, endIssue_units, h]
    simp [writeL, holdUnit]

/-- A lane-wise instruction at a quiet slot: the enabled lanes' values in flight, its unit held. -/
theorem lanewise_runs (unit l occ : Nat) (g : Guard) (d : BitVec 5) (f : Tile → Nat → W32) (s : State)
    (hq : quiet s = true) (hu : unitFree s unit = true) (hf : f (holdUnit (some unit) occ s.tl) = f s.tl) :
    ∃ t, lanewise unit l occ g d f s = .next t
      ∧ Sends s t l unit (.v d (effGuard s.tl g)) (ofLanes (f s.tl)) ∧ tget 0 t.tl.units unit = s.tl.abs + occ := by
  obtain ⟨t, h1, h2, h3⟩ := send_runs { unit := some unit, occ := occ } 12 l unit (fun t => .v d (effGuard t g))
    (fun t => ofLanes (f t)) s hq (clear_unit _ _ s) rfl (by simpa using hu) (by simp) (by simp only [hf])
  exact ⟨t, h1, h2, h3 unit rfl⟩

/-- VALU's two-source form. -/
theorem valu_runs (g : Guard) (d a b : BitVec 5) (f : W32 → W32 → W32) (s : State) (hq : quiet s = true)
    (hu : unitFree s 5 = true) : ∃ t, valu g d a b f s = .next t
      ∧ Sends s t 2 5 (.v d (effGuard s.tl g)) (ofLanes (fun i => f (lane (rv s.tl a) i) (lane (rv s.tl b) i))) := by
  obtain ⟨t, h1, h2, _⟩ := lanewise_runs 5 2 1 g d (fun t i => f (vl t a i) (vl t b i)) s hq hu (by simp only [vl, holdUnit_rv])
  exact ⟨t, h1, h2⟩

/-- A reduction at a quiet slot: x[D] in flight, whatever the guard. -/
theorem vred_runs (d : BitVec 5) (l occ : Nat) (f : Tile → X) (s : State) (hq : quiet s = true) (hu : unitFree s 7 = true)
    (hf : f (holdUnit (some 7) occ s.tl) = f s.tl) : ∃ t, vred d l occ f s = .next t
      ∧ Sends s t l 7 (.x d) (val64 (f s.tl)) ∧ tget 0 t.tl.units 7 = s.tl.abs + occ := by
  obtain ⟨t, h1, h2, h3⟩ := send_runs { unit := some 7, occ := occ } 12 l 7 (fun _ => .x d)
    (fun t => val64 (f t)) s hq (clear_unit _ _ s) rfl (by simpa using hu) rfl (by simp only [hf])
  exact ⟨t, h1, h2, h3 7 rfl⟩

/-- A scan at a quiet slot. -/
theorem vscan_runs (ty : LaneTy) (g : Guard) (d a : BitVec 5) (f : List (Option W32) → List W32) (s : State) (hq : quiet s = true)
    (hu : unitFree s 7 = true) : ∃ t, vscan ty g d a f s = .next t
      ∧ Sends s t 8 7 (.v d (effGuard s.tl g))
          (ofLanes (fun i => canonLane ty ((f (laneOpts (effGuard s.tl g) (rv s.tl a))).getD i 0))) := by
  obtain ⟨t, h1, h2, _⟩ := send_runs { unit := some 7 } 12 8 7 (fun t => .v d (effGuard t g))
    (fun t => ofLanes (fun i => canonLane ty ((f (laneOpts (effGuard t g) (rv t a))).getD i 0))) s hq (clear_unit _ _ s) rfl
    (by simpa using hu) (by simp) (by simp)
  exact ⟨t, h1, h2⟩

/-! ### Lanes -/

theorem lanesNat_lt (f : Nat → W32) (n : Nat) : lanesNat f n < 2 ^ (32 * n) := by
  induction n with
  | zero => simp [lanesNat]
  | succ n ih =>
    have h := (f n).isLt
    have : (f n).toNat * 2 ^ (32 * n) ≤ (2 ^ 32 - 1) * 2 ^ (32 * n) := Nat.mul_le_mul_right _ (by omega)
    simp only [lanesNat, Nat.mul_add, Nat.mul_one, Nat.pow_add]
    rw [Nat.sub_mul] at this
    omega

theorem lanesNat_digit (f : Nat → W32) (n i : Nat) (h : i < n) :
    lanesNat f n / 2 ^ (32 * i) % 2 ^ 32 = (f i).toNat := by
  induction n with
  | zero => omega
  | succ n ih =>
    by_cases hi : i < n
    · rw [← ih hi]
      have : (f n).toNat * 2 ^ (32 * n) = 2 ^ (32 * i) * (2 ^ 32 * ((f n).toNat * 2 ^ (32 * (n - i - 1)))) := by
        rw [show 32 * n = 32 * i + (32 + 32 * (n - i - 1)) by omega, Nat.pow_add, Nat.pow_add]
        ac_rfl
      simp only [lanesNat]
      rw [this, Nat.add_mul_div_left _ _ (Nat.two_pow_pos _), Nat.add_mul_mod_self_left]
    · have hin : i = n := by omega
      subst hin
      simp only [lanesNat]
      rw [Nat.add_mul_div_right _ _ (Nat.two_pow_pos _), Nat.div_eq_of_lt (lanesNat_lt f i), Nat.zero_add,
        Nat.mod_eq_of_lt (f i).isLt]

/-- Lane i of a register built from lanes (07:R137). -/
theorem lane_ofLanes (f : Nat → W32) (i : Nat) (h : i < 64) : lane (ofLanes f) i = f i := by
  have hb := lanesNat_lt f 64
  apply BitVec.eq_of_toNat_eq
  rw [lane, BitVec.extractLsb'_toNat, ofLanes, BitVec.toNat_ofNat, Nat.mod_eq_of_lt hb, Nat.shiftRight_eq_div_pow]
  exact lanesNat_digit f 64 i h

/-! ### Folds over the enabled lanes -/

/-- The values of a list of lanes that are there. -/
theorem laneOpts_some (m : X) (v : VReg) : (laneOpts m v).reduceOption = enabledLanes m v := by
  unfold laneOpts enabledLanes
  generalize List.range 64 = l
  induction l with
  | nil => rfl
  | cons a l ih =>
    rw [List.map_cons, List.filter_cons]
    by_cases h : m.getLsbD a = true
    · rw [if_pos h, if_pos h, List.reduceOption_cons_of_some, ih]; rfl
    · rw [if_neg h, if_neg h, List.reduceOption_cons_of_none, ih]

/-- One level of the tree joins neighbours and loses nothing. -/
theorem pairUp_fold {α : Type} (op : α → α → α) (ha : ∀ a b c, op (op a b) c = op a (op b c)) (e : α)
    (l : List (Option α)) :
    ((pairUp op l).reduceOption).foldl op e = (l.reduceOption).foldl op e := by
  have key : ∀ (l : List (Option α)) (x : α), ((pairUp op l).reduceOption).foldl op x = (l.reduceOption).foldl op x := by
    intro l
    induction l using pairUp.induct with
    | case1 a b r ih =>
      intro x
      simp only [pairUp, List.reduceOption_cons_of_some, List.foldl_cons, ih, ha]
    | case2 a r ih =>
      intro x
      simp only [pairUp, List.reduceOption_cons_of_some, List.reduceOption_cons_of_none, List.foldl_cons, ih]
    | case3 b r ih =>
      intro x
      cases b <;> simp only [pairUp, List.reduceOption_cons_of_some, List.reduceOption_cons_of_none, List.foldl_cons, ih]
    | case4 a => intro x; simp only [pairUp]
    | case5 => intro x; simp only [pairUp]
  exact key l e

theorem pairUp_length {α : Type} (op : α → α → α) (l : List (Option α)) : (pairUp op l).length = (l.length + 1) / 2 := by
  induction l using pairUp.induct with
  | case1 a b r ih => simp only [pairUp, List.length_cons, ih]; omega
  | case2 a r ih => simp only [pairUp, List.length_cons, ih]; omega
  | case3 b r ih => simp only [pairUp, List.length_cons, ih]; omega
  | case4 a => simp [pairUp]
  | case5 => simp [pairUp]

/-- A tree over 64 lanes with an associative operation and its neutral element is the fold in rising order. -/
theorem redTree_fold {α : Type} (op : α → α → α) (ha : ∀ a b c, op (op a b) c = op a (op b c)) (e : α)
    (he : ∀ a, op e a = a) (l : List (Option α)) (hl : l.length = 64) :
    (redTree op l).getD e = (l.reduceOption).foldl op e := by
  have hf := pairUp_fold op ha e
  unfold redTree
  rw [← hf l, ← hf (pairUp op l), ← hf (pairUp op (pairUp op l)), ← hf (pairUp op (pairUp op (pairUp op l))),
    ← hf (pairUp op (pairUp op (pairUp op (pairUp op l)))),
    ← hf (pairUp op (pairUp op (pairUp op (pairUp op (pairUp op l)))))]
  generalize hr : pairUp op (pairUp op (pairUp op (pairUp op (pairUp op (pairUp op l))))) = r
  have : r.length = 1 := by subst hr; simp [pairUp_length, hl]
  match r, this with
  | [none], _ => rfl
  | [some a], _ => simp [List.reduceOption, he]

/-- There are 64 lanes. -/
theorem laneOpts_length (m : X) (v : VReg) : (laneOpts m v).length = 64 := by simp [laneOpts]

/-! ### Compares -/

theorem laneBits_lt (f : Nat → Bool) (n : Nat) : laneBits f n < 2 ^ n := by
  induction n with
  | zero => simp [laneBits]
  | succ n ih => simp only [laneBits, Nat.pow_succ]; split <;> omega

theorem laneBits_testBit (f : Nat → Bool) (n i : Nat) (h : i < n) : (laneBits f n).testBit i = f i := by
  induction n with
  | zero => omega
  | succ n ih =>
    have hlt := laneBits_lt f n
    by_cases hi : i < n
    · simp only [laneBits]
      split
      · rw [Nat.add_comm, Nat.testBit_two_pow_add_gt hi, ih hi]
      · simpa using ih hi
    · have hin : i = n := by omega
      subst hin
      simp only [laneBits]
      split
      · rename_i hfi
        rw [Nat.add_comm, Nat.testBit_two_pow_add_eq, Nat.testBit_lt_two_pow hlt, hfi]; rfl
      · rename_i hfi
        rw [Nat.add_zero, Nat.testBit_lt_two_pow hlt]; simpa using hfi

/-- VCMP at a quiet slot. -/
theorem vcmp_runs (g : Guard) (gd : BitVec 3) (a b : BitVec 5) (f : W32 → W32 → Bool) (s : State) (hq : quiet s = true)
    (hu : unitFree s 5 = true) : ∃ t, vcmp g gd a b f s = .next t ∧ ∃ v : VReg,
      Sends s t 2 5 (.g gd (effGuard s.tl g)) v
        ∧ ∀ i, i < 64 → v.getLsbD i = f (lane (rv s.tl a) i) (lane (rv s.tl b) i) := by
  obtain ⟨t, h1, h2, _⟩ := send_runs { unit := some 5 } 12 2 5 (fun t => .g gd (effGuard t g))
    (fun t => BitVec.ofNat 2048 (laneBits (fun i => f (vl t a i) (vl t b i)) 64)) s hq (clear_unit _ _ s) rfl
    (by simpa using hu) (by simp) (by simp [vl])
  refine ⟨t, h1, _, h2, fun i hi => ?_⟩
  rw [BitVec.getLsbD_ofNat, decide_eq_true (by omega : i < 2048), Bool.true_and, laneBits_testBit _ _ _ hi]
  rfl

end Sys2Proof.Machine
end

