-- ==== Sys2Proof/Tests/Slice0.lean ====
section
/-! SUPPORT. The model's own tests: words of every family written out from 02:R38-R45, a witness for the hypotheses of every statement,
a smoke test of WellFormed, and single steps whose values the manual gives. -/

open Sys2Proof Sys2Proof.Machine

namespace Sys2Proof.Tests

-- one test after another: tests that wait for one that Lean's kernel evaluates long would each hold a thread's stack
set_option Elab.async false

/-! ### A small machine -/

/-- (!g2), the guard of the words below. -/
def gN : Guard := ⟨true, 2⟩
/-- No guard: enabled. -/
def g0 : Guard := ⟨false, 0⟩
/-- (!g0): nullified. -/
def gX : Guard := ⟨true, 0⟩

/-- Tile 0 runs cycle 5 of a period of 4,096 cycles; x[1] to x[4] and v[1] are given. -/
def tile (x1 x2 x3 x4 : X) (v1 : VReg) : Tile :=
  { tileInit with
    phase := .run, state := 2, perlen := 4096, perlenNext := 4096, cyc := 5, abs := 5, order := 5
    bind := { bindInit with ctx := 1, memquota := 100 }
    regs := { regsInit with x := ((((regsInit.x.set 1 x1).set 2 x2).set 3 x3).set 4 x4), v := regsInit.v.set 1 v1 } }

/-- The package with that tile's turn. -/
def mach (t : Tile) : State := { State.reset with tiles := [(0, t)] }

/-- Its usual contents. -/
def t0 : Tile := tile 7 3 0 0 0
def s0 : State := mach t0

/-- What a step's outcome holds, if it is a next state. -/
def after {α : Type} (o : Host.Outcome State Fault Refusal) (f : State → α) : Option α :=
  match o with
  | .next t => some (f t)
  | _ => none

/-! ### Words written out bit by bit -/

/-- 05:R90, ALU. -/
def words_alu : List (List W32 × Instr) :=
  [([0x01CC5A00], .add gN 5 6 7),
      ([0x09CC5A00], .sub gN 5 6 7),
      ([0x11CC5A00], .and gN 5 6 7),
      ([0x19CC5A00], .or gN 5 6 7),
      ([0x21CC5A00], .xor gN 5 6 7),
      ([0x29CC5A00], .andn gN 5 6 7),
      ([0x31CC5A00], .shl gN 5 6 7),
      ([0x39CC5A00], .shr gN 5 6 7),
      ([0x41CC5A00], .sar gN 5 6 7),
      ([0x49CC5A00], .rol gN 5 6 7),
      ([0x51CC5A00], .min gN 5 6 7),
      ([0x59CC5A00], .max gN 5 6 7),
      ([0x61CC5A00], .minn gN 5 6 7),
      ([0x69CC5A00], .maxn gN 5 6 7),
      ([0x71CC5A00], .slt gN 5 6 7),
      ([0x79CC5A00], .sltn gN 5 6 7),
      ([0x81CC5A00], .seq gN 5 6 7),
      ([0x880C5A00], .clz gN 5 6),
      ([0x900C5A00], .popc gN 5 6),
      ([0x99CC5A00], .sel gN 5 6 7)]

theorem test_words_alu : words_alu.map (fun e => decodeWords false e.1) = words_alu.map (fun e => .ok e.2)
    ∧ words_alu.map (fun e => encode e.2) = words_alu.map (fun e => e.1) := by decide +kernel

/-- 05:R91-R93, immediates and MULDIV. -/
def words_immediate_and_muldiv : List (List W32 × Instr) :=
  [([0xFF4C5A04], .addi gN 5 6 0x3FD),
      ([0x000C5A05, 0x9ABCDEF0, 0x12345678], .addiLit gN 5 6 0x123456789ABCDEF0),
      ([0x19009A08], .li gN 9 100),
      ([0x00009A09, 0x9ABCDEF0, 0x12345678], .liLit gN 9 0x123456789ABCDEF0),
      ([0x0FCC5A0C], .shli gN 5 6 63),
      ([0x4FCC5A0C], .shri gN 5 6 63),
      ([0x8FCC5A0C], .sari gN 5 6 63),
      ([0xCFCC5A0C], .roli gN 5 6 63),
      ([0x01CC5A10], .mul gN 5 6 7),
      ([0x09CC5A10], .mulh gN 5 6 7),
      ([0x11CC5A10], .mulhn gN 5 6 7),
      ([0x19CC5A10], .div gN 5 6 7),
      ([0x21CC5A10], .divn gN 5 6 7),
      ([0x29CC5A10], .rem gN 5 6 7),
      ([0x31CC5A10], .remn gN 5 6 7)]

theorem test_words_immediate_and_muldiv : words_immediate_and_muldiv.map (fun e => decodeWords false e.1) = words_immediate_and_muldiv.map (fun e => .ok e.2)
    ∧ words_immediate_and_muldiv.map (fun e => encode e.2) = words_immediate_and_muldiv.map (fun e => e.1) := by decide +kernel

/-- 05:R94, R95, GCMP and GLOG. -/
def words_guards : List (List W32 × Instr) :=
  [([0x01CC3A14], .geq gN 3 6 7),
      ([0x09CC3A14], .gne gN 3 6 7),
      ([0x11CC3A14], .glt gN 3 6 7),
      ([0x19CC3A14], .gle gN 3 6 7),
      ([0x21CC3A14], .gltn gN 3 6 7),
      ([0x29CC3A14], .glen gN 3 6 7),
      ([0x01CC3A18], .gand gN 3 6 7),
      ([0x09CC3A18], .gor gN 3 6 7),
      ([0x11CC3A18], .gxor gN 3 6 7),
      ([0x180C3A18], .gnot gN 3 6),
      ([0x200C3A18], .gmov gN 3 6),
      ([0x28003A19, 0x9ABCDEF0, 0x12345678], .gseti gN 3 0x123456789ABCDEF0)]

theorem test_words_guards : words_guards.map (fun e => decodeWords false e.1) = words_guards.map (fun e => .ok e.2)
    ∧ words_guards.map (fun e => encode e.2) = words_guards.map (fun e => e.1) := by decide +kernel

/-- 05:R96-R99, LD, ST and ATOM. -/
def words_load_store_atom : List (List W32 × Instr) :=
  [([0x80885A1C], .ld gN .i32 5 4 64),
      ([0x01C85A1D, 0x9ABCDEF0, 0x12345678], .ldLit gN .n64 5 4 0x123456789ABCDEF0),
      ([0x7EC69A20], .st gN .i64 9 3 63),
      ([0x01069A21, 0x9ABCDEF0, 0x12345678], .stLit gN .n8 9 3 0x123456789ABCDEF0),
      ([0x02889ADC], .atomAdd gN .i32 9 4 10),
      ([0x2A889ADC], .atomMin gN .i64 9 4 10),
      ([0x52889ADC], .atomMax gN .n32 9 4 10),
      ([0x7A889ADC], .atomXchg gN .n64 9 4 10),
      ([0x82889ADC], .atomCmpxchg gN .i32 9 4 10)]

theorem test_words_load_store_atom : words_load_store_atom.map (fun e => decodeWords false e.1) = words_load_store_atom.map (fun e => .ok e.2)
    ∧ words_load_store_atom.map (fun e => encode e.2) = words_load_store_atom.map (fun e => e.1) := by decide +kernel

/-- 05:R101-R116, flow, time, system registers, TRAP, ERET, HALT. -/
def words_flow_time_system : List (List W32 × Instr) :=
  [([0xFE001A24], .pbr gN 1 0x3F8),
      ([0x00001A25, 0x9ABCDEF0, 0x12345678], .pbrLit gN 1 0x123456789ABCDEF0),
      ([0x00023A24], .br gN 3),
      ([0x00042A24], .call gN 2),
      ([0x0007FA24], .ret gN 31),
      ([0xFFC85A24], .loop gN 5 1023),
      ([0x00000028], .period),
      ([0x00025028], .resync 5),
      ([0x00045028], .resyncT 5),
      ([0xFFC60A28], .nopn gN 1023),
      ([0x00086A28], .slot gN 6),
      ([0x000A7A28], .tbase gN 7),
      ([0x00405A2C], .sysr gN 5 0x010),
      ([0x01825A2C], .sysw gN 5 0x060),
      ([0x04400A30], .trap gN 17),
      ([0x00020030], .eret),
      ([0x00040A30], .halt gN)]

theorem test_words_flow_time_system : words_flow_time_system.map (fun e => decodeWords false e.1) = words_flow_time_system.map (fun e => .ok e.2)
    ∧ words_flow_time_system.map (fun e => encode e.2) = words_flow_time_system.map (fun e => e.1) := by decide +kernel

/-- 07:R141, VALU. -/
def words_valu : List (List W32 × Instr) :=
  [([0x00C41A42, 0x02000842, 0x00000000], .vadd gN .i32 true 1 2 3),
      ([0x08C41A42, 0x020018C6, 0x00000000], .vsub gN .n32 true 1 2 3),
      ([0x10C41A42, 0x00000842, 0x00000000], .vand gN .i32 1 2 3),
      ([0x18C41A42, 0x000018C6, 0x00000000], .vor gN .n32 1 2 3),
      ([0x20C41A42, 0x00000842, 0x00000000], .vxor gN .i32 1 2 3),
      ([0x28C41A42, 0x000018C6, 0x00000000], .vandn gN .n32 1 2 3),
      ([0x30C41A42, 0x00000842, 0x00000000], .vshl gN .i32 1 2 3),
      ([0x38C41A42, 0x000018C6, 0x00000000], .vshr gN .n32 1 2 3),
      ([0x40C41A42, 0x00000842, 0x00000000], .vsar gN .i32 1 2 3),
      ([0x48C41A42, 0x000018C6, 0x00000000], .vmin gN .n32 1 2 3),
      ([0x50C41A42, 0x00000842, 0x00000000], .vmax gN .i32 1 2 3),
      ([0x58C41A42, 0x020018C6, 0x00000000], .vmul gN .n32 true 1 2 3),
      ([0x60C41A42, 0x00000842, 0x00000000], .vmulh gN .i32 1 2 3),
      ([0x68041A42, 0x020018C6, 0x00000000], .vabs gN .n32 true 1 2),
      ([0x70041A42, 0x02000842, 0x00000000], .vneg gN .i32 true 1 2)]

theorem test_words_valu : words_valu.map (fun e => decodeWords false e.1) = words_valu.map (fun e => .ok e.2)
    ∧ words_valu.map (fun e => encode e.2) = words_valu.map (fun e => e.1) := by decide +kernel

/-- 07:R142-R145, VFPU and VCMP. -/
def words_vfpu_and_compares : List (List W32 × Instr) :=
  [([0x00C41A46, 0x00002108, 0x00000000], .vfadd gN 1 2 3),
      ([0x08C41A46, 0x00002108, 0x00000000], .vfsub gN 1 2 3),
      ([0x10C41A46, 0x00002108, 0x00000000], .vfmul gN 1 2 3),
      ([0x18C41A46, 0x00022108, 0x00000000], .vfma gN 1 2 3 4),
      ([0x20C41A46, 0x00002108, 0x00000000], .vfmin gN 1 2 3),
      ([0x28C41A46, 0x00002108, 0x00000000], .vfmax gN 1 2 3),
      ([0x30041A46, 0x00002108, 0x00000000], .vfabs gN 1 2),
      ([0x38041A46, 0x00002108, 0x00000000], .vfneg gN 1 2),
      ([0x40C41A46, 0x00002108, 0x00000000], .vfdiv gN 1 2 3),
      ([0x48041A46, 0x00002108, 0x00000000], .vfsqrt gN 1 2),
      ([0x50041A46, 0x00002108, 0x00000000], .vfexp2 gN 1 2),
      ([0x58041A46, 0x00002108, 0x00000000], .vflog2 gN 1 2),
      ([0x00820A4A, 0x00302108, 0x00000000], .vcmpEq gN .f32 3 1 2),
      ([0x08820A4A, 0x00300842, 0x00000000], .vcmpNe gN .i32 3 1 2),
      ([0x10820A4A, 0x003018C6, 0x00000000], .vcmpLt gN .n32 3 1 2),
      ([0x18820A4A, 0x00302108, 0x00000000], .vcmpLe gN .f32 3 1 2)]

theorem test_words_vfpu_and_compares : words_vfpu_and_compares.map (fun e => decodeWords false e.1) = words_vfpu_and_compares.map (fun e => .ok e.2)
    ∧ words_vfpu_and_compares.map (fun e => encode e.2) = words_vfpu_and_compares.map (fun e => e.1) := by decide +kernel

/-- 07:R146-R148, R153, moves, conversions and permutes. -/
def words_moves_and_conversions : List (List W32 × Instr) :=
  [([0x00C41A4E, 0x00000000, 0x00000000], .vsel gN 1 2 3),
      ([0x08041A4E, 0x00000000, 0x00000000], .vmov gN 1 2),
      ([0x10041A4E, 0x00000000, 0x00000000], .vbcast gN 1 2),
      ([0x10001A4F, 0x00000000, 0x00000000, 0x9ABCDEF0, 0x12345678], .vbcastLit gN 1 0x123456789ABCDEF0),
      ([0x18041A4E, 0x00000000, 0x0000003F], .vlaneget gN 1 2 63),
      ([0x20041A4E, 0x00000000, 0x0000003F], .vlaneset gN 1 2 63),
      ([0x000E6A52, 0x0080210A, 0x00000000], .vcvt gN .bf16 .f32 .tz 6 7),
      ([0x000E6A52, 0x018035A0, 0x00000000], .vcvt gN .i8 .e2m1 .up 6 7),
      ([0x000E6A56, 0x0000210F, 0x00000000], .vpackse gN .se4 6 7),
      ([0x080E6A56, 0x00004208, 0x00000000], .vunpackse gN .se7 6 7),
      ([0x01062A62, 0x00000000, 0x00000000], .vperm gN 2 3 4),
      ([0x08062A62, 0x00000000, 0x00000005], .vrot gN 2 3 5)]

theorem test_words_moves_and_conversions : words_moves_and_conversions.map (fun e => decodeWords false e.1) = words_moves_and_conversions.map (fun e => .ok e.2)
    ∧ words_moves_and_conversions.map (fun e => encode e.2) = words_moves_and_conversions.map (fun e => e.1) := by decide +kernel

/-- 07:R149-R152, VRED and VSCAN. -/
def words_reductions_and_scans : List (List W32 × Instr) :=
  [([0x00089A5A, 0x02000842, 0x00000000], .vredSum gN .i32 true 9 4),
      ([0x08089A5A, 0x000018C6, 0x00000000], .vredMin gN .n32 9 4),
      ([0x10089A5A, 0x00002108, 0x00000000], .vredMax gN .f32 9 4),
      ([0x18089A5A, 0x00002108, 0x00000000], .vredArgmax gN .f32 9 4),
      ([0x20089A5A, 0x00000842, 0x00000000], .vredArgmin gN .i32 9 4),
      ([0x28089A5A, 0x000018C6, 0x00000000], .vredAnd gN 9 4),
      ([0x30089A5A, 0x000018C6, 0x00000000], .vredOr gN 9 4),
      ([0x38089A5A, 0x000018C6, 0x00000000], .vredXor gN 9 4),
      ([0x40089A5A, 0x00002108, 0x00000000], .vredXsum gN 9 4),
      ([0x00089A5E, 0x020018C6, 0x00000000], .vscanSum gN .n32 true 9 4),
      ([0x08089A5E, 0x00002108, 0x00000000], .vscanMin gN .f32 9 4),
      ([0x10089A5E, 0x00000842, 0x00000000], .vscanMax gN .i32 9 4)]

theorem test_words_reductions_and_scans : words_reductions_and_scans.map (fun e => decodeWords false e.1) = words_reductions_and_scans.map (fun e => .ok e.2)
    ∧ words_reductions_and_scans.map (fun e => encode e.2) = words_reductions_and_scans.map (fun e => e.1) := by decide +kernel

/-- 07:R154-R161, vector memory, masks, PHILOX and SAMPLE. -/
def words_vector_memory_and_random : List (List W32 × Instr) :=
  [([0x00085A66, 0x0000294A, 0xFFFFFE00], .vld gN .bf16 5 4 0xFFFFFE00),
      ([0x08085A66, 0x000039CE, 0x00000200], .vst gN .se2 5 4 0x200),
      ([0x01885A6A, 0x00000000, 0x00000000], .vgather gN .i8 5 4 6),
      ([0x09885A6A, 0x00002108, 0x00000000], .vscatter gN .f32 5 4 6),
      ([0x01483A6E, 0x00030842, 0x00000000], .vatomAdd gN .i32 3 4 5 6),
      ([0x09483A6E, 0x000318C6, 0x00000000], .vatomMin gN .n32 3 4 5 6),
      ([0x11483A6E, 0x00030842, 0x00000000], .vatomMax gN .i32 3 4 5 6),
      ([0x19483A6E, 0x000318C6, 0x00000000], .vatomXchg gN .n32 3 4 5 6),
      ([0x00128A72, 0x08000000, 0x00000000], .philox gN 8 9 2),
      ([0x0148AA76, 0x00130000, 0x00040000], .sample gN 10 1 4 5 6 262144),
      ([0x00080A7A, 0x00200000, 0x00000008], .vmaskLd gN 2 4 8),
      ([0x08C80A7A, 0x00000000, 0x00000008], .vmaskSt gN 4 3 8),
      ([0x10C09A7A, 0x00000000, 0x00000000], .vmaskCnt gN 9 3),
      ([0x18C09A7A, 0x00000000, 0x00000000], .vmaskFirst gN 9 3)]

theorem test_words_vector_memory_and_random : words_vector_memory_and_random.map (fun e => decodeWords false e.1) = words_vector_memory_and_random.map (fun e => .ok e.2)
    ∧ words_vector_memory_and_random.map (fun e => encode e.2) = words_vector_memory_and_random.map (fun e => e.1) := by decide +kernel

/-- 09:R189-R200 and 13:R225-R228, the array and the fabric. -/
def words_matrix_and_sampling : List (List W32 × Instr) :=
  [([0x02400A80], .ashape gN 9),
      ([0x01880A86, 0x0001FC00, 0x001FFFFF], .wfill gN 4 6 127 0x1FFFFF),
      ([0x01887A8A, 0x0000000F, 0x00000200], .wload gN .se4 7 4 6 0x200),
      ([0x00080A8E, 0x00000000, 0x00000100], .ctab gN 4 0x100),
      ([0x00082A92, 0x24007C0A, 0x00000800], .mma gN .bf16 true false 2 4 64 31 0x800),
      ([0x00087A92, 0x14007C00, 0x00000800], .mma gN .i8 false true 7 4 64 31 0x800),
      ([0x000A0A96, 0x0FF00D40, 0x00000040], .accrd gN .bf16 5 255 3 64),
      ([0x080A0A96, 0x00100C08, 0x00000040], .accwr gN .f32 5 1 3 64),
      ([0x10000A96, 0x0200FC00, 0x00000000], .accz gN 32 63),
      ([0x00120A9A, 0x0013FC00, 0x00000040], .accsave gN 9 1 255 64),
      ([0x08120A9A, 0x0003FC00, 0x00000000], .accrest gN 9 0 255 0),
      ([0x67C03AA0], .post gN .package 31 3),
      ([0x90120AA0], .postScratch gN .system 0 9),
      ([0x0FC01AA4], .peek gN 1 63),
      ([0x0F005AA8], .seqMirror gN 5 60),
      ([0x10406AA8], .age gN 6 1),
      ([0x1F804AAC], .mquery gN 4 62)]

theorem test_words_matrix_and_sampling : words_matrix_and_sampling.map (fun e => decodeWords false e.1) = words_matrix_and_sampling.map (fun e => .ok e.2)
    ∧ words_matrix_and_sampling.map (fun e => encode e.2) = words_matrix_and_sampling.map (fun e => e.1) := by decide +kernel

/-- 16:R258-R264, copies, FENCE and MATOM. -/
def words_copies_fences_matom : List (List W32 × Instr) :=
  [([0x01489AB2, 0x00000400, 0x00000B68], .cpy gN 9 4 5 0x400 0xB68),
      ([0x01409AB3, 0x00000040, 0x000007D1, 0x9ABCDEF0, 0x12345678], .cpyLit gN 9 0x123456789ABCDEF0 5 0x40 0x7D1),
      ([0x01CCAAB6, 0x00000200, 0x00000000], .cpyw gN 10 6 7 0x200),
      ([0x01C0AAB7, 0x00000200, 0x00000000, 0x9ABCDEF0, 0x12345678], .cpywLit gN 10 0x123456789ABCDEF0 7 0x200),
      ([0x00000ABA, 0x00624504, 0x00000000], .fence gN .package 0x122 0x104),
      ([0x0208BABE, 0x02000000, 0x000007D1], .matomAdd gN .i32 11 4 8 0x7D1),
      ([0x0A08BABE, 0x03000000, 0x000007D1], .matomMin gN .i64 11 4 8 0x7D1),
      ([0x1208BABE, 0x06000000, 0x000007D1], .matomMax gN .n32 11 4 8 0x7D1),
      ([0x1A08BABE, 0x07000000, 0x000007D1], .matomXchg gN .n64 11 4 8 0x7D1),
      ([0x2208BABE, 0x02000000, 0x000007D1], .matomCmpxchg gN .i32 11 4 8 0x7D1),
      ([0x2A08BABE, 0x03000000, 0x000007D1], .matomAnd gN .i64 11 4 8 0x7D1),
      ([0x3208BABE, 0x06000000, 0x000007D1], .matomOr gN .n32 11 4 8 0x7D1),
      ([0x3A08BABE, 0x07000000, 0x000007D1], .matomXor gN .n64 11 4 8 0x7D1)]

theorem test_words_copies_fences_matom : words_copies_fences_matom.map (fun e => decodeWords false e.1) = words_copies_fences_matom.map (fun e => .ok e.2)
    ∧ words_copies_fences_matom.map (fun e => encode e.2) = words_copies_fences_matom.map (fun e => e.1) := by decide +kernel

/-- 16:R260-R263, literal MATOM, XACC, XFIN and XCLR. -/
def words_atomics_and_exact_cells : List (List W32 × Instr) :=
  [([0x0200BABF, 0x02000000, 0x000007D1, 0x9ABCDEF0, 0x12345678], .matomAddLit gN .i32 11 0x123456789ABCDEF0 8 0x7D1),
      ([0x0A00BABF, 0x03000000, 0x000007D1, 0x9ABCDEF0, 0x12345678], .matomMinLit gN .i64 11 0x123456789ABCDEF0 8 0x7D1),
      ([0x1200BABF, 0x06000000, 0x000007D1, 0x9ABCDEF0, 0x12345678], .matomMaxLit gN .n32 11 0x123456789ABCDEF0 8 0x7D1),
      ([0x1A00BABF, 0x07000000, 0x000007D1, 0x9ABCDEF0, 0x12345678], .matomXchgLit gN .n64 11 0x123456789ABCDEF0 8 0x7D1),
      ([0x2200BABF, 0x02000000, 0x000007D1, 0x9ABCDEF0, 0x12345678], .matomCmpxchgLit gN .i32 11 0x123456789ABCDEF0 8 0x7D1),
      ([0x2A00BABF, 0x03000000, 0x000007D1, 0x9ABCDEF0, 0x12345678], .matomAndLit gN .i64 11 0x123456789ABCDEF0 8 0x7D1),
      ([0x3200BABF, 0x06000000, 0x000007D1, 0x9ABCDEF0, 0x12345678], .matomOrLit gN .n32 11 0x123456789ABCDEF0 8 0x7D1),
      ([0x3A00BABF, 0x07000000, 0x000007D1, 0x9ABCDEF0, 0x12345678], .matomXorLit gN .n64 11 0x123456789ABCDEF0 8 0x7D1),
      ([0x0348CAC2, 0x08000000, 0x00000000], .xacc gN .f32 12 4 13),
      ([0x0340CAC3, 0x0A000000, 0x00000000, 0x9ABCDEF0, 0x12345678], .xaccLit gN .bf16 12 0x123456789ABCDEF0 13),
      ([0x0148CAC6, 0x08000000, 0x000007D1], .xfin gN 12 4 5 0x7D1),
      ([0x0140CAC7, 0x08000000, 0x000007D1, 0x9ABCDEF0, 0x12345678], .xfinLit gN 12 0x123456789ABCDEF0 5 0x7D1),
      ([0x0808CAC6, 0x00000000, 0x00000000], .xclr gN 12 4),
      ([0x0800CAC7, 0x00000000, 0x00000000, 0x9ABCDEF0, 0x12345678], .xclrLit gN 12 0x123456789ABCDEF0)]

theorem test_words_atomics_and_exact_cells : words_atomics_and_exact_cells.map (fun e => decodeWords false e.1) = words_atomics_and_exact_cells.map (fun e => .ok e.2)
    ∧ words_atomics_and_exact_cells.map (fun e => encode e.2) = words_atomics_and_exact_cells.map (fun e => e.1) := by decide +kernel

/-- 16:R267-R270, 21:R309-R311, tag table, tickets and leases. -/
def words_tags_tickets_leases : List (List W32 × Instr) :=
  [([0x000C5AC8], .tlook gN 5 6),
      ([0x09CC0AC8], .tset gN 6 7),
      ([0x100C0AC8], .tclr gN 6),
      ([0x00089ACC], .touch gN 9 4),
      ([0x0812AACC], .landq gN 10 9),
      ([0x00089AD0], .leaseSd gN 9 4),
      ([0x08089AD0], .leaseRv gN 9 4),
      ([0x00089AD4], .renew gN 9 4),
      ([0x08009AD4], .lfree gN 9),
      ([0x000C9AD8], .ecmd gN 9 6)]

theorem test_words_tags_tickets_leases : words_tags_tickets_leases.map (fun e => decodeWords false e.1) = words_tags_tickets_leases.map (fun e => .ok e.2)
    ∧ words_tags_tickets_leases.map (fun e => encode e.2) = words_tags_tickets_leases.map (fun e => e.1) := by decide +kernel

/-- 02:R45, R46, at privileged level. -/
def words_privileged : List (List W32 × Instr) :=
  [([0x000C0AFC], .preempt gN 6),
      ([0x080C0AFC], .kill gN 6),
      ([0x11CC0AFC], .mapset gN 6 7),
      ([0x19CC0AFC], .keysel gN 6 7),
      ([0x01C60AAC], .mbind gN 3 7),
      ([0x20005A2C], .sysr gN 5 0x800)]

theorem test_words_privileged : words_privileged.map (fun e => decodeWords true e.1) = words_privileged.map (fun e => .ok e.2)
    ∧ words_privileged.map (fun e => encode e.2) = words_privileged.map (fun e => e.1) := by decide +kernel

/-! ### What is no well-formed instruction

One term for each check of WellFormed (02:R46, 05:R110, 07:R139, 08:R175, 09:R198). -/

theorem smoke_ill_formed : [Instr.loop g0 1 0, .sysr g0 1 0x003, .sysr g0 1 0x7FF, .sysw g0 1 0x806, .vcvt g0 .i64 .f32 .ne 1 2, .vcvt g0 .f32 .se4 .ne 1 2,
    .vredSum g0 .f32 true 1 2, .vscanSum g0 .f32 true 1 2, .vld g0 .lut4 1 2 0, .vst g0 .e2m1 1 2 0, .vgather g0 .e2m1 1 2 3, .vscatter g0 .se4 1 2 3,
    .wload g0 .f32 1 2 3 0, .wload g0 .e2m1 1 2 3 0, .mma g0 .lut4 false false 0 1 0 0 0, .accrd g0 .lut4 1 0 0 0, .accwr g0 .e2m1 1 0 0 0].map
    Instr.wellFormed = List.replicate 17 false := by decide
theorem smoke_well_formed : [Instr.loop g0 1 1, .sysr g0 1 0x070, .sysw g0 1 0x805, .vcvt g0 .e2m1 .f32 .up 1 2, .vredSum g0 .f32 false 1 2, .vscanSum g0 .i32 true 1 2,
    .vld g0 .se7 1 2 0, .vst g0 .e5m2 1 2 0, .vgather g0 .f16 1 2 3, .vscatter g0 .n8 1 2 3, .wload g0 .lut4 1 2 3 0, .mma g0 .se2 true true 7 1 0 0 0,
    .accrd g0 .f32 1 0 0 0, .accwr g0 .se4 1 0 0 0].all Instr.wellFormed = true := by decide
/-! ### Every statement's hypotheses are met

One theorem a statement, its clauses in order, at boundary values where a clause has a range. -/

/-- What the slot of tile 0 needs for an instruction of some units. -/
def Ready (s : State) (us : List Nat) : Prop := quiet s = true ∧ us.all (unitFree s) = true

theorem witness_DecodeOfEncode : Instr.wellFormed (.loop g0 5 1) = true ∧ Instr.wellFormed (.sysr g0 1 0x805) = true
    ∧ Instr.wellFormed (.vld g0 .se7 1 2 0) = true := by decide

theorem witness_WordsThatAreNoInstruction : (0x000000FB#32).extractLsb' 2 6 ∈ [0x0D#6, 0x0E, 0x0F, 0x1F, 0x27, 0x38, 0x39, 0x3A, 0x3B, 0x3C, 0x3D, 0x3E]
    ∧ quiet s0 = true := by decide

/-- A one-word instruction in the last word of the store, and one of three words there. -/
def atEnd (w : Nat) : Tile := { t0 with pc := 0x1FFFC, imem := mwriteLE [] 0x1FFFC 4 w }
theorem witness_FetchReadsTheBytesAtThePc :
    (atEnd 0).pc.toNat + instrLen (atEnd 0) (atEnd 0).pc.toNat ≤ 0x20000
      ∧ 0x20000 < (atEnd 1).pc.toNat + instrLen (atEnd 1) (atEnd 1).pc.toNat := by decide

/-- Tile 0 due at its slot with a word at its pc. -/
def due (w : Nat) : State := mach { t0 with imem := mwriteLE [] 0 4 w }
theorem witness_StepRunsTheInstructionAtThePc :
    (∀ w ∈ [0x01CC5000, 0x34], let s := due w
      atOnce s = none ∧ recoveryFirst s = false ∧ soonest (entries s) = some { at_ := 0, rank := 5, due := .slot 0 }
        ∧ forceLanding (focus 0 0 s) = none ∧ (focus 0 0 s).tl.phase = .run ∧ (landingSlot (focus 0 0 s)).tl.nopn = none)
    ∧ fetch (landingSlot (focus 0 0 (due 0x01CC5000))).tl false = .ok (.add g0 5 6 7)
    ∧ fetch (landingSlot (focus 0 0 (due 0x34))).tl false = .error { cause := 0x01, word := 0 } := by decide +kernel

/-- For AluResults, CountAndSelectResults, MulDivResults, GuardResults and NullifiedScalars: every unit free, a guard that enables
and one that nullifies; and for MulDivResults a state whose SMUL is held. -/
theorem witness_scalars : Ready s0 [0, 1, 2, 3, 4] ∧ enabled s0.tl g0 = true ∧ enabled s0.tl gX = false := by
  unfold Ready; decide
theorem witness_MulDivResults : quiet (mach { t0 with units := [(1, 9)] }) = true ∧ unitFree (mach { t0 with units := [(1, 9)] }) 1 = false := by
  decide

/-- For the words of MulDivResults, GuardResults and FencesTagsAndTickets: function values that name no instruction, a LEN. -/
theorem witness_words : 7 ≤ (7 : BitVec 5).toNat ∧ 7 ≤ (31 : BitVec 5).toNat ∧ (1 : BitVec 2) ≠ 0 ∧ ((0 : BitVec 2) ≠ 1 ∨ (5 : BitVec 5) ≠ 5) := by
  decide

/-- The last dword of the window is permitted; the last half of it, for a word of eight bytes, and what follows are not. -/
theorem witness_LoadStoreUses : (∀ a ∈ [(0 : X), 0x10FFF8], PermitsAddr a 8) ∧ ∀ a ∈ [(0x10FFFC : X), 0x110000], ¬PermitsAddr a 8 := by
  simp [PermitsAddr]
theorem witness_AtomReserves : PermitsAddr 0x10FFFC 4 ∧ ¬PermitsAddr 0x10FFFE 4 ∧ ¬PermitsAddr 0x110000 4 := by
  unfold PermitsAddr; decide


/-- In a delay slot. -/
def slotted (n : Nat) : State := mach { t0 with redirect := some { slots := n, target := some 64 } }
/-- With active loops, innermost first, whose bodies end at the pc or later. -/
def looping (lefts : List Nat) (last : X) : State :=
  mach { t0 with loops := lefts.map (fun n => { start := 0, last := last, left := n }) }
/-- At pc 64 under one loop. -/
def bodied (start last : X) (left : Nat) : State := mach { t0 with pc := 64, loops := [{ start := start, last := last, left := left }] }
/-- No loop, a body that ends beyond the delay slots, one that ends in either of them, one that ends at the branch. -/
theorem witness_BranchesOpenDelaySlots :
    (∀ s ∈ [s0, bodied 0 76 2, bodied 0 68 1, bodied 0 72 1, bodied 0 64 2], Ready s [3] ∧ s.tl.redirect = none)
    ∧ (let ends := fun (s : State) (a : X) => ∃ l ∈ s.tl.loops, l.last = a
      let second := fun (s : State) (a : X) => a + BitVec.ofNat 64 (instrLen s.tl a.toNat)
      (∀ s ∈ [s0, bodied 0 76 2], ¬ends s s.tl.pc ∧ ¬ends s (s.tl.pc + 4) ∧ ¬ends s (second s (s.tl.pc + 4)))
      ∧ (¬ends (bodied 0 68 1) 64 ∧ ends (bodied 0 68 1) 68) ∧ (¬ends (bodied 0 72 1) 64 ∧ ends (bodied 0 72 1) (second (bodied 0 72 1) 68))
      ∧ ((bodied 0 64 2).tl.loops = [{ start := 0, last := 64, left := 2 }] ∧ ¬ends (bodied 0 64 2) 0 ∧ ¬ends (bodied 0 64 2) (second (bodied 0 64 2) 0)))
    ∧ ¬BadTarget 0x1FFFC ∧ BadTarget 0x1FFFE ∧ BadTarget 0x20000 := by
  unfold BadTarget Ready; decide
theorem witness_DelaySlotsThenTarget :
    (∀ s ∈ [s0, bodied 0 68 1, slotted 2, slotted 1], Ready s [0] ∧ ∀ l ∈ s.tl.loops, l.last ≠ s.tl.pc)
    ∧ (slotted 1).tl.redirect.isSome = true := by unfold Ready; decide
theorem witness_LoopStarts : (∀ e ∈ [(s0, (1023 : BitVec 10)), (bodied 64 68 1, 1)], Ready e.1 [3] ∧ e.1.tl.redirect = none ∧ e.1.tl.loops.length < 4
      ∧ e.1.tl.pc.toNat + 4 * e.2.toNat < 0x20000
      ∧ ∀ l ∈ e.1.tl.loops, l.last ≠ e.1.tl.pc ∧ (e.1.tl.pc + 4 * e.2.setWidth 64).toNat ≤ l.last.toNat)
    ∧ (4 ≤ (looping [2, 2, 2, 2] 0).tl.loops.length ∧ Ready (looping [2, 2, 2, 2] 0) [])
    ∧ (∃ l ∈ (looping [2] 0).tl.loops, l.start.toNat ≤ (looping [2] 0).tl.pc.toNat ∧ (looping [2] 0).tl.pc.toNat ≤ l.last.toNat
        ∧ l.last.toNat < ((looping [2] 0).tl.pc + 4 * (1 : BitVec 10).setWidth 64).toNat)
    ∧ (Ready (mach (atEnd 0)) [] ∧ (atEnd 0).loops = [] ∧ enabled (atEnd 0) g0 = true
        ∧ 0x20000 ≤ ((atEnd 0).pc + 4 * (1 : BitVec 10).setWidth 64).toNat) := by unfold Ready; decide
/-- An inner loop that a branch has left, and one whose body ends at the pc. -/
def leftBehind : State := mach { t0 with loops := [{ start := 8, last := 8, left := 1 }, { start := 0, last := 0, left := 2 }] }
theorem witness_LoopPassesRepeat : ∀ s ∈ [s0, looping [1] 4, looping [2] 0, looping [1] 0, looping [1, 2] 0, leftBehind],
    Ready s [0] ∧ s.tl.redirect = none := by unfold Ready; decide

/-- At cycle c of a period of 4,096. -/
def atCycle (c : Nat) (t : Tile) : State := mach { t with cyc := c, abs := c }
def busyTile : Tile := { t0 with units := [(6, 5000)] }
def trapped : Tile := { t0 with trap := { t0.trap with mode := true, vec := 64, cause := 0x30, slot := 4, pc := 8 } }
theorem witness_PeriodEnds :
    (quietPeriod (atCycle 4095 t0) = true ∧ unitFree (atCycle 4095 t0) 4 = true ∧ (atCycle 4095 t0).tl.trap.mode = false
      ∧ (atCycle 4095 t0).tl.cyc + 1 = (atCycle 4095 t0).tl.perlen ∧ inFlight (atCycle 4095 t0).tl = none)
    ∧ (quietPeriod (atCycle 4094 t0) = true ∧ (atCycle 4094 t0).tl.cyc + 1 < (atCycle 4094 t0).tl.perlen)
    ∧ (quietPeriod (atCycle 4095 busyTile) = true ∧ unitFree (atCycle 4095 busyTile) 4 = true
      ∧ inFlight (atCycle 4095 busyTile).tl = some 6)
    ∧ (quietPeriod (atCycle 4094 trapped) = true ∧ (atCycle 4094 trapped).tl.trap.mode = true)
    ∧ (∀ t ∈ [busyTile, { t0 with pend := [{ due := 6, order := 1, unit := 6, dest := .x 1, val := 0 }] },
          { t0 with jobs := [{ cyc := 5, order := 1, unit := 6, banks := 0, op := .landq 1 2 }] },
          { t0 with jobs := [{ cyc := 6, order := 1, unit := 6, banks := 1, op := .idle }] }],
        decide (t.abs + 1 < tget 0 t.units 6) = true ∨ t.pend.any (fun p => p.unit == 6 && decide (t.abs < p.due)) = true
          ∨ t.jobs.any (fun j => j.unit == 6 && decide (t.abs < j.cyc + 1)) = true)
    ∧ ({ arrInit with holds := [(0, 5, 6)] }.holds.any (fun h => decide (t0.abs < h.2.2)) = true)
    ∧ (∃ l ∈ (looping [2] 0).tl.loops, l.last ≠ (looping [2] 0).tl.pc ∨ 1 < l.left)
    ∧ (∀ l ∈ (looping [1] 0).tl.loops, l.last = (looping [1] 0).tl.pc ∧ l.left ≤ 1) := by decide
theorem witness_OverrunStopsEveryInstruction : let s := atCycle 4095 t0
    Instr.isEvent (.add g0 1 2 3) = false ∧ s.level = false ∧ s.tl.trap.mode = false ∧ s.tl.cyc + 1 = s.tl.perlen
      ∧ pickEscalated (escalatedNow false s) = none ∧ s.tl.arr.badBytes = [] ∧ s.tl.arr.plane0.bad = [] ∧ s.tl.arr.plane1.bad = [] := by decide

theorem witness_CyclesPassedAssertedTrapped :
    (Ready s0 [4] ∧ s0.tl.nopn = none)
    ∧ (∀ n ∈ [1, 2], let s := mach { t0 with nopn := some { pc := 0, left := n }, units := [(4, 100)] }
        quiet s = true ∧ s.tl.nopn = some { pc := 0, left := n })
    ∧ s0.tl.cyc < (rx s0.tl 1).toNat ∧ (rx s0.tl 2).toNat < s0.tl.cyc
    ∧ (rx (mach (tile 5 0 0 0 0)).tl 1).toNat = (mach (tile 5 0 0 0 0)).tl.cyc := by unfold Ready; decide

/-- A tile with an escalated cause, a failing entry of an outlier list, a bank used twice, a late landing. -/
def hurt : State := mach { t0 with escCause := [(0x22, 9)] }
def jobAt (c : Nat) (banks : BitVec 32) (op : JobOp) : Job := { cyc := c, order := 1, unit := 2, banks := banks, op := op }
def clash : State := mach { t0 with jobs := [jobAt 5 5 .idle, jobAt 5 4 .idle] }
def lineOf (v : Line) (arrived : Bool) : LineSt := { data := v, ready := true, performed := arrived, arrived := arrived, dropped := false }
def opOf (kind : OpKind) (dva : X) (ls : List LineSt) : MemOp :=
  { id := 3, who := { ctx := 1, idx := 0 }, die := 0, kind := kind, dva := dva, lines := ls, b := 0, cmp := 0, ticket := 0, waits := []
    held := false, dst := 64, inTrap := false, pagesHeld := true, assured := false, late := none, fault := none, reported := false }
def lateTile : State := { mach { t0 with jobs := [jobAt 5 2 (.cpyLand 3 0 [64])] } with ops := [opOf .cpy 0 [lineOf 0 false]] }
def listTile : State := mach { t0 with
  jobs := [jobAt 5 1 (.listRead 0 [0])], mem := mwriteLE [] 0 8 (2 ^ 63)
  arr := { arrInit with wloads := [{ order := 1, fmt := .bf16, set := 0, codes := [], bands := 1, nout := 1, outl := [], failed := false, plane1 := true }] } }
/-- A slip of a cause that occurs again in this cycle. -/
def again (c : BitVec 8) (info : X) : State := mach { t0 with again := some (c, info, 5) }
theorem witness_FirstConditionIsReported_again : ∀ s ∈ [again 0x01 9, again 0x16 11],
    pickEscalated (escalatedNow false s) = none ∧ overrun s.tl false = false ∧ outlierNow s.tl = none ∧ unitFree s 0 = true := by decide
theorem witness_FirstConditionIsReported_recurs : recurs (again 0x01 9).tl 0x01 = some 9 ∧ recurs (again 0x16 11).tl 0x16 = some 11
    ∧ recurs (again 0x16 11).tl 0x01 = none ∧ recurs { (again 0x16 11).tl with abs := 6 } 0x16 = none := ⟨rfl, rfl, rfl, rfl⟩
theorem witness_FirstConditionIsReported :
    pickEscalated (escalatedNow false hurt) = some (0x22, 9)
    ∧ (pickEscalated (escalatedNow false (atCycle 4095 t0)) = none ∧ overrun (atCycle 4095 t0).tl false = true)
    ∧ (pickEscalated (escalatedNow false listTile) = none ∧ overrun listTile.tl false = false ∧ outlierNow listTile.tl = some 0)
    ∧ (outlierNow (mach { t0 with units := [(0, 9)] }).tl = none ∧ unitFree (mach { t0 with units := [(0, 9)] }) 0 = false)
    ∧ (pickEscalated (escalatedNow false clash) = none ∧ overrun clash.tl false = false ∧ outlierNow clash.tl = none ∧ unitFree clash 0 = true
        ∧ collided clash.tl ≠ 0 ∧ bankInfo (collided clash.tl) = 2)
    ∧ (pickEscalated (escalatedNow false lateTile) = none ∧ overrun lateTile.tl false = false ∧ outlierNow lateTile.tl = none
        ∧ unitFree lateTile 0 = true ∧ collided lateTile.tl = 0 ∧ lateNow lateTile = some 64) := by decide

def draining (escal nested : Bool) : State := mach { t0 with
  phase := .drain, slip := some { cause := 0x17, slot := 4, pc := 8, info := 1, escal := escal, nested := nested, nopnLeft := 0 } }
theorem witness_CausesEnterHandlerOrFreeze : ∀ s ∈ [draining false false, draining true false, draining true true],
    s.tl.slip.isSome = true ∧ s.tl.phase = .drain ∧ drained s.tl = true := by decide

def trappedBy (cause : X) (left : Nat) : State := mach { trapped with trap := { trapped.trap with cause := cause }, resumeNopn := left }
/-- A trap of cause 0x16 with unit 1, its instruction a MUL of x[1] and x[2] at the pc; the handler has left registers and words, has
changed x[1], or another word stands there. -/
def mulTile (w : Nat) (x1 : X) : Tile := { tile x1 3 0 0 0 with imem := mwriteLE [] 0 4 w }
def busyTrap (w : Nat) (x1 : X) : State := mach { mulTile 0x00825010 7 with
  trap := { t0.trap with mode := true, cause := 0x16, info := 1 }, seen := some ((mulTile w x1).regs, fetchWords (mulTile w x1) 0) }
theorem witness_EretReturns_again : ∀ e ∈ [(0x00825010, (7 : X), true), (0x00825010, 8, false), (0x00825011, 7, false)],
    let s := busyTrap e.1 e.2.1
    Ready s [4] ∧ s.tl.redirect = none ∧ s.tl.trap.mode = true ∧ s.tl.trap.cause = 0x16 ∧ s.tl.resumeNopn = 0
      ∧ fetch { s.tl with pc := s.tl.trap.pc } false = .ok (.mul g0 5 1 2)
      ∧ ∃ old, s.tl.seen = some old ∧ decide (fetchWords s.tl s.tl.trap.pc.toNat = old.2
          ∧ ∀ r ∈ sources (.mul g0 5 1 2), sameSrc old.1 s.tl.regs r = true) = e.2.2 := by
  intro e h
  simp only [List.mem_cons, List.not_mem_nil, or_false] at h
  unfold Ready
  rcases h with rfl | rfl | rfl <;> exact ⟨by decide +kernel, by decide, by decide, by decide, by decide, by decide +kernel, _, rfl, by decide +kernel⟩
theorem witness_EretReturns : (∀ s ∈ [trappedBy 0x30 0, trappedBy 0x17 0, trappedBy 0x17 3],
      Ready s [4] ∧ s.tl.redirect = none ∧ s.tl.trap.mode = true)
    ∧ Ready s0 [4] ∧ s0.tl.trap.mode = false := by unfold Ready; decide

/-- x[1] names address 64 and cycle 4,095, and breaks a field; x[2] is a restart of RESYNC.T, and breaks one. -/
def resyncs (x1 x2 : X) : State := mach { tile x1 x2 0 0 0 with trap := trapped.trap }
theorem witness_ResyncsRestart : (∀ s ∈ [resyncs 0xFFF00040 0x100000040, resyncs 0x100000040 0x40], Ready s [4] ∧ s.tl.redirect = none ∧ s.tl.trap.mode = true)
    ∧ (let v := rx (resyncs 0xFFF00040 0).tl 1;
        v.extractLsb' 40 24 = 0 ∧ v.extractLsb' 17 3 = 0 ∧ (v.extractLsb' 20 20).toNat < 4096 ∧ v.extractLsb' 0 2 = 0)
    ∧ ¬((rx (resyncs 0x100000040 0).tl 1).extractLsb' 20 20).toNat < 4096
    ∧ (let v := rx (resyncs 0 0x100000040).tl 2;
        v.extractLsb' 17 15 = 0 ∧ v.extractLsb' 0 2 = 0 ∧ v.extractLsb' 32 32 ≠ 0)
    ∧ ¬((rx (resyncs 0 0x40).tl 2).extractLsb' 32 32 ≠ 0)
    ∧ (∀ at_ ∈ [1, 0], let s := mach { t0 with phase := .waitT 64 at_ }; (s.tile 0).phase = .waitT 64 at_ ∧ (s.tile 0).issued = false)
    ∧ s0.now < 1 ∧ 0 ≤ s0.now := by unfold Ready; decide

theorem witness_HaltEndsTheRoutine : Ready s0 [4] ∧ s0.tl.redirect = none
    ∧ (mach { t0 with phase := .halting }).tl.phase = .halting ∧ drained (mach { t0 with phase := .halting }).tl = true
    ∧ (∀ e ∈ (mach { t0 with phase := .halting }).kennels, ∀ l ∈ e.2.leases, l.who ≠ whoOf t0) := by unfold Ready; decide
def frozen (nested : Bool) (vec : X) : State := mach { t0 with
  state := 3, phase := .off, trap := { t0.trap with vec := vec, pc := 8, cause := 0x17 }, esc := { t0.esc with nested := nested } }
theorem witness_FrozenTileRestarts : (∀ s ∈ [frozen false 64, frozen true 64, frozen false 0], mayThaw s (s.tile 0) = true)
    ∧ ((frozen false 64).tile 0).esc.nested = false ∧ ((frozen false 64).tile 0).trap.vec ≠ 0
    ∧ ((frozen true 64).tile 0).esc.nested = true ∧ ((frozen false 0).tile 0).trap.vec = 0 := by decide

/-- The bank of byte 0 serves a use when no bank is cut, and does not when its own is; the last bytes of a line hold a word. -/
theorem witness_BankUsesMoveBytes : ¬(0 : BitVec 32).getLsbD (bankOf 60) = true ∧ (1 : BitVec 32).getLsbD (bankOf 60) = true
    ∧ (60 % 64 + 4 ≤ 64) ∧ (jobAt 5 1 (.load 1 4 true 60)).op = .load 1 4 true 60
    ∧ (jobAt 5 1 (.writes (cellsLE 60 4 7))).op = .writes (cellsLE 60 4 7)
    ∧ (∀ n ∈ [4, 8], (jobAt 5 1 (.atomRead 1 n true .add 56 1 0)).op = .atomRead 1 n true .add 56 1 0) := by decide
def pendOf (order due : Nat) (d : BitVec 5) (v : X) : Pending := { due := due, order := order, unit := 1, dest := .x d, val := val64 v }
/-- Three results for one register, one of them later; two for lanes of one vector register, and for bits of one guard register. -/
def landers : List Pending := [pendOf 3 6 1 9, pendOf 2 5 1 8, pendOf 1 5 1 7,
  { pendOf 4 5 0 1 with dest := .v 2 1 }, { pendOf 5 5 0 2 with dest := .v 2 3 }, { pendOf 6 5 0 1 with dest := .g 2 1 },
  { pendOf 7 5 0 2 with dest := .g 2 3 }, { pendOf 8 5 0 2 with dest := .b 1 }]
/-- Nothing written in the cycle; a guard register's bit and a scalar register, of which results come too. -/
theorem witness_ResultsLandInIssueOrder : let s := mach { t0 with pend := landers }
    s.tl.landed = []
    ∧ (∀ e ∈ [(pendOf 2 5 1 8, Dest.x 1), ({ pendOf 5 5 0 2 with dest := .v 2 3 }, .v 2 3), ({ pendOf 7 5 0 2 with dest := .g 2 3 }, .g 2 3),
          ({ pendOf 8 5 0 2 with dest := .b 1 }, .b 1)],
        e.1 ∈ s.tl.pend ∧ e.1.due = s.tl.abs ∧ e.1.dest = e.2 ∧ ∀ q ∈ s.tl.pend, q.due = s.tl.abs → q.dest = e.2 → q.order < e.1.order ∨ q = e.1)
    ∧ (let u := mach { t0 with pend := landers, landed := [.g 2 1, .x 1] }
       (∃ d ∈ u.tl.landed, d = .x 1) ∧ (∀ d ∈ u.tl.landed, d ≠ .b 1) ∧ (∃ d ∈ u.tl.landed, d = .g 2 1 ∧ (1 : X).getLsbD 0 = true)
        ∧ (3 : X).getLsbD 1 = true ∧ (1 : X).getLsbD 1 = false) := by decide +kernel
theorem witness_SystemRegistersRead : Ready s0 [4] ∧ s0.level = false ∧ s0.tl.bind.replay = 0
    ∧ 0x800 ≤ (0x800 : BitVec 12).toNat ∧ (0x805 : BitVec 12).toNat ≤ 0x805 := by unfold Ready; decide
/-- 64 and 1,048,576 are period lengths, 63 and 1,048,577 are not; 0x1FFFC is a handler's address, 2 and 0x20000 are not. -/
theorem witness_SystemRegistersWritten : Ready s0 [4]
    ∧ (∀ v ∈ [(64 : X), 1048576], 64 ≤ v.toNat ∧ v.toNat ≤ 1048576) ∧ (∀ v ∈ [(63 : X), 1048577], v.toNat < 64 ∨ 1048576 < v.toNat)
    ∧ ((0x1FFFC : X).toNat % 4 = 0 ∧ (0x1FFFC : X).toNat < 0x20000) ∧ (∀ v ∈ [(2 : X), 0x20000], v.toNat % 4 ≠ 0 ∨ 0x20000 ≤ v.toNat)
    ∧ (sysUser 0x011 = true ∧ (0x011 : BitVec 12) ≠ 0x010 ∧ (0x011 : BitVec 12) ≠ 0x020 ∧ (0x011 : BitVec 12) ≠ 0x060) := by
  refine ⟨?_, ?_, ?_, ?_, ?_, ?_⟩
  · unfold Ready; decide
  all_goals simp [sysUser]

/-- The lowest lane alone enabled: g[2] is 1. -/
def oneLane (x1 x2 x3 x4 : X) (v1 : VReg) : State :=
  mach { tile x1 x2 x3 x4 v1 with regs := { (tile x1 x2 x3 x4 v1).regs with g := regsInit.g.set 2 1 } }
/-- The guard (g2). -/
def g2 : Guard := ⟨false, 2⟩

theorem witness_VectorIntegerLanes : Ready s0 [5, 7] ∧ (0x7FFFFFFF : X).extractLsb' 32 32 = 0
    ∧ (0x100000000 : X).extractLsb' 32 32 ≠ 0 ∧ (effGuard (oneLane 0 0 0 0 0).tl g2).getLsbD 0 = true := by unfold Ready; decide
/-- 1 and 3, 2^127 by 2^−149, 2, −1; a conversion of 470 to E4M3, of 62,000 to E5M2, of −1.0 to both kinds. -/
theorem witness_VectorFloatLanes : Ready s0 [6, 7, 9]
    ∧ IsNumber (valF32 0x3F800000) 1 ∧ IsNumber (valF32 0x40400000) 3 ∧ IsNumber (valF32 0xBF800000) (-1) ∧ IsNumber (valF32 0) 0
    ∧ Overflows f32 .ne (2 ^ 128) ∧ ¬Overflows f32 .ne 1 ∧ ¬Overflows e4m3 .ne 470 ∧ Overflows e5m2 .ne 62000
    ∧ isNan 0x7FC00000 = true ∧ (0x7F800000 : W32).extractLsb' 0 31 = 0x7F800000
    ∧ elemValue .f32 0x7FC00000 = .nan ∧ elemValue .f32 0xFF800000 = .inf true := by
  have top : ∀ (f : FloatFmt) (c m : Nat) (e : Int), decodeFloat f c = .fin false m e → IsNumber (decodeFloat f c) ((m : ℚ) * 2 ^ e) := by
    intro f c m e h
    exact ⟨false, m, e, h, by simp⟩
  have one : ∀ (f : FloatFmt) (c m : Nat) (e : Int) (q : ℚ), decodeFloat f c = .fin false m e → IsNumber (decodeFloat f c) q → q = (m : ℚ) * 2 ^ e := by
    intro f c m e q h ⟨n, m', e', h', hq⟩
    rw [h] at h'; cases h'; simpa using hq
  refine ⟨?_, ⟨false, 8388608, -23, by decide, by norm_num⟩, ⟨false, 12582912, -22, by decide, by norm_num⟩,
    ⟨true, 8388608, -23, by decide, by norm_num⟩, ⟨false, 0, -149, by decide, by norm_num⟩,
    ⟨_, _, top f32 _ 16777215 104 (by decide +kernel), top f32 _ 16777214 104 (by decide +kernel), rfl, by norm_num⟩, ?_, ?_,
    ⟨_, _, top e5m2 _ 7 13 (by decide +kernel), top e5m2 _ 6 13 (by decide +kernel), rfl, by norm_num⟩, ?_⟩
  · unfold Ready; decide
  · rintro ⟨M, P, hM, hP, -, h⟩
    rw [one f32 _ 16777215 104 M (by decide +kernel) hM, one f32 _ 16777214 104 P (by decide +kernel) hP] at h
    norm_num at h
  · rintro ⟨M, P, -, -, h, -⟩
    exact absurd h (by decide)
  · decide
theorem witness_NumberFormats : decodeFloat e4m3 0x7E ≠ .nan ∧ isNan 0x7F800000 = false ∧ isNan 0x7F800001 = true
    ∧ (∃ v ∈ [Ext.inf false], v.isFin = false) ∧ 2 * (1 % 2 ^ 1) = 2 ^ 1 := by decide
/-- NaN, infinity, normal and least codes of the formats; blocks with E 255 and 130; sixteen numbers. -/
theorem witness_NumberFormats_values :
    (∀ e ∈ [(f32, 0x7F800001), (f16, 0x7C01), (bf16, 0xFFC0), (e4m3, 0x7F), (e5m2, 0x7D)], decodeFloat e.1 e.2 = .nan)
    ∧ (∀ e ∈ [(f32, 0xFF800000, true), (f16, 0x7C00, false), (bf16, 0x7F80, false), (e5m2, 0xFC, true)], decodeFloat e.1 e.2.1 = .inf e.2.2)
    ∧ (∀ e ∈ [(f32, 1), (f16, 0x7BFF), (bf16, 0x80), (e4m3, 0x7E), (e5m2, 0x7B), (e2m1, 7)], (decodeFloat e.1 e.2).isFin = true)
    ∧ ([255, 130].map (fun b => (seDecode .se4 b 15).isFin) = [false, true]) := by decide +kernel
theorem witness_NumberFormats_block : let xs : List Ext := (List.range 16).map (fun i => .fin (i % 2 == 1) i (-2))
    xs.length = 16 ∧ (∀ i, i < 16 → IsNumber (xs.getD i .nan) ((if i % 2 = 1 then -1 else 1) * i * 2 ^ (-2 : Int))) ∧ 0 < seEncode .se4 xs % 256 := by
  refine ⟨by decide, ?_, by decide +kernel⟩
  intro i h
  have hx : ((List.range 16).map (fun i => Ext.fin (i % 2 == 1) i (-2))).getD i .nan = .fin (i % 2 == 1) i (-2) := by
    simp [List.getD_eq_getElem?_getD, h]
  refine ⟨_, _, _, hx, ?_⟩
  by_cases o : i % 2 = 1 <;> simp [o]
theorem witness_VectorCompares : Ready s0 [5] ∧ (isNan 0x7F800001 = true ∨ isNan 0 = true) := by unfold Ready; decide
theorem witness_VectorCompares_order : IsNumber (valF32 0xBF800000) (-1) ∧ IsNumber (valF32 0x3F800000) 1 ∧ isNan 0xFF800000 = false
    ∧ isNan 0 = false ∧ (0 : W32) ≠ 0xFF800000 ∧ (0 : W32) ≠ 0x7F800000 :=
  ⟨⟨true, 8388608, -23, by decide, by norm_num⟩, ⟨false, 8388608, -23, by decide, by norm_num⟩, by decide, by decide, by decide, by decide⟩
theorem witness_VectorReductions : Ready s0 [7] ∧ effGuard s0.tl gX = 0 ∧ effGuard s0.tl g0 ≠ 0
    ∧ enabledLanes (effGuard s0.tl gX) (rv s0.tl 1) = []
    ∧ enabledLanes (effGuard (oneLane 0 0 0 0 5).tl g2) (rv (oneLane 0 0 0 0 5).tl 1) = [5] := by unfold Ready; decide +kernel
theorem witness_VectorScans : Ready s0 [7] ∧ (effGuard (oneLane 0 0 0 0 0).tl g2).getLsbD 0 = true := by unfold Ready; decide

/-- A range that ends with the scratchpad, one that begins and one that ends with the engine window; one that is in both, one that leaves
the second, one that is misaligned. -/
theorem witness_VectorRangeUses : Ready s0 [5, 8]
    ∧ (∀ a ∈ [0xFFF00, 0x100000, 0x10FF00], a % 4 = 0 ∧ (a + 64 * 4 ≤ 0x100000 ∨ (0x100000 ≤ a ∧ a + 64 * 4 ≤ 0x110000)))
    ∧ (∀ a ∈ [0xFFF04, 0x10FF04, 2], ¬(a % 4 = 0 ∧ (a + 64 * 4 ≤ 0x100000 ∨ (0x100000 ≤ a ∧ a + 64 * 4 ≤ 0x110000))))
    ∧ PermitsAddr 0x10FFF8 8 ∧ ¬PermitsAddr 0x10FFFC 8 ∧ ¬PermitsAddr 0x110000 8
    ∧ Ty.se7.isSe = true ∧ Ty.f32.isSe = false
    ∧ BlocksPermitted .se2 1 54 ∧ ¬BlocksPermitted .se2 1 60 ∧ ¬BlocksPermitted .se2 0x11 54 ∧ ¬BlocksPermitted .se7 0x10 48
    ∧ BlocksPermitted .se7 1 0x10FFF0 ∧ ¬BlocksPermitted .se7 0 0x110000 := by 
  refine ⟨?_, ?_, ?_, ?_, ?_, ?_, ?_, ?_, ?_, ?_, ?_, ?_, ?_, ?_⟩
  · unfold Ready; decide
  · decide
  · decide
  all_goals first | decide | (simp [PermitsAddr]; done) | (unfold BlocksPermitted; decide)


/-- Lane 0 of v[1] takes the last word of its region, the word after it, and an odd byte. -/
theorem witness_LaneAddressedUses :
    let good := fun (s : State) => let a := rx s.tl 1 + (lane (rv s.tl 1) 0).setWidth 64
      a.toNat ≤ 0x10FFFF ∧ (a.toNat < 0x100000 ↔ (rx s.tl 1).toNat < 0x100000) ∧ a.toNat % 4 = 0
    (Ready (oneLane 0x10FFFC 0 0 0 0) [8] ∧ onLanes (effGuard (oneLane 0 0 0 0 0).tl g2) = [0])
    ∧ (∀ s ∈ [oneLane 0x10FFFC 0 0 0 0, oneLane 0xFFFF8 0 0 0 4], (rx s.tl 1).toNat ≤ 0x10FFFF ∧ good s)
    ∧ (∀ s ∈ [oneLane 0x10FFFC 0 0 0 4, oneLane 0xFFFF8 0 0 0 8, oneLane 0 0 0 0 1], (rx s.tl 1).toNat ≤ 0x10FFFF ∧ ¬good s)
    ∧ 0x10FFFF < (rx (oneLane 0x110000 0 0 0 0).tl 1).toNat := by unfold Ready; decide +kernel
/-- Two lanes of a line whose bank is free, or taken, and none; two slots; three lanes of a VATOM, two of them of one word. -/
theorem witness_VectorUsesMoveLanes :
    (let l : List (Nat × Nat) := [(0, 0), (63, 60)];
      (jobAt 5 1 (.vload 1 4 true l 2)).op = .vload 1 4 true l 2 ∧ (l.map (fun e => e.1)).Nodup ∧ (∀ e ∈ l, e.1 < 64)
        ∧ (∃ e ∈ l, (0 : BitVec 32).getLsbD (bankOf e.2) = false) ∧ (∀ e ∈ l, ¬(1 : BitVec 32).getLsbD (bankOf e.2) = false))
    ∧ (let l : List (Nat × Nat) := [(0, 0), (3, 30)];
      (jobAt 5 1 (.vloadSe 1 10 l)).op = .vloadSe 1 10 l ∧ (l.map (fun e => e.1)).Nodup ∧ (∀ e ∈ l, e.1 < 4)
        ∧ (∀ e ∈ l, (2 : BitVec 32).getLsbD (bankOf e.2) = false) ∧ (∃ e ∈ l, (1 : BitVec 32).getLsbD (bankOf e.2) = true))
    ∧ ((jobAt 5 1 (.maskLoad 1 56)).op = .maskLoad 1 56 ∧ (2 : BitVec 32).getLsbD (bankOf 56) = false ∧ (1 : BitVec 32).getLsbD (bankOf 56) = true)
    ∧ (let l : List (Nat × Nat × W32) := [(0, 64, 1), (5, 64, 2), (63, 128, 3)];
      (jobAt 5 6 (.vatomRead 1 true .add l)).op = .vatomRead 1 true .add l ∧ (l.map (fun e => e.1)).Nodup ∧ (∀ e ∈ l, e.1 < 64)
        ∧ l.filter (fun e => !(1 : BitVec 32).getLsbD (bankOf e.2.1)) = l ∧ (∀ e ∈ l, e.2.1 % 4 = 0)
        ∧ l.filter (fun e => !(4 : BitVec 32).getLsbD (bankOf e.2.1)) = [(0, 64, 1), (5, 64, 2)]
        ∧ l.filter (fun e => !(6 : BitVec 32).getLsbD (bankOf e.2.1)) = []) := by decide

def sampleOf (v : Nat) : SampleRun :=
  { order := 1, d := 1, gd := 1, a := 0, b := 0x100000, ctl := 0, v := v, lines := [], changed := false, cancelled := false }
/-- A vocabulary of 1 and one of 262,144, with lists that end with their regions. -/
theorem witness_SamplesDrawLegalTokens : Ready s0 [10]
    ∧ (∀ e ∈ [(1, 0xFFF00, 0x10FFC0), (262144, 0, 0x100000), (262144, 0, 0x108000)], 1 ≤ e.1 ∧ e.1 ≤ 262144 ∧ e.2.1 % 256 = 0
        ∧ e.2.1 + 256 * ((e.1 + 63) / 64) ≤ 0x100000 ∧ e.2.2 % 64 = 0 ∧ 0x100000 ≤ e.2.2 ∧ e.2.2 + 64 * ((e.1 + 511) / 512) ≤ 0x110000)
    ∧ (∀ v ∈ [0, 262145], ¬(1 ≤ v ∧ v ≤ 262144)) ∧ (sampleOf 262144).v ≤ 262144 ∧ 1 ≤ (sampleOf 1).v := by unfold Ready; decide
/-- One logit, 1.0 under τ 1.0, at a set mask bit; and one that no mask bit lets count. -/
def oneLogit (mask : Line) : SampleRun :=
  { sampleOf 1 with ctl := ofLanes (fun i => if i = 6 then 0x3F800000 else 0), lines := [(0, 0x3F800000), (0x100000, mask)] }
theorem witness_SamplesDrawLegalTokens_weights :
    (let r := oneLogit 1; r.v = 1 ∧ sampleMask r 0 = true ∧ rneF32 (mulExt (valF32 (sampleLogit r 0)) (valF32 (lane r.ctl 6))) = 0x3F800000
      ∧ isNan 0x3F800000 = false)
    ∧ (let r := oneLogit 0; r.v = 1 ∧ sampleMask r 0 = false) := by decide +kernel

/-- Bands 0 and 1: awake and named; `use` is the cycle each is free from. -/
def arrTile (bands : Vector Band 4) (use : Nat) (t : Tile) : Tile :=
  { t with arr := { arrInit with ashape := 3, band := bands, bandUse := [use, use, use, use] } }
def awakes : Vector Band 4 := Vector.replicate 4 .awake
theorem witness_ArrayShapesAndFills :
    (Ready s0 [11] ∧ ∀ k, k < 4 → s0.tl.arr.bandUse.getD k 0 ≤ s0.tl.abs)
    ∧ (s0.tl.abs < (arrTile awakes 6 t0).arr.bandUse.getD 3 0 ∧ (8 : BitVec 4).getLsbD 0 = false ∧ Ready (mach (arrTile awakes 6 t0)) [])
    ∧ (∀ xb ∈ [(0x7F3F : X), 0], xb &&& ~~~0x7F3F = 0) ∧ (0x8000 : X) &&& ~~~0x7F3F ≠ 0
    ∧ (127 + 1 ≤ 128 ∧ 128 < 127 + 2) ∧ spanOk 0xFFE00 64 512 = true ∧ spanOk 0xFFE40 64 512 = false ∧ spanOk 32 64 512 = false
    ∧ arrFree s0.tl 0 5 6 ∧ spanOk 0xFFFE0 32 32 = true ∧ spanOk 0xFFFF0 32 32 = false
    ∧ (jobAt 5 0 (.wfill 0x8000 64)).op = .wfill 0x8000 64 ∧ (jobAt 5 0 (.ctab 64)).op = .ctab 64 := by
  refine ⟨?_, ?_, ?_, ?_, ?_, ?_, ?_, ?_, ?_, ?_, ?_, ?_, ?_⟩
  · unfold Ready; decide
  · unfold Ready; decide
  · simp
  · simp
  · decide
  · decide
  · decide
  · decide
  · unfold arrFree; decide
  all_goals decide
theorem witness_AccumulatorTransfers : Ready s0 [] ∧ s0.tl.arr.badBytes = []
    ∧ (255 + 1 ≤ 256 ∧ 256 < 255 + 2) ∧ spanOk 0xFFC00 64 (64 * 8 * 2) = true ∧ spanOk 0xFFE00 64 (64 * 8) = true ∧ spanOk 0xFFE40 64 (64 * 8) = false
    ∧ arrFree s0.tl 4 6 6 ∧ arrFree s0.tl 2 7 7 ∧ arrFree s0.tl 2 6 6 ∧ (∀ ty ∈ [Ty.f32, .se2, .n8], accLines (some ty) ≠ 0)
    ∧ (jobAt 5 0 (.accWrite 255 1)).op = .accWrite 255 1 ∧ (jobAt 5 0 (.accRead 255 none 0)).op = .accRead 255 none 0
    ∧ (jobAt 5 0 (.rowRead 255 none 0 8)).op = .rowRead 255 none 0 8
    ∧ (∃ q ∈ [{ jobAt 6 1 .idle with order := 1 }], q.order = (jobAt 5 0 .idle).order ∧ q.cyc = s0.tl.abs + 1 ∧ q.op = .idle) := by
  unfold Ready arrFree; decide +kernel

def loadRun : WloadRun := { order := 1, fmt := .bf16, set := 63, codes := [], bands := 3, nout := 0, outl := [], failed := false, plane1 := true }
def mmaRun : MmaRun := { order := 1, fmt := .bf16, acc := false, h := 0, arow := 255, rows := 1, plane1 := false, bands := 0xF
                         act := [(0, 5)], lastLand := 5 }
/-- All bands awake; band 1 waking; a load and a row at their last cycles. -/
theorem witness_WeightLoadsAndProducts :
    (let s := mach (arrTile awakes 0 t0);
      Ready s [] ∧ s.tl.arr.badBytes = [] ∧ s.tl.arr.plane0.bad = [] ∧ s.tl.arr.plane1.bad = [] ∧ s.tl.arr.ashape ≠ 0
        ∧ (∀ k : Fin 4, s.tl.arr.ashape.getLsbD k = true → s.tl.arr.band[k] = .awake)
        ∧ ((rx (mach (arrTile awakes 0 (tile 63 512 0 0 0))).tl 1).toNat ≤ 63 ∧ (rx (mach (arrTile awakes 0 (tile 63 512 0 0 0))).tl 2).toNat ≤ 512)
        ∧ spanOk 0 64 (64 * 64) = true ∧ s.tl.arr.mmas = [] ∧ (∀ r ∈ List.range 6, arrFree s.tl r 5 200)
        ∧ (255 + 1 ≤ 256 ∧ (0 : Nat) < packing .bf16 / min (packing .bf16) (packing .bf16)))
    ∧ (let s := mach (arrTile (awakes.set 1 (.waking 7)) 0 t0);
        (∀ k : Fin 4, (2 : BitVec 4).getLsbD k = true ↔ s.tl.arr.ashape.getLsbD k = true ∧ s.tl.arr.band[k] ≠ .awake)
          ∧ unitFree s 11 = true ∧ s.tl.arr.holds = [] ∧ s.tl.arr.mmas = [])
    ∧ (∀ f, f ∈ [true, false] → let s := mach { t0 with jobs := [jobAt 5 0 .shadowLoad], arr := { arrInit with wloads := [{ loadRun with failed := f }] } }
        s.tl.jobs = [jobAt 5 0 .shadowLoad] ∧ (jobAt 5 0 .shadowLoad).cyc = s.tl.abs ∧ s.tl.arr.wloads = [{ loadRun with failed := f }]
          ∧ loadRun.order = (jobAt 5 0 .shadowLoad).order ∧ loadRun.set ≤ 63 ∧ Memory.wf s.tl.arr.wsram = true)
    ∧ (let s := mach { t0 with jobs := [jobAt 5 0 (.mmaLand 0)], arr := { arrInit with mmas := [mmaRun], plane0 := { planeInit with loaded := 0xF } } };
        s.tl.jobs = [jobAt 5 0 (.mmaLand 0)] ∧ (jobAt 5 0 (.mmaLand 0)).cyc = s.tl.abs ∧ s.tl.arr.mmas = [mmaRun]
          ∧ tfind mmaRun.act 0 = some 5 ∧ mmaRun.arow + 0 < 256 ∧ mmaRun.fmt = .bf16 ∧ s.tl.arr.plane0.fmt = .bf16
          ∧ s.tl.arr.plane0.loaded = 0xF ∧ s.tl.arr.plane0.outl = []) := by unfold Ready arrFree; decide +kernel

/-- An outlier of column 127 at the last weight row of band 0 in group 3 of .se4 with p = 1. -/
def outlier : X := 0x3F800000 + (4 * 31 + 3) * 2 ^ 32 + 127 * 2 ^ 42
/-- A landing that accumulates, in group 3 of .se4 weights, with one of its two bands empty and an outlier. -/
theorem witness_WeightLoadsAndProducts_landing :
    let r := { mmaRun with acc := true, h := 3, bands := 5 }
    let s := mach { t0 with jobs := [jobAt 5 0 (.mmaLand 0)], arr := { arrInit with mmas := [r], plane0 := { planeInit with loaded := 1, fmt := .se4, outl := [outlier] } } }
    s.tl.jobs = [jobAt 5 0 (.mmaLand 0)] ∧ s.tl.arr.mmas = [r] ∧ r.order = (jobAt 5 0 (.mmaLand 0)).order ∧ tfind r.act 0 = some 5
      ∧ r.arow + 0 < 256 ∧ r.h < packing s.tl.arr.plane0.fmt / min (packing s.tl.arr.plane0.fmt) (packing r.fmt)
      ∧ (outlier.extractLsb' 42 7).toNat = 127 ∧ (outlier.extractLsb' 32 10).toNat = 4 * 31 + 3 := by decide +kernel
/-! A package with memory: context 1's descriptor at DPA 32 maps its DVAs to the same DPAs, writable, through two tables of one entry. -/

def tables : Memory := [(33, 4), (42, 0xF), (0x400, 1), (0x401, 8), (0x800, 7)]
def pageOf : PageEntry := { ctx := 1, size := 0x40000000, vpn := 0, entry := 7 }
/-- Its tile 0 carries the context's one tile. -/
def pack (s : State) : State := { s with mem := tables, keys := [(0, (1, 2))], bar2 := [(0, (1, 0))] }
/-- Lines of the context's memory that were written under its key. -/
def written (a n : Nat) : Table LineTag := (List.range n).map (fun i => (a / 64 + i, (2 ^ 256 + 2, a / 64 + i)))
def p0 : State := pack s0
def who0 : Who := { ctx := 1, idx := 0 }

def job0 (op : JobOp) : Job := jobAt 5 4096 op
theorem witness_PostsAndSamples : Ready s0 [12] ∧ ((0x10FFC0 : X).toNat % 64 = 0 ∧ (0x10FFC0 : X).toNat ≤ 0x10FFC0)
    ∧ (∀ a ∈ [(0x110000 : X), 0x10FFE0], ¬(a.toNat % 64 = 0 ∧ a.toNat ≤ 0x10FFC0)) ∧ s0.tl.fences = [] ∧ s0.tl.bind.replay = 0
    ∧ (job0 (.postWrite 1 2 3 4)).op = .postWrite 1 2 3 4 ∧ (job0 (.postRead 1 2 64 4)).op = .postRead 1 2 64 4
    ∧ ∀ k ∈ [0, 1, 2, 3], (job0 (.sampleMirror k 1 59 [])).op = .sampleMirror k 1 59 [] := by
  refine ⟨?_, ?_, ?_, ?_, ?_, ?_, ?_, ?_⟩
  · unfold Ready; decide
  · simp
  · simp
  all_goals decide +kernel

def postOf (held : Bool) : Post :=
  { id := 7, src := some (who0, 3), payload := 5, seq := 1, stamp := 2, dsts := [{ who := who0, mirror := 59, bound := 150, done := false }]
    waits := [], held := held, sent := true, wrote := [] }
/-! Where context 1's memory is mapped as `tables` say. -/

/-- Context 1's first 64 MiB lie at the same device addresses, in a leaf of 1 GiB that its walk reaches. -/
def Flat (s : State) (k : Nat × Nat) : Prop :=
  (tableRead s (s.cdtbase + 32) = some 0x400#64 ∧ tableRead s (s.cdtbase + 40) = some 0xF0000#64 ∧ tableRead s (s.cdtbase + 48) = some 0#64)
    ∧ tableRead s 0x400 = some 0x801#64 ∧ tableRead s 0x800 = some 7#64 ∧ tfind s.keys 0 = some k

theorem desc_flat {s : State} {k : Nat × Nat} (f : Flat s k) :
    descOf s 1#16 = some { root := 0x400, keyidx := 0, mask := 0xF, seed := 0 } := by
  simp [descOf, f.1]

theorem hash_flat (a : Nat) (h : a < 2 ^ 26) : hashPlace 0 0xF a = some a := by
  have hq : a / 1024 / 2 ^ 27 = 0 := by omega
  have hl : a / 1024 % 2 ^ 27 = a / 1024 := by omega
  have hb : hashByte 0 (a / 1024) = 0 := by
    have e : (BitVec.ofNat 32 ((a / 1024 ^^^ ((0 : X).extractLsb' 0 27).toNat) * ((((0 : X).extractLsb' 32 32) ||| 1)).toNat)) = BitVec.ofNat 32 (a / 1024) := by
      simp
    have hs : a / 1024 < 2 ^ 16 := by omega
    have hz : ∀ j, j = 16 ∨ j = 24 → (BitVec.ofNat 32 (a / 1024)).extractLsb' j 8 = 0 := by
      intro j hj
      apply BitVec.eq_of_toNat_eq
      simp [BitVec.extractLsb'_toNat, Nat.shiftRight_eq_div_pow]
      rcases hj with rfl | rfl <;> omega
    unfold hashByte
    simp only [e, hz 24 (by simp), hz 16 (by simp)]
    rfl
  simp only [hashPlace, hq, hl, hb]
  rw [show popFrom 0xF 4 = 4 by rfl]
  simp only [show (0 : Nat) < 4 by omega, if_true]
  rw [show nthBit 0xF ((0 + 0) % 4) 0 4 = 0 by rfl]
  congr 1; omega

theorem xlate_flat {s : State} {k : Nat × Nat} (f : Flat s k) (dva : X) (h : dva.toNat < 2 ^ 26) (w : Bool) :
    xlate s 1#16 dva w = some (.home dva.toNat (k.1 * 2 ^ 256 + k.2, dva.toNat / 64)) := by
  have hhi : dva.extractLsb' 52 12 = 0 := by
    apply BitVec.eq_of_toNat_eq
    simp [BitVec.extractLsb'_toNat, Nat.shiftRight_eq_div_pow]; omega
  have h9 : dva.toNat / 2 ^ 39 % 2 ^ 13 = 0 := by omega
  have h0 : dva.toNat / 2 ^ 30 % 2 ^ 9 = 0 := by omega
  have hw : walk s 1#16 dva = some { ctx := 1, size := 2 ^ 30, vpn := 0, entry := 7#64 } := by
    simp only [walk, hhi, desc_flat f, walkLevels, walkFrom, h9, h0]
    simp only [f.2.1, f.2.2.1, show entryAddr 0x801#64 = 0x800 by rfl]
    have a : entryValid 0x801#64 = true ∧ entryBad 0x801#64 = false ∧ entryLeaf 0x801#64 = false ∧ entryPkg 0x801#64 = 0 := by decide
    have b : entryValid 7#64 = true ∧ entryBad 7#64 = false ∧ entryLeaf 7#64 = true ∧ entryPkg 7#64 = 0 ∧ entryAddr 7#64 = 0 := by decide
    simp [a, b]; omega
  have e1 : entryW 7#64 = true := by decide
  have e2 : entryRmt 7#64 = false := by decide
  have e3 : entryAddr 7#64 = 0 := by decide
  have hs : hashPlace 0#64 15#4 (dva.toNat % 1073741824) = some dva.toNat := by
    rw [show dva.toNat % 1073741824 = dva.toNat by omega]; exact hash_flat dva.toNat h
  simp [xlate, hw, throughPage, e1, e2, e3, desc_flat f, f.2.2.2, hs]
  omega

theorem firstFault_flat {s : State} {k : Nat × Nat} (f : Flat s k) (hb : s.badLines = []) (n : Nat) (dva : X) (h : dva.toNat + n ≤ 2 ^ 26) :
    firstFault s 1#16 dva n = none := by
  induction n generalizing dva with
  | zero => rfl
  | succ n ih =>
    have e : (dva + 1).toNat = dva.toNat + 1 := by rw [BitVec.toNat_add]; simp; omega
    have hd : (dvaByte s 1#16 dva).isSome = true := by simp [dvaByte, xlate_flat f dva (by omega), Machine.failing, hb]
    rw [firstFault, if_pos hd]
    exact ih (dva + 1) (by omega)

/-- Lines that were written under the context's key read as memory holds them. -/
theorem dvaRead_flat {s : State} {k : Nat × Nat} (f : Flat s k) (hb : s.badLines = []) (lo hi : Nat) (hh : hi ≤ 2 ^ 26)
    (hk : ∀ l, lo / 64 ≤ l → l < (hi + 63) / 64 → tfind s.lineKeys l = some (k.1 * 2 ^ 256 + k.2, l)) (n : Nat) (dva : X)
    (hl : lo ≤ dva.toNat) (h : dva.toNat + n ≤ hi) : dvaRead s 1#16 dva n = some (mreadLE s.mem dva.toNat n) := by
  induction n generalizing dva with
  | zero => rfl
  | succ n ih =>
    have e : (dva + 1).toNat = dva.toNat + 1 := by rw [BitVec.toNat_add]; simp; omega
    have hd : dvaByte s 1#16 dva = some (mread s.mem dva.toNat).toNat := by
      simp only [dvaByte, xlate_flat f dva (by omega), Machine.failing, hb, devLine, hk (dva.toNat / 64) (by omega) (by omega), List.contains_nil]
      simp only [Bool.false_eq_true, if_false, if_true, Option.some.injEq]
      rw [lineBytes_mreadLine _ _ _ (by omega)]
      congr 2; omega
    simp only [dvaRead, hd, ih (dva + 1) (by omega) (by omega), e, mreadLE, Option.map_some]
theorem flat_range {s : State} {k : Nat × Nat} (a n : Nat) (h : s.lineKeys = (List.range n).map (fun i => (a + i, (k.1 * 2 ^ 256 + k.2, a + i)))) (l : Nat)
    (h1 : a ≤ l) (h2 : l < a + n) : tfind s.lineKeys l = some (k.1 * 2 ^ 256 + k.2, l) := by
  rw [h]
  clear h
  induction n generalizing a with
  | zero => omega
  | succ n ih =>
    rw [List.range_succ_eq_map, List.map_cons, List.map_map]
    by_cases e : a + 0 = l
    · subst e; simp [tfind]
    · have := ih (a + 1) (by omega) (by omega)
      rw [tfind, if_neg e, ← this]
      congr 1
      apply List.map_congr_left
      intro i _
      simp; omega
def dst0 : PostDst := { who := who0, mirror := 59, bound := 150, done := false }
/-- One sub-tick later, with posts under way. -/
def posting (t : Tile) (ps : List Post) : State := { mach t with now := 1, posts := ps }
/-- A mirror bound to out-slot 0 of tile 0 of package 1, never written or written with sequence 7. -/
def peerMir (seen : Bool) : Mirror := { mirrorInit with binding := 0x8000200000000000, seen := seen, seq := 7 }
/-- Link 0 alone is named for package 1; with the links given. -/
def peering (links : BitVec 16) (m : Mirror) : State := { posting { t0 with mirs := [(59, m)] } [] with routes := [(1, 1)], links := links }
theorem witness_DeliveriesReachMirrors :
    (let s := posting t0 [postOf false];
      (postOf false).id ≠ 0 ∧ s.posts.find? (fun r => r.id == (postOf false).id) = some (postOf false) ∧ (postOf false).sent = true
        ∧ (postOf false).held = false ∧ (postOf false).at_ < s.now
        ∧ ∃ d, (postOf false).dsts[0]? = some d ∧ d.done = false ∧ earlierPost s (postOf false) d = false ∧ sampledNow s d = false
          ∧ noPath s (postOf false) d = false ∧ physOf s d.who = some 0 ∧ takesPosts (s.tile 0) = true)
    ∧ (∀ s ∈ [posting { t0 with mirs := [(59, { mirrorInit with sampled := 1 })] } [postOf false],
          posting t0 [{ postOf false with id := 6 }, postOf false], { s0 with posts := [postOf false] }],
        s.posts.find? (fun r => r.id == (postOf false).id) = some (postOf false)
          ∧ ∃ d, (postOf false).dsts[0]? = some d
            ∧ (earlierPost s (postOf false) d = true ∨ sampledNow s d = true ∨ s.now ≤ (postOf false).at_))
    ∧ (∀ s ∈ [peering 1 (peerMir true), peering 1 (peerMir false)], ∃ r, (peerLive s ++ peerSaved s)[0]? = some r ∧ physOf s r.dst.who = some 0
        ∧ (timeBase s 0 s.now).toNat + 40 < 2 ^ 64 ∧ peerRoute s r = true ∧ sampledNow s r.dst = false ∧ takesPosts (s.tile 0) = true)
    ∧ (∃ r, (peerLive (peering 2 (peerMir true)) ++ peerSaved (peering 2 (peerMir true)))[0]? = some r ∧ r.held = some 7
        ∧ peerRoute (peering 2 (peerMir true)) r = false)
    ∧ (let s := posting t0 [postOf true];
        s.posts.find? (fun r => r.id == (postOf true).id) = some (postOf true) ∧ (postOf true).held = true
          ∧ (postOf true).src = some (who0, 3) ∧ (postOf true).sent = true ∧ waitsDone s who0 (postOf true).waits = true) := by
  refine ⟨⟨by decide, by decide +kernel, by decide, by decide, by decide, dst0, ?_⟩, ?_, ?_, ?_, ?_⟩
  · decide +kernel
  · intro s h
    simp only [List.mem_cons, List.not_mem_nil, or_false] at h
    rcases h with rfl | rfl | rfl <;> exact ⟨by decide +kernel, dst0, by decide +kernel⟩
  · intro s h
    simp only [List.mem_cons, List.not_mem_nil, or_false] at h
    rcases h with rfl | rfl <;> exact ⟨_, rfl, by decide +kernel⟩
  · exact ⟨_, rfl, rfl, by decide +kernel⟩
  · decide +kernel
/-- A post to tile 0 of a pack that is saved at DVA 0, its image's mirror 59 written with the sequence given. -/
def imaged (killing : Bool) (stamp seq : Nat) : State :=
  { p0 with
    now := 1, tiles := [], posts := [postOf false], mem := mwriteLE tables 0x7580 96 (seq * 2 ^ 512 + stamp * 2 ^ 576)
    lineKeys := written 0x7580 2
    ctxs := [{ id := 1, life := 0, slot := some 0x20000, packid := 0, ntiles := 1, key := 5, seed := 0, mask := 1, save := 0, bound := [(0, 0)]
               saved := [0], kept := [], start := some 0, killing := killing, lost := 0 }] }
theorem witness_DeliveriesReachMirrors_images :
    (∀ e ∈ [(false, 1, 0, true), (false, 1, 1, false)], let s := imaged e.1 e.2.1 e.2.2.1
      s.posts.find? (fun r => r.id == (postOf false).id) = some (postOf false) ∧ (postOf false).at_ < s.now ∧ earlierPost s (postOf false) dst0 = false
        ∧ physOf s who0 = none ∧ ∃ c ∈ s.ctxs, (∀ e ∈ s.ctxs, e.id = who0.ctx → e = c) ∧ c.id = who0.ctx ∧ c.life = who0.life
          ∧ c.killing = false ∧ who0.idx ∈ c.saved ∧ let v := e.2.2.1 * 2 ^ 512 + e.2.1 * 2 ^ 576
            dvaRead s c.id (c.save + BitVec.ofNat 64 (who0.idx * 0x600000) + BitVec.ofNat 64 (0x5800 + 128 * dst0.mirror)) 96 = some v
            ∧ decide (v / 2 ^ 576 % 2 ^ 64 = 0 ∨ 1 ≤ ((postOf false).seq - BitVec.ofNat 32 (v / 2 ^ 512)).toNat
                ∧ ((postOf false).seq - BitVec.ofNat 32 (v / 2 ^ 512)).toNat < 2 ^ 31) = e.2.2.2)
    ∧ (let s := imaged true 0 0; physOf s who0 = none ∧ ∀ c ∈ s.ctxs, c.id = who0.ctx → c.killing = true) := by
  refine ⟨?_, by decide +kernel⟩
  intro e h
  have read : ∀ stamp seq, Flat (imaged false stamp seq) (1, 2) → mreadLE (imaged false stamp seq).mem 0x7580 96 = seq * 2 ^ 512 + stamp * 2 ^ 576 →
      dvaRead (imaged false stamp seq) 1#16 0x7580#64 96 = some (seq * 2 ^ 512 + stamp * 2 ^ 576) := fun stamp seq fl h => by
    rw [← h]
    exact dvaRead_flat fl rfl 0x7580 0x7600 (by decide) (fun l h1 h2 => flat_range (k := (1, 2)) 0x1D6 2 rfl l h1 h2) 96 0x7580#64 (by decide) (by decide)
  simp only [List.mem_cons, List.not_mem_nil, or_false] at h
  rcases h with rfl | rfl <;> exact ⟨by decide +kernel, by decide, by decide +kernel, by decide +kernel, _, .head _, by decide +kernel, rfl, rfl, rfl,
    by decide +kernel, read _ _ (by unfold Flat; decide +kernel) (by decide +kernel), by decide +kernel⟩
/-- A sample of mirror 59 at the instant of a post's arrival while another is under way, while none is, and later. -/
def tied (ps : List Post) (at_ : X) : State :=
  posting { t0 with mirs := [(59, { mirrorInit with seen := true, seq := 8, arrival := at_, before := some { mirrorInit.post with seq := 7 } })] } ps
theorem witness_PostsAndSamples_ties : [tied [postOf false] 0, tied [] 0, tied [postOf false] 1].map (fun s =>
    decide ((tget mirrorInit s.tl.mirs 59).seen = true ∧ (tget mirrorInit s.tl.mirs 59).arrival = timeBase s s.turn s.now
      ∧ ∃ p ∈ s.posts, ∃ d ∈ p.dsts, d.done = false ∧ d.far = none ∧ d.who = whoOf s.tl ∧ d.mirror = 59)) = [true, false, false]
    ∧ (tget mirrorInit (tied [postOf false] 0).tl.mirs 59).before = some { mirrorInit.post with seq := 7 } := by decide +kernel

/-- A copy of 64 bytes to the last line of the window that lands in the last cycle of the period; one of 1 MiB into the scratchpad;
MATOM of the last dword of a line; a quota that is reached exactly, and one that is passed. -/
theorem witness_MemoryInstructionsAreAccepted : Ready s0 [13]
    ∧ (64 % 64 = 0 ∧ 0 < 64 ∧ 64 ≤ 0x100000 ∧ inOneRegion 0x10FFC0 64 = true ∧ s0.tl.cyc + (4090 + (1 - 1) / 8) < s0.tl.perlen)
    ∧ (0x100000 % 64 = 0 ∧ 0x100000 ≤ 0x100000 ∧ inOneRegion 0 0x100000 = true ∧ s0.tl.cyc + (1 + (16384 - 1) / 8) < s0.tl.perlen)
    ∧ ((rx (mach (tile 0xFFFF8 0 0 0 0)).tl 1).toNat % atomSize .i64 = 0 ∧ 0x10FFC0 ≤ 0x10FFFF)
    ∧ ¬(s0.tl.bind.memquota.toNat < s0.tl.memused + 100) ∧ s0.tl.bind.memquota.toNat < s0.tl.memused + 101
    ∧ enabled s0.tl g0 = true ∧ enabled s0.tl gX = false
    ∧ (¬(0x100040 ≤ 0x100000) ∧ 63 % 64 ≠ 0 ∧ inOneRegion 0xFFFC0 128 = false ∧ ¬(0x110000 : X).toNat ≤ 0x10FFFF
      ∧ (rx (mach (tile 0xFFFFC 0 0 0 0)).tl 1).toNat % atomSize .i64 ≠ 0 ∧ ¬s0.tl.cyc + 4091 < s0.tl.perlen) := by
  refine ⟨?_, ?_⟩
  · unfold Ready; decide
  · decide

def hitEntry : X := 0x8000000000001007
theorem witness_FencesTagsAndTickets : Ready s0 [13, 14]
    ∧ (hitEntry.getLsbD 63 = true ∧ hitEntry.extractLsb' 12 40 = (0x1FFF : X).extractLsb' 12 40)
    ∧ (let s := mach { t0 with tags := [(255, hitEntry)] };
        (tget 0 s.tl.tags 255) = hitEntry ∧ ∀ m, m < 255 → ¬((tget 0 s.tl.tags m).getLsbD 63 = true))
    ∧ (∀ k, k < 256 → ¬((tget 0 s0.tl.tags k).getLsbD 63 = true))
    ∧ ((255 : X).toNat ≤ 255 ∧ 255 < (256 : X).toNat) ∧ ((0xFFFFFFFFFFFFF : X).extractLsb' 52 12 = 0 ∧ (0x10000000000000 : X).extractLsb' 52 12 ≠ 0)
    ∧ ((0xFFFF : X).extractLsb' 16 48 = 0 ∧ (0x10000 : X).extractLsb' 16 48 ≠ 0) ∧ (job0 (.landq 1 9)).op = .landq 1 9 := by
  refine ⟨?_, ?_, ?_, ?_, ?_, ?_, ?_, ?_⟩
  · unfold Ready; decide
  · decide
  · exact ⟨by decide, fun m h => by
      have e : (mach { t0 with tags := [(255, hitEntry)] }).tl.tags = [(255, hitEntry)] := rfl
      have : ¬255 = m := by omega
      simp [e, tget, tfind, this]⟩
  · intro k _
    have e : s0.tl.tags = [] := rfl
    simp [e, tget, tfind]
  all_goals decide

def pageTile (s : State) : State := s.onTile 0 (fun t => { t with pages := [pageOf] })
/-- An operation on line 0x240, whose page the station holds or finds, and on one whose page it does not find; after its issue instant. -/
def withOp (o : MemOp) : State := { pageTile p0 with ops := [o], now := 1 }
def lostOp : MemOp := { opOf .cpy 0x8000000000 [lineOf 0 false] with fault := none }
theorem witness_StationsPerform :
    (∀ k ∈ [OpKind.cpy, .cpyw, .xclr, .xfin, .xacc .f32, .matom .add .i64, .engWrite],
      let o := { opOf k 0x240 [lineOf 0 false] with place := some (.home 0x240 (2 ^ 256 + 2) 9) };
      let s := withOp o;
      let u := (opTarget o 0 s).2;
      s.op o.id = some o ∧ canPerform s o 0 = true ∧ (opTarget o 0 s).1.toOption = some (.home 0x240 (2 ^ 256 + 2, 9))
        ∧ pathUp u o.die (homeDie 0x240) = true ∧ u.badLines = [])
    ∧ (let s := { withOp lostOp with now := 0 }; s.op lostOp.id = some lostOp ∧ s.now ≤ lostOp.at_ ∧ lostOp.id ≠ 0)
    ∧ (let s := withOp lostOp; s.op lostOp.id = some lostOp ∧ canPerform s lostOp 0 = true ∧ (opTarget lostOp 0 s).1.toOption = none ∧ lostOp.fault = none
        ∧ lostOp.kind ≠ .engWrite ∧ s.badLines = [] ∧ (opLook s lostOp 0).1 = none)
    ∧ (let o := opOf (.matom .add .i64) 0x248 [{ lineOf 0 false with route := .stop 0x21 }]; let s := withOp o;
        s.op o.id = some o ∧ canPerform s o 0 = true ∧ (match (opTarget o 0 s).1 with | .error c => c == 0x21 | .ok _ => false) = true ∧ o.fault = none
          ∧ lineDva o 0 = 0x248 ∧ lineDva o 0 &&& ~~~0x3F = 0x240)
    ∧ (let s := pageTile p0;
        ((stationLook s 1 0x240 (s.tile 0).pages).1 = some pageOf ∧ (throughPage s pageOf 0x240 true).isSome = true
          ∧ throughPage { s with live := 0 } pageOf 0x240 true = none)
        ∧ ((stationLook s 1 0x8000000000 (s.tile 0).pages).1 = none ∧ s.badLines = [] ∧ physOf s who0 = some 0))
    ∧ (lineRoute (opOf .cpy 0 [{ lineOf 0 false with route := .to (.remote 7) }]) 0 = .to (.remote 7)
        ∧ lineRoute (opOf .cpy 0 [{ lineOf 0 false with route := .stop 0x20 }]) 0 = .stop 0x20
        ∧ lineRoute lostOp 0 = .unset)
    ∧ (let o := opOf .cpy 0x240 [{ lineOf 0 false with performed := true }];
        (withOp o).op o.id = some o ∧ opLands o.kind = true ∧ ∃ l, o.lines[0]? = some l ∧ l.performed = true)
    ∧ (let o := { opOf .cpyw 0x240 [lineOf 0 false] with held := true }; (withOp o).op o.id = some o ∧ o.held = true ∧ waitsDone (withOp o) o.who o.waits = true
        ∧ let q := { o with waits := [{ scope := .package, ev := { kind := 1, id := 3, cyc := 0 } }] };
          (withOp q).op q.id = some q ∧ q.held = true ∧ waitsDone (withOp q) q.who q.waits = false)
    ∧ (let o := opOf .touch 0x240 [lineOf 0 false]; (withOp o).op o.id = some o ∧ o.kind = .touch ∧ physOf (withOp o) o.who = some 0)
    ∧ (let o := { opOf .cpyw 0x240 [{ lineOf 0 false with dropped := true }] with fault := some (0x20, 0x240) };
        (withOp o).op o.id = some o ∧ o.reported = false ∧ reportsLater o.kind = true ∧ o.lines.all lineDone = true
          ∧ physOf (withOp o) o.who = some 0 ∧ ((withOp o).tile 0).state ≠ 0) := by
  refine ⟨?_, ?_, ?_, ?_, ?_, ?_, ⟨?_, ?_, { lineOf 0 false with performed := true }, ?_⟩, ?_, ?_, ?_⟩ <;> decide +kernel
/-- An exact cell: a NaN, +∞ and −∞ at once, each alone, a finite sum of 0 with and without a term other than −0, of −1 unit and the
largest, which overflows; and what is added: a number, −0, an infinity. -/
theorem witness_StationsPerform_cells :
    ([2 ^ 480, 3 * 2 ^ 481].all (fun c => let l : Line := BitVec.ofNat 512 c; l.getLsbD 480 || (l.getLsbD 481 && l.getLsbD 482))) = true
    ∧ (let p : Line := BitVec.ofNat 512 (2 ^ 481); p.getLsbD 480 = false ∧ p.getLsbD 481 = true ∧ p.getLsbD 482 = false)
    ∧ (let n : Line := BitVec.ofNat 512 (2 ^ 482); n.getLsbD 480 = false ∧ n.getLsbD 481 = false ∧ n.getLsbD 482 = true)
    ∧ (∀ e ∈ [(0, 0), (2 ^ 483, 0), (2 ^ 480 - 1, -1), (2 ^ 479 - 1, 2 ^ 479 - 1)], let l : Line := BitVec.ofNat 512 e.1;
        l.getLsbD 480 = false ∧ l.getLsbD 481 = false ∧ l.getLsbD 482 = false ∧ (l.extractLsb' 0 480).toInt = e.2)
    ∧ xaccValue .f32 1 = .fin false 1 (-149) ∧ xaccValue .bf16 0x8000 = .fin true 0 (-133) ∧ xaccValue .f32 0x7F800000 = .inf false := by
  decide +kernel
theorem witness_LandingsWriteTheScratchpad :
    ∀ e ∈ [(JobOp.cpyLand 3 0 [64], OpKind.cpy), (.matomLand 3 64, .matom .add .i64), (.xfinLand 3 64, .xfin)],
      let s := { mach { t0 with jobs := [jobAt 5 2 e.1] } with ops := [opOf e.2 0 [lineOf 9 true]] };
      s.tl.jobs = [jobAt 5 2 e.1] ∧ (jobAt 5 2 e.1).cyc = s.tl.abs ∧ s.op 3 = some (opOf e.2 0 [lineOf 9 true])
        ∧ landsWhole (opOf e.2 0 [lineOf 9 true]) = true := by decide +kernel
/-- A copy of ten lines: its first cycle's eight, and its last's two. -/
theorem witness_LandingsWriteTheScratchpad_groups : ∀ e ∈ [(0, 8), (8, 2)],
    let o := opOf .cpy 0 (List.replicate 10 (lineOf 9 true))
    let j := jobAt 5 2 (.cpyLand 3 e.1 ((List.range e.2).map (fun i => 64 + 64 * i)))
    let s := { mach { t0 with jobs := [j] } with ops := [o] }
    s.tl.jobs = [j] ∧ j.cyc = s.tl.abs ∧ s.op o.id = some o ∧ landsWhole o = true ∧ e.2 ≤ 8 ∧ e.1 + e.2 ≤ o.lines.length := by
  decide +kernel

def msgOf (kind : BitVec 2) (term : X) : Msg :=
  { id := 9, kind := kind, cls := true, term := term, gen := 4, line := 0, ready := true, waits := [], due := 0 }
/-- A port in a state with messages waiting and commands outstanding. -/
def portTile (state : BitVec 3) (outst : BitVec 3) (n : Nat) (full : Bool) (x1 : X) : State := mach { tile x1 0 0 0 0 with
  port := { portInit with state := state, outst := outst, queue := List.replicate n (msgOf 0 1), fullSd := full, fullRv := full } }
theorem witness_LeaseInstructions :
    (∀ s ∈ [portTile 0 0 0 false 1, portTile 0 0 3 true 10000000, portTile 1 0 0 false 1, portTile 0 0 4 false 1, portTile 4 3 3 false 0x100000,
        portTile 4 4 0 false 0x10FFC0, portTile 4 0 4 false 0x10FFC0], Ready s [15] ∧ s.tl.bind.replay = 0)
    ∧ (rx (portTile 0 0 0 false 1).tl 1 ≠ 0 ∧ (rx (portTile 0 0 3 true 10000000).tl 1).toNat ≤ 10000000)
    ∧ (¬(rx (portTile 0 0 0 false 0).tl 1 ≠ 0) ∧ ¬(rx (portTile 0 0 0 false 10000001).tl 1).toNat ≤ 10000000)
    ∧ ((portTile 4 3 3 false 0x100000).tl.port.state = 4 ∧ (portTile 4 3 3 false 0x100000).tl.port.outst ≠ 4
        ∧ ¬4 ≤ (portTile 4 3 3 false 0x100000).tl.port.queue.length ∧ 4 ≤ (portTile 4 0 4 false 0).tl.port.queue.length
        ∧ (portTile 4 4 0 false 0).tl.port.outst = 4)
    ∧ (∀ v ∈ [(0x100000 : X), 0x10FFC0], v.toNat % 64 = 0 ∧ 0x100000 ≤ v.toNat ∧ v.toNat ≤ 0x10FFC0)
    ∧ (∀ v ∈ [(0xFFFC0 : X), 0x110000, 0x100020], ¬(v.toNat % 64 = 0 ∧ 0x100000 ≤ v.toNat ∧ v.toNat ≤ 0x10FFC0)) := by
  refine ⟨?_, ?_, ?_, ?_, ?_, ?_⟩
  · unfold Ready; decide
  · decide
  · decide
  · decide
  · simp
  · simp

def ringOf (kind : BitVec 2) : RingMsg := { who := who0, msg := msgOf kind 10 }
def leaseOfSt (st : LeaseSt) : Lease :=
  { id := 9, who := who0, cls := true, gen := 4, term := 10, accept := 0, st := st, eng := 0, granted := 0, wakeDone := 0, expiry := 0, endAt := 0
    endCode := 5, cause := 0, qpos := 0, cmds := [], run := none, pages := [pageOf], gram := none }
/-- Kennel 0 with messages and leases. -/
def kennelWith (ring : List RingMsg) (ls : List Lease) : State := { p0 with kennels := [(0, { cap := 5, capAt := 0, ring := ring, leases := ls })] }
theorem witness_KennelEvents :
    (∀ r ∈ [true, false], let s := mach { t0 with port := { portInit with queue := [{ msgOf 0 1 with ready := r }] } };
      (s.tile 0).port.queue = [{ msgOf 0 1 with ready := r }] ∧ (s.tile 0).port.slotAt ≤ s.now ∧ s.now < { portInit with slotAt := 1 }.slotAt)
    ∧ (let s := kennelWith [ringOf 0] []; (s.kennel 0).ring = [ringOf 0] ∧ (∀ l ∈ (s.kennel 0).leases, l.id ≠ (ringOf 0).msg.id)
        ∧ classFull (s.kennel 0) (ringOf 0).msg.cls = false ∧ mayLease s who0 (ringOf 0).bindNo = true)
    ∧ (let s := kennelWith [ringOf 0] (List.replicate 32 { leaseOfSt .queued with id := 3 });
        (s.kennel 0).ring = [ringOf 0] ∧ (∀ l ∈ (s.kennel 0).leases, l.id ≠ (ringOf 0).msg.id) ∧ classFull (s.kennel 0) (ringOf 0).msg.cls = true
        ∧ bindNoOf s who0 = some (ringOf 0).bindNo)
    ∧ (∀ k ∈ [(1 : BitVec 2), 2, 3], let s := kennelWith [ringOf k] [leaseOfSt .held];
        (s.kennel 0).ring = [ringOf k] ∧ leaseNamed s 0 (ringOf k) = some (leaseOfSt .held) ∧ NamesOne s 0 (leaseOfSt .held)
          ∧ waitsDone s (ringOf k).who (ringOf k).msg.waits = true)
    ∧ (let s := kennelWith [ringOf 3] []; (s.kennel 0).ring = [ringOf 3] ∧ leaseNamed s 0 (ringOf 3) = none ∧ bindNoOf s who0 = some (ringOf 3).bindNo)
    ∧ (let s := kennelWith [] [leaseOfSt .queued]; canGrant (s.kennel 0) = true ∧ waiting (s.kennel 0) = [leaseOfSt .queued]
        ∧ NamesOne s 0 (leaseOfSt .queued) ∧ (awakeLeases (s.kennel 0)).length < 12)
    ∧ (∀ st ∈ [LeaseSt.waking, .held, .ended], let s := kennelWith [] [leaseOfSt st];
        NamesOne s 0 (leaseOfSt st) ∧ bindNoOf s (leaseOfSt st).who = some (leaseOfSt st).bindNo ∧ (leaseOfSt st).wakeDone ≤ kTime s 0 ∧ (leaseOfSt st).expiry ≤ kTime s 0 ∧ resultUnderWay s (leaseOfSt st) = false)
    ∧ (let l := { leaseOfSt .held with expiry := 1 }; NamesOne (kennelWith [] [l]) 0 l ∧ kTime (kennelWith [] [l]) 0 < l.expiry)
    ∧ (let s := { kennelWith [] [] with now := 1000000 * subTick };
        (s.kennel 0).cap < 6 ∧ (s.kennel 0).capAt + 1000000 ≤ kTime s 0) := by
  unfold NamesOne; decide +kernel

/-! An engine of kennel 0 and a grammar of one state and one symbol, whose one edge is token 0, token 1 ending it; a snapshot of it at 0x300
with that symbol on its stack. -/

def gramNum : Nat := 0x53444731 + 1 * 2 ^ 32 + 2 * 2 ^ 64 + 1 * 2 ^ 96 + 1 * 2 ^ 128 + 1 * 2 ^ 160 + 256 * 2 ^ 224 + 64 * 2 ^ 256 + 128 * 2 ^ 320 + 192 * 2 ^ 384 + 2 ^ 448
def snapNum : Nat := 0x53445331 + 1 * 2 ^ 64 + 0x200 * 2 ^ 128
def gramMem : Memory := mwriteLE (mwriteLE (mwriteLE (mwriteLE (mwriteLE tables 0x200 64 gramNum) 0x240 8 (2 ^ 32)) 0x280 1 1) 0x300 64 snapNum) 0x340 2 1
def engineWith (l : Lease) : State := { kennelWith [] [l] with mem := gramMem, lineKeys := written 0x200 6 }
def blockOf (op tag x : Nat) : Line := BitVec.ofNat 512 (op + tag * 2 ^ 16 + x * 2 ^ 64)
def loaded : Gram := { gramOf 0x200 gramNum with acc := [(0, 1)] }
def sdLease (line : Line) (g : Option Gram) : Lease := { leaseOfSt .held with cls := false, cmds := [(5, line, [])], gram := g }
/-- A GATHER or SCATTER of one row of 64 bytes, its index at 0x100000, its row at 0x100040. -/
def rvBlock (op : Nat) : Line := BitVec.ofNat 512 (op + 64 * 2 ^ 32 + 1 * 2 ^ 48 + 0x100000 * 2 ^ 192 + 0x100040 * 2 ^ 224)
def rvLease (line : Line) : Lease := { leaseOfSt .held with cmds := [(5, line, [])] }
def runOf (line : Line) (w : List Work) : CmdRun :=
  { line := line, started := 0, due := 0, work := w, rows := [], done := 0, ecode := 0, failidx := 0, faildva := 0, nlegal := 0, token := 0, wrote := [] }
def workLease (cls : Bool) (line : Line) (w : List Work) : Lease := { leaseOfSt .held with cls := cls, run := some (runOf line w) }
theorem witness_EngineEvents_retriever :
    (∀ op ∈ [1, 2], let l := rvLease (rvBlock op); Delivered (engineWith l) 0 l true (rvBlock op) ∧ rvCheck (rvBlock op) = none ∧ lineBytes (rvBlock op) 0 1 = op
      ∧ badIndex (engineWith l) l.who (rvBlock op) = none
      ∧ badIndex ((engineWith l).onTile 0 (fun t => { t with badWin := [0x4000] })) l.who (rvBlock op) = some 0x100000)
    ∧ (let b := rvBlock 1 + BitVec.ofNat 512 (16 * 2 ^ 48 + 60 * 2 ^ 192 + 0x200 * 2 ^ 224); let l := rvLease b;
        rvCheck b = none ∧ badIndex ((engineWith l).onTile 0 (fun t => { t with badWin := [0x4001] })) l.who b = some 0x100040
          ∧ rvIdx b / 64 * 64 = 0x100000)
    ∧ (∀ e ∈ [(true, 1), (false, 2)], let l := workLease e.1 (blockOf e.2 0 0) [.maskLine 0x100040 7];
        Working (engineWith l) 0 l e.1 (blockOf e.2 0 0) (.maskLine 0x100040 7) ∧ physOf (engineWith l) l.who = some 0
          ∧ portHeld (engineWith l).now ((engineWith l).tile 0) 0x100040 = false)
    ∧ (∀ e ∈ [(true, 2, Work.scatter 0 0x100040 0x240 (.home 0x240 (2 ^ 256 + 2) 9)), (false, 4, .snapLine 0x240 7)], let l := workLease e.1 (blockOf e.2.1 0 0) [e.2.2];
        Working (engineWith l) 0 l e.1 (blockOf e.2.1 0 0) e.2.2
          ∧ (engTarget 0 l.id 0x240 true (engineWith l)).1.toOption = some (.home 0x240 (2 ^ 256 + 2, 9))
          ∧ badWindow (engineWith l) l.who 0x100040 = false)
    ∧ (let l := workLease true (blockOf 1 3 0) []; NamesOne (engineWith l) 0 l ∧ l.st = .held ∧ bindNoOf (engineWith l) l.who = some l.bindNo) := by
  refine ⟨?_, by decide +kernel, ?_, ?_, ?_⟩
  · intro op h
    simp only [List.mem_cons, List.not_mem_nil, or_false] at h
    rcases h with rfl | rfl <;> exact ⟨⟨by unfold NamesOne; decide +kernel, by decide, by decide, by decide, 5, by decide +kernel⟩, by decide +kernel, by decide +kernel,
      by decide +kernel, by decide +kernel⟩
  · intro e h
    simp only [List.mem_cons, List.not_mem_nil, or_false] at h
    rcases h with rfl | rfl <;>
      exact ⟨⟨_, ⟨by unfold NamesOne; decide +kernel, rfl, rfl, rfl, rfl⟩, rfl, rfl, rfl, rfl⟩, by decide +kernel, by decide +kernel⟩
  · intro e h
    simp only [List.mem_cons, List.not_mem_nil, or_false] at h
    rcases h with rfl | rfl <;>
      exact ⟨⟨_, ⟨by unfold NamesOne; decide +kernel, rfl, rfl, rfl, rfl⟩, rfl, rfl, rfl, rfl⟩, by decide +kernel, by decide +kernel⟩
  · unfold NamesOne; decide +kernel
/-- A lease at work on a command whose last row's index is 5. -/
def rowLease (line : Line) (w : List Work) : Lease := { leaseOfSt .held with run := some { runOf line w with rows := [5] } }
def rowGather (j : Nat) : Work := .gather 0 (0x240 + BitVec.ofNat 64 (64 * j)) (0x100040 + 64 * j)
/-- A GATHER's row of two lines, none read yet; one whose first line could not be read, its second still to come. A SCATTER's row whose
window line fails. A table line that is read, one that fails, one that has no page. -/
theorem witness_EngineEvents_rows :
    (∀ w ∈ [[rowGather 0, rowGather 1], [.lost 0x20 0x240, rowGather 1]], let l := rowLease (rvBlock 1) w
      ∃ r, AtWork (engineWith l) 0 l true r ∧ lineBytes r.line 0 1 = 1 ∧ r.work = w ∧ r.work[1]? = some (rowGather 1) ∧ r.rows = [5])
    ∧ (let l := rowLease (rvBlock 2) [.scatter 0 0x100040 0x240 (.home 0x240 (2 ^ 256 + 2) 9)]
       let s := (engineWith l).onTile 0 (fun t => { t with badWin := [0x4001] })
       ∃ r, AtWork s 0 l true r ∧ lineBytes r.line 0 1 = 2 ∧ r.work = [.scatter 0 0x100040 0x240 (.home 0x240 (2 ^ 256 + 2) 9)] ∧ r.rows = [5]
         ∧ badWindow s l.who 0x100040 = true)
    ∧ (let l := workLease true (rvBlock 1) []
       let s := engineWith l
       let t := { s with badLines := [9] }
       NamesOne s 0 l ∧ NamesOne t 0 l ∧ (engTarget 0 9 0x240 false s).1.toOption = some (.home 0x240 (2 ^ 256 + 2, 9))
         ∧ Machine.failing (engTarget 0 9 0x240 false s).2 0x240 = false ∧ Machine.failing (engTarget 0 9 0x240 false t).2 0x240 = true ∧ l.cls = true
         ∧ (match (engTarget 0 9 0x8000000000 false s).1 with | .error c => c == 0x20 | .ok _ => false) = true) := by
  refine ⟨?_, ?_, ?_⟩
  · intro w h
    simp only [List.mem_cons, List.not_mem_nil, or_false] at h
    rcases h with rfl | rfl <;> exact ⟨_, ⟨by unfold NamesOne; decide +kernel, rfl, rfl, rfl, rfl⟩, by decide +kernel, rfl, rfl, rfl⟩
  · exact ⟨_, ⟨by unfold NamesOne; decide +kernel, rfl, rfl, rfl, rfl⟩, by decide +kernel, rfl, rfl, by decide +kernel⟩
  · unfold NamesOne; decide +kernel
/-- Blocks that a check refuses, each lease with its idle engine: codes that are not assigned, a row of 32 bytes, a mask below the
window, a snapshot's address within a line. -/
theorem witness_EngineEvents_refused :
    (∀ e ∈ [(rvBlock 3, (1 : BitVec 8)), (rvBlock 2 - BitVec.ofNat 512 (32 * 2 ^ 32), 2)],
      rvCheck e.1 = some e.2 ∧ NamesOne (engineWith (rvLease e.1)) 0 (rvLease e.1) ∧ (rvLease e.1).cmds = [(5, e.1, [])])
    ∧ (∀ e ∈ [(blockOf 6 0 0, (1 : BitVec 8)), (blockOf 2 0 0xFFFC0, 2), (blockOf 4 0 0x20, 2)],
      sdCheck e.1 = some e.2 ∧ NamesOne (engineWith (sdLease e.1 none)) 0 (sdLease e.1 none) ∧ (sdLease e.1 none).cmds = [(5, e.1, [])])
    ∧ (∀ e ∈ [(2, 0x100000), (3, 0), (4, 0x300)], sdCheck (blockOf e.1 0 e.2) = none ∧ (sdLease (blockOf e.1 0 e.2) none).gram = none)
    ∧ (0x110000 < sdOperand (blockOf 2 0 0x110000) + 64 * ((loaded.vocab + 511) / 512) ∧ sdCheck (blockOf 2 0 0x110000) = none)
    ∧ (sdCheck (blockOf 3 0 2) = none ∧ loaded.vocab ≤ sdOperand (blockOf 3 0 2)) := by
  refine ⟨fun e h => ?_, fun e h => ?_, by decide +kernel, by decide +kernel, by decide +kernel⟩ <;>
    simp only [List.mem_cons, List.not_mem_nil, or_false] at h
  · rcases h with rfl | rfl <;> exact ⟨by decide +kernel, by unfold NamesOne; decide +kernel, rfl⟩
  · rcases h with rfl | rfl | rfl <;> exact ⟨by decide +kernel, by unfold NamesOne; decide +kernel, rfl⟩
/-- What an engine's reads ask for or give. -/
def needs {α : Type} : Ask α → List X
  | .need l => l
  | _ => []
def fails {α : Type} : Ask α → Option (BitVec 8 × X)
  | .fail f => some f
  | _ => none
def gives {α : Type} : Ask α → Option α
  | .ok a => some a
  | _ => none
def gramGiven (a : Ask SdRead) : Option Gram :=
  match a with
  | .ok (.gram g) => some g
  | _ => none
def edgesGiven (a : Ask SdRead) : Option (Gram × List Edge) :=
  match a with
  | .ok (.edges g es) => some (g, es)
  | _ => none
/-- Lines that have been read, from the numbers that they hold. -/
def gotAll (l : List (Nat × Nat)) : Got := l.map (fun e => (BitVec.ofNat 64 e.1, 0, BitVec.ofNat 512 e.2))
/-- The grammar's header, its accepting set, its index entry and its edge; the snapshot's header and its stack. -/
def gotHead : Nat × Nat := (0x200, gramNum)
def gotAcc : Nat × Nat := (0x280, 1)
def gotIndex : Nat × Nat := (0x240, 2 ^ 32)
def gotEdge : Nat × Nat := (0x2C0, 0)
theorem witness_EngineEvents_bytes :
    gives (gotBytes (gotAll [gotHead]) 0x200 64) = some gramNum ∧ fails (gotBytes [(0x200, 0x20, 0)] 0x200 64) = some (0x20, 0x200)
    ∧ needs (gotBytes [] 0x200 64) = [0x200]
    ∧ gramOk gramNum (gramOf 0x200 gramNum) = true ∧ gramOk 0 (gramOf 0 0) = false
    ∧ gives (gotBytes (gotAll [gotHead, gotAcc]) (0x200 + BitVec.ofNat 64 (gramNum / 2 ^ (8 * 0x28) % 2 ^ (8 * 8)))
        ((gramNum / 2 ^ (8 * 0x10) % 2 ^ (8 * 4) + 7) / 8)) = some 1
    ∧ gives (gotBytes (gotAll [(0, 0)]) 0 64) = some 0 ∧ gives (gotBytes (gotAll [(0, 0)]) 0 0) = some 0 := by decide +kernel
/-- An index entry with a bit beyond its fields, one of an edge too many, one whose edge meets 23:R323, and whose edge does not. -/
theorem witness_EngineEvents_entries :
    let at_ := loaded.gbase + BitVec.ofNat 64 (loaded.indexoff + 8 * (loaded.s * (loaded.nsym + 1) + gramTop loaded))
    (∀ e ∈ [(2 ^ 48, false), (2 ^ 33, false), (2 ^ 32, true)], gives (gotBytes (gotAll [(0x240, e.1)]) at_ 8) = some e.1
      ∧ decide (e.1 / 2 ^ 48 = 0 ∧ e.1 % 2 ^ 32 + e.1 / 2 ^ 32 % 2 ^ 16 ≤ loaded.nedge) = e.2)
    ∧ (∀ w ∈ [0, 2 ^ 22], gives (gotBytes (gotAll [gotIndex, (0x2C0, w)]) at_ 8) = some (2 ^ 32)
        ∧ gives (gotBytes (gotAll [gotIndex, (0x2C0, w)]) (loaded.gbase + BitVec.ofNat 64 (loaded.edgeoff + 16 * 0)) (16 * 1)) = some w)
    ∧ edgeOk loaded (edgeOf 0) = true ∧ (2 ^ 22 / 2 ^ 22 % 2 ^ 10 ≠ 0) := by decide +kernel
/-- A snapshot's header that is none, one of depth 1 in state 0; its stack holds symbol 1, or 0. -/
theorem witness_EngineEvents_snapshots :
    gives (gotBytes (gotAll [(0x300, 0)]) (BitVec.ofNat 64 0x300) 64) = some 0 ∧ snapOk 0 = false ∧ snapOk snapNum = true
    ∧ snapNum / 2 ^ 64 % 2 ^ 16 = 1 ∧ snapNum / 2 ^ 32 % 2 ^ 32 < loaded.nstate
    ∧ ∀ y ∈ [1, 0], let got := gotAll [(0x300, snapNum), (0x340, y), gotHead, gotAcc]
        gives (gotBytes got (BitVec.ofNat 64 0x300) 64) = some snapNum ∧ gives (gotBytes got (BitVec.ofNat 64 (0x300 + 64)) (2 * 1)) = some y
          ∧ gives (loadGram got (BitVec.ofNat 64 (snapNum / 2 ^ 128))) = some loaded ∧ (1 ≤ y ∧ y ≤ loaded.nsym ↔ y = 1) := by decide +kernel
theorem witness_EngineEvents_delivered :
    (∀ e ∈ [(1, 0x200, none), (5, 0x300, none), (2, 0x100040, some loaded), (3, 0, some loaded), (4, 0x340, some loaded)], let b := blockOf e.1 0 e.2.1
      Delivered (engineWith (sdLease b e.2.2)) 0 (sdLease b e.2.2) false b ∧ sdCheck b = none ∧ lineBytes b 0 1 = e.1 ∧ sdOperand b = e.2.1
        ∧ (sdLease b e.2.2).gram = e.2.2)
    ∧ 0x100040 + 64 * ((loaded.vocab + 511) / 512) ≤ 0x110000 ∧ 0 < loaded.vocab := by
  refine ⟨?_, by decide +kernel⟩
  intro e h
  simp only [List.mem_cons, List.not_mem_nil, or_false] at h
  rcases h with rfl | rfl | rfl | rfl | rfl <;>
    exact ⟨⟨by unfold NamesOne; decide +kernel, by decide, by decide, by decide, 5, by decide +kernel⟩, by decide +kernel, by decide +kernel, by decide +kernel, rfl⟩
/-- A Sheepdog that reads for a command of its block, with the lines read so far. -/
def readLease (op x : Nat) (gram : Option Gram) (got : Got) : Lease :=
  { leaseOfSt .held with cls := false, run := some { runOf (blockOf op 0 x) [] with got := some got }, gram := gram }
/-- The next line that it needs, as it reads it, beside those read so far. -/
def oneMore (l : Lease) (s : State) (got : Got) (a : X) : Got :=
  got ++ [match (engLine 0 l.id a s).1 with | .ok d => (a, 0, d) | .error f => (a, f.1, 0)]
/-- What a read leads to: to another one, to an error, to a configuration, to the edges of an entry. -/
theorem witness_EngineEvents_reading : ∀ e ∈ ([(1, 0x200, none, [], 0x200, 0), (1, 0x200, none, [gotHead], 0x280, 2), (1, 0x240, none, [], 0x240, 1)
    , (5, 0x300, none, [], 0x300, 0), (2, 0x100040, some loaded, [], 0x240, 0), (2, 0x100040, some loaded, [gotIndex], 0x2C0, 3)
    , (3, 0, some loaded, [gotIndex], 0x2C0, 3), (3, 0x1, some { loaded with stack := [1] }, [], 0x240, 3)
    , (3, 0, some { loaded with finished := true }, [gotIndex], 0x2C0, 3)] : List (Nat × Nat × Option Gram × List (Nat × Nat) × X × Nat)),
    let (op, x, gram, lines, a, kind) := e
    let got := gotAll lines
    let l := readLease op x gram got
    let s := engineWith l
    let next := sdAsk (blockOf op 0 x) l.gram (oneMore l s got a)
    Reading s 0 l (blockOf op 0 x) got ∧ needs (sdAsk (blockOf op 0 x) l.gram got) = [a] ∧ op ∈ [1, 2, 3, 5]
      ∧ [!(needs next).isEmpty, (fails next).isSome, (gramGiven next).isSome, (edgesGiven next).isSome] = (List.range 4).map (fun i => i == kind)
      ∧ s.ops = [] := by
  intro e h
  simp only [List.mem_cons, List.not_mem_nil, or_false] at h
  rcases h with rfl | rfl | rfl | rfl | rfl | rfl | rfl | rfl | rfl <;>
    exact ⟨⟨_, ⟨by unfold NamesOne; decide +kernel, rfl, rfl, rfl, rfl⟩, rfl, rfl, rfl, rfl, rfl, rfl⟩, by decide +kernel, by decide +kernel, by decide +kernel, rfl⟩
/-- The edges that those reads give, the tokens that are legal under them; a write that the engine issued at this instant. -/
theorem witness_EngineEvents_legal : Legal loaded [edgeOf 0] 0 ∧ Legal loaded [] 1 ∧ ¬Legal { loaded with stack := [1] } [] 1 ∧ loaded.endtok = 1
    ∧ edgesGiven (sdAsk (blockOf 3 0 0) (some loaded) (gotAll [gotIndex, gotEdge])) = some (loaded, [edgeOf 0])
    ∧ edgesGiven (sdAsk (blockOf 3 0 1) (some { loaded with stack := [1] }) (gotAll [gotIndex])) = some ({ loaded with stack := [1] }, [])
    ∧ (let l := readLease 1 0x200 none []; let s := { engineWith l with ops := [opOf .engWrite 0x240 [lineOf 0 false]] }
       ∃ o ∈ s.ops, o.who = l.who ∧ o.kind = .engWrite ∧ s.now ≤ o.at_) := by
  refine ⟨by unfold Legal; decide +kernel, by unfold Legal; decide +kernel, ?_, by decide +kernel, by decide +kernel, by decide +kernel, by decide +kernel⟩
  rintro ⟨-, ⟨-, -, h⟩ | ⟨h, -⟩⟩
  · simp at h
  · exact h (by decide +kernel)

/-- A tile at cycle 5 and one that no physical tile carries; a post under way to it, its mirror's tile on the same cluster, another, and
another package; a command on its ring, and one in an engine's queue with and without a fence; an operation of four lines: performed, left for
another die, for another package, still here. -/
def far1 : Post := { postOf false with dsts := [dst0, { dst0 with far := some 1, done := false }] }
def spread : MemOp := { opOf .cpyw 0 [{ lineOf 0 false with performed := true }, { lineOf 0 false with route := .to (.home (2 ^ 37) 0 0) }
  , { lineOf 0 false with route := .to (.remote 1) }, { lineOf 0 false with route := .to (.home 64 0 0) }] with id := 3 }
theorem witness_FencesTagsAndTickets_done :
    (physOf s0 { who0 with idx := 7 } = none ∧ physOf s0 who0 = some 0
      ∧ ((s0.tile 0).bindNo ≠ 9 ∧ (s0.tile 0).bindNo = 0 ∧ 4 < (s0.tile 0).abs ∧ ¬5 < (s0.tile 0).abs))
    ∧ (let s := posting t0 [far1]; s.posts.find? (fun p => p.id == 7) = some far1 ∧ far1.sent = true ∧ dst0 ∈ far1.dsts ∧ dst0.done = false
        ∧ dst0.far = none ∧ dst0.who = who0 ∧ far1.scope = .tile ∧ s.posts.find? (fun p => p.id == 8) = none)
    ∧ (let s := kennelWith [ringOf 3] []; ∃ k ∈ s.kennels, ∃ m ∈ k.2.ring, m.msg.id = 9)
    ∧ (∀ ws ∈ [[], [({ scope := .package, ev := { kind := 1, id := 3, cyc := 0 } } : Wait)]],
        let s := kennelWith [] [{ leaseOfSt .held with cmds := [(9, 0, ws)] }]
        (∀ t ∈ s.tiles, ∀ m ∈ t.2.port.queue, m.id ≠ 9) ∧ ∃ k ∈ s.kennels, ∃ l ∈ k.2.leases, ∃ c ∈ l.cmds, c.1 = 9 ∧ c.2.2 = ws)
    ∧ (let s := { s0 with ops := [spread], hostInval := [(9, 3)] }; s.op 3 = some spread ∧ spread.held = false
        ∧ lineRoute spread 1 = .to (.home (2 ^ 37) 0 0) ∧ homeDie (2 ^ 37) ≠ spread.die ∧ lineRoute spread 2 = .to (.remote 1)
        ∧ lineRoute spread 3 = .to (.home 64 0 0) ∧ homeDie 64 = spread.die ∧ (∃ i ∈ s.hostInval, i.2 = spread.id)
        ∧ s.op 4 = none ∧ 1 ∉ [0, 5, 6, 7])
    ∧ waitsDone s0 who0 [] = true := by decide +kernel

/-! Contexts, the debug window, power, the host. -/

def ctxOf (id : BitVec 16) : Ctx :=
  { id := id, life := 0, slot := some 0x20000, packid := 0, ntiles := 1, key := 5, seed := 0, mask := 1, save := 0, bound := [(0, 0)], saved := [], kept := [], start := some 0
    killing := false, lost := 0 }
/-- An instruction of the debug window on tile 0 in a STATE, with DBGXA and DBGXB. -/
def window (state : BitVec 3) (xa xb : X) : State :=
  { p0 with level := true, ctxs := [ctxOf 1], tiles := [(0, { t0 with state := state, dbg := { t0.dbg with xa := xa, xb := xb } })] }
theorem witness_PrivilegedForms :
    (Ready s0 [] ∧ s0.level = false)
    ∧ (∀ s ∈ [window 2 1 0, window 2 0x10001 0, window 3 0 0], s.level = true ∧ enabled s.tl g0 = true)
    ∧ (∃ c, liveCtx (window 2 0x10001 0) ((0x10001 : X).extractLsb' 0 16) = some c) ∧ liveCtx (window 2 2 0) ((2 : X).extractLsb' 0 16) = none
    ∧ (carrier (window 2 0 33) 0 = some 0 ∧ mayTake (window 2 0 33) ((window 2 0 33).tile 0) 33 = true ∧ 33 ≤ 33 ∧ 511 < 128 * liveDies (window 2 511 0)
        ∧ carrier (window 2 511 0) 511 = none ∧ ((window 2 511 0).tile (34 * 15)).state = 5
        ∧ (tileInit.state = 5 ∨ tileInit.state = 0))
    ∧ (∀ c ∈ (window 2 0xFFF 0).ctxs, c.key ≠ (0xFFF : X).extractLsb' 0 12)
    ∧ (∀ c ∈ (window 2 0x8000000000000FFF 0).ctxs, c.key ≠ (0x8000000000000FFF : X).extractLsb' 0 12)
    ∧ hashPlace 0 (window 2 0 64).live 64 = some 64
    ∧ Machine.failing (window 2 0 64) 64 = false ∧ Machine.failing { window 2 0 64 with badLines := [1] } 64 = true ∧ ((59 : BitVec 6).toNat < 60 ∧ 60 ≤ (60 : BitVec 6).toNat)
    ∧ (((0x800001FF0000001F : X).extractLsb' 32 9).toNat < 128 * liveDies (window 2 0x800001FF0000001F 0)
        ∧ (0x8000200000000000 : X).extractLsb' 45 13 ≠ (window 2 0x8000200000000000 0).pkg)
    ∧ (let s := { window 2 0x8000008000000000 0 with live := 1 }; (0x8000008000000000 : X).extractLsb' 45 13 = s.pkg
        ∧ 128 * liveDies s ≤ ((0x8000008000000000 : X).extractLsb' 32 9).toNat)
    ∧ (∀ st ∈ [0#3, 3], (window st 0 0).tl.state = st) ∧ (∀ st ∈ [1#3, 2, 4], (window st 0 0).tl.state ≠ 3 ∧ (window st 0 0).tl.state ≠ 0)
    ∧ (sysUser 0x011 = true ∧ sysPriv 0x800 = true ∧ 0x011 ∉ [0x010#12, 0x020, 0x060, 0x804, 0x805] ∧ 0x800 ∉ [0x010#12, 0x020, 0x060, 0x804, 0x805])
    ∧ ((1 : X).getLsbD 63 = false ∧ (1 : X) ≠ 0)
    ∧ ((frozen false 0).tile 0).state = 3 ∧ (s0.tile 0).state ≠ 3 ∧ (s0.tile 0).state ≠ 0 := by
  refine ⟨?_, ?_, ⟨ctxOf 1, ?_⟩, ?_, ?_, ?_, ?_, ?_, ?_, ?_, ?_, ?_, ?_, ?_, ?_, ?_, ?_, ?_, ?_, ?_⟩
  · unfold Ready; decide
  all_goals decide +kernel

/-- The binding words that MBIND takes, one that it does not; a word that the window does not accept, and the seven forms that it does. -/
theorem witness_PrivilegedForms_words :
    (∀ xa ∈ [(0x8000000000000000 : X), 0x800001FF0000001F, 0x8000200000000000], xa.getLsbD 63 = true ∧ xa &&& 0x7C001E00FFFFFFE0 = 0)
    ∧ (0x8000000000000020 : X) &&& 0x7C001E00FFFFFFE0 ≠ 0 := by simp
theorem witness_PrivilegedForms_window : windowWord 0 = false
    ∧ ∀ e ∈ [(0x00405A2C#32, Instr.sysr gN 5 0x010), (0x01825A2C, .sysw gN 5 0x060), (0x01C60AAC, .mbind gN 3 7), (0x000C0AFC, .preempt gN 6),
        (0x080C0AFC, .kill gN 6), (0x11CC0AFC, .mapset gN 6 7), (0x19CC0AFC, .keysel gN 6 7)],
      windowWord e.1 = true ∧ decodeWords true [e.1] = .ok e.2 := by decide

/-- A bind record of a STATE: context 1, PERLEN 64, a routine of four bytes, a list of one entry. -/
def record (state : Nat) : List Byte :=
  (cellsLE 0 128 (64 + state * 2 ^ 36 + 2 ^ 48 + 0x10000 * 2 ^ 320 + (1 + 4 * 2 ^ 16) * 2 ^ 960)).map (fun c => c.2)
def empty : State := { p0 with tiles := [(0, { tileInit with state := 0 })], lineKeys := written 0x10000 1 }
/-- A launch record in slot 1 whose LSEQ, LSTAT and VERSION are given; and the notifies that wait. -/
def launchMem (lseq lstat version : Byte) : Memory :=
  [(33, 4), (42, 0xF), (0x400, 1), (0x401, 8), (0x800, 7), (0x20000, lseq), (0x20008, 0x31), (0x20009, 0x4C), (0x2000A, 0x48), (0x2000B, 0x4C),
   (0x2000C, version), (0x2000E, 1), (0x20014, 1), (0x20030, lstat), (0x20048, 4), (0x2004C, 64)].filter (fun c => c.2 != 0)
def launch (lseq lstat version : Byte) (notes : List X) (serving : Option Serving) : State :=
  { State.reset with
    boot := { State.reset.boot with stat := 1 }, notifies := notes, serving := serving, live := 1, mem := launchMem lseq lstat version
    keys := [(0, (1, 2))], bar2 := [(0, (1, 0))], lineKeys := written 0x20000 3 }

def killing (t : Tile) : State := { mach t with ctxs := [{ ctxOf 1 with killing := true }] }
theorem witness_SavesKillsAndHolds :
    (let s := mach { t0 with state := 4, phase := .saving }; (s.tile 0).state = 4 ∧ outstanding s (whoOf (s.tile 0)) = false
      ∧ (∃ c ∈ ({ s with ctxs := [ctxOf 1] } : State).ctxs, ofCtx c (s.tile 0) = true)
      ∧ outstanding { s with ops := [opOf .cpyw 0 [lineOf 0 false]] } (whoOf (s.tile 0)) = true
      ∧ (s.tile 0).port.queue = [] ∧ { portInit with queue := [msgOf 0 1] }.queue ≠ [])
    ∧ (beingKilled (killing t0) t0.bind.ctx = true ∧ takesPosts t0 = true ∧ takesPosts { t0 with state := 0, phase := .off } = false)
    ∧ (issuing { t0 with issued := true } = true ∧ { t0 with issued := true }.clk.droop = false ∧ 16 ≤ t0.clk.since + 1
        ∧ { t0.clk with since := 14 }.since + 1 < 16)
    ∧ (let s := mach { t0 with phase := .held }; (s.tile 0).phase = .held ∧ (s.tile 0).state = 2 ∧ ∀ j ∈ (s.tile 0).jobs, (s.tile 0).abs ≤ j.cyc)
    ∧ (issuing (s0.tile 0) = true ∧ (s0.tile 0).issued = false ∧ (s0.tile 0).clk.stretched = false ∧ 16 ≤ (s0.tile 0).clk.since)
    ∧ { t0.clk with since := 15 }.since < 16
    ∧ (let s := killing { t0 with phase := .off, state := 3 };
        s.ctxs.find? (fun d => d.id == 1 && d.killing) = some { ctxOf 1 with killing := true }
          ∧ (∀ e ∈ s.tiles, ofCtx { ctxOf 1 with killing := true } e.2 = true → e.2.phase = .off ∧ e.2.state ≠ 1 ∧ e.2.state ≠ 2 ∧ e.2.state ≠ 4)
          ∧ ∀ o ∈ s.ops, o.who.ctx = 1 → o.who.life = (ctxOf 1).life → o.lines.all lineDone = true) := by
  refine ⟨?_, ?_, ?_, ?_, ?_, ?_, ?_⟩ <;> decide +kernel

/-- At the end of a period: a save is due; a migration to physical tile 1, which is empty, and to one of another band set. -/
def leaving (save : Bool) (m : Option Move) : State := { mach { t0 with saveDue := save, migrateTo := m, perEnd := true } with tiles := [(0, { t0 with saveDue := save, migrateTo := m }), (1, tileInit)] }
theorem witness_SavesKillsAndHolds_moves :
    (leaving true none).tl.saveDue = true
    ∧ (let s := leaving false (some (.mapset 1 false)); s.tl.saveDue = false ∧ migrationTarget s = some 1 ∧ 1 ≠ s.turn ∧ s.freq.phase ≠ 2
        ∧ s.tl.migrateTo = some (.mapset 1 false) ∧ (s.tile 1).state = 5 ∧ s.tl.arr.ashape &&& ~~~(s.tile 1).arr.bandOk = 0)
    ∧ (let s := leaving false (some .thermal); migrationTarget s = some 1)
    ∧ (leaving false none).tl.migrateTo = none := by decide +kernel

/-- Rails and a band's setting at 0 are below the least voltage of every frequency; rails at that voltage are not. -/
def railed (rail : Nat) : State := { mach { t0 with rail := [400, 0, 400, 400] } with freq := { s0.freq with phase := 0, rail := rail, rampFrom := 0 } }
theorem foldl_min_zero (l : List Nat) : l.foldl min 0 = 0 := by induction l <;> simp_all
theorem foldl_rails_zero (f : Nat → List Nat) (l : List Nat) : l.foldl (fun m p => (f p).foldl min m) 0 = 0 := by
  induction l <;> simp_all [foldl_min_zero]
theorem railed_lowest (rail : Nat) : lowestSetting (railed rail) = 0 := by
  have h0 : (railed rail).live.getLsbD (dieOf 0) = true := by show s0.live.getLsbD (dieOf 0) = true; decide
  have h1 : ((railed rail).tile 0).rail.foldl min 500 = 0 := rfl
  unfold lowestSetting
  rw [show List.range 544 = 0 :: (List.range 543).map (· + 1) from List.range_succ_eq_map, List.filter_cons_of_pos (by exact h0),
    List.foldl_cons, h1, foldl_rails_zero]
/-- A changeover under way whose tiles have all switched, and one that a tile in a period has still to make. -/
def changing (chg pending : Nat) : State := mach { t0 with clk := { t0.clk with chg := chg } } |> fun s =>
  { s with freq := { s.freq with phase := 2, pending := pending, target := 425, chg := 1 } }
theorem witness_PowerEvents :
    (∀ f, max (railed 0).freq.rail (lowestSetting (railed 0)) < Config.vmin f
      ∧ Config.vmin f ≤ max (railed (Config.vmin f)).freq.rail (lowestSetting (railed (Config.vmin f))))
    ∧ (0 < 544 ∧ (railed 0).live.getLsbD (0 / 136) = true ∧ 0 ∈ ((railed 0).tile 0).rail)
    ∧ (425 ≤ 425 ∧ 1000 ≤ 1000 ∧ 1000 % 25 = 0 ∧ (400 < 425 ∨ 1000 < 400 ∨ 400 % 25 ≠ 0) ∧ (1025 < 425 ∨ 1000 < 1025 ∨ 1025 % 25 ≠ 0))
    ∧ (¬({ s0 with boostEn := false }.boostEn = true) ∧ { s0 with boostEn := true }.boostEn = true ∧ s0.occause.extractLsb' 0 12 = 0)
    ∧ (∀ f, let s := { railed (Config.vmin f) with freq := { (railed (Config.vmin f)).freq with phase := 1, target := f } };
        s.freq.phase = 1 ∧ Config.vmin s.freq.target ≤ max (s.freq.rail + (s.now / subTick - s.freq.rampFrom) / 1000) (lowestSetting s))
    ∧ (∀ p ∈ [0, 850], let s := changing 1 p; s.freq.phase = 2 ∧ s.freq.pending = p ∧ ∀ e ∈ s.tiles, clockIdle e.2 = true ∨ e.2.clk.chg = s.freq.chg)
    ∧ (let s := changing 0 0; s.freq.phase = 2 ∧ ¬∀ e ∈ s.tiles, clockIdle e.2 = true ∨ e.2.clk.chg = s.freq.chg)
    ∧ (s0.tile 0).state = 2 ∧ thermalTarget { s0 with temps := tset s0.temps 0 105 } 0 = some 1
    ∧ (let s := { s0 with tiles := (0, t0) :: (List.range 33).map (fun i => (i + 1, t0)) };
        (s.tile 0).state = 2 ∧ thermalTarget { s with temps := tset s.temps 0 105 } 0 = none)
    ∧ ¬((s0.tile 1).state = 1 ∨ (s0.tile 1).state = 2 ∨ (s0.tile 1).state = 3)
    ∧ (¬(850 < s0.freq.current ∨ 850 < s0.freq.target ∨ 850 < s0.freq.pending) ∧ 850 < { s0.freq with current := 875 }.current)
    ∧ issuing (s0.tile 0) = true
    ∧ (let l := leaseOfSt .held; let w := { leaseOfSt .waking with id := 8 }; let s := kennelWith [] [l, w];
        w ∈ awakeLeases (s.kennel (4 * 0 + 0)) ∧ 2 < (s.kennel (4 * 0 + 0)).cap ∧ (s.kennel (4 * 0 + 0)).leases.filter (fun m => m.id == w.id) = [w]
          ∧ ∀ m ∈ awakeLeases (s.kennel (4 * 0 + 0)), (m.st = .waking → w.st = .waking) ∧ (m.st = w.st → m ≠ w → m.granted < w.granted)) := by
  refine ⟨fun f => ⟨by rw [railed_lowest]; simp [railed, Config.vmin], by rw [railed_lowest]; simp [railed]⟩, by decide, by decide, by decide,
    fun f => ⟨rfl, ?_⟩, ?_, ?_, ?_, ?_, ?_, ?_, ?_, ?_, ?_⟩
  · simp only [railed]; omega
  all_goals decide

theorem witness_HostEvents :
    hostTarget p0 0x240 true = some (.home 0x240 (2 ^ 256 + 2, 9)) ∧ hostTarget p0 0x40000000 true = none
    ∧ (hostTarget p0 (0x7F / 64 * 64) false = some (.home 0x40 (2 ^ 256 + 2, 1)) ∧ 0x7F % 64 + 1 ≤ 64 ∧ hostTarget p0 0x40000000 false = none)
    ∧ ([(1, (5 : Line))].find? (fun e => e.1 == 0x40 / 64) = some (1, 5) ∧ p0.hostBuf.find? (fun e => e.1 == 0x40 / 64) = none
        ∧ Machine.failing p0 0x40 = false ∧ Machine.failing { p0 with badLines := [1] } 0x40 = true)
    ∧ (9, 0) ∈ ({ p0 with hostInval := [(9, 0)] } : State).hostInval ∧ hashPlace 0 p0.live 0x3FF = some 0x3FF ∧ carrier p0 0 = some 0 := by
  decide +kernel

/-- A post on its way to a tile of die 1 while that die drains. -/
def overDie : State := { s0 with
  now := 1
  tiles := [(0, t0), (136, { t0 with packIdx := 1 })], drain := 2
  posts := [{ postOf false with dsts := [{ who := { who0 with idx := 1 }, mirror := 59, bound := 1500, done := false }] }] }
/-- An image that is no image fails the first check; what a signature that verifies says is the fuses' (log entry 11). -/
theorem witness_ResetsBootAndLinks :
    imageFault [] 0 = some 0x10
    ∧ ({ State.reset.boot with stat := 0x20 }).stat = 0x20 ∧ State.reset.boot.stat ≠ 0x20
    ∧ (State.reset.boot.astat ≠ 1 ∧ State.reset.boot.nonce.length = 32 ∧ State.reset.boot.digest.length = 32)
    ∧ ({ State.reset.boot with astat := 1 }).astat = 1
    ∧ (∀ d ∈ [1, 2, 3], s0.up.getLsbD d = true ∧ s0.drain.getLsbD d = false)
    ∧ (∀ s ∈ [{ s0 with drain := 2 }, overDie], s.up.getLsbD 1 = true ∧ s.drain.getLsbD 1 = true)
    ∧ transitLeft { s0 with drain := 2 } 1 = false ∧ transitLeft overDie 1 = true
    ∧ (∀ n ∈ [(0 : BitVec 4), 2], let s := { s0 with up := 0xD, drain := n }; s.up.getLsbD 1 = false) := by decide +kernel
theorem witness_StepsAnswerAndStayAtRoutineLevel : State.reset.level = false ∧ s0.level = false := by decide
theorem witness_ByteStoresStayCanonical : s0.memOk = true ∧ (due 0x01CC5000).memOk = true
    ∧ (∀ i ∈ [Instr.st g0 .i64 1 2 0, .hostMemoryWrite 0 [1] false, .mask 0 9], (after (exec i s0) (fun _ => ())).isSome = true)
    ∧ (after (step (due 0x01CC5000)) (fun _ => ())).isSome = true := by decide +kernel

/-! ### One step on a small state

The expected values are those the manual prints, or are worked out by hand from its tables. -/

/-- 05:R90: sums and differences wrap; a source may be the destination; x0 takes nothing. -/
theorem test_add_wraps : after (exec (.add g0 1 1 2) (mach (tile 0xFFFFFFFFFFFFFFFF 3 0 0 0))) (fun t => rx t.tl 1) = some 2 := by decide
theorem test_sub_order : after (exec (.sub g0 5 2 1) s0) (fun t => rx t.tl 5) = some 0xFFFFFFFFFFFFFFFC := by decide
theorem test_x0_discards : after (exec (.add g0 0 1 2) s0) (fun t => (rx t.tl 0, t.tl.pc)) = some (0, 4) := by decide
theorem test_sar_amount : after (exec (.sar g0 5 1 2) (mach (tile 0x8000000000000000 65 0 0 0))) (fun t => rx t.tl 5) = some 0xC000000000000000 := by decide
theorem test_min_is_signed : after (exec (.min g0 5 1 2) (mach (tile 0xFFFFFFFFFFFFFFFF 3 0 0 0))) (fun t => rx t.tl 5) = some 0xFFFFFFFFFFFFFFFF := by decide
theorem test_clz_zero : after (exec (.clz g0 5 3) s0) (fun t => rx t.tl 5) = some 64 := by decide
theorem test_nullified : after (exec (.add gX 5 1 2) s0) (fun t => (rx t.tl 5, t.tl.pc)) = some (0, 4) := by decide
/-- 05:R93: −7 by 2, and what division by 0 gives. -/
theorem test_div : after (exec (.div g0 5 1 2) (mach (tile (-7) 2 0 0 0))) (fun t => t.tl.pend.map (fun p => (p.due, p.val.extractLsb' 0 64))) = some [(24, -3)] := by
  decide +kernel
theorem test_rem : after (exec (.rem g0 5 1 2) (mach (tile (-7) 2 0 0 0))) (fun t => t.tl.pend.map (fun p => p.val.extractLsb' 0 64)) = some [-1] := by decide +kernel
theorem test_divn_by_zero : after (exec (.divn g0 5 1 3) s0) (fun t => t.tl.pend.map (fun p => p.val.extractLsb' 0 64)) = some [0xFFFFFFFFFFFFFFFF] := by decide +kernel
/-- 05:R94: a guard is written whole. -/
theorem test_glt : after (exec (.glt g0 3 2 1) s0) (fun t => rg t.tl 3) = some 0xFFFFFFFFFFFFFFFF := by decide
/-- 05:R96: an address that is not a multiple of the size is cause 0x17 with the address, imm7 scaled. -/
theorem test_ld_misaligned : after (exec (.ld g0 .i64 5 1 1) (mach (tile 3 0 0 0 0))) (fun t => t.tl.slip.map (fun s => (s.cause, s.info))) = some (some (0x17, 11)) := by
  decide
/-- 05:R96, R97: .i32 is sign-extended, little-endian. -/
theorem test_ld_extends : (runJob 0 (jobAt 5 2 (.load 5 4 true 8)) (mach { t0 with mem := mwriteLE [] 8 4 0x80000001 })).tl.pend.map
    (fun p => p.val.extractLsb' 0 64) = [0xFFFFFFFF80000001] := by decide +kernel
/-- 05:R102, 04:R78: a branch of PBR leaves three delay slots and goes to its own address plus four times imm10. -/
theorem test_pbr : after (exec (.pbr g0 1 2) (mach { t0 with pc := 64 })) (fun t => t.tl.pend.map (fun p => (p.due, p.val.extractLsb' 0 64))) = some [(6, 72)] := by decide +kernel
theorem test_br : after (exec (.br g0 1) (mach { t0 with regs := { t0.regs with b := t0.regs.b.set 1 64 } }))
    (fun t => (t.tl.redirect, t.tl.pc)) = some (some { slots := 2, target := some 64 }, 4) := by decide
/-- 05:R114: TRAP is cause 0x30 with its number. -/
theorem test_trap : after (exec (.trap g0 9) s0) (fun t => t.tl.slip.map (fun s => (s.cause, s.info))) = some (some (0x30, 9)) := by decide
/-- 06:R123: after ERET a slip of cause 0x16 occurs again, unless the handler has changed what the instruction reads; so does one
of cause 0x01, a LOOP where the loop stack that it found full is empty now. -/
theorem test_busy_again : [(0x00825010, 7), (0x00825010, 8), (0x00825011, 7)].map (fun e =>
    after (exec .eret (busyTrap e.1 e.2)) (fun t => recurs (nextCycle t.tl) 0x16)) = [some (some 1), some none, some none] := by decide +kernel
theorem test_loop_again : after (exec (.loop g0 1 1) (again 0x01 9)) (fun t => t.tl.slip.map (fun s => (s.cause, s.info))) = some (some (0x01, 9)) := by
  decide +kernel
/-- 24:R336: a shed to cap 5 ends the one lease. 25:R341: a droop after the issue stretches the next cycle. -/
theorem test_shed_ends_one : after (exec (.currentAlarm 0 1) { kennelWith [] [leaseOfSt .held] with kennels := [(0, { cap := 6, capAt := 0, ring := [], leases := [leaseOfSt .held] })] })
    (fun t => ((t.kennel 0).cap, (t.kennel 0).leases.map (fun l => l.st))) = some (5, [.ended]) := by decide +kernel
theorem test_droop_next : after (exec (.droopStretch 0) (mach { t0 with issued := true })) (fun t => (t.tl.clk.stretched, (nextCycle t.tl).clk.stretched)) = some (false, true) := by
  decide +kernel
/-- 23:R329, R330: the end token ends, and a snapshot's header holds that. -/
theorem test_snapshot_header : let h := snapHead { loaded with finished := true, stack := [1, 2] }
    [h.extractLsb' 0 32, h.extractLsb' 32 32, h.extractLsb' 64 32, h.extractLsb' 128 32] = [0x53445331, 0, 0x00010002, 0x200] := by decide +kernel
/-- 02:R46: PREEMPT in a routine. -/
theorem test_privileged : after (exec (.preempt g0 1) s0) (fun t => t.tl.slip.map (fun s => s.cause)) = some (some 0x03) := by decide
/-- 07:R141: .SAT clamps; 07:R152: a scan. -/
theorem test_vadd_sat : after (exec (.vadd g0 .i32 true 3 1 1) (mach (tile 0 0 0 0 0x7FFFFFFF))) (fun t => t.tl.pend.map (fun p => lane p.val 0)) = some [0x7FFFFFFF] := by
  decide +kernel
theorem test_vscan : after (exec (.vscanSum g0 .i32 false 3 1) (mach (tile 0 0 0 0 0x300000001))) (fun t => t.tl.pend.map (fun p => lane p.val 63)) = some [4] := by
  decide +kernel
/-- 09:R189: a named band begins its wake. -/
theorem test_ashape : after (exec (.ashape g0 1) s0) (fun t => (t.tl.arr.band[0], t.tl.arr.band[1], t.tl.arr.ashape)) = some (.waking 2000, .asleep, 1) := by decide
/-- 16:R252: a copy beyond the quota. -/
theorem test_quota : after (exec (.cpy g0 5 3 4 64 100) (mach { t0 with memused := 100 })) (fun t => (t.ops.length, t.tl.pend.map (fun p => p.val.extractLsb' 0 64)))
    = some (0, [0x100000001]) := by decide +kernel
/-- A step fetches at the pc and runs what it finds: 02:R51's ADD. -/
theorem test_step_runs : after (step (due 0x01CC5000)) (fun t => (t.tl.pc, t.tl.issued)) = some (4, true) := by decide +kernel
theorem test_step_first : after (step (State.reset.withFetchWord 32 0x19009008)) (fun t => rx t.tl 9) = some 100 := by decide +kernel

/-! ### The manual's worked values -/

/-- 03, worked conversions. -/
theorem test_conversions : [roundFloat bf16 .ne (valF32 0x3F808000), roundFloat bf16 .ne (valF32 0x3F818000), roundFloat bf16 .up (valF32 0x3F800001),
    roundFloat bf16 .dn (valF32 0xBF800001), roundFloat f16 .ne (.fin false 65520 0), roundFloat f16 .tz (.fin false 65520 0), roundFloat f16 .ne (.fin false 1 (-25)),
    roundFloat f16 .ne (.fin false 3 (-26)), roundFloat e4m3 .ne (.fin false 300 0), roundFloat e4m3 .ne (.fin false 470 0), roundFloat e4m3 .ne (.inf false),
    roundFloat e5m2 .ne (.fin false 60000 0), roundFloat e5m2 .ne (.fin false 62000 0), roundFloat e2m1 .ne (.fin false 5 (-1)), roundFloat e2m1 .ne (.fin true 7 0)]
    = [0x3F80, 0x3F82, 0x3F81, 0xBF81, 0x7C00, 0x7BFF, 0, 1, 0x79, 0x7E, 0x7F, 0x7B, 0x7C, 4, 0xF] := by decide +kernel
/-- 03, worked encoding of an SE4 block: 127, 0x67, then the eight bytes. -/
theorem test_se4_block : seEncode .se4 ([(false, 3072), (true, 512), (false, 1280), (false, 0), (false, 2816), (false, 307), (true, 7168), (false, 102), (false, 5120),
    (false, 4608), (true, 0), (false, 256), (false, 1024), (false, 1024), (false, 6656), (true, 3584)].map (fun e => Ext.fin e.1 e.2 (-10)))
    = 0xC62208450F160296677F := by decide +kernel
/-- 07, a worked SAMPLE over eight logits: with u = 0x9000_0000_0000_0000 token 2. -/
def logits : Line := BitVec.ofNat 512 (0xBF317218 + 0xBFB17218 * 2 ^ 64 + 0x7FC00000 * 2 ^ 96 + 0xC0051592 * 2 ^ 160 + 0x3F000000 * 2 ^ 192 + 0xFF800000 * 2 ^ 224)
theorem test_sample_masked_out : sampleResult { sampleOf 8 with ctl := ofLanes (fun i => if i = 6 then 0x3F800000 else 0), lines := [(0, logits)] } = (0x2FFFFFFFF, 0) := by
  decide +kernel
theorem test_sample_k1 : sampleResult { sampleOf 8 with ctl := ofLanes (fun i => if i = 6 then 0x3F800000 else if i = 7 then 1 else 0), lines := [(0, logits), (0x100000, 0xBF)] }
    = (0x100000001, 0xFFFFFFFFFFFFFFFF) := by decide +kernel
/-- 19: the dies of the four granules under the seed and mask of 15:R240. -/
theorem test_hash_places : [0x400, 0x800, 0xC00, 0x1000].map (fun d => (hashPlace 0x9E3779B900000005 0b1011 d).map homeDie) = [some 0, some 3, some 0, some 1] := by
  decide +kernel

/-- 08:R180, cases A to E: one element of an accumulating landing, from the row, column 5's weights, the outliers and the element before. -/
def r180 (row w3 : Nat) (outl : List X) (acc : W32) : W32 :=
  let pl := { planeInit with loaded := 1, outl := outl, weights := mwriteLE [] (512 * 5) 8 (0x3F803F803F80 + w3 * 2 ^ 48) }
  rneF32 (exactSum (dotTerms pl (activePairs pl 1 1 0) .bf16 row 5 ++ [valF32 acc]))
def minusZeros : Nat := (List.range 32).foldl (fun v k => v + 0x8000 * 2 ^ (16 * k)) 0
theorem test_r180 : [r180 0x3380CB804B80 0 [] 0x3F800000, r180 0x3380CB804B80 0 [0x3F800000 + 2 * 2 ^ 32 + 5 * 2 ^ 42] 0x3F800000,
    r180 0x3380CB804B80 0x7F80 [] 0x3F800000, r180 minusZeros 0 [] 0x80000000, r180 (minusZeros - 0x8000 * 2 ^ (16 * 9)) 0 [] 0x80000000]
    = [0x3F800000, 0x3F800001, 0x7FC00000, 0x80000000, 0] := by decide +kernel
/-- 05:R116: a control word of STATE 000 leaves the registers of a tile that has halted. 08:R165: a missing band stays missing. -/
theorem test_release_keeps_registers : after (exec (.controlWordWrite 0 0 (record 0)) (mach { t0 with state := 0, phase := .off })) (fun t => (t.tl.state, rx t.tl 1))
    = some (0, 7) := by decide +kernel
theorem test_band_stays_missing : after (exec (.registerWrite 7 0 0xF) (mach { t0 with arr := { arrInit with bandOk := 0xB } })) (fun t => t.tl.arr.bandOk) = some 0xB := by
  decide +kernel

/-! Records of the firmware and the management core. -/

theorem lfield_flat {s : State} {k : Nat × Nat} (f : Flat s k) (hb : s.badLines = []) (hbar : s.bar2 = [(0, (1#16, 0#64))])
    (hk : ∀ l, 0x800 ≤ l → l < 0x803 → tfind s.lineKeys l = some (k.1 * 2 ^ 256 + k.2, l)) (e off n : Nat) (h : 0x20000 ≤ e) (h2 : e + off + n ≤ 0x200C0) :
    lfield s e off n = mreadLE s.mem (e + off) n := by
  have hp : barPlace s (e + off) = some (1#16, BitVec.ofNat 64 (e + off)) := by
    unfold barPlace
    rw [hbar, show (e + off) / 2 ^ 30 = 0 by omega, show (e + off) % 2 ^ 30 = e + off by omega]
    simp [tfind]
  have ht : (BitVec.ofNat 64 (e + off)).toNat = e + off := by simp; omega
  rw [lfield, launchRead, hp]
  show (dvaRead s 1#16 (BitVec.ofNat 64 (e + off)) n).getD 0 = _
  rw [dvaRead_flat f hb 0x20000 0x200C0 (by decide) (fun l h1 h2 => hk l (by omega) (by omega)) n _ (by omega) (by omega), ht]
  rfl

/-- The launch record of slot 1 with some bytes changed and a list of one entry at 0x10000; the clusters of logical tiles 0 to 127. -/
def launched (bytes : Memory) (map : List Nat) : State :=
  { launch 1 0 1 [] none with
    mem := mwrites (launchMem 1 0 1) ([(0x20060, 1), (0x2005A, 1)] ++ bytes), clusterMap := map, lineKeys := written 0x10000 1 ++ written 0x20000 3 }
/-- What 01:R16 to R18 and R20 ask of a record of one tile, its fields given, and its one list word. -/
def judge (s : State) (f e : Nat → Nat → Nat) (word : Nat) : List Bool :=
  let maps := fun dva => (xlate s 1#16 (BitVec.ofNat 64 dva) false).isSome
  [f 8 4 == 0x4C484C31 && f 0x0C 2 == 1,
   decide (1 ≤ f 0x0E 2 ∧ f 0x0E 2 ≤ 512 ∧ f 0x12 2 ≤ 4095) && (tfind s.keys (f 0x12 2)).isSome && decide (1 ≤ f 0x14 1 ∧ f 0x14 1 < 16)
     && decide (∀ d : Fin 4, (f 0x14 1).testBit d = true → s.live.getLsbD d = true) && decide (f 0x15 1 ≤ 7 ∧ f 0x16 2 = 0 ∧ f 0x20 8 % 4096 = 0
       ∧ f 0x28 8 = 0 ∧ f 0x38 8 = 0),
   decide (e 0 8 % 4 = 0 ∧ e 8 4 % 4 = 0 ∧ 4 ≤ e 8 4 ∧ e 8 4 ≤ 131072 ∧ 64 ≤ e 0x0C 4 ∧ e 0x0C 4 ≤ 1048576)
     && decide (e 0x20 2 ≤ 60 ∧ e 0x22 1 < 3 ∧ e 0x23 5 = 0 ∧ e 0x68 24 = 0),
   maps (e 0 8) && maps (e 0x18 8) && maps (f 0x20 8),
   decide (word < 2 ^ 20 ∧ word / 2 ^ 11 % 512 < f 0x0E 2 ∧ word % 64 < 60)]
/-- A record that passes every check; another version, a bit of the header that must be zero, PERLEN 63, a routine at no page, a list
entry of mirror 60; every logical tile of the die on die 3. -/
def records : List (Memory × List Nat × List Bool) :=
  [([], List.range 16, [true, true, true, true, true]), ([(0x2000C, 2)], List.range 16, [false, true, true, true, true]),
   ([(0x20016, 1)], List.range 16, [true, false, true, true, true]), ([(0x2004C, 63)], List.range 16, [true, true, false, true, true]),
   ([(0x20043, 0x40)], List.range 16, [true, true, true, false, true]), ([(0x10000, 60)], List.range 16, [true, true, true, true, false]),
   ([], List.replicate 16 12, [true, true, true, true, true])]
theorem witness_LaunchAndBind_records : ∀ r ∈ records,
    let f := lfield (launched r.1 r.2.1) 0x20000
    let e := lfield (launched r.1 r.2.1) (0x20000 + 0x40 + 0x80 * 0)
    f 0x0E 2 = 1 ∧ e 0x20 2 = 1
    ∧ judge (launched r.1 r.2.1) f e ((dvaRead (launched r.1 r.2.1) 1#16 (BitVec.ofNat 64 (e 0x18 8)) (4 * e 0x20 2)).getD 0) = r.2.2 := by
  intro r hr
  have fl : Flat (launched r.1 r.2.1) (1, 2) := by
    simp only [records, List.mem_cons, List.not_mem_nil, or_false] at hr
    rcases hr with rfl | rfl | rfl | rfl | rfl | rfl | rfl <;> (unfold Flat; decide +kernel)
  have key : ∀ e off n : Nat, 0x20000 ≤ e → e + off + n ≤ 0x200C0 →
      lfield (launched r.1 r.2.1) e off n = mreadLE (launched r.1 r.2.1).mem (e + off) n := fun e off n h1 h2 =>
    lfield_flat fl rfl rfl (fun l h1 h2 => by
      have : l = 0x800 ∨ l = 0x801 ∨ l = 0x802 := by omega
      rcases this with rfl | rfl | rfl <;> rfl) e off n h1 h2
  have word : dvaRead (launched r.1 r.2.1) 1#16 0x10000#64 4 = some (mreadLE (launched r.1 r.2.1).mem 0x10000 4) :=
    dvaRead_flat fl rfl 0x10000 0x10040 (by decide) (fun l h1 h2 => by
      have : l = 0x400 := by omega
      subst this; rfl) 4 0x10000#64 (by decide) (by decide)
  simp (disch := decide) only [judge, key]
  simp only [records, List.mem_cons, List.not_mem_nil, or_false] at hr
  rcases hr with rfl | rfl | rfl | rfl | rfl | rfl | rfl <;> decide +kernel
/-- Of the first record and the last: logical tile 0 is free, no logical tile of the die is. -/
theorem witness_LaunchAndBind_room : let s := launched [] (List.range 16)
    let u := launched [] (List.replicate 16 12)
    128 * liveDies s = 128 ∧ 128 * liveDies u = 128 ∧ s.tiles = [] ∧ lfield s 0x20000 0x14 1 = 1 ∧ lfield u 0x20000 0x14 1 = 1
      ∧ (1 : Nat).testBit (s.clusterMap.getD (0 / 32) 0 / 4) = true
      ∧ ∀ q, q < 4 → (1 : Nat).testBit (u.clusterMap.getD q 0 / 4) = false := by decide +kernel
theorem launched_accepted : launchReject (launched [] (List.range 16)) 1 0x20000 = none
    ∧ lfield (launched [] (List.range 16)) 0x20000 0x30 8 = 0 ∧ lfield (launched [] (List.range 16)) 0x20000 0 8 = 1 := by
  have fl : Flat (launched [] (List.range 16)) (1, 2) := by unfold Flat; decide +kernel
  have key : ∀ e off n : Nat, 0x20000 ≤ e → e + off + n ≤ 0x200C0 →
      lfield (launched [] (List.range 16)) e off n = mreadLE (launched [] (List.range 16)).mem (e + off) n := fun e off n h1 h2 =>
    lfield_flat fl rfl rfl (fun l h1 h2 => by
      have : l = 0x800 ∨ l = 0x801 ∨ l = 0x802 := by omega
      rcases this with rfl | rfl | rfl <;> rfl) e off n h1 h2
  have hn : lfield (launched [] (List.range 16)) 0x20000 0x0E 2 = 1 := by rw [key _ _ _ (by decide) (by decide)]; decide +kernel
  refine ⟨?_, by rw [key _ _ _ (by decide) (by decide)]; decide +kernel, by rw [key _ _ _ (by decide) (by decide)]; decide +kernel⟩
  rw [launchReject, hn, show (List.range 1).map (entryBase 0x20000) = [0x20040] by rfl]
  simp only [List.all_cons, List.all_nil, headerOk, entryOk, entryMapped]
  simp (disch := decide) only [key]
  decide +kernel
/-- A valid image of context 1 at the record's save address. -/
def resumed : State := { empty with mem := mwriteLE tables 0x10008 8 (2 ^ 63 + 1) }
theorem flat_resumed : Flat resumed (1, 2) := by unfold Flat; decide +kernel
theorem witness_LaunchAndBind_image :
    mayBind (resumed.tile 0) = true ∧ recState (record 1) = 1 ∧ bindPlace resumed 0 (bindOf (record 1)) = true
    ∧ firstFault resumed (bindOf (record 1)).ctx (bindOf (record 1)).routine (bindOf (record 1)).routlen.toNat = none
    ∧ firstFault resumed (bindOf (record 1)).ctx (bindOf (record 1)).bindlist (4 * (bindOf (record 1)).nbind.toNat) = none
    ∧ validImage resumed (bindOf (record 1)) = true ∧ firstFault resumed (bindOf (record 1)).ctx (bindOf (record 1)).savearea 0x600000 = none := by
  have h : (bindOf (record 1)).ctx = 1#16 ∧ (bindOf (record 1)).savearea = 0x10000#64 := by decide +kernel
  refine ⟨by decide +kernel, by decide +kernel, by decide +kernel, by decide +kernel, by decide +kernel, ?_, ?_⟩
  · decide +kernel
  · rw [h.1, h.2]; exact firstFault_flat flat_resumed rfl _ _ (by decide)
theorem witness_LaunchAndBind :
    (mayBind (empty.tile 0) = true ∧ recState (record 1) = 1 ∧ (∀ n ∈ [0, 5, 6], recState (record n) = BitVec.ofNat 3 n) ∧ (bindOf (record 1)).ctx = 1
      ∧ firstFault empty (bindOf (record 1)).ctx (bindOf (record 1)).routine (bindOf (record 1)).routlen.toNat = none
      ∧ (bindOf (record 1)).nbind = 1
      ∧ firstFault empty (bindOf (record 1)).ctx (bindOf (record 1)).bindlist (4 * (bindOf (record 1)).nbind.toNat) = none
      ∧ validImage empty (bindOf (record 1)) = false ∧ bindPlace empty 0 (bindOf (record 1)) = true)
    ∧ (mayBind (s0.tile 0) = false ∧ (∀ n ∈ [2, 3, 4, 7], recState (record n) ∈ [2#3, 3, 4, 7]) ∧ bindPlace empty 34 (bindOf (record 1)) = false)
    ∧ (let s := mach { t0 with state := 1, phase := .held }; (s.tile 0).state = 1 ∧ (s.tile 0).bind.start.toNat ≤ (timeBase s 0 s.now).toNat)
    ∧ ((List.replicate 63 (1 : X)).length < 64 ∧ 64 ≤ (List.replicate 64 (1 : X)).length)
    ∧ (let u := launched [] (List.range 16); let s := { u with notifies := [1] }
        s.boot.stat = 1 ∧ s.serving = none ∧ s.notifies = [1] ∧ { s with notifies := [] } = u ∧ newCtx u 1 = 1)
    ∧ (let u := launch 1 2 1 [] none; lfield u 0x20000 0x30 8 ≠ 0)
    ∧ (let u := { launch 1 0 1 [] none with bar2 := [] }; lfield u 0x20000 0x30 8 = 0 ∧ lfield u 0x20000 0 8 ≠ 1
        ∧ lfield u 0 0x30 8 = 0 ∧ lfield u 0 0 8 = 0 ∧ launchReject u 1 0 = some 0x11)
    ∧ (∀ left ∈ [2, 1], let s := { launch 1 0 1 [] (some { value := 1, left := left, at_ := 0 }) with bar2 := [] };
        s.serving = some { value := 1, left := left, at_ := 0 } ∧ 0 ≤ s.now ∧ s.now < 1 ∧ lfield s 0x20000 0 8 ≠ 1)
    ∧ (let u := launched [] (List.range 16); let s := { u with serving := some { value := 1, left := 1, at_ := 0 } };
        { s with serving := none } = u ∧ newCtx s 1 = 1)
    ∧ (let s := { launch 1 1 1 [] none with ctxs := [ctxOf 1] };
        s.ctxs.find? (fun d => d.id == 1) = some (ctxOf 1) ∧ (ctxOf 1).bound.length = (ctxOf 1).ntiles ∧ 0 ≤ s.now / subTick
          ∧ lfield s 0x20000 0x30 8 = 1 ∧ barPlace s (0x20000 + 0x30) = some (1, 0x20030)) := by
  refine ⟨?_, ?_, ?_, ?_, ⟨rfl, rfl, rfl, rfl, ?_⟩, ?_, ?_, ?_, ⟨rfl, ?_⟩, ?_⟩
  all_goals decide +kernel

end Sys2Proof.Tests
end

section
/-! PROOFS. The package after reset (01:R22, R24, R27). -/

namespace Sys2Proof.Machine

/-! ### Reset (01:R22) -/

/-- Every tile is as at power-on: no entry of the tables says otherwise. -/
theorem tile_reset (p : Nat) : State.reset.tile p = tileInit := rfl

/-- Every kennel is as at power-on. -/
theorem kennel_reset (k : Nat) : State.reset.kennel k = kennelInit := rfl

theorem band_arrInit (k : Fin 4) : arrInit.band[k] = .asleep := by
  simp [arrInit]

/-- Settles O59: the package's own fields are those of `State.reset`, every kennel is `kennelInit` and every tile `tileInit`. -/
theorem resetState : Obligations.ResetState := by
  unfold Obligations.ResetState
  refine ⟨rfl, rfl, rfl, rfl, rfl, rfl, rfl, rfl, rfl, rfl, rfl, rfl, rfl, fun k => ?_, fun p => ?_⟩
  · rw [kennel_reset]
    exact ⟨rfl, rfl⟩
  · rw [tile_reset]
    exact ⟨rfl, rfl, rfl, rfl, rfl, rfl, rfl, band_arrInit, rfl, rfl, rfl, rfl, rfl, rfl, rfl⟩

end Sys2Proof.Machine
end

section
/-! PROOFS. What byte stores, tables and a context's bytes read (06:R130, 15:R236). -/

namespace Sys2Proof.Machine

/-! ### Reads of byte stores taken from others -/

theorem mread_not_mem {m : Memory} {a : Nat} (h : ∀ c ∈ m, c.1 ≠ a) : mread m a = 0 := by
  induction m with
  | nil => rfl
  | cons c r ih =>
    obtain ⟨b, v⟩ := c
    have hb : b ≠ a := h (b, v) (by simp)
    simp [mread, hb, ih (fun c hc => h c (by simp [hc]))]

theorem mread_append_left (m : Memory) {r : Memory} {a : Nat} (h : ∀ c ∈ r, c.1 ≠ a) : mread (m ++ r) a = mread m a := by
  induction m with
  | nil => exact mread_not_mem h
  | cons c m ih => simp [mread, ih]

theorem mread_append_right {m : Memory} (r : Memory) {a : Nat} (h : ∀ c ∈ m, c.1 ≠ a) : mread (m ++ r) a = mread r a := by
  induction m with
  | nil => rfl
  | cons c m ih =>
    have hc : c.1 ≠ a := h c (by simp)
    simp [mread, hc, ih (fun d hd => h d (by simp [hd]))]

/-- Cells chosen by their address read as before where the choice holds. -/
theorem mread_filter (m : Memory) (p : Nat → Bool) (a : Nat) :
    mread (m.filter (fun c => p c.1)) a = if p a = true then mread m a else 0 := by
  induction m with
  | nil => simp [mread]
  | cons c m ih =>
    obtain ⟨b, v⟩ := c
    by_cases hb : b = a
    · subst hb
      by_cases hp : p b = true <;> simp [mread, hp, ih]
    · by_cases hp : p b = true <;> simp [mread, hp, hb, ih]

theorem mem_slice {m : Memory} {lo n base : Nat} {c : Host.Cell} (h : c ∈ slice m lo n base) : base ≤ c.1 ∧ c.1 < base + n := by
  obtain ⟨d, _, hd⟩ := List.mem_filterMap.mp h
  simp only [Option.ite_none_right_eq_some, Option.some.injEq] at hd
  obtain ⟨hr, rfl⟩ := hd
  dsimp only
  omega

/-- A byte of a slice is the byte of the memory that it was taken from. -/
theorem mread_slice (m : Memory) (lo base : Nat) {n k : Nat} (h : k < n) : mread (slice m lo n base) (base + k) = mread m (lo + k) := by
  induction m with
  | nil => rfl
  | cons c m ih =>
    obtain ⟨b, v⟩ := c
    by_cases hb : lo ≤ b ∧ b < lo + n
    · have hs : slice ((b, v) :: m) lo n base = (b - lo + base, v) :: slice m lo n base := by simp [slice, hb]
      have he : b - lo + base = base + k ↔ b = lo + k := by omega
      rw [hs, mread, mread, ih]
      simp only [he]
    · have hs : slice ((b, v) :: m) lo n base = slice m lo n base := by simp [slice, hb]
      have he : b ≠ lo + k := by omega
      rw [hs, ih, mread, if_neg he]

theorem mreadLE_one (m : Memory) (a : Nat) : mreadLE m a 1 = (mread m a).toNat := by simp [mreadLE]

/-! ### Tables -/

theorem tfind_map {α : Type} {g : Nat × α → Nat × α} (f : Nat → α → α) (hg : ∀ j v, g (j, v) = (j, f j v)) (t : Table α) (k : Nat) :
    tfind (t.map g) k = (tfind t k).map (f k) := by
  induction t with
  | nil => rfl
  | cons e t ih =>
    obtain ⟨j, v⟩ := e
    rw [List.map_cons, hg, tfind, tfind]
    split
    · rename_i h
      rw [h, Option.map_some]
    · exact ih

/-- Changing every entry changes what a key reads, when the default stays. -/
theorem tget_map {α : Type} {g : Nat × α → Nat × α} (f : Nat → α → α) (hg : ∀ j v, g (j, v) = (j, f j v)) (d : α) (t : Table α)
    (k : Nat) (hd : f k d = d) : tget d (t.map g) k = f k (tget d t k) := by
  rw [tget, tfind_map f hg, tget]
  cases tfind t k <;> simp [hd]

/-- What a change of every entry keeps of each, a key reads as before. -/
theorem tget_map_keeps {α β : Type} {g : Nat × α → Nat × α} (f : Nat → α → α) (hg : ∀ j v, g (j, v) = (j, f j v)) (π : α → β)
    (hp : ∀ j v, π (f j v) = π v) (d : α) (t : Table α) (k : Nat) : π (tget d (t.map g) k) = π (tget d t k) := by
  rw [tget, tfind_map f hg, tget]
  cases tfind t k <;> simp [hp]

/-- A table read from an image gives each of its entries. -/
theorem tget_tableOf {α : Type} [DecidableEq α] {n : Nat} (d : α) (f : Nat → α) {i : Nat} (h : i < n) :
    tget d (tableOf n d f) i = f i := by
  have key : ∀ l : List Nat, tget d (l.filterMap (fun j => if f j = d then none else some (j, f j))) i = if i ∈ l then f i else d := by
    intro l
    induction l with
    | nil => rfl
    | cons j l ih =>
      by_cases hf : f j = d
      · by_cases hj : i = j
        · subst hj
          simpa [hf] using ih
        · simpa [hf, hj] using ih
      · by_cases hj : j = i
        · subst hj
          simp [hf, tget, tfind]
        · simpa [hf, hj, Ne.symm hj, tget, tfind] using ih
  rw [tableOf, key, if_pos (List.mem_range.mpr h)]

/-! ### A context's bytes -/

theorem dvaByte_lt (s : State) (ctx : BitVec 16) (dva : X) : (dvaByte s ctx dva).getD 0 < 256 := by
  have hb : ∀ (l : Line) (k : Nat), lineBytes l k 1 < 256 := fun l k => Nat.mod_lt _ (by decide)
  unfold dvaByte
  split
  · split
    · simp
    · simp [hb]
  · split
    · simp [hb]
    · simp
  · simp

theorem add_ofNat_succ (d : X) (k : Nat) : d + 1 + BitVec.ofNat 64 k = d + BitVec.ofNat 64 (k + 1) := by
  rw [BitVec.add_assoc, BitVec.add_comm 1, BitVec.ofNat_add]
  rfl

/-- The cells of a context's bytes read as those bytes. -/
theorem mread_dvaCells (s : State) (ctx : BitVec 16) (dva : X) (a : Nat) {n k : Nat} (h : k < n) :
    mread (dvaCells s ctx dva a n) (a + k) = BitVec.ofNat 8 ((dvaByte s ctx (dva + BitVec.ofNat 64 k)).getD 0) := by
  induction n generalizing dva a k with
  | zero => omega
  | succ n ih =>
    have hrest : ∀ c ∈ dvaCells s ctx (dva + 1) (a + 1) n, c.1 ≠ a := fun c hc => by
      have := dvaCells_addr s ctx _ _ _ c hc; omega
    rw [dvaCells]
    cases k with
    | zero =>
      rw [BitVec.add_zero]
      split
      · rename_i hb
        rw [hb, mread_not_mem (a := a + 0) hrest]
        rfl
      · rw [mread, if_pos (Nat.add_zero a).symm]
    | succ k =>
      have hk := ih (dva + 1) (a + 1) (Nat.lt_of_succ_lt_succ h)
      rw [show a + 1 + k = a + (k + 1) by omega, add_ofNat_succ] at hk
      split
      · exact hk
      · rw [mread, if_neg (by omega), hk]

/-- No byte fails exactly when each can be read. -/
theorem firstFault_none {s : State} {ctx : BitVec 16} {dva : X} {n : Nat} (h : firstFault s ctx dva n = none) {k : Nat} (hk : k < n) :
    (dvaByte s ctx (dva + BitVec.ofNat 64 k)).isSome = true := by
  induction n generalizing dva k with
  | zero => omega
  | succ n ih =>
    unfold firstFault at h
    by_cases hs : (dvaByte s ctx dva).isSome = true
    · rw [if_pos hs] at h
      cases k with
      | zero => simpa using hs
      | succ k =>
        rw [← add_ofNat_succ]
        exact ih h (Nat.lt_of_succ_lt_succ hk)
    · rw [if_neg hs] at h
      simp at h

/-- A number read at an offset of a readable range is the one that the range's cells hold there. -/
theorem dvaRead_dvaCells {s : State} {ctx : BitVec 16} {dva : X} {size : Nat} (h : firstFault s ctx dva size = none) {off n : Nat}
    (hn : off + n ≤ size) : dvaRead s ctx (dva + BitVec.ofNat 64 off) n = some (mreadLE (dvaCells s ctx dva 0 size) off n) := by
  induction n generalizing off with
  | zero => rfl
  | succ n ih =>
    obtain ⟨b, hb⟩ := Option.isSome_iff_exists.mp (firstFault_none h (k := off) (by omega))
    have hm : (mread (dvaCells s ctx dva 0 size) off).toNat = b := by
      have h1 := mread_dvaCells s ctx dva 0 (n := size) (k := off) (by omega)
      have h2 := dvaByte_lt s ctx (dva + BitVec.ofNat 64 off)
      simp only [hb, Option.getD_some] at h1 h2
      rw [Nat.zero_add] at h1
      rw [h1, BitVec.toNat_ofNat, Nat.mod_eq_of_lt h2]
    have hr := ih (off := off + 1) (by omega)
    have he : dva + BitVec.ofNat 64 off + 1 = dva + BitVec.ofNat 64 (off + 1) := by
      rw [BitVec.add_assoc, BitVec.ofNat_add]
      rfl
    simp only [dvaRead, hb, he, hr, mreadLE, hm, Option.map_some]

end Sys2Proof.Machine
end

section
/-! PROOFS. What an image's fields give a tile (06:R130-R134). -/

namespace Sys2Proof.Machine

/-! ### What an image holds (06:R130-R134) -/

section
variable {m : Memory} {q : Nat → Nat → Nat} (hq : ∀ off n, off + n ≤ 0x600000 → q off n = mreadLE m off n)
include hq

theorem rx_of_image {y : Tile} (h : y.regs = regsOf m) (r : BitVec 5) :
    rx y r = if r = 0 then 0 else BitVec.ofNat 64 (q (0x1000 + 8 * r.toNat) 8) := by
  by_cases hr : r = 0
  · rw [hr, rx_zero, if_pos rfl]
  · have h0 : r.toNat ≠ 0 := toNat_ne (Ne.symm hr)
    rw [rx_ne _ _ hr, if_neg hr, h, hq _ _ (by omega)]
    simp only [regsOf, Vector.getElem_ofFn, if_neg h0]

theorem rg_of_image {y : Tile} (h : y.regs = regsOf m) (r : BitVec 3) (hr : r ≠ 0) :
    rg y r = BitVec.ofNat 64 (q (0x1100 + 8 * r.toNat) 8) := by
  have h0 : r.toNat ≠ 0 := toNat_ne (Ne.symm hr)
  rw [rg_ne _ _ hr, h, hq _ _ (by omega)]
  simp only [regsOf, Vector.getElem_ofFn, if_neg h0]

theorem rb_of_image {y : Tile} (h : y.regs = regsOf m) (r : BitVec 2) :
    rb y r = BitVec.ofNat 64 (q (0x1140 + 8 * r.toNat) 8) := by
  rw [rb, h, hq _ _ (by omega)]
  simp [regsOf]

theorem rv_of_image {y : Tile} (h : y.regs = regsOf m) (r : BitVec 5) :
    rv y r = BitVec.ofNat 2048 (q (0x2000 + 256 * r.toNat) 256) := by
  rw [rv, h, hq _ _ (by omega)]
  simp [regsOf]

/-- A byte of an image, as one number. -/
theorem byte_of_image {a : Nat} (h : a < 0x600000) : BitVec.ofNat 8 (q a 1) = mread m a := by
  rw [hq _ _ (by omega), mreadLE_one, BitVec.ofNat_toNat, BitVec.setWidth_eq]

/-- A slice of an image holds the image's bytes from the slice's first on. -/
theorem slice_of_image {lo n a : Nat} (ha : a < n) (hn : lo + n ≤ 0x600000) :
    mread (slice m lo n 0) a = BitVec.ofNat 8 (q (lo + a) 1) := by
  rw [byte_of_image hq (by omega)]
  simpa using mread_slice m lo 0 ha

theorem scratchpad_of_image {y : Tile} (h : y.mem = slice m 0x100000 0x100000 0 ++ slice m 0x40000 0x10000 0x100000) {a : Nat}
    (ha : a < 0x100000) : mread y.mem a = BitVec.ofNat 8 (q (0x100000 + a) 1) := by
  rw [h, mread_append_left _ (fun c hc => by have := mem_slice hc; omega)]
  exact slice_of_image hq ha (by omega)

theorem window_of_image {y : Tile} (h : y.mem = slice m 0x100000 0x100000 0 ++ slice m 0x40000 0x10000 0x100000) {a : Nat}
    (ha : a < 0x10000) : mread y.mem (0x100000 + a) = BitVec.ofNat 8 (q (0x40000 + a) 1) := by
  rw [h, mread_append_right _ (fun c hc => by have := mem_slice hc; omega), byte_of_image hq (by omega)]
  exact mread_slice m _ _ ha

theorem tag_of_image {y : Tile} (h : y.tags = tableOf 256 0 (fun i => (BitVec.ofNat 64 (mreadLE m (0x4000 + 8 * i) 8) : X) &&& 0x800FFFFFFFFFFFFF))
    {i : Nat} (hi : i < 256) : tget 0 y.tags i = (BitVec.ofNat 64 (q (0x4000 + 8 * i) 8) : X) &&& 0x800FFFFFFFFFFFFF := by
  rw [h, tget_tableOf _ _ hi, hq _ _ (by omega)]

theorem out_of_image {y : Tile} (h : y.outs = tableOf 32 outInit (fun i => outOf m (0x4800 + 128 * i))) {i : Nat} (hi : i < 32) :
    tget outInit y.outs i = { payload := BitVec.ofNat 512 (q (0x4800 + 128 * i) 64)
                              seq := BitVec.ofNat 32 (q (0x4800 + 128 * i + 64) 4)
                              stamp := BitVec.ofNat 64 (q (0x4800 + 128 * i + 72) 8) } := by
  rw [h, tget_tableOf _ _ hi, hq _ _ (by omega), hq _ _ (by omega), hq _ _ (by omega)]
  rfl

/-- A mirror of an image holds the image's post, seen exactly when its writer stamp is not 0 (12:R207). -/
theorem mirror_of_image {x : Mirror} {i : Nat} (h : x.post = (mirOf m (0x5800 + 128 * i)).post) (hi : i < 64) :
    x.payload = BitVec.ofNat 512 (q (0x5800 + 128 * i) 64) ∧ x.seq = BitVec.ofNat 32 (q (0x5800 + 128 * i + 64) 4)
      ∧ x.stamp = BitVec.ofNat 64 (q (0x5800 + 128 * i + 72) 8) ∧ x.arrival = BitVec.ofNat 64 (q (0x5800 + 128 * i + 80) 8)
      ∧ (x.seen = true ↔ x.stamp ≠ 0) := by
  have hlt := mreadLE_lt m (0x5800 + 128 * i + 72) 8
  simp only [Mirror.post, mirOf, MirPost.mk.injEq] at h
  obtain ⟨hseen, hpay, hseq, hstamp, harr, _⟩ := h
  rw [hq _ _ (by omega), hq _ _ (by omega), hq _ _ (by omega), hq _ _ (by omega)]
  refine ⟨hpay, hseq, hstamp, harr, ?_⟩
  rw [hseen, hstamp, bne_iff_ne, ne_eq, ne_eq, ← BitVec.toNat_inj, BitVec.toNat_ofNat, Nat.mod_eq_of_lt hlt]
  rfl

/-! ### The array of an image (06:R133, R134) -/

theorem stage_of_image {y : ArraySt} (h : y.stage = (List.range 16).map (fun i => BitVec.ofNat 16 (mreadLE m (0x90 + 2 * i) 2)))
    {i : Nat} (hi : i < 16) : y.stage.getD i 0 = BitVec.ofNat 16 (q (0x90 + 2 * i) 2) := by
  rw [h, hq _ _ (by omega)]
  simp [List.getD_eq_getElem?_getD, hi]

theorem band_of_image {y : ArraySt} {ok : BitVec 4}
    (h : y.band = bandsOf ok (BitVec.ofNat 4 (mreadLE m 0x80 8)) (BitVec.ofNat 4 (mreadLE m 0x78 8))) (k : Fin 4) :
    y.band[k] = if ok.getLsbD k = false then .asleep
      else if (q 0x80 8).testBit k then .awake else if (q 0x78 8).testBit k then .waking 2000 else .asleep := by
  rw [h, hq _ _ (by omega), hq _ _ (by omega)]
  simp only [bandsOf, Fin.getElem_fin, Vector.getElem_ofFn, BitVec.getLsbD_ofNat, k.isLt, decide_true, Bool.true_and, Bool.not_eq_eq_eq_not,
    Bool.not_true]

/-- A plane rebuilt from the descriptor at `a`, its own weights from `w` (06:R133). -/
theorem plane_of_image {y : Plane} {arr : ArraySt} {a w : Nat} (h : y = planeOf m arr a w) (ha : a + 0x1040 ≤ 0x600000)
    (hw : w + 0x10000 ≤ 0x600000) :
    y.woff = q a 4 ∧ y.fmt = (Ty.ofCode (BitVec.ofNat 5 (q (a + 4) 1))).getD .bf16 ∧ y.loaded = BitVec.ofNat 4 (q (a + 5) 1)
      ∧ y.outl.length = min 512 (q (a + 6) 2) ∧ (∀ j, j < y.outl.length → y.outl.getD j 0 = BitVec.ofNat 64 (q (a + 0x40 + 8 * j) 8))
      ∧ (∀ i, i < 16 → y.codes.getD i 0 = BitVec.ofNat 16 (q (a + 0x20 + 2 * i) 2))
      ∧ (y.loaded = 0 → y.weights = [])
      ∧ (y.loaded ≠ 0 → q (a + 8) 1 ≠ 0 → ∀ i, i < 0x10000 → mread y.weights i
          = if usedByte y.fmt (i % 512) = true then BitVec.ofNat 8 (q (w + i) 1) else 0)
      ∧ (y.loaded ≠ 0 → ¬q (a + 8) 1 ≠ 0 → y.weights = setRecords arr.wsram y.fmt (y.woff % 0x8000 / 512)) := by
  have hl : y.outl.length = min 512 (q (a + 6) 2) := by
    rw [h, hq _ _ (by omega)]
    simp [planeOf]
  have hwt : y.weights = if y.loaded = 0 then [] else if mreadLE m (a + 8) 1 != 0 then usedCells y.fmt (slice m w 0x10000 0)
      else setRecords arr.wsram y.fmt (y.woff % 0x8000 / 512) := by
    rw [h]
    rfl
  have hown : q (a + 8) 1 = mreadLE m (a + 8) 1 := hq _ _ (by omega)
  refine ⟨?_, ?_, ?_, hl, fun j hj => ?_, fun i hi => ?_, fun h0 => ?_, fun h0 hw i hi => ?_, fun h0 hw => ?_⟩
  · rw [h, hq _ _ (by omega)]
    rfl
  · rw [h, hq _ _ (by omega)]
    rfl
  · rw [h, hq _ _ (by omega)]
    rfl
  · have hj2 : j < 512 ∧ j < mreadLE m (a + 6) 2 := by
      rw [hl, hq _ _ (by omega)] at hj
      omega
    rw [h, hq _ _ (by omega)]
    simp [planeOf, List.getD_eq_getElem?_getD, hj2]
  · rw [h, hq _ _ (by omega)]
    simp [planeOf, List.getD_eq_getElem?_getD, hi]
  · rw [hwt, if_pos h0]
  · rw [hown] at hw
    rw [hwt, if_neg h0, if_pos (bne_iff_ne.mpr hw), usedCells, mread_filter _ (fun k => usedByte y.fmt (k % 512))]
    rw [slice_of_image hq hi (by omega)]
  · rw [hown] at hw
    rw [hwt, if_neg h0, if_neg (by simpa using hw)]

end

end Sys2Proof.Machine
end

section
/-! PROOFS. What a write to device memory leaves, and a change of every tile. -/

namespace Sys2Proof.Machine

/-! ### Writes to device memory leave everything else (15:R243, 17:R279) -/

/-- What a write to device memory may change: the bytes with their tags and marks, and what the host's read buffer is told. -/
def MemoryOnly (s t : State) : Prop :=
  t = { s with mem := t.mem, lineKeys := t.lineKeys, badLines := t.badLines, hostInval := t.hostInval, timers := t.timers }

namespace MemoryOnly

theorem refl (s : State) : MemoryOnly s s := rfl

theorem trans {s t u : State} (h : MemoryOnly s t) (k : MemoryOnly t u) : MemoryOnly s u := by
  unfold MemoryOnly at *
  rw [k, h]

theorem tiles {s t : State} (h : MemoryOnly s t) : t.tiles = s.tiles := by rw [h]
theorem tile {s t : State} (h : MemoryOnly s t) (p : Nat) : t.tile p = s.tile p := by rw [h]; rfl
theorem ctxs {s t : State} (h : MemoryOnly s t) : t.ctxs = s.ctxs := by rw [h]
theorem latest {s t : State} (h : MemoryOnly s t) : t.latest = s.latest := by rw [h]
theorem msix {s t : State} (h : MemoryOnly s t) : t.msix = s.msix := by rw [h]
theorem serving {s t : State} (h : MemoryOnly s t) : t.serving = s.serving := by rw [h]
theorem notifies {s t : State} (h : MemoryOnly s t) : t.notifies = s.notifies := by rw [h]

end MemoryOnly

theorem bufferStale_memoryOnly (da id : Nat) (s : State) : MemoryOnly s (bufferStale da id s) := by
  unfold bufferStale
  split <;> rfl

theorem devStore_memoryOnly (s : State) (tag : LineTag) (da : Nat) (l : Line) (bl : List Nat) :
    MemoryOnly s { devStore s tag da l with badLines := bl } := rfl

theorem dvaBytes_memoryOnly (ctx : BitVec 16) (dva : X) (n v : Nat) (s : State) : MemoryOnly s (dvaBytes ctx dva n v s) := by
  induction n generalizing dva v s with
  | zero => exact .refl s
  | succ n ih =>
    unfold dvaBytes
    split
    · refine .trans ?_ (ih _ _ _)
      exact .trans (devStore_memoryOnly ..) (bufferStale_memoryOnly ..)
    · exact ih _ _ _

theorem dvaWrite_memoryOnly (ctx : BitVec 16) (dva : X) (n v : Nat) (s : State) : MemoryOnly s (dvaWrite ctx dva n v s) := by
  unfold dvaWrite
  have h0 := dvaBytes_memoryOnly ctx dva n v s
  generalize dvaBytes ctx dva n v s = u at h0
  induction wholeLines dva.toNat n generalizing u with
  | nil => exact h0
  | cons o r ih =>
    refine ih _ (h0.trans ?_)
    dsimp only
    split
    · rfl
    · exact .refl u

theorem foldl_memoryOnly {α : Type} (f : State → α → State) (hf : ∀ s a, MemoryOnly s (f s a)) (l : List α) (s : State) :
    MemoryOnly s (l.foldl f s) := by
  induction l generalizing s with
  | nil => exact .refl s
  | cons a l ih => exact (hf s a).trans (ih _)

theorem repointSaved_memoryOnly (c : Ctx) (idx lt : Nat) (k : Kept) (s : State) : MemoryOnly s (repointSaved c idx lt k s) := by
  refine foldl_memoryOnly _ (fun s w => ?_) _ s
  dsimp only
  split
  · exact dvaWrite_memoryOnly _ _ _ _ s
  · exact .refl s

/-! ### Changes of every tile -/

/-- A tile as a later bind of the tile of a context on tile p leaves it. -/
def superseded (p : Nat) (w : Who) (q : Nat) (t : Tile) : Tile := if q ≠ p ∧ whoOf t = w then { t with life := 0 } else t

theorem superseded_self (p : Nat) (w : Who) (t : Tile) : superseded p w p t = t := if_neg (fun h => h.1 rfl)

theorem superseded_other {p q : Nat} (w : Who) (t : Tile) (h : q ≠ p) :
    superseded p w q t = if whoOf t = w then { t with life := 0 } else t := by
  simp [superseded, h]

/-- An earlier bind of the same tile that has halted is carried by no other tile any more. -/
theorem supersede_tile (p : Nat) (w : Who) (s : State) (q : Nat) : (supersede p w s).tile q = superseded p w q (s.tile q) := by
  refine tget_map (superseded p w) (fun j t => ?_) tileInit s.tiles q ?_
  · by_cases h : j ≠ p ∧ whoOf t = w
    · simp [superseded, h]
    · rw [superseded, if_neg h]
      exact if_neg (by simpa using h)
  · unfold superseded
    split <;> rfl

/-- A reader's mirrors that a returning writer concerns are bound anew; the posts that the mirrors hold stay. -/
theorem repointLive_post (s : State) (idx lt : Nat) (t : Tile) (i : Nat) :
    (tget mirrorInit (repointLive s idx lt t).mirs i).post = (tget mirrorInit t.mirs i).post := by
  refine tget_map_keeps (fun _ x => if x.writer = some idx then { x with binding := repointed s t lt x.binding, writer := none } else x)
    (fun j x => ?_) Mirror.post (fun j x => ?_) mirrorInit t.mirs i
  · dsimp only
    split <;> rfl
  · split <;> rfl

/-- A tile differs from another one in its mirrors' bindings alone. -/
def Rebound (t u : Tile) : Prop :=
  u = { t with mirs := u.mirs } ∧ ∀ i, (tget mirrorInit u.mirs i).post = (tget mirrorInit t.mirs i).post

theorem Rebound.refl (t : Tile) : Rebound t t := ⟨rfl, fun _ => rfl⟩

theorem repointLive_rebound (s : State) (idx lt : Nat) (t : Tile) : Rebound t (repointLive s idx lt t) :=
  ⟨rfl, repointLive_post s idx lt t⟩

theorem repointPack_tile (ctx : BitVec 16) (idx lt : Nat) (s : State) (p : Nat) :
    Rebound (s.tile p) ((repointPack ctx idx lt s).tile p) := by
  unfold repointPack
  split
  · exact .refl _
  · rename_i c _
    dsimp only
    have h0 : MemoryOnly s (c.kept.foldl (fun s k => repointSaved c idx lt k s) s) :=
      foldl_memoryOnly _ (fun s k => repointSaved_memoryOnly c idx lt k s) _ s
    generalize c.kept.foldl (fun s k => repointSaved c idx lt k s) s = u at h0
    have hp : tget tileInit (u.tiles.map (fun (p, t) => if ofCtx c t then (p, repointLive u idx lt t) else (p, t))) p
        = if ofCtx c (u.tile p) then repointLive u idx lt (u.tile p) else u.tile p := by
      refine tget_map (fun _ t => if ofCtx c t then repointLive u idx lt t else t) (fun j t => ?_) tileInit u.tiles p ?_
      · dsimp only
        split <;> rfl
      · split <;> rfl
    rw [← h0.tile p]
    change Rebound _ (tget tileInit (u.tiles.map _) p)
    rw [hp]
    split
    · exact repointLive_rebound u idx lt _
    · exact .refl _

end Sys2Proof.Machine
end

section
/-! PROOFS. A tile that a bind record starts (01:R24). -/

namespace Sys2Proof.Machine

/-! ### A tile that a bind record starts (01:R24) -/

/-- Parameters go into consecutive registers. -/
theorem rx_params (l : List X) (k : Nat) (t : Tile) (hk : k + l.length < 32) (r : BitVec 5) :
    rx ((l.zipIdx k).foldl (fun t (e : X × Nat) => wx t (BitVec.ofNat 5 (e.2 + 1)) e.1) t) r
      = if k < r.toNat ∧ r.toNat ≤ k + l.length then l.getD (r.toNat - (k + 1)) 0 else rx t r := by
  induction l generalizing k t with
  | nil => simp [show ¬(k < r.toNat ∧ r.toNat ≤ k) by omega]
  | cons v l ih =>
    rw [List.length_cons] at hk
    have hn : (BitVec.ofNat 5 (k + 1)).toNat = k + 1 := by
      rw [BitVec.toNat_ofNat, Nat.mod_eq_of_lt (by omega)]
    have hr : r = BitVec.ofNat 5 (k + 1) ↔ r.toNat = k + 1 := by rw [← BitVec.toNat_inj, hn]
    rw [List.zipIdx_cons, List.foldl_cons, ih (k + 1) _ (by omega), rx_wx, List.length_cons]
    by_cases h1 : r.toNat = k + 1
    · have h0 : r ≠ 0 := fun h => by rw [h] at h1; simp at h1
      rw [if_neg (by omega), if_neg h0, if_pos (hr.mpr h1), if_pos (by omega), h1, Nat.sub_self, List.getD_cons_zero]
    · by_cases h2 : k + 1 < r.toNat ∧ r.toNat ≤ k + 1 + l.length
      · rw [if_pos h2, if_pos (by omega), show r.toNat - (k + 1) = r.toNat - (k + 1 + 1) + 1 by omega, List.getD_cons_succ]
      · rw [if_neg h2, if_neg (mt hr.mp h1), if_neg (c := k < r.toNat ∧ _) (by omega)]
        split
        · rename_i h
          rw [h, rx_zero]
        · rfl

theorem foldl_wx_eq (l : List (X × Nat)) (t : Tile) : ∃ rs, l.foldl (fun t (e : X × Nat) => wx t (BitVec.ofNat 5 (e.2 + 1)) e.1) t
    = { t with regs := { t.regs with x := rs } } := by
  induction l generalizing t with
  | nil => exact ⟨t.regs.x, rfl⟩
  | cons e l ih =>
    obtain ⟨rs, h⟩ := ih (wx t (BitVec.ofNat 5 (e.2 + 1)) e.1)
    refine ⟨rs, ?_⟩
    rw [List.foldl_cons, h]
    unfold wx
    split <;> rfl

theorem bindOf_params_length (r : List Byte) : (bindOf r).params.length = 8 := rfl

/-- A bound tile is the cleared one with its record, routine and mirrors, but for the parameters' registers. -/
theorem boundTile_frame (s : State) (idx : Nat) (b : BindRec) (old : Tile) : ∃ rs, boundTile s idx b old
    = { freshTile s idx b old with
        regs := { regsInit with x := rs }, imem := (boundTile s idx b old).imem, mirs := (boundTile s idx b old).mirs
        perlen := b.perlen.toNat, perlenNext := b.perlen.toNat, state := 1, phase := .held
        clk := { (freshTile s idx b old).clk with perstamp := b.start }
        replay := { tileInit.replay with ptr := 64, period := 1 } } := by
  unfold boundTile
  dsimp only
  obtain ⟨rs, h⟩ := foldl_wx_eq b.params.zipIdx { freshTile s idx b old with
    imem := dvaCells s b.ctx b.routine 0 b.routlen.toNat
    mirs := listMirrors s (freshTile s idx b old) ((dvaRead s b.ctx b.bindlist (4 * b.nbind.toNat)).getD 0) b.nbind.toNat
    perlen := b.perlen.toNat, perlenNext := b.perlen.toNat, state := 1, phase := .held
    clk := { (freshTile s idx b old).clk with perstamp := b.start }
    replay := { tileInit.replay with ptr := 64, period := 1 } }
  exact ⟨rs, h.trans (by rw [h]; rfl)⟩

theorem rx_boundTile (s : State) (idx : Nat) (rec : List Byte) (old : Tile) (r : BitVec 5) :
    rx (boundTile s idx (bindOf rec) old) r
      = if 1 ≤ r.toNat ∧ r.toNat ≤ 8 then (bindOf rec).params.getD (r.toNat - 1) 0 else 0 := by
  unfold boundTile
  dsimp only
  refine (rx_params _ 0 _ (by rw [bindOf_params_length]; omega) r).trans ?_
  rw [bindOf_params_length]
  refine if_congr (by omega) rfl ?_
  by_cases hr : r = 0
  · rw [hr, rx_zero]
  · rw [rx_ne _ _ hr]
    exact Vector.getElem_replicate _

end Sys2Proof.Machine
end

section
/-! PROOFS. The package after a bind, and control words (01:R23, R24). -/

namespace Sys2Proof.Machine

/-! ### The package after a bind (01:R24, 06:R134) -/

/-- The tile of the context that a bind record of pack index `idx` names. -/
def boundWho (s : State) (idx : Nat) (b : BindRec) : Who := { ctx := b.ctx, idx := idx, life := lifeOf s b.ctx }

/-- The migration that waits for a tile once it is bound. -/
def waitingMove (s : State) (b : BindRec) : Option Move := (tfind s.mapPend b.logtile.toNat).map (fun q => .mapset q false)

theorem tile_superseded_onTile (p : Nat) (w : Who) (u : Tile) (s : State) (q : Nat) :
    (supersede p w (s.onTile p (fun _ => u))).tile q = if q = p then u else superseded p w q (s.tile q) := by
  rw [supersede_tile]
  split
  · rename_i h
    rw [h, tile_onTile_self, superseded_self]
  · rename_i h
    rw [tile_onTile_other _ _ _ _ h]

/-- The first fault that a bind finds: of the routine, of the binding list, of an image that it would load. -/
def bindFault (s : State) (b : BindRec) : Option (BitVec 8 × X) :=
  ((firstFault s b.ctx b.routine b.routlen.toNat).or (firstFault s b.ctx b.bindlist (4 * b.nbind.toNat))).or
    (if validImage s b then firstFault s b.ctx b.savearea 0x600000 else none)

/-- The tile that a bind makes. -/
def tileOfBind (s : State) (p idx : Nat) (b : BindRec) : Tile :=
  let t := boundTile s idx b (s.tile p)
  let kept := (s.ctxs.find? (fun c => c.id == b.ctx)).bind (fun c => c.kept.find? (fun k => k.idx == idx))
  { (if validImage s b then resumedTile s b kept t else t) with migrateTo := waitingMove s b }

/-- The package with a tile bound: its earlier carriers and the posts to it gone, its context told. -/
def withBound (s : State) (p idx : Nat) (b : BindRec) (t : Tile) : State :=
  let w := boundWho s idx b
  let s0 := { (s.fresh).2.looked with latest := tset s.latest b.logtile.toNat s.nextId }
  let s1 := supersede p w (s0.onTile p (fun _ => t))
  noteBound b idx b.start.toNat (dropPosts w (!validImage s b) { s1 with mapPend := tdel s1.mapPend b.logtile.toNat })

/-- The rest of a bind's writes: the readers' bindings to a tile that resumes, the head of a log that begins. -/
def bindWrites (s : State) (idx : Nat) (b : BindRec) (t : Tile) (u : State) : State :=
  let u := if validImage s b then repointPack b.ctx idx b.logtile.toNat u else u
  if b.replay = 1 && !validImage s b then dvaWrite b.ctx (logBase t) 64 (logHead t.replay) u else u

theorem bindTileAt_eq {s : State} {p idx : Nat} {r : List Byte} (h : bindFault s (bindOf r) = none) :
    let b := bindOf r
    let u := (bindWrites s idx b (tileOfBind s p idx b) (withBound s p idx b (tileOfBind s p idx b))).timer
      (max s.now (tickInstant s p b.start.toNat)) (.tileStart p)
    bindTileAt p idx r s = { u with timers := u.timers ++ [(max s.now (tickInstant s p (b.start.toNat + 10000)), .lstatRunning b.ctx)] } := by
  have hm : bindTileAt p idx r s = match bindFault s (bindOf r) with
    | some (c, dva) => dropPosts (boundWho s idx (bindOf r)) true (supersede p (boundWho s idx (bindOf r))
        ({ (s.fresh).2.looked with latest := tset s.latest (bindOf r).logtile.toNat s.nextId }.onTile p (fun _ =>
          { freshTile s idx (bindOf r) (s.tile p) with state := 3, esc := { cause := c, nested := false, slot := 0, pc := 0, info := dva } })))
    | none =>
      let b := bindOf r
      let u := (bindWrites s idx b (tileOfBind s p idx b) (withBound s p idx b (tileOfBind s p idx b))).timer
        (max s.now (tickInstant s p b.start.toNat)) (.tileStart p)
      { u with timers := u.timers ++ [(max s.now (tickInstant s p (b.start.toNat + 10000)), .lstatRunning b.ctx)] } := rfl
  rw [hm, h]

theorem withBound_tile (s : State) (p idx : Nat) (b : BindRec) (t : Tile) (q : Nat) :
    (withBound s p idx b t).tile q = if q = p then t else superseded p (boundWho s idx b) q (s.tile q) :=
  tile_superseded_onTile p (boundWho s idx b) t { (s.fresh).2.looked with latest := tset s.latest b.logtile.toNat s.nextId } q

theorem withBound_latest (s : State) (p idx : Nat) (b : BindRec) (t : Tile) :
    (withBound s p idx b t).latest = tset s.latest b.logtile.toNat s.nextId := rfl

/-- The START of a bound tile is due. -/
theorem bindTileAt_start {s : State} {p idx : Nat} {r : List Byte} (h : bindFault s (bindOf r) = none) :
    (max s.now (tickInstant s p (bindOf r).start.toNat), .tileStart p) ∈ (bindTileAt p idx r s).timers := by
  rw [bindTileAt_eq h]
  exact List.mem_append_left _ (List.mem_append_right _ (List.mem_singleton_self _))

theorem bindTileAt_tile {s : State} {p idx : Nat} {r : List Byte} (h : bindFault s (bindOf r) = none) (q : Nat) :
    (bindTileAt p idx r s).tile q = (bindWrites s idx (bindOf r) (tileOfBind s p idx (bindOf r))
      (withBound s p idx (bindOf r) (tileOfBind s p idx (bindOf r)))).tile q := by
  rw [bindTileAt_eq h, State.tile, State.tile]
  rfl

theorem bindTileAt_latest {s : State} {p idx : Nat} {r : List Byte} (h : bindFault s (bindOf r) = none) :
    (bindTileAt p idx r s).latest = (bindWrites s idx (bindOf r) (tileOfBind s p idx (bindOf r))
      (withBound s p idx (bindOf r) (tileOfBind s p idx (bindOf r)))).latest := by
  rw [bindTileAt_eq h]
  rfl

theorem bindWrites_fresh {s : State} {b : BindRec} (hv : validImage s b = false) (idx : Nat) (t : Tile) (u : State) :
    MemoryOnly u (bindWrites s idx b t u) := by
  unfold bindWrites
  simp only [hv, Bool.false_eq_true, if_false]
  split
  · exact dvaWrite_memoryOnly _ _ _ _ u
  · exact .refl u

theorem bindWrites_resumed {s : State} {b : BindRec} (hv : validImage s b = true) (idx : Nat) (t : Tile) (u : State) :
    bindWrites s idx b t u = repointPack b.ctx idx b.logtile.toNat u := by
  unfold bindWrites
  simp [hv]

/-- A bind without an image: the tile as its record starts it, an earlier bind of it gone, its number the latest of its logical
tile. -/
theorem bindTileAt_fresh {s : State} {p idx : Nat} {r : List Byte} (h : bindFault s (bindOf r) = none)
    (hv : validImage s (bindOf r) = false) : let u := bindTileAt p idx r s
    u.tile p = { boundTile s idx (bindOf r) (s.tile p) with migrateTo := waitingMove s (bindOf r) }
      ∧ (∀ q, q ≠ p → u.tile q = superseded p (boundWho s idx (bindOf r)) q (s.tile q))
      ∧ u.latest = tset s.latest (bindOf r).logtile.toNat s.nextId := by
  dsimp only
  have hm := bindWrites_fresh hv idx (tileOfBind s p idx (bindOf r)) (withBound s p idx (bindOf r) (tileOfBind s p idx (bindOf r)))
  refine ⟨?_, fun q hq => ?_, ?_⟩
  · rw [bindTileAt_tile h, hm.tile, withBound_tile, if_pos rfl, tileOfBind, if_neg (by rw [hv]; decide)]
  · rw [bindTileAt_tile h, hm.tile, withBound_tile, if_neg hq]
  · rw [bindTileAt_latest h, hm.latest, withBound_latest]

/-- A bind with an image: the tile with the image on top, its mirrors' bindings aside. -/
theorem bindTileAt_resumed {s : State} {p idx : Nat} {r : List Byte} (h : bindFault s (bindOf r) = none)
    (hv : validImage s (bindOf r) = true) : ∃ kept, Rebound
      { resumedTile s (bindOf r) kept (boundTile s idx (bindOf r) (s.tile p)) with migrateTo := waitingMove s (bindOf r) }
      ((bindTileAt p idx r s).tile p) := by
  refine ⟨(s.ctxs.find? (fun c => c.id == (bindOf r).ctx)).bind (fun c => c.kept.find? (fun k => k.idx == idx)), ?_⟩
  have hr := repointPack_tile (bindOf r).ctx idx (bindOf r).logtile.toNat
    (withBound s p idx (bindOf r) (tileOfBind s p idx (bindOf r))) p
  rw [withBound_tile, if_pos rfl, ← bindWrites_resumed hv idx (tileOfBind s p idx (bindOf r)), ← bindTileAt_tile h] at hr
  rw [tileOfBind, if_pos hv] at hr
  exact hr

/-! ### Control words (01:R23) -/

theorem controlWord_binds {s : State} {p : Nat} {r : List Byte} (idx : Nat) (hm : mayBind (s.tile p) = true) (hr : recState r = 1)
    (hp : bindPlace s p (bindOf r) = true) :
    exec (.controlWordWrite p idx r) s = .next ((bindTileAt p idx r s).mcSays 0) := by
  change execControlWordWrite p idx r s = _
  unfold execControlWordWrite
  simp [hm, hr, hp]

theorem controlWord_releases {s : State} {p : Nat} {r : List Byte} (idx : Nat) (hm : mayBind (s.tile p) = true)
    (hr : recState r = 0 ∨ recState r = 5 ∨ recState r = 6) :
    exec (.controlWordWrite p idx r) s = .next ((s.onTile p (releaseTile r)).mcSays 0) := by
  change execControlWordWrite p idx r s = _
  unfold execControlWordWrite
  rcases hr with hr | hr | hr <;> simp [hm, hr]

theorem controlWord_refused {s : State} {p : Nat} {r : List Byte} (idx : Nat)
    (h : mayBind (s.tile p) = false ∨ recState r ∈ [2#3, 3, 4, 7] ∨ recState r = 1 ∧ bindPlace s p (bindOf r) = false) :
    exec (.controlWordWrite p idx r) s = .next { s with mcRes := 0x17 } := by
  change execControlWordWrite p idx r s = _
  unfold execControlWordWrite
  by_cases hm : mayBind (s.tile p) = true
  · rcases h with h | h | ⟨hr, hp⟩
    · simp [hm] at h
    · simp only [List.mem_cons, List.not_mem_nil, or_false] at h
      rcases h with hr | hr | hr | hr <;> simp [hm, hr, State.mcSays]
    · simp [hm, hr, hp, State.mcSays]
  · simp [hm, State.mcSays]

end Sys2Proof.Machine
end

section
/-! PROOFS. A tile that has loaded an image (06:R134). -/

namespace Sys2Proof.Machine

/-! ### What a bind leaves of its tile (01:R24, 06:R134) -/

theorem bindFault_none {s : State} {b : BindRec} (h1 : firstFault s b.ctx b.routine b.routlen.toNat = none)
    (h2 : firstFault s b.ctx b.bindlist (4 * b.nbind.toNat) = none)
    (h3 : validImage s b = true → firstFault s b.ctx b.savearea 0x600000 = none) : bindFault s b = none := by
  unfold bindFault
  rw [h1, h2]
  split
  · rename_i hv
    rw [h3 hv]
    rfl
  · rfl

/-- A bound tile waits for its START with its registers and stores cleared, its parameters in x1 to x8. -/
theorem boundTile_cleared (s : State) (idx : Nat) (rec : List Byte) (old : Tile) :
    let b := bindOf rec
    let u := { boundTile s idx b old with migrateTo := waitingMove s b }
    u.state = 1 ∧ u.phase = .held ∧ u.bind = b ∧ u.pc = 0 ∧ u.mem = [] ∧ u.trap.vec = 0
      ∧ u.perlen = b.perlen.toNat ∧ u.perlenNext = b.perlen.toNat ∧ u.port.state = 0 ∧ u.collide = 0
      ∧ (∀ r : BitVec 5, rx u r = if 1 ≤ r.toNat ∧ r.toNat ≤ 8 then b.params.getD (r.toNat - 1) 0 else 0)
      ∧ (∀ r : BitVec 3, r ≠ 0 → rg u r = 0) ∧ (∀ r, rb u r = 0) ∧ (∀ r, rv u r = 0) ∧ u.bindNo = s.nextId := by
  dsimp only
  obtain ⟨rs, hf⟩ := boundTile_frame s idx (bindOf rec) old
  have hx := rx_boundTile s idx rec old
  generalize boundTile s idx (bindOf rec) old = u at hf hx
  rw [hf]
  refine ⟨rfl, rfl, rfl, rfl, rfl, rfl, rfl, rfl, rfl, rfl, fun r => ?_, fun r hr => ?_, fun r => ?_, fun r => ?_, rfl⟩
  · rw [← hx r, hf]
    rfl
  · rw [rg_ne _ _ hr]
    exact Vector.getElem_replicate _
  · exact Vector.getElem_replicate _
  · exact Vector.getElem_replicate _

/-- A tile that holds an image as its resume completes it: what an image does not hold. -/
def resumedOn (s : State) (kept : Option Kept) (t : Tile) : Tile :=
  let seqOf (m : Nat) : BitVec 32 := (tget mirrorInit t.mirs m).seq
  let writers := match kept with | some k => k.writers | none => []
  { t with resumed := true, mirs := t.mirs.map (resumedMirror s t writers), pcCtlSeq := seqOf 61, resultSeq := seqOf 62
           leashSeq := seqOf 63, replay := resumedReplay s t kept }

theorem resumedTile_eq (s : State) (b : BindRec) (kept : Option Kept) (t : Tile) :
    resumedTile s b kept t = resumedOn s kept (loadImage (dvaCells s b.ctx b.savearea 0 0x600000) t) := rfl

theorem resumedMirror_post (s : State) (t : Tile) (writers : List (Nat × Nat)) (i : Nat) (x : Mirror) :
    (resumedMirror s t writers (i, x)).2.post = x.post := by
  unfold resumedMirror
  split <;> rfl

theorem resumedMirror_key (s : State) (t : Tile) (writers : List (Nat × Nat)) (i : Nat) (x : Mirror) :
    resumedMirror s t writers (i, x) = (i, (resumedMirror s t writers (i, x)).2) := by
  unfold resumedMirror
  split <;> rfl

/-- A resume binds mirrors anew; what they hold stays. -/
theorem resumedOn_post (s : State) (kept : Option Kept) (t : Tile) (i : Nat) :
    (tget mirrorInit (resumedOn s kept t).mirs i).post = (tget mirrorInit t.mirs i).post :=
  tget_map_keeps _ (resumedMirror_key s t _) Mirror.post (resumedMirror_post s t _) mirrorInit t.mirs i

theorem rebound_post {s : State} {kept : Option Kept} {t y : Tile} {mv : Option Move}
    (h : Rebound { resumedOn s kept t with migrateTo := mv } y) (i : Nat) :
    (tget mirrorInit y.mirs i).post = (tget mirrorInit t.mirs i).post := (h.2 i).trans (resumedOn_post s kept t i)

/-- A tile that holds an image but for its mirrors' bindings and what no image holds. -/
structure Loaded (m : Memory) (t y : Tile) : Prop where
  state : y.state = t.state
  phase : y.phase = t.phase
  pc : y.pc = BitVec.ofNat 64 (mreadLE m 0x20 8)
  perlen : y.perlen = mreadLE m 0x1C 4
  perlenNext : y.perlenNext = mreadLE m 0x1C 4
  clk : y.clk = { t.clk with perstamp := BitVec.ofNat 64 (mreadLE m 0x28 8), stretch := BitVec.ofNat 64 (mreadLE m 0x30 8)
                             holds := BitVec.ofNat 64 (mreadLE m 0x38 8) }
  collide : y.collide = BitVec.ofNat 64 (mreadLE m 0x68 8)
  trap : y.trap = { t.trap with
    vec := BitVec.ofNat 64 (mreadLE m 0x40 8), cause := BitVec.ofNat 64 (mreadLE m 0x48 8) &&& 0xFF
    slot := BitVec.ofNat 64 (mreadLE m 0x50 8), pc := BitVec.ofNat 64 (mreadLE m 0x58 8), info := BitVec.ofNat 64 (mreadLE m 0x60 8) }
  memquota : y.bind.memquota = BitVec.ofNat 32 (mreadLE m 0x70 8)
  log : y.bind.replay = BitVec.ofNat 2 (mreadLE m 0x88 8)
  pcseq : y.pcseq = BitVec.ofNat 32 (mreadLE m 0xB0 4)
  loops : y.loops = t.loops
  redirect : y.redirect = t.redirect
  port : y.port = t.port
  tickets : y.tickets = t.tickets
  regs : y.regs = regsOf m
  tags : y.tags = tableOf 256 0 (fun i => (BitVec.ofNat 64 (mreadLE m (0x4000 + 8 * i) 8) : X) &&& 0x800FFFFFFFFFFFFF)
  outs : y.outs = tableOf 32 outInit (fun i => outOf m (0x4800 + 128 * i))
  mirs : ∀ i, i < 64 → (tget mirrorInit y.mirs i).post = (mirOf m (0x5800 + 128 * i)).post
  mem : y.mem = slice m 0x100000 0x100000 0 ++ slice m 0x40000 0x10000 0x100000
  arr : y.arr = arrayOf m t.arr

theorem loadImage_mirs (m : Memory) (t : Tile) :
    (loadImage m t).mirs = tableOf 64 mirrorInit (fun i => mirOf m (0x5800 + 128 * i)) := by
  dsimp only [loadImage]

/-- A tile that a resume or the return of a writer rebinds has loaded its image. -/
theorem loaded_of_rebound {s : State} {kept : Option Kept} {m : Memory} {t y : Tile} {mv : Option Move}
    (h : Rebound { resumedOn s kept (loadImage m t) with migrateTo := mv } y) : Loaded m t y := by
  have hp : ∀ i, i < 64 → (tget mirrorInit y.mirs i).post = (mirOf m (0x5800 + 128 * i)).post := fun i hi => by
    rw [rebound_post h, loadImage_mirs, tget_tableOf _ _ hi]
  rw [h.1]
  constructor
  case mirs => exact hp
  all_goals dsimp only [resumedOn, loadImage]

end Sys2Proof.Machine
end

section
/-! PROOFS. A bound tile that has loaded an image. -/

namespace Sys2Proof.Machine

/-- What a tile that has loaded an image on top of its bind holds, each field read at its place in the image. -/
theorem loaded_bound {s : State} {idx : Nat} {b : BindRec} {old y : Tile} {m : Memory} {q : Nat → Nat → Nat}
    (h : Loaded m (boundTile s idx b old) y) (hq : ∀ off n, off + n ≤ 0x600000 → q off n = mreadLE m off n) :
    let q8 := fun off : Nat => (BitVec.ofNat 64 (q off 8) : X)
    y.state = 1 ∧ y.phase = .held ∧ y.pc = q8 0x20 ∧ y.perlen = q 0x1C 4 ∧ y.perlenNext = q 0x1C 4
      ∧ y.clk.perstamp = q8 0x28 ∧ y.clk.stretch = q8 0x30 ∧ y.clk.holds = q8 0x38 ∧ y.collide = q8 0x68
      ∧ y.trap = { mode := false, entered := false, vec := q8 0x40, cause := q8 0x48 &&& 0xFF, slot := q8 0x50, pc := q8 0x58, info := q8 0x60 }
      ∧ y.bind.memquota = BitVec.ofNat 32 (q 0x70 8) ∧ y.bind.replay = BitVec.ofNat 2 (q 0x88 8) ∧ y.pcseq = BitVec.ofNat 32 (q 0xB0 4)
      ∧ y.loops = [] ∧ y.redirect = none ∧ y.port.state = 0 ∧ y.tickets = [] := by
  dsimp only
  obtain ⟨rs, hf⟩ := boundTile_frame s idx b old
  generalize boundTile s idx b old = t at h hf
  simp (disch := omega) only [hq]
  refine ⟨?_, ?_, h.pc, h.perlen, h.perlenNext, ?_, ?_, ?_, h.collide, ?_, h.memquota, h.log, h.pcseq, ?_, ?_, ?_, ?_⟩
  · rw [h.state, hf]
  · rw [h.phase, hf]
  · rw [h.clk]
  · rw [h.clk]
  · rw [h.clk]
  · rw [h.trap, hf]
    rfl
  · rw [h.loops, hf]
    rfl
  · rw [h.redirect, hf]
    rfl
  · rw [h.port, hf]
    rfl
  · rw [h.tickets, hf]
    rfl

theorem boundTile_bandOk (s : State) (idx : Nat) (b : BindRec) (old : Tile) : (boundTile s idx b old).arr.bandOk = old.arr.bandOk := by
  obtain ⟨rs, hf⟩ := boundTile_frame s idx b old
  rw [hf]
  rfl

/-- The array of a tile that has loaded an image: its planes in the order of their descriptors (06:R133, R134). -/
theorem loaded_array {m : Memory} {t y : Tile} {q : Nat → Nat → Nat} (h : Loaded m t y)
    (hq : ∀ off n, off + n ≤ 0x600000 → q off n = mreadLE m off n) :
    y.arr.ashape = BitVec.ofNat 4 (q 0x78 8) ∧ y.arr.active1 = false ∧ y.arr.wsramDirty = true
      ∧ (∀ i, i < 16 → y.arr.stage.getD i 0 = BitVec.ofNat 16 (q (0x90 + 2 * i) 2))
      ∧ (∀ k : Fin 4, y.arr.band[k] = if t.arr.bandOk.getLsbD k = false then .asleep
          else if (q 0x80 8).testBit k then .awake else if (q 0x78 8).testBit k then .waking 2000 else .asleep)
      ∧ y.arr.plane0 = planeOf m y.arr 0x8000 0x60000 ∧ y.arr.plane1 = planeOf m y.arr 0xA000 0x70000 := by
  rw [h.arr]
  refine ⟨?_, rfl, rfl, fun i hi => stage_of_image hq rfl hi, fun k => band_of_image hq rfl k, ?_, ?_⟩
  · rw [hq _ _ (by omega)]
    rfl
  · rfl
  · rfl

end Sys2Proof.Machine
end

section
/-! PROOFS. The checks of a launch record and the service of a notify (01:R16-R20, 25:R350). -/

namespace Sys2Proof.Machine

/-! ### Checking a launch record (01:R16-R20) -/

theorem length_eraseDups_le (l : List Nat) : l.eraseDups.length ≤ l.length := by
  induction h : l.length using Nat.strong_induction_on generalizing l with
  | _ n ih =>
    subst h
    cases l with
    | nil => simp
    | cons a l =>
      have hf := List.length_filter_le (fun b => !b == a) l
      have hi := ih _ (by rw [List.length_cons]; omega) (l.filter (fun b => !b == a)) rfl
      rw [List.eraseDups_cons, List.length_cons, List.length_cons]
      omega

/-- Dropping repetitions shortens a list exactly when it has some. -/
theorem length_eraseDups_eq (l : List Nat) : l.eraseDups.length = l.length ↔ l.Nodup := by
  induction l with
  | nil => simp
  | cons a l ih =>
    have hf := List.length_filter_le (fun b => !b == a) l
    have hle := length_eraseDups_le (l.filter (fun b => !b == a))
    rw [List.eraseDups_cons, List.length_cons, List.length_cons, List.nodup_cons]
    by_cases ha : a ∈ l
    · have hlt : (l.filter (fun b => !b == a)).length < l.length :=
        List.length_filter_lt_length_iff_exists.mpr ⟨a, ha, by simp⟩
      simp only [ha, not_true_eq_false, false_and, iff_false]
      omega
    · rw [List.filter_eq_self.mpr (fun b hb => by simpa using fun h : b = a => ha (h ▸ hb))]
      simp [ha, ih]

theorem headerOk_iff (s : State) (k : Nat) : headerOk s k = true ↔
    1 ≤ lfield s k 0x0E 2 ∧ lfield s k 0x0E 2 ≤ 512 ∧ lfield s k 0x12 2 ≤ 4095 ∧ (tfind s.keys (lfield s k 0x12 2)).isSome = true
      ∧ 1 ≤ lfield s k 0x14 1 ∧ lfield s k 0x14 1 < 16
      ∧ (∀ d, d < 4 → (lfield s k 0x14 1).testBit d = true → s.live.getLsbD d = true) ∧ lfield s k 0x15 1 ≤ 7
      ∧ lfield s k 0x16 2 = 0 ∧ lfield s k 0x20 8 % 4096 = 0 ∧ lfield s k 0x28 8 = 0 ∧ lfield s k 0x38 8 = 0 := by
  have hmask : (BitVec.ofNat 4 (lfield s k 0x14 1) &&& ~~~s.live) = 0
      ↔ ∀ d, d < 4 → (lfield s k 0x14 1).testBit d = true → s.live.getLsbD d = true := by
    refine ⟨fun h d hd hf => ?_, fun h => BitVec.eq_of_getLsbD_eq (fun d hd => ?_)⟩
    · have hb := congrArg (fun v => v.getLsbD d) h
      simpa [BitVec.getLsbD_ofNat, hd, hf] using hb
    · have hb : (BitVec.ofNat 4 (lfield s k 0x14 1)).getLsbD d = (lfield s k 0x14 1).testBit d := by
        simp only [BitVec.getLsbD_ofNat, hd, decide_true, Bool.true_and]
      rw [BitVec.getLsbD_and, hb, BitVec.getLsbD_not]
      cases ht : (lfield s k 0x14 1).testBit d
      · simp
      · simp [h d hd ht]
  simp only [headerOk, Bool.and_eq_true, decide_eq_true_eq, beq_iff_eq, hmask, and_assoc]

theorem entryOk_iff (s : State) (e : Nat) : entryOk s e = true ↔
    lfield s e 0 8 % 4 = 0 ∧ lfield s e 8 4 % 4 = 0 ∧ 4 ≤ lfield s e 8 4 ∧ lfield s e 8 4 ≤ 131072 ∧ 64 ≤ lfield s e 0x0C 4
      ∧ lfield s e 0x0C 4 ≤ 1048576 ∧ lfield s e 0x20 2 ≤ 60 ∧ lfield s e 0x22 1 < 3 ∧ lfield s e 0x23 5 = 0 ∧ lfield s e 0x68 24 = 0 := by
  simp only [entryOk, Bool.and_eq_true, decide_eq_true_eq, beq_iff_eq, and_assoc]

theorem entryMapped_iff (s : State) (ctx : BitVec 16) (k e : Nat) : entryMapped s ctx k e = true ↔
    (xlate s ctx (BitVec.ofNat 64 (lfield s e 0 8)) false).isSome = true
      ∧ (lfield s e 0x20 2 = 0 ∨ (xlate s ctx (BitVec.ofNat 64 (lfield s e 0x18 8)) false).isSome = true)
      ∧ (xlate s ctx (BitVec.ofNat 64 (lfield s k 0x20 8)) false).isSome = true := by
  simp only [entryMapped, Bool.and_eq_true, Bool.or_eq_true, beq_iff_eq, and_assoc]

/-- A binding list of n entries is what R18 asks, each mirror bound at most once. -/
theorem listOk_iff (tiles v n : Nat) : listOk tiles v n = true ↔ ∀ j, j < n →
    v / 2 ^ (32 * j) % 2 ^ 32 < 2 ^ 20 ∧ v / 2 ^ (32 * j) % 2 ^ 32 / 2 ^ 11 % 512 < tiles ∧ v / 2 ^ (32 * j) % 2 ^ 32 % 64 < 60
      ∧ ∀ m, m < j → v / 2 ^ (32 * m) % 2 ^ 32 % 64 ≠ v / 2 ^ (32 * j) % 2 ^ 32 % 64 := by
  have hlen : ∀ f : Nat → Nat, ((List.range n).map f).eraseDups.length = n ↔ ∀ j, j < n → ∀ m, m < j → f m ≠ f j := by
    intro f
    have h := length_eraseDups_eq ((List.range n).map f)
    rw [List.length_map, List.length_range] at h
    rw [h, List.nodup_iff_pairwise_ne, List.pairwise_iff_getElem]
    simp only [List.length_map, List.length_range, List.getElem_map, List.getElem_range]
    exact ⟨fun h j hj m hm => h m j (by omega) hj hm, fun h i j _ hj hij => h j hj i hij⟩
  simp only [listOk, Bool.and_eq_true, List.all_eq_true, List.forall_mem_map, List.mem_range, decide_eq_true_eq, beq_iff_eq, List.map_map,
    hlen, Function.comp_apply]
  exact ⟨fun h j hj => ⟨(h.1 j hj).1.1, (h.1 j hj).1.2, (h.1 j hj).2, h.2 j hj⟩,
    fun h => ⟨fun j hj => ⟨⟨(h j hj).1, (h j hj).2.1⟩, (h j hj).2.2.1⟩, fun j hj => (h j hj).2.2.2⟩⟩

theorem carries_iff (t : Tile) : carries t = true ↔ t.state ∈ [1#3, 2, 3, 4] := by
  simp [carries, or_assoc]

theorem freeTile_iff {s : State} {m lt : Nat} (hm : m < 16) : freeTile s (BitVec.ofNat 4 m) lt = true ↔
    m.testBit (s.clusterMap.getD (lt / 32) 0 / 4) = true
      ∧ ∀ t ∈ s.tiles, t.2.bind.ctx ≠ 0 → t.2.bind.logtile.toNat = lt → t.2.state ∉ [1#3, 2, 3, 4] := by
  have hb : ∀ i, (BitVec.ofNat 4 m).getLsbD i = m.testBit i := by
    intro i
    rw [BitVec.getLsbD_ofNat]
    by_cases hi : i < 4
    · simp [hi]
    · have h2 : 2 ^ 4 ≤ 2 ^ i := Nat.pow_le_pow_right (by omega) (by omega)
      simp [hi, Nat.testBit_lt_two_pow (show m < 2 ^ i by omega)]
  simp only [freeTile, hb, Bool.and_eq_true, Bool.not_eq_true', List.any_eq_false, bne_iff_ne, beq_iff_eq, carries_iff, not_and, and_imp]

/-- Enough elements of a range meet a condition exactly when so many different ones do. -/
theorem filter_range_length (N n : Nat) (P : Nat → Bool) : n ≤ ((List.range N).filter P).length
    ↔ ∃ l : List Nat, l.Nodup ∧ l.length = n ∧ ∀ x ∈ l, x < N ∧ P x = true := by
  constructor
  · intro h
    refine ⟨((List.range N).filter P).take n, (List.nodup_range.filter _).sublist (List.take_sublist ..), by simpa using h, fun x hx => ?_⟩
    simpa using List.mem_filter.mp (List.mem_of_mem_take hx)
  · rintro ⟨l, hnd, rfl, hl⟩
    exact (hnd.subperm (fun x hx => List.mem_filter.mpr ⟨List.mem_range.mpr (hl x hx).1, (hl x hx).2⟩)).length_le

/-- The four steps of 01:R20, in order, and the tiles that are free. -/
theorem launchReject_eq (s : State) (ctx : BitVec 16) (k : Nat) : let f := lfield s k
    let tiles := f 0x0E 2
    let every := fun P : Nat → Prop => ∀ i, i < tiles → P (entryBase k i)
    (¬(f 8 4 = 0x4C484C31 ∧ f 0x0C 2 = 1) → launchReject s ctx k = some 0x11)
      ∧ (f 8 4 = 0x4C484C31 ∧ f 0x0C 2 = 1 →
        (¬(headerOk s k = true ∧ every (fun e => entryOk s e = true)) → launchReject s ctx k = some 0x12)
        ∧ (headerOk s k = true → every (fun e => entryOk s e = true) →
          (¬every (fun e => entryMapped s ctx k e = true) → launchReject s ctx k = some 0x13)
          ∧ (every (fun e => entryMapped s ctx k e = true) →
            let listed := every (fun e => listOk tiles
              ((dvaRead s ctx (BitVec.ofNat 64 (lfield s e 0x18 8)) (4 * lfield s e 0x20 2)).getD 0) (lfield s e 0x20 2) = true)
            (¬listed → launchReject s ctx k = some 0x12)
            ∧ (listed → launchReject s ctx k = if tiles ≤ ((List.range (128 * liveDies s)).filter
                (freeTile s (BitVec.ofNat 4 (f 0x14 1)))).length then none else some 0x14)))) := by
  dsimp only
  have hall : ∀ P : Nat → Bool, ((List.range (lfield s k 0x0E 2)).map (entryBase k)).all P = true
      ↔ ∀ i, i < lfield s k 0x0E 2 → P (entryBase k i) = true := by
    simp [List.all_eq_true]
  simp only [launchReject, ← hall]
  refine ⟨fun h => ?_, fun ⟨h1, h2⟩ => ⟨fun h => ?_, fun h3 h4 => ⟨fun h => ?_, fun h5 => ⟨fun h => ?_, fun h6 => ?_⟩⟩⟩⟩
  · exact if_pos (by simpa [Decidable.imp_iff_not_or] using h)
  · rw [if_neg (by simp [h1, h2]), if_pos (by simpa [Decidable.imp_iff_not_or] using h)]
  · rw [if_neg (by simp [h1, h2]), if_neg (by simp [h3, h4]), if_pos (by simpa using h)]
  · rw [if_neg (by simp [h1, h2]), if_neg (by simp [h3, h4]), if_neg (by simp [h5]), if_pos (by simpa using h)]
  · rw [if_neg (by simp [h1, h2]), if_neg (by simp [h3, h4]), if_neg (by simp [h5]), if_neg (by simpa using h6)]
    split
    · rw [if_neg (by omega)]
    · rw [if_pos (by omega)]

/-! ### Serving a notify (25:R349, R350; 01:R20) -/

/-- LSTAT written changes device memory and, but for the value 1, tells the host by vector 0. -/
theorem writeLstat_eq (k v : Nat) (s : State) : ∃ u, MemoryOnly s u
    ∧ writeLstat k v s = if v = 1 then u else { u with msix := u.msix ++ [0] } := by
  unfold writeLstat
  cases barPlace s (k + 0x30) with
  | none => exact ⟨s, .refl s, rfl⟩
  | some e => exact ⟨_, dvaWrite_memoryOnly e.1 e.2 8 v s, rfl⟩

theorem writeLstat_ctxs (k v : Nat) (s : State) : (writeLstat k v s).ctxs = s.ctxs := by
  obtain ⟨u, hm, h⟩ := writeLstat_eq k v s
  rw [h]
  split <;> exact hm.ctxs

theorem writeLstat_serving (k v : Nat) (s : State) : (writeLstat k v s).serving = s.serving := by
  obtain ⟨u, hm, h⟩ := writeLstat_eq k v s
  rw [h]
  split <;> exact hm.serving

theorem writeLstat_notifies (k v : Nat) (s : State) : (writeLstat k v s).notifies = s.notifies := by
  obtain ⟨u, hm, h⟩ := writeLstat_eq k v s
  rw [h]
  split <;> exact hm.notifies

theorem writeLstat_tiles (k v : Nat) (s : State) : (writeLstat k v s).tiles = s.tiles := by
  obtain ⟨u, hm, h⟩ := writeLstat_eq k v s
  rw [h]
  split <;> exact hm.tiles

theorem writeLstat_msix (k : Nat) {v : Nat} (s : State) (hv : v ≠ 1) : (writeLstat k v s).msix = s.msix ++ [0] := by
  obtain ⟨u, hm, h⟩ := writeLstat_eq k v s
  rw [h, if_neg hv]
  exact congrArg (· ++ [0]) hm.msix

/-- A record that fails a check gets the code, and no context begins. -/
theorem checkLaunch_rejects {ctx : BitVec 16} {k : Nat} {s : State} {v : Nat} (h : launchReject s (newCtx s ctx) k = some v) :
    checkLaunch ctx k s = writeLstat k v s := by
  simp only [checkLaunch, h]

/-- A record that passes begins a context of the next ID, in its slot, with no tile bound yet. -/
theorem checkLaunch_accepts {ctx : BitVec 16} {k : Nat} {s : State} (h : launchReject s (newCtx s ctx) k = none) :
    ∃ c : Ctx, (c.id = newCtx s ctx ∧ c.slot = some k ∧ c.ntiles = lfield s k 0x0E 2 ∧ c.bound = [] ∧ c.killing = false)
      ∧ checkLaunch ctx k s = writeLstat k 1 { (s.fresh).2 with ctxs := s.ctxs ++ [c] } := by
  simp only [checkLaunch, h]
  exact ⟨_, ⟨rfl, rfl, rfl, rfl, rfl⟩, rfl⟩

/-! ### Serving a notify, re-reading its LSEQ (01:R20, 25:R350) -/

theorem checkLaunch_accepted {ctx : BitVec 16} {k : Nat} {s : State} (h : launchReject s (newCtx s ctx) k = none) :
    (checkLaunch ctx k s).notifies = s.notifies ∧ (checkLaunch ctx k s).serving = s.serving
      ∧ ∃ c, (checkLaunch ctx k s).ctxs = s.ctxs ++ [c] ∧ c.id = newCtx s ctx ∧ c.slot = some k ∧ c.ntiles = lfield s k 0x0E 2
        ∧ c.bound = [] ∧ c.killing = false := by
  obtain ⟨c, hc, he⟩ := checkLaunch_accepts h
  rw [he, writeLstat_notifies, writeLstat_serving, writeLstat_ctxs]
  exact ⟨rfl, rfl, c, rfl, hc⟩

section
variable {s : State} {ctx : BitVec 16} {v : X} {r : List X} (hb : s.boot.stat = 1) (hs : s.serving = none) (hn : s.notifies = v :: r)
include hb hs hn

/-- While no other notify is in service the oldest one is served. -/
theorem execServeNotify_cons : exec (.serveNotify ctx) s
    = let u := { s with notifies := r }
      let k := 0x20000 * (v.extractLsb' 0 8).toNat
      if lfield u k 0x30 8 ≠ 0 then .next { u.looked with msix := u.msix ++ [1] }
      else if lfield u k 0 8 = v.toNat then .next (checkLaunch ctx k u).looked
      else .next ({ u.looked with serving := some { value := v, left := 8, at_ := u.now + 1000 * subTick } }.timer
        (u.now + 1000 * subTick) (.lseqReread 0)) := by
  change execServeNotify ctx s = _
  simp only [execServeNotify, slotOf, hb, hs, hn, bne_self_eq_false, Option.isSome_none, Bool.or_false, Bool.false_eq_true, if_false, bne_iff_ne]

end

theorem execLseqReread_some {s : State} {ctx : BitVec 16} {v : Serving} (hs : s.serving = some v) : exec (.lseqReread ctx) s
    = let k := 0x20000 * (v.value.extractLsb' 0 8).toNat
      if s.now < v.at_ then .next s
      else if lfield s k 0 8 = v.value.toNat then .next (checkLaunch ctx k { s with serving := none }).looked
      else if v.left ≤ 1 then .next (writeLstat k 0x10 { s with serving := none }).looked
      else .next ({ s.looked with serving := some { v with left := v.left - 1, at_ := s.now + 1000 * subTick } }.timer
        (s.now + 1000 * subTick) (.lseqReread 0)) := by
  change execLseqReread ctx s = _
  rw [execLseqReread, hs]
  rfl

theorem execLstatRunning_waited {s : State} {c : Ctx} {k st : Nat} (hf : s.ctxs.find? (fun d => d.id == c.id) = some c)
    (hslot : c.slot = some k) (hstart : c.start = some st) (hbound : c.bound.length = c.ntiles) (hst : st ≤ s.now / subTick)
    (hk : c.killing = false) (hl : lfield s k 0x30 8 = 1) : exec (.lstatRunning c.id) s = .next (writeLstat k 2 s) := by
  change execLstatRunning c.id s = _
  simp only [execLstatRunning, hf, hstart, hbound, hk, hslot, Option.map_some, hl, decide_true, hst, Bool.not_false, Bool.and_true, beq_self_eq_true,
    if_true, ctxLstat]

end Sys2Proof.Machine
end

section
/-! PROOFS. Launch and bind (01:R16-R25, 06:R134, 25:R349, R350). -/

namespace Sys2Proof.Machine

theorem mcSays_tile (c : BitVec 8) (s : State) (p : Nat) : (s.mcSays c).tile p = s.tile p := rfl
theorem mcSays_timers (c : BitVec 8) (s : State) : (s.mcSays c).timers = s.timers := rfl
theorem mcSays_latest (c : BitVec 8) (s : State) : (s.mcSays c).latest = s.latest := rfl

/-- Settles O53: a bind is taken apart into the tile that it makes (`bindTileAt_fresh`, `bindTileAt_resumed`) and what it writes
beside; an image is read as cells (`dvaRead_dvaCells`); a launch record's checks are R16 to R18 (`launchReject_eq`). -/
theorem launchAndBind : Obligations.LaunchAndBind := by
  unfold Obligations.LaunchAndBind
  refine ⟨fun s p idx record hm => ⟨fun hs hp h1 h2 hv => ?_, fun hs hp h1 h2 hv h3 => ?_, fun st hst hs => ?_⟩, ?_, ?_, ?_, ?_, ?_, ?_, ?_⟩
  · have hf : bindFault s (bindOf record) = none := bindFault_none h1 h2 (fun h => by simp [hv] at h)
    obtain ⟨ht, hother, hlatest⟩ := bindTileAt_fresh (p := p) (idx := idx) hf hv
    obtain ⟨c1, c2, c3, c4, c5, c6, c7, c8, c9, c10, c11, c12, c13, c14, hno⟩ := boundTile_cleared s idx record (s.tile p)
    refine ⟨_, controlWord_binds idx hm hs hp, ?_⟩
    dsimp only
    rw [mcSays_tile, mcSays_timers, mcSays_latest, ht]
    refine ⟨c1, c2, c3, c4, c5, c6, c7, c8, c9, c10, c11, c12, c13, c14, ?_, bindTileAt_start hf, fun q hq => ?_⟩
    · rw [hno, hlatest, tfind_tset_self]
    · rw [mcSays_tile, hother q hq, superseded_other _ _ hq]
      rfl
  · have hf : bindFault s (bindOf record) = none := bindFault_none h1 h2 (fun _ => h3)
    obtain ⟨kept, hr⟩ := bindTileAt_resumed (p := p) (idx := idx) hf hv
    rw [resumedTile_eq] at hr
    have hl := loaded_of_rebound hr
    have hq : ∀ off n, off + n ≤ 0x600000 →
        (fun off n => (dvaRead s (bindOf record).ctx ((bindOf record).savearea + BitVec.ofNat 64 off) n).getD 0) off n
          = mreadLE (dvaCells s (bindOf record).ctx (bindOf record).savearea 0 0x600000) off n := fun off n hn => by
      dsimp only
      rw [dvaRead_dvaCells h3 hn, Option.getD_some]
    obtain ⟨c1, c2, c3, c4, c5, c6, c7, c8, c9, c10, c11, c12, c13, c14, c15, c16, c17⟩ := loaded_bound hl hq
    obtain ⟨a1, a2, a3, a4, a5, hp0, hp1⟩ := loaded_array hl hq
    have hacc := congrArg ArraySt.acc hl.arr
    have hws := congrArg ArraySt.wsram hl.arr
    refine ⟨_, controlWord_binds idx hm hs hp, ?_⟩
    dsimp only
    rw [mcSays_tile, mcSays_timers]
    generalize (bindTileAt p idx record s).tile p = y at *
    refine ⟨c1, c2, c3, c4, c5, c6, c7, c8, c9, c10, c11, c12, c13, c14, c15, c16, c17, rx_of_image hq hl.regs, rg_of_image hq hl.regs,
      rb_of_image hq hl.regs, rv_of_image hq hl.regs, fun i hi => tag_of_image hq hl.tags hi, fun i hi => out_of_image hq hl.outs hi,
      fun i hi => mirror_of_image hq (hl.mirs i hi) hi, fun a ha => scratchpad_of_image hq hl.mem ha,
      fun a ha => window_of_image hq hl.mem ha, fun a ha => ?_, fun a ha => ?_, a1, a2, a3, a4, fun k => ?_, ?_, bindTileAt_start hf⟩
    · rw [hacc]
      exact slice_of_image hq ha (by omega)
    · rw [hws]
      exact slice_of_image hq ha (by omega)
    · rw [a5 k, boundTile_bandOk]
    · simp only [List.forall_mem_cons, List.not_mem_nil, false_implies, implies_true, and_true]
      exact ⟨plane_of_image hq hp0 (by omega) (by omega), plane_of_image hq hp1 (by omega) (by omega)⟩
  · have hst' : recState record = 0 ∨ recState record = 5 ∨ recState record = 6 := by
      simpa [hs] using hst
    refine ⟨_, controlWord_releases idx hm hst', ?_⟩
    dsimp only
    simp only [mcSays_tile, tile_onTile_self]
    exact ⟨hs, rfl, rfl, rfl, rfl, fun q hq => tile_onTile_other _ _ _ _ hq⟩
  · exact fun s p idx record h => controlWord_refused idx h
  · intro s p
    dsimp only
    intro h1 hstart
    have he : exec (.tileStart p) s = execTileStart p s := rfl
    rw [execTileStart, if_neg (by simp [h1, hstart])] at he
    refine ⟨_, he, ?_⟩
    dsimp only
    rw [tile_onTile_self]
    exact ⟨rfl, rfl, rfl, rfl, rfl, rfl, rfl, rfl, fun q hq => tile_onTile_other _ _ _ _ hq⟩
  · intro s v
    have he : exec (.notify v) s = .next (notifyWrite v s) := rfl
    rw [he, notifyWrite]
    exact ⟨fun h => by rw [if_neg (by omega)], fun h => by rw [if_pos h]⟩
  · intro s ctx v r hb hs hn
    have he := execServeNotify_cons (ctx := ctx) hb hs hn
    dsimp only at he ⊢
    refine ⟨fun h => ?_, fun h h2 h3 => ?_, fun h h2 code h3 h4 => ?_, fun h h2 => ?_⟩
    · rw [he, if_pos h]
      rfl
    · rw [if_neg (not_not.mpr h), if_pos h2] at he
      obtain ⟨hn', hs', hc⟩ := checkLaunch_accepted h3
      exact ⟨_, he, hn', hs'.trans hs, hc⟩
    · rw [if_neg (not_not.mpr h), if_pos h2, checkLaunch_rejects h3] at he
      exact ⟨_, he, writeLstat_ctxs .., writeLstat_msix _ _ h4⟩
    · rw [if_neg (not_not.mpr h), if_neg h2] at he
      exact ⟨_, he, rfl, rfl, List.mem_append_right _ (List.mem_singleton_self _)⟩
  · intro s ctx k
    have h := launchReject_eq s ctx k
    simp only [headerOk_iff, entryOk_iff, entryMapped_iff, listOk_iff, entryBase] at h
    dsimp only at h ⊢
    obtain ⟨hmagic, h⟩ := h
    refine ⟨hmagic, fun h1 => (h h1).1, fun h1 h2 h3 => ((h h1).2 h2 h3).1, fun h1 h2 h3 h4 => (((h h1).2 h2 h3).2 h4).1,
      fun h1 h2 h3 h4 h5 => ?_⟩
    rw [(((h h1).2 h2 h3).2 h4).2 h5]
    obtain ⟨-, -, -, -, -, hmask, -⟩ := h2
    have hroom := filter_range_length (128 * liveDies s) (lfield s k 0x0E 2) (freeTile s (BitVec.ofNat 4 (lfield s k 0x14 1)))
    simp only [freeTile_iff hmask] at hroom
    exact ⟨fun hr => if_neg (mt hroom.mp hr), fun hr => if_pos (hroom.mpr hr)⟩
  · intro s ctx v hs
    have he := execLseqReread_some (ctx := ctx) hs
    dsimp only at he ⊢
    refine ⟨fun h => ?_, fun h h2 h3 => ?_, fun h h2 h3 => ?_, fun h h2 h3 => ?_⟩
    · rw [he, if_pos h]
    · rw [if_neg (by omega), if_neg h2, if_neg (by omega)] at he
      exact ⟨_, he, rfl, rfl, List.mem_append_right _ (List.mem_singleton_self _)⟩
    · rw [if_neg (by omega), if_neg h2, if_pos h3] at he
      exact ⟨_, he, writeLstat_serving .., writeLstat_ctxs .., writeLstat_msix _ _ (by decide)⟩
    · rw [if_neg (by omega), if_pos h2] at he
      obtain ⟨-, hs', c, hc, hid, -⟩ := checkLaunch_accepted (s := { s with serving := none }) h3
      exact ⟨_, he, hs', c, hc, hid⟩
  · intro s c k st hf hslot hstart hbound hst hk hl
    refine ⟨_, execLstatRunning_waited hf hslot hstart hbound hst hk hl, writeLstat_msix _ _ (by decide), writeLstat_ctxs ..,
      writeLstat_tiles .., fun d dva hp => ?_⟩
    rw [writeLstat, hp]
    dsimp only
    rw [if_neg (by decide), (dvaWrite_memoryOnly d dva 8 2 s).msix]

end Sys2Proof.Machine
end

section
/-! PROOFS. The byte stores of a state in canonical form, part by part (O60). -/

namespace Sys2Proof.Machine

/-! ### The form of the stores, by the parts of a state -/

/-- Every byte store of the array in canonical form. -/
def ArraySt.memOk (a : ArraySt) : Bool :=
  Memory.wf a.wsram && Memory.wf a.acc && Memory.wf a.plane0.weights && Memory.wf a.plane1.weights

theorem tileOk_iff (t : Tile) : t.memOk = true ↔
    Memory.wf t.imem = true ∧ Memory.wf t.mem = true ∧ t.arr.memOk = true := by
  simp [Tile.memOk, ArraySt.memOk, and_assoc]

theorem arrayOk_iff (a : ArraySt) : a.memOk = true ↔ Memory.wf a.wsram = true ∧ Memory.wf a.acc = true
    ∧ Memory.wf a.plane0.weights = true ∧ Memory.wf a.plane1.weights = true := by
  simp [ArraySt.memOk, and_assoc]

theorem arrayOk_same {a b : ArraySt} (h : a.memOk = true)
    (e : (b.wsram, b.acc, b.plane0.weights, b.plane1.weights) = (a.wsram, a.acc, a.plane0.weights, a.plane1.weights)) :
    b.memOk = true := by
  simp only [Prod.mk.injEq] at e
  obtain ⟨hw, ha, h0, h1⟩ := e
  rw [arrayOk_iff] at h ⊢
  rwa [hw, ha, h0, h1]

theorem arrayOk_tile {t : Tile} (h : t.memOk = true) : t.arr.memOk = true := ((tileOk_iff t).mp h).2.2

/-- A tile whose array is in canonical form and whose other stores are another tile's. -/
theorem tileOk_arr {t u : Tile} (h : t.memOk = true) (ha : u.arr.memOk = true) (e : (u.imem, u.mem) = (t.imem, t.mem)) :
    u.memOk = true := by
  simp only [Prod.mk.injEq] at e
  obtain ⟨h1, h2, -⟩ := (tileOk_iff t).mp h
  exact (tileOk_iff u).mpr ⟨e.1 ▸ h1, e.2 ▸ h2, ha⟩

/-- A tile with another one's stores. -/
theorem tileOk_same {t u : Tile} (h : t.memOk = true)
    (e : (u.imem, u.mem, u.arr.wsram, u.arr.acc, u.arr.plane0.weights, u.arr.plane1.weights)
      = (t.imem, t.mem, t.arr.wsram, t.arr.acc, t.arr.plane0.weights, t.arr.plane1.weights)) : u.memOk = true := by
  simp only [Prod.mk.injEq] at e
  obtain ⟨hi, hm, he⟩ := e
  exact tileOk_arr h (arrayOk_same (arrayOk_tile h) (by simpa using he)) (by rw [hi, hm])

/-- A tile with another one's stores but for its scratchpad and engine window. -/
theorem tileOk_mem {t u : Tile} (h : t.memOk = true) (hm : Memory.wf u.mem = true) (e : (u.imem, u.arr) = (t.imem, t.arr)) :
    u.memOk = true := by
  simp only [Prod.mk.injEq] at e
  obtain ⟨h1, -, h3⟩ := (tileOk_iff t).mp h
  exact (tileOk_iff u).mpr ⟨e.1 ▸ h1, hm, e.2 ▸ h3⟩

theorem wf_tileMem {t : Tile} (h : t.memOk = true) : Memory.wf t.mem = true := ((tileOk_iff t).mp h).2.1

/-- A package with another one's stores. -/
theorem memOk_same {s u : State} (h : s.memOk = true)
    (e : (u.tiles, u.mem, u.fwin, u.boot.flash, u.boot.window, u.boot.attest)
      = (s.tiles, s.mem, s.fwin, s.boot.flash, s.boot.window, s.boot.attest)) : u.memOk = true := by
  simp only [Prod.mk.injEq] at e
  obtain ⟨ht, hm, hw, h1, h2, h3⟩ := e
  rw [memOk_iff] at h ⊢
  rwa [ht, hm, hw, h1, h2, h3]

/-- A package with another one's stores but for the tiles', which are in canonical form. -/
theorem memOk_tiles {s u : State} (h : s.memOk = true) (ht : ∀ e ∈ u.tiles, e.2.memOk = true)
    (e : (u.mem, u.fwin, u.boot) = (s.mem, s.fwin, s.boot)) : u.memOk = true := by
  simp only [Prod.mk.injEq] at e
  obtain ⟨hm, hw, hb⟩ := e
  rw [memOk_iff] at h ⊢
  rw [hm, hw, hb]
  exact ⟨ht, h.2⟩

/-- A package with another one's stores but for a tile. -/
theorem memOk_tset {s u : State} {p : Nat} {t : Tile} (h : s.memOk = true) (ht : t.memOk = true)
    (e : (u.tiles, u.mem, u.fwin, u.boot) = (tset s.tiles p t, s.mem, s.fwin, s.boot)) : u.memOk = true := by
  simp only [Prod.mk.injEq] at e
  refine memOk_tiles h (fun d hd => ?_) (by simpa using e.2)
  rw [e.1] at hd
  rcases tset_mem hd with rfl | hd
  · exact ht
  · exact ((memOk_iff s).mp h).1 d hd

/-- A package with another one's stores but for a change of every tile. -/
theorem memOk_mapTiles {s u : State} {f : Nat × Tile → Nat × Tile} (h : s.memOk = true)
    (hf : ∀ e : Nat × Tile, e.2.memOk = true → (f e).2.memOk = true)
    (e : (u.tiles, u.mem, u.fwin, u.boot) = (s.tiles.map f, s.mem, s.fwin, s.boot)) : u.memOk = true := by
  simp only [Prod.mk.injEq] at e
  refine memOk_tiles h (fun d hd => ?_) (by simpa using e.2)
  rw [e.1] at hd
  obtain ⟨c, hc, rfl⟩ := List.mem_map.mp hd
  exact hf c (((memOk_iff s).mp h).1 c hc)

/-- A package with another one's stores but for device memory. -/
theorem memOk_mem {s u : State} (h : s.memOk = true) (hm : Memory.wf u.mem = true)
    (e : (u.tiles, u.fwin, u.boot) = (s.tiles, s.fwin, s.boot)) : u.memOk = true := by
  simp only [Prod.mk.injEq] at e
  obtain ⟨ht, hw, hb⟩ := e
  rw [memOk_iff] at h ⊢
  obtain ⟨h1, -, h3⟩ := h
  rw [ht, hw, hb]
  exact ⟨h1, hm, h3⟩

theorem memOk_tl {s : State} (h : s.memOk = true) : s.tl.memOk = true := memOk_tile h s.turn

theorem memOk_setTl {s : State} {t : Tile} (h : s.memOk = true) (ht : t.memOk = true) : (s.setTl t).memOk = true :=
  memOk_tset h ht rfl

theorem memOk_onTl {s : State} {f : Tile → Tile} (h : s.memOk = true)
    (hf : ∀ t, t.memOk = true → (f t).memOk = true) : (s.onTl f).memOk = true := memOk_setTl h (hf _ (memOk_tl h))

theorem memOk_changeTile {s : State} {p : Nat} {f : Tile → Tile} (h : s.memOk = true)
    (hf : ∀ t, t.memOk = true → (f t).memOk = true) : (s.onTile p f).memOk = true :=
  memOk_onTile h p f (hf _ (memOk_tile h p))

theorem memOk_stale {s : State} {da id : Nat} (h : s.memOk = true) : (bufferStale da id s).memOk = true := by
  rwa [memOk_bufferStale]

theorem memOk_ite {c : Prop} [Decidable c] {s u : State} (hs : s.memOk = true) (hu : u.memOk = true) :
    (if c then s else u).memOk = true := by
  split <;> assumption

theorem tileOk_ite {c : Prop} [Decidable c] {t u : Tile} (ht : t.memOk = true) (hu : u.memOk = true) :
    (if c then t else u).memOk = true := by
  split <;> assumption

theorem wf_foldl {α : Type} {f : Memory → α → Memory} {l : List α} {m : Memory} (hm : Memory.wf m = true)
    (hf : ∀ m a, Memory.wf m = true → Memory.wf (f m a) = true) : Memory.wf (l.foldl f m) = true := by
  induction l generalizing m with
  | nil => exact hm
  | cons a l ih => exact ih (hf m a hm)

/-- What is kept from one element of a list to the next is kept over the list. -/
theorem memOk_foldl {α : Type} {f : State → α → State} {l : List α} {s : State} (h : s.memOk = true)
    (hf : ∀ u a, u.memOk = true → (f u a).memOk = true) : (l.foldl f s).memOk = true := by
  induction l generalizing s with
  | nil => exact h
  | cons a l ih => exact ih (hf s a h)

theorem tileOk_foldl {α : Type} {f : Tile → α → Tile} {l : List α} {t : Tile} (h : t.memOk = true)
    (hf : ∀ u a, u.memOk = true → (f u a).memOk = true) : (l.foldl f t).memOk = true := by
  induction l generalizing t with
  | nil => exact h
  | cons a l ih => exact ih (hf t a h)

/-! ### What a step answers -/

/-- The next state, if one is answered, has every store in canonical form. -/
def OutOk (o : Host.Outcome State Fault Refusal) : Prop := ∀ t, o = .next t → t.memOk = true

theorem OutOk.next {s : State} (h : s.memOk = true) : OutOk (.next s) := fun t ht => by cases ht; exact h

theorem OutOk.fault {r : Fault} : OutOk (.fault r) := fun t ht => by cases ht

/-- A state that may be given, in canonical form if it is. -/
def OptOk (o : Option State) : Prop := ∀ t, o = some t → t.memOk = true

theorem OptOk.some {s : State} (h : s.memOk = true) : OptOk (some s) := fun t ht => by cases ht; exact h

theorem OptOk.none : OptOk none := fun t ht => by cases ht

/-- The state of a result is the one that a match on the result names. -/
theorem memOk_of_snd {α : Type} {x : α × State} {a : α} {u : State} (h : x.2.memOk = true) (e : x = (a, u)) :
    u.memOk = true := by
  rw [e] at h
  exact h

end Sys2Proof.Machine
end

section
/-! PROOFS. An image's parts laid one after another (O60). -/

namespace Sys2Proof.Machine

/-! ### Parts laid one after another -/

/-- A memory in canonical form, its addresses from `lo` on and below `hi`. -/
def Memory.wfIn (lo hi : Nat) (m : Memory) : Prop := Memory.wf m = true ∧ ∀ c ∈ m, lo ≤ c.1 ∧ c.1 < hi

theorem wfIn_nil (lo hi : Nat) : Memory.wfIn lo hi [] := ⟨rfl, by simp⟩

theorem wf_append {m n : Memory} (hm : Memory.wf m = true) (hn : Memory.wf n = true)
    (hlt : ∀ c ∈ m, ∀ d ∈ n, c.1 < d.1) : Memory.wf (m ++ n) = true := by
  induction m with
  | nil => exact hn
  | cons c r ih =>
    obtain ⟨hv, ha, hr⟩ := wf_cons.mp hm
    refine wf_cons.mpr ⟨hv, fun d hd => ?_, ih hr (fun e he => hlt e (by simp [he]))⟩
    rcases List.mem_append.mp hd with hd | hd
    · exact ha d hd
    · exact hlt c (by simp) d hd

theorem Memory.wfIn.append {m n : Memory} {lo b c hi : Nat} (hm : Memory.wfIn lo b m) (hn : Memory.wfIn c hi n)
    (h : lo ≤ b ∧ b ≤ c ∧ c ≤ hi) : Memory.wfIn lo hi (m ++ n) := by
  refine ⟨wf_append hm.1 hn.1 (fun e he d hd => ?_), fun d hd => ?_⟩
  · have h1 := hm.2 e he
    have h2 := hn.2 d hd
    omega
  · rcases List.mem_append.mp hd with hd | hd
    · have h1 := hm.2 d hd
      omega
    · have h2 := hn.2 d hd
      omega

theorem wfIn_ite {p : Bool} {m : Memory} {lo hi : Nat} (hm : Memory.wfIn lo hi m) :
    Memory.wfIn lo hi (if p then m else []) := by
  split
  · exact hm
  · exact wfIn_nil lo hi

theorem wfIn_nzCells (a n v : Nat) : Memory.wfIn a (a + n) (nzCells a n v) := by
  induction n generalizing a v with
  | zero => exact wfIn_nil _ _
  | succ n ih =>
    obtain ⟨hw, hr⟩ := ih (a + 1) (v / 256)
    unfold nzCells at hw hr ⊢
    unfold cellsLE
    rw [List.filter_cons]
    split
    next hv =>
      refine ⟨wf_cons.mpr ⟨by simpa using hv, fun c hc => (hr c hc).1, hw⟩, fun c hc => ?_⟩
      rcases List.mem_cons.mp hc with rfl | hc
      · exact ⟨Nat.le_refl _, by dsimp only; omega⟩
      · have := hr c hc
        omega
    next =>
      refine ⟨hw, fun c hc => ?_⟩
      have := hr c hc
      omega

theorem wfIn_listCells (a n : Nat) (l : List Nat) : Memory.wfIn a (a + n * l.length) (listCells a n l) := by
  have general : ∀ k, Memory.wfIn (a + n * k) (a + n * (k + l.length))
      ((l.zipIdx k).map (fun (v, i) => nzCells (a + n * i) n v)).flatten := by
    induction l with
    | nil => exact fun k => wfIn_nil _ _
    | cons v r ih =>
      intro k
      have h := ih (k + 1)
      rw [List.zipIdx_cons, List.map_cons, List.flatten_cons, List.length_cons, ← Nat.add_assoc, Nat.add_right_comm k]
      refine (wfIn_nzCells _ n v).append h ?_
      refine ⟨by omega, by rw [Nat.mul_succ]; omega, ?_⟩
      exact Nat.add_le_add_left (Nat.mul_le_mul_left n (by omega)) a
  have h := general 0
  simp only [Nat.mul_zero, Nat.add_zero, Nat.zero_add] at h
  exact h

theorem wfIn_slice {m : Memory} (lo n base : Nat) (h : Memory.wf m = true) :
    Memory.wfIn base (base + n) (slice m lo n base) := by
  refine ⟨wf_slice lo n base h, fun c hc => ?_⟩
  obtain ⟨d, -, hd⟩ := List.mem_filterMap.mp hc
  simp only [Option.ite_none_right_eq_some, Option.some.injEq] at hd
  rw [← hd.2]
  dsimp only
  omega

theorem wfIn_mono {m : Memory} {lo hi lo' hi' : Nat} (h : Memory.wfIn lo hi m) (hl : lo' ≤ lo) (hh : hi ≤ hi') :
    Memory.wfIn lo' hi' m :=
  ⟨h.1, fun c hc => ⟨Nat.le_trans hl (h.2 c hc).1, Nat.lt_of_lt_of_le (h.2 c hc).2 hh⟩⟩

/-- A list's entries of `n` bytes, at most `k` of them. -/
theorem wfIn_listCells_le {a n k : Nat} {l : List Nat} (h : l.length ≤ k) : Memory.wfIn a (a + n * k) (listCells a n l) :=
  wfIn_mono (wfIn_listCells a n l) (Nat.le_refl _) (Nat.add_le_add_left (Nat.mul_le_mul_left n h) a)

theorem wfIn_planeCells (full : Bool) (a : Nat) (p : Plane) : Memory.wfIn a (a + 0x1040) (planeCells full a p) := by
  have outl : ((p.outl.take 512).map BitVec.toNat).length ≤ 512 := by simp
  have codes : ((p.codes.take 16).map BitVec.toNat).length ≤ 16 := by simp
  exact (wfIn_nzCells a 4 _)
    |>.append (wfIn_nzCells (a + 4) 1 _) (by omega)
    |>.append (wfIn_nzCells (a + 5) 1 _) (by omega)
    |>.append (wfIn_nzCells (a + 6) 2 _) (by omega)
    |>.append (wfIn_nzCells (a + 8) 1 _) (by omega)
    |>.append (wfIn_listCells_le codes) (by omega)
    |>.append (wfIn_listCells_le outl) (by omega)

/-- An image lists its parts by rising addresses (06:R130 to R133). -/
theorem wfIn_imageOf (full : Bool) {t : Tile} (h : t.memOk = true) : Memory.wfIn 0 0x600000 (imageOf full t) := by
  obtain ⟨-, hmem, harr⟩ := (tileOk_iff t).mp h
  obtain ⟨hw, hacc, h0, h1⟩ := (arrayOk_iff t.arr).mp harr
  have hact : Memory.wf (if t.arr.active1 then t.arr.plane1 else t.arr.plane0).weights = true := by split <;> assumption
  have hsh : Memory.wf (if t.arr.active1 then t.arr.plane0 else t.arr.plane1).weights = true := by split <;> assumption
  have stage : ((t.arr.stage.take 16).map BitVec.toNat).length ≤ 16 := by simp
  unfold imageOf
  exact (wfIn_nzCells 0 4 _)
    |>.append (wfIn_nzCells 4 2 _) (by decide)
    |>.append (wfIn_nzCells 6 2 _) (by decide)
    |>.append (wfIn_nzCells 0x10 8 _) (by decide)
    |>.append (wfIn_nzCells 0x18 4 _) (by decide)
    |>.append (wfIn_nzCells 0x1C 4 _) (by decide)
    |>.append (wfIn_nzCells 0x20 8 _) (by decide)
    |>.append (wfIn_nzCells 0x28 8 _) (by decide)
    |>.append (wfIn_nzCells 0x30 8 _) (by decide)
    |>.append (wfIn_nzCells 0x38 8 _) (by decide)
    |>.append (wfIn_listCells_le (k := 10) (by simp [headRegs])) (by decide)
    |>.append (wfIn_listCells_le stage) (by decide)
    |>.append (wfIn_nzCells 0xB0 4 _) (by decide)
    |>.append (wfIn_listCells_le (k := 32) (by simp)) (by decide)
    |>.append (wfIn_listCells_le (k := 8) (by simp)) (by decide)
    |>.append (wfIn_listCells_le (k := 4) (by simp)) (by decide)
    |>.append (wfIn_listCells_le (k := 32) (by simp)) (by decide)
    |>.append (wfIn_listCells_le (k := 256) (by simp)) (by decide)
    |>.append (wfIn_listCells_le (k := 32) (by simp)) (by decide)
    |>.append (wfIn_listCells_le (k := 64) (by simp)) (by decide)
    |>.append (wfIn_planeCells full 0x8000 _) (by decide)
    |>.append (wfIn_planeCells full 0xA000 _) (by decide)
    |>.append (wfIn_slice 0 0x20000 0x20000 hacc) (by decide)
    |>.append (wfIn_slice 0x100000 0x10000 0x40000 hmem) (by decide)
    |>.append (wfIn_ite (wfIn_slice 0 0x10000 0x60000 hact)) (by decide)
    |>.append (wfIn_ite (wfIn_slice 0 0x10000 0x70000 hsh)) (by decide)
    |>.append (wfIn_slice 0 0x100000 0x100000 hmem) (by decide)
    |>.append (wfIn_ite (wfIn_slice 0 0x400000 0x200000 hw)) (by decide)

end Sys2Proof.Machine
end

section
/-! PROOFS. The stores of the array and of the package, and an image loaded (O60). -/

namespace Sys2Proof.Machine

/-! ### The array's stores -/

theorem arrayOk_setPlane {a : ArraySt} {one : Bool} {p : Plane} (h : a.memOk = true) (hp : Memory.wf p.weights = true) :
    (a.setPlane one p).memOk = true := by
  obtain ⟨hw, hacc, h0, h1⟩ := (arrayOk_iff a).mp h
  unfold ArraySt.setPlane
  split
  · exact (arrayOk_iff _).mpr ⟨hw, hacc, h0, hp⟩
  · exact (arrayOk_iff _).mpr ⟨hw, hacc, hp, h1⟩

theorem tileOk_accWrite {row v : Nat} {t : Tile} (h : t.memOk = true) : (accWrite row v t).memOk = true := by
  obtain ⟨hw, hacc, h0, h1⟩ := (arrayOk_iff _).mp (arrayOk_tile h)
  have key : (accWrite row v t).arr.memOk = true := by
    rw [arrayOk_iff, accWrite_acc, accWrite_frame]
    exact ⟨hw, wf_mwriteLE _ _ _ hacc, h0, h1⟩
  exact tileOk_arr h key (by rw [accWrite_frame])

theorem tileOk_wfillWrite {dst src : Nat} {t : Tile} (h : t.memOk = true) : (wfillWrite dst src t).memOk = true := by
  obtain ⟨hw, hacc, h0, h1⟩ := (arrayOk_iff _).mp (arrayOk_tile h)
  have p0 : (wfillWrite dst src t).arr.plane0.weights = t.arr.plane0.weights := by
    simp only [wfillWrite, renewed_plane0]
    split <;> rfl
  have p1 : (wfillWrite dst src t).arr.plane1.weights = t.arr.plane1.weights := by
    simp only [wfillWrite, renewed_plane1]
    split <;> rfl
  have key : (wfillWrite dst src t).arr.memOk = true := by
    rw [arrayOk_iff, wfillWrite_wsram, p0, p1, wfillWrite_frame]
    exact ⟨wf_mwriteLE _ _ _ hw, hacc, h0, h1⟩
  exact tileOk_arr h key (by rw [wfillWrite_frame])

theorem tileOk_shadowLoad {order : Nat} {t : Tile} (h : t.memOk = true) : (shadowLoad order t).memOk = true := by
  unfold shadowLoad
  split
  · exact h
  · split
    · exact tileOk_same h rfl
    · refine tileOk_arr h (arrayOk_setPlane (arrayOk_same (arrayOk_tile h) rfl) ?_) rfl
      exact wf_setRecords _ _ ((arrayOk_iff _).mp (arrayOk_tile h)).1

/-! ### What an image holds, loaded (06:R133, R134) -/

theorem wf_planeOf {m : Memory} {a : ArraySt} (b w : Nat) (hm : Memory.wf m = true) (ha : Memory.wf a.wsram = true) :
    Memory.wf (planeOf m a b w).weights = true := by
  unfold planeOf
  dsimp only
  split
  · rfl
  · split
    · exact wf_filter _ (wf_slice _ _ _ hm)
    · exact wf_setRecords _ _ ha

theorem arrayOk_arrayOf {m : Memory} {a : ArraySt} (hm : Memory.wf m = true) : (arrayOf m a).memOk = true := by
  have hw : Memory.wf (slice m 0x200000 0x400000 0) = true := wf_slice _ _ _ hm
  exact (arrayOk_iff _).mpr ⟨hw, wf_slice _ _ _ hm, wf_planeOf _ _ hm hw, wf_planeOf _ _ hm hw⟩

/-- The scratchpad and the engine window of an image, one after the other. -/
theorem wf_imageMem {m : Memory} (hm : Memory.wf m = true) :
    Memory.wf (slice m 0x100000 0x100000 0 ++ slice m 0x40000 0x10000 0x100000) = true :=
  ((wfIn_slice 0x100000 0x100000 0 hm).append (wfIn_slice 0x40000 0x10000 0x100000 hm) (by decide)).1

theorem tileOk_loadImage {m : Memory} {t : Tile} (hm : Memory.wf m = true) (h : t.memOk = true) :
    (loadImage m t).memOk = true := by
  have hi : Memory.wf t.imem = true := ((tileOk_iff t).mp h).1
  rw [tileOk_iff]
  unfold loadImage
  exact ⟨hi, wf_imageMem hm, arrayOk_arrayOf hm⟩

theorem tileOk_liveWrite {off : Nat} {v : X} {t : Tile} (h : t.memOk = true) : (liveWrite off v t).memOk = true := by
  have hm := wf_mwriteLE off 8 v.toNat (wfIn_imageOf true h).1
  have hl := tileOk_loadImage (wf_mwriteLE 0xA008 1 1 (wf_mwriteLE 0x8008 1 1 hm)) h
  unfold liveWrite
  dsimp only
  generalize loadImage _ t = u at hl ⊢
  exact tileOk_same hl rfl

/-! ### The package's own stores -/

/-- The package's own stores: device memory, the fault window, the boot's flash and window, the report. -/
theorem memOk_stores {s : State} (h : s.memOk = true) : Memory.wf s.mem = true ∧ Memory.wf s.fwin = true
    ∧ Memory.wf s.boot.flash = true ∧ Memory.wf s.boot.window = true ∧ Memory.wf s.boot.attest = true :=
  ((memOk_iff s).mp h).2

/-- A package with another one's tiles. -/
theorem memOk_ofStores {s u : State} (h : s.memOk = true) (e : u.tiles = s.tiles)
    (hs : Memory.wf u.mem = true ∧ Memory.wf u.fwin = true ∧ Memory.wf u.boot.flash = true
      ∧ Memory.wf u.boot.window = true ∧ Memory.wf u.boot.attest = true) : u.memOk = true := by
  rw [memOk_iff, e]
  exact ⟨((memOk_iff s).mp h).1, hs⟩

theorem memOk_attest {s : State} {m : Memory} {n : Nat} (h : s.memOk = true) (hm : Memory.wf m = true) :
    State.memOk { s with boot := { s.boot with astat := n, attest := m } } = true := by
  obtain ⟨hd, hf, hb, hw, -⟩ := memOk_stores h
  exact memOk_ofStores h rfl ⟨hd, hf, hb, hw, hm⟩

theorem memOk_nonce {s : State} {n : List Byte} (h : s.memOk = true) :
    State.memOk { s with boot := { s.boot with nonce := n } } = true := memOk_same h rfl

/-- A line of device memory written as the cipher's text. -/
theorem memOk_lineStored {s : State} {a : Nat} {l : Line} (h : s.memOk = true) :
    State.memOk { s with mem := mwrites s.mem (lineCells a l) } = true :=
  memOk_mem h (wf_mwrites _ (memOk_stores h).1) rfl

theorem tileOk_imemWrite {a n v : Nat} {t : Tile} (h : t.memOk = true) :
    Tile.memOk { t with imem := mwriteLE t.imem a n v } = true := by
  obtain ⟨hi, hm, ha⟩ := (tileOk_iff t).mp h
  exact (tileOk_iff _).mpr ⟨wf_mwriteLE _ _ _ hi, hm, ha⟩

end Sys2Proof.Machine
end

section
/-! PROOFS. What one issue, a log entry, a system register and a post leave of the byte stores (O60). -/

namespace Sys2Proof.Machine

variable {s : State} {t : Tile} {g : Guard} {d : BitVec 5} {k id len n : Nat} {v : X} {j : Job} {c : BitVec 8}

/-! ### Taking an exception, the operands of an issue, landings -/

theorem tileOk_wx {r : BitVec 5} (h : t.memOk = true) : (wx t r v).memOk = true := by
  unfold wx
  split
  · exact h
  · exact tileOk_same h rfl

theorem tileOk_wg {r : BitVec 3} {bits : X} (h : t.memOk = true) : (wg t r bits v).memOk = true := by
  unfold wg
  split
  · exact h
  · exact tileOk_same h rfl

theorem tileOk_wb {r : BitVec 2} (h : t.memOk = true) : (wb t r v).memOk = true := tileOk_same h rfl

theorem tileOk_wv {r : BitVec 5} {lanes : X} {v : VReg} (h : t.memOk = true) : (wv t r lanes v).memOk = true :=
  tileOk_same h rfl

theorem tileOk_wdest {d : Dest} {v : VReg} (h : t.memOk = true) : (wdest t d v).memOk = true := by
  unfold wdest
  split
  · exact tileOk_wx h
  · exact tileOk_wg h
  · exact tileOk_wb h
  · exact tileOk_wv h

theorem tileOk_abandonCopies (h : t.memOk = true) : (abandonCopies t).memOk = true := tileOk_same h rfl

theorem tileOk_beginSlip {info : X} (h : t.memOk = true) : (beginSlip c info t).memOk = true :=
  tileOk_abandonCopies (tileOk_same h rfl)

theorem tileOk_saveTrap {sl : Slip} (h : t.memOk = true) : (saveTrap sl t).memOk = true := tileOk_same h rfl

theorem tileOk_enterTrap {sl : Slip} (h : t.memOk = true) : (enterTrap sl t).memOk = true := tileOk_same h rfl

theorem tileOk_escalate {sl : Slip} (h : t.memOk = true) : (escalate sl t).memOk = true := by
  unfold escalate
  refine tileOk_same (t := if _ then _ else _) ?_ rfl
  split
  · exact h
  · exact tileOk_saveTrap h

theorem tileOk_returnFromTrap {next : Nat} (h : t.memOk = true) : (returnFromTrap next t).memOk = true := by
  unfold returnFromTrap
  dsimp only
  split
  · exact tileOk_same h rfl
  · split <;> exact tileOk_same h rfl

theorem tileOk_advance (h : t.memOk = true) : (advance len t).memOk = true := by
  unfold advance
  split
  · exact tileOk_same h rfl
  · split <;> exact tileOk_same h rfl

theorem tileOk_holdUnit {u : Option Nat} {occ : Nat} (h : t.memOk = true) : (holdUnit u occ t).memOk = true := by
  unfold holdUnit
  split
  · exact h
  · exact tileOk_same h rfl

theorem tileOk_endIssue {jump : Bool} (h : t.memOk = true) : (endIssue jump len t).memOk = true := by
  unfold endIssue
  split
  · exact tileOk_same h rfl
  · exact tileOk_advance (tileOk_same h rfl)

theorem tileOk_dropReports {isPeriod : Bool} (h : t.memOk = true) : (dropReports isPeriod c t).memOk = true := by
  unfold dropReports
  split
  · exact tileOk_same h rfl
  · exact h

theorem outOk_issue {p : Plan} {eff : State → State} (heff : ∀ u, u.memOk = true → (eff u).memOk = true)
    (h : s.memOk = true) : OutOk (issue p len eff s) := by
  unfold issue
  split
  · exact .next (memOk_onTl h (fun _ ht => tileOk_dropReports (tileOk_beginSlip ht)))
  · exact .next (memOk_onTl (heff _ (memOk_onTl h (fun _ ht => tileOk_holdUnit ht))) (fun _ ht => tileOk_endIssue ht))

theorem outOk_issueTl {p : Plan} {f : Tile → Tile} (hf : ∀ t, t.memOk = true → (f t).memOk = true)
    (h : s.memOk = true) : OutOk (issue p len (fun u => u.onTl f) s) :=
  outOk_issue (fun _ hu => memOk_onTl hu hf) h

theorem tileOk_write1 {d : Dest} {v : VReg} (h : t.memOk = true) : (write1 d v t).memOk = true :=
  tileOk_same (tileOk_wdest h) rfl

theorem tileOk_writeL {l unit : Nat} {d : Dest} {v : VReg} (h : t.memOk = true) : (writeL l unit d v t).memOk = true :=
  tileOk_same h rfl

theorem tileOk_addJob {unit : Nat} {banks : BitVec 32} {op : JobOp} (h : t.memOk = true) :
    (addJob k unit banks op t).memOk = true :=
  tileOk_same h rfl

theorem memOk_free (h : s.memOk = true) : (State.free s).2.memOk = true := memOk_same h rfl

/-! ### Operands -/

theorem tileOk_accessEvent (h : t.memOk = true) : (accessEvent k t).memOk = true := tileOk_same h rfl

theorem tileOk_accessIf {c : Prop} [Decidable c] (h : t.memOk = true) :
    (if c then accessEvent k t else t).memOk = true :=
  tileOk_ite (tileOk_accessEvent h) h

theorem tileOk_accessUnless {c : Prop} [Decidable c] (h : t.memOk = true) :
    (if c then t else accessEvent k t).memOk = true :=
  tileOk_ite h (tileOk_accessEvent h)

/-! ### Device memory, the log of inputs -/

theorem memOk_looked (h : s.memOk = true) : (State.looked s).memOk = true := memOk_same h rfl

theorem memOk_logAppend {kind v : Nat} (h : s.memOk = true) : (logAppend kind n v s).memOk = true := by
  unfold logAppend
  dsimp only
  split
  · exact h
  · split
    · exact memOk_onTl (memOk_dvaWrite h _ _ _ _) (fun _ ht => tileOk_same ht rfl)
    · exact memOk_onTl (memOk_dvaWrite (memOk_dvaWrite h _ _ _ _) _ _ _ _) (fun _ ht => tileOk_same ht rfl)

theorem memOk_diverge (h : s.memOk = true) : (diverge s).memOk = true :=
  memOk_onTl (memOk_dvaWrite h _ _ _ _) (fun _ ht => tileOk_same ht rfl)

theorem memOk_logInput {kind live : Nat} (h : s.memOk = true) : (logInput kind n live s).2.memOk = true := by
  unfold logInput
  generalize logNext s n = x
  extract_lets t
  split
  · exact memOk_logAppend h
  · split
    · cases x with
      | none => exact memOk_onTl h (fun _ ht => tileOk_same ht rfl)
      | some p =>
        dsimp only
        split
        · exact memOk_onTl h (fun _ ht => tileOk_same ht rfl)
        · exact memOk_diverge h
    · exact h

theorem memOk_logNoted {kind live note : Nat} (h : s.memOk = true) : (logNoted kind n live note s).2.2.memOk = true := by
  unfold logNoted
  extract_lets r
  split <;> exact memOk_logInput h

theorem memOk_logX {live : X} (h : s.memOk = true) : (logX live s).2.memOk = true := memOk_logInput h

/-! ### System registers -/

theorem memOk_dbgOk (h : s.memOk = true) : (dbgOk s).memOk = true := memOk_onTl h (fun _ ht => tileOk_same ht rfl)

theorem memOk_dbgResult (h : s.memOk = true) : (dbgResult v s).memOk = true := memOk_onTl h (fun _ ht => tileOk_same ht rfl)

theorem memOk_dbgFault {info : X} (h : s.memOk = true) : (dbgFault c info s).memOk = true :=
  memOk_onTl h (fun _ ht => tileOk_same ht rfl)

theorem memOk_sysInput {num : BitVec 12} (h : s.memOk = true) : (sysInput num s).2.memOk = true := by
  unfold sysInput
  split
  · exact h
  · split
    · dsimp only
      split
      · exact memOk_diverge (memOk_logNoted h)
      · exact memOk_logNoted h
    · exact memOk_logX h

theorem outOk_execTbase (h : s.memOk = true) : OutOk (execTbase g d s) :=
  outOk_issue (fun _ hu => memOk_ite (memOk_onTl (memOk_logX hu) (fun _ ht => tileOk_writeL ht)) hu) h

theorem outOk_execSysr {num : BitVec 12} (h : s.memOk = true) : OutOk (execSysr g d num s) := by
  unfold execSysr
  split
  · exact .next (memOk_ite (memOk_dbgResult h) (memOk_dbgOk h))
  · exact outOk_issue (fun _ hu => memOk_ite (memOk_onTl (memOk_sysInput hu) (fun _ ht => tileOk_writeL ht)) hu) h

theorem memOk_sysWrite {num : BitVec 12} (h : s.memOk = true) : (sysWrite num v s).memOk = true := by
  unfold sysWrite
  split
  · exact memOk_onTl h (fun _ ht => tileOk_same ht rfl)
  · exact memOk_onTl h (fun _ ht => tileOk_same ht rfl)
  · exact memOk_onTl h (fun _ ht => tileOk_same ht rfl)
  · exact memOk_same h rfl
  · exact memOk_same h rfl
  · exact h

theorem outOk_execSysw {num : BitVec 12} (h : s.memOk = true) : OutOk (execSysw g d num s) := by
  unfold execSysw
  split
  · refine .next ?_
    split
    · exact memOk_dbgFault h
    · split
      · exact memOk_dbgOk h
      · split
        · exact memOk_dbgFault h
        · exact memOk_dbgOk (memOk_sysWrite h)
  · exact outOk_issue (fun _ hu => memOk_ite (memOk_sysWrite hu) hu) h

/-! ### Posts, mirrors and samples -/

theorem memOk_timer {at_ : Nat} {i : Instr} (h : s.memOk = true) : (State.timer s at_ i).memOk = true := memOk_same h rfl

theorem memOk_fresh (h : s.memOk = true) : (State.fresh s).2.memOk = true := memOk_same h rfl

theorem memOk_opLook {o : MemOp} {j : Nat} (h : s.memOk = true) : (opLook s o j).2.memOk = true := by
  unfold opLook
  split
  · dsimp only
    exact memOk_changeTile h (fun _ ht => tileOk_same ht rfl)
  · exact h

theorem memOk_opTarget {o : MemOp} {j : Nat} (h : s.memOk = true) : (opTarget o j s).2.memOk = true := by
  unfold opTarget
  extract_lets r
  have hr : r.2.memOk = true := by
    unfold r
    split
    · exact h
    · exact memOk_opLook h
  split <;> exact hr

theorem tileOk_addEv {kind cyc : Nat} (h : t.memOk = true) : (addEv kind id cyc t).memOk = true := tileOk_same h rfl

theorem memOk_sendPost {slot stamped : Nat} {payload : Line} {seq : BitVec 32} {stamp : X} (h : s.memOk = true) :
    (sendPost id slot payload seq stamp stamped s).memOk = true := by
  unfold sendPost
  dsimp only
  split
  · exact h
  · split <;> exact memOk_same h rfl

theorem memOk_newPost {sc : Scope} {slot : Nat} (h : s.memOk = true) : (newPost sc slot s).2.memOk = true :=
  memOk_same (memOk_fresh h) rfl

theorem memOk_postOut {slot stamped : Nat} {payload : Line} {stamp : X} (h : s.memOk = true) :
    (postOut id slot payload stamp stamped s).memOk = true :=
  memOk_sendPost (memOk_onTl h (fun _ ht => tileOk_same ht rfl))

theorem outOk_execPost {sc : Scope} {n : BitVec 5} (h : s.memOk = true) : OutOk (execPost g sc n d s) :=
  outOk_issue (fun _ hu => memOk_ite (memOk_onTl (memOk_newPost hu) (fun _ ht => tileOk_addEv (tileOk_addJob ht))) hu) h

theorem outOk_execPostScratch {sc : Scope} {n a : BitVec 5} (h : s.memOk = true) : OutOk (execPostScratch g sc n a s) :=
  outOk_issue (fun _ hu => memOk_ite
    (memOk_onTl (memOk_newPost hu) (fun _ ht => tileOk_accessEvent (tileOk_addEv (tileOk_addJob ht))))
    (memOk_onTl hu (fun _ ht => tileOk_addJob ht))) h

theorem memOk_postRead {cancelled : Bool} {n : BitVec 5} {addr : Nat} {stamp : X} (h : s.memOk = true) :
    (postRead cancelled id n addr stamp s).memOk = true := by
  unfold postRead
  split
  · exact memOk_same h rfl
  · exact memOk_postOut h

theorem memOk_sendIssued (h : s.memOk = true) : (sendIssued j s).memOk = true := by
  unfold sendIssued
  split
  · exact memOk_postRead h
  · exact memOk_postOut h
  · exact h

theorem memOk_sendPosts (h : s.memOk = true) : (sendPosts s).memOk = true :=
  memOk_foldl h (fun _ _ ht => memOk_sendIssued ht)

theorem tileOk_mirrorWrite {arrival : X} {m : Nat} {p : Post} (h : t.memOk = true) :
    (mirrorWrite arrival m p t).memOk = true := by
  unfold mirrorWrite
  extract_lets x x' t1 replay t2
  have h1 : t1.memOk = true := tileOk_same h rfl
  have h2 : t2.memOk = true := tileOk_ite (tileOk_same h1 rfl) h1
  exact tileOk_ite (tileOk_same h2 rfl) (tileOk_ite (tileOk_same h2 rfl) h2)

theorem memOk_imagePost {c : Ctx} {idx m : Nat} {arrival : X} {p : Post} (h : s.memOk = true) :
    (imagePost c idx m arrival p s).memOk = true := by
  generalize hF : imagePost = F
  delta imagePost at hF
  subst hF
  beta_reduce
  extract_lets a
  generalize dvaRead s c.id a 96 = x
  cases x with
  | none => exact h
  | some old =>
    dsimp only
    split
    · exact memOk_dvaWrite (memOk_dvaWrite h _ _ _ _) _ _ _ _
    · exact h

theorem memOk_dstDone (h : s.memOk = true) : (dstDone id k s).memOk = true := memOk_same h rfl

theorem memOk_keepResult {c : Ctx} {idx : Nat} {p : Post} (h : s.memOk = true) : (keepResult c idx p s).memOk = true :=
  memOk_same h rfl

theorem memOk_land {p : Post} {d : PostDst} (h : s.memOk = true) : (land p d s).memOk = true := by
  unfold land
  split
  · split
    · exact memOk_changeTile h (fun _ ht => tileOk_mirrorWrite ht)
    · exact h
  · split
    · exact memOk_imagePost (memOk_ite (memOk_keepResult h) h)
    · exact h

theorem memOk_countLost {ctx : BitVec 16} (h : s.memOk = true) : (countLost ctx s).memOk = true := memOk_same h rfl

theorem memOk_peerPost (h : s.memOk = true) : (peerPost k s).memOk = true := by
  unfold peerPost
  split
  · exact h
  · split
    · exact h
    · exact memOk_land (memOk_same h rfl)

theorem outOk_execPostDelivery (h : s.memOk = true) : OutOk (execPostDelivery id k s) := by
  unfold execPostDelivery
  split
  · exact .next (memOk_peerPost h)
  · split
    · exact .next h
    · split
      · exact .next h
      · split
        · exact .next (memOk_dstDone (memOk_ite (memOk_countLost h) (memOk_land h)))
        · exact .next h

theorem outOk_execPostRelease (h : s.memOk = true) : OutOk (execPostRelease id s) := by
  unfold execPostRelease
  split
  · exact .next h
  · split
    · exact .next h
    · split <;> exact .next (memOk_same h rfl)

theorem outOk_sampleInstr {kind : Nat} {ev : Bool} {n : BitVec 6} (h : s.memOk = true) :
    OutOk (sampleInstr kind ev g d n s) :=
  outOk_issue (fun _ hu => memOk_ite
    (memOk_onTl hu (fun _ ht => tileOk_ite (tileOk_addEv (tileOk_addJob ht)) (tileOk_addJob ht))) hu) h

theorem tileOk_pushPend {due : Nat} {d : Dest} {v : VReg} (h : t.memOk = true) : (pushPend due j d v t).memOk = true :=
  tileOk_same h rfl

theorem memOk_checkResult {seq : Nat} {payload : Option Nat} (h : s.memOk = true) :
    (checkResult seq payload s).memOk = true := by
  unfold checkResult
  split
  · exact memOk_diverge h
  · split
    · exact memOk_onTl h (fun _ ht => tileOk_same ht rfl)
    · exact memOk_diverge (memOk_onTl h (fun _ ht => tileOk_same ht rfl))

theorem memOk_checkSample {kind v : Nat} (h : s.memOk = true) : (checkSample kind v s).memOk = true := by
  unfold checkSample
  split
  · split
    · exact h
    · exact memOk_checkResult h
  · split
    · split
      · exact h
      · exact memOk_checkResult h
    · exact h

theorem memOk_sampleInput {kind live : Nat} {n : BitVec 6} {m : MirPost} (h : s.memOk = true) :
    (sampleInput kind n m live s).2.memOk = true := by
  unfold sampleInput
  extract_lets p r q
  have hr : r.2.2.memOk = true := memOk_logNoted h
  have hq : q.2.memOk = true := memOk_logInput h
  split
  · exact memOk_ite (memOk_diverge hr) hr
  · exact memOk_ite (memOk_checkSample hq) hq

theorem memOk_noteSample {n : BitVec 6} (h : s.memOk = true) : (noteSample n s).memOk = true := by
  unfold noteSample
  split
  · exact memOk_onTl h (fun _ ht => tileOk_same ht rfl)
  · exact h

theorem memOk_sampleMirror {kind : Nat} {n : BitVec 6} {ws : List Wait} (h : s.memOk = true) :
    (sampleMirror j kind d n ws s).memOk = true := by
  unfold sampleMirror
  extract_lets t m binding unordered s1 s2 r q
  have h1 : s1.memOk = true := memOk_ite h (memOk_noteSample h)
  have h2 : s2.memOk = true := memOk_ite (memOk_onTl h1 (fun _ ht => tileOk_foldl ht (fun _ _ hu => tileOk_addEv hu))) h1
  exact memOk_ite (memOk_onTl (memOk_sampleInput h2) (fun _ ht => tileOk_pushPend ht))
    (memOk_onTl (memOk_sampleInput h2) (fun _ ht => tileOk_pushPend ht))

theorem memOk_rebind {p m : Nat} {w : X} (h : s.memOk = true) : (rebind p m w s).memOk = true := by
  unfold rebind
  extract_lets who mir u drop posts
  have hu : u.memOk = true := memOk_changeTile h (fun _ ht => tileOk_same ht rfl)
  exact memOk_same hu rfl

theorem outOk_execMbind {a : BitVec 5} {n : BitVec 6} (h : s.memOk = true) : OutOk (execMbind g a n s) := by
  unfold execMbind
  split
  · refine .next ?_
    split
    · exact memOk_dbgOk h
    · split
      · exact memOk_dbgFault h
      · split
        · exact memOk_dbgFault h
        · split
          · exact memOk_dbgFault h
          · exact memOk_dbgOk (memOk_rebind h)
  · exact outOk_issue (fun _ ht => ht) h

end Sys2Proof.Machine
end

section
/-! PROOFS. What a memory operation leaves of the byte stores, at its tile and at its stations (O60). -/

namespace Sys2Proof.Machine

variable {s : State} {t : Tile} {g : Guard} {a b d : BitVec 5} {id len n : Nat} {dva : X} {o : MemOp}

/-! ### Memory operations and their stations -/

theorem outOk_execTlook (h : s.memOk = true) : OutOk (execTlook g d a s) :=
  outOk_issue (fun _ hu => memOk_ite (memOk_onTl hu (fun _ ht => tileOk_writeL ht)) hu) h

theorem outOk_execTset (h : s.memOk = true) : OutOk (execTset g a b s) := by
  unfold execTset
  exact outOk_issue (fun _ hu => memOk_ite (memOk_onTl hu (fun _ ht => tileOk_same ht rfl)) hu) h

theorem outOk_execTclr (h : s.memOk = true) : OutOk (execTclr g a s) := by
  unfold execTclr
  exact outOk_issue (fun _ hu => memOk_ite (memOk_onTl hu (fun _ ht => tileOk_same ht rfl)) hu) h

theorem memOk_syncTicket (h : s.memOk = true) : (syncTicket o s).memOk = true := by
  unfold syncTicket
  split
  · exact memOk_changeTile h (fun _ ht => tileOk_same ht rfl)
  · exact h

theorem memOk_setOp (h : s.memOk = true) : (State.setOp s o).memOk = true := memOk_same h rfl

theorem memOk_pruneOps (h : s.memOk = true) : (pruneOps s).memOk = true := memOk_same h rfl

theorem memOk_quotaCheck (h : s.memOk = true) : (quotaCheck s).memOk = true := memOk_same h rfl

theorem memOk_accept {r : Send} (h : s.memOk = true) : (accept r id d s).memOk = true := by
  unfold accept
  extract_lets o tick u
  refine memOk_same (s := u) (memOk_onTl h (fun t ht => ?_)) rfl
  extract_lets t1 t2
  have h1 : t1.memOk = true := tileOk_writeL ht
  split
  · exact tileOk_addEv (tileOk_same (t := t1) h1 rfl)
  · exact tileOk_same (t := t1) h1 rfl

theorem memOk_memEffect {r : Send} {jobs : Option Nat → Tile → Tile}
    (hjobs : ∀ a0 t, t.memOk = true → (jobs a0 t).memOk = true) (h : s.memOk = true) :
    (memEffect g d r jobs s).memOk = true := by
  unfold memEffect
  split
  · exact memOk_onTl h (fun _ ht => hjobs _ _ ht)
  · split
    · exact memOk_onTl h (fun _ ht => tileOk_writeL (hjobs _ _ ht))
    · exact memOk_onTl (memOk_accept (memOk_fresh h)) (fun _ ht => hjobs _ _ ht)

theorem tileOk_groupJobs {k addr : Nat} {f : Nat → List Nat → JobOp} (h : t.memOk = true) :
    (groupJobs k addr n f t).memOk = true :=
  tileOk_foldl h (fun _ _ ht => tileOk_addJob ht)

theorem outOk_cpy {count land : BitVec 21} (h : s.memOk = true) : OutOk (cpy g d dva b count land len s) := by
  unfold cpy
  dsimp only
  exact outOk_issue (fun _ ht => memOk_memEffect (fun _ _ ht1 => tileOk_groupJobs ht1) ht) h

theorem outOk_cpyw {count : BitVec 21} (h : s.memOk = true) : OutOk (cpyw g d dva b count len s) := by
  unfold cpyw
  dsimp only
  exact outOk_issue (fun _ ht => memOk_memEffect (fun _ _ ht1 => tileOk_groupJobs ht1) ht) h

theorem outOk_matom {op : RmwOp} {ty : AtomTy} {land : BitVec 21} (h : s.memOk = true) :
    OutOk (matom op g ty d dva b land len s) := by
  unfold matom
  dsimp only
  exact outOk_issue (fun _ ht => memOk_memEffect (fun _ _ ht1 => tileOk_addJob (tileOk_addJob ht1)) ht) h

theorem outOk_cellOp {kind : OpKind} {v : X} (h : s.memOk = true) : OutOk (cellOp g d kind dva v len s) :=
  outOk_issue (fun _ ht => memOk_memEffect (fun _ _ ht1 => ht1) ht) h

theorem outOk_xfin {land : BitVec 21} (h : s.memOk = true) : OutOk (xfin g d dva b land len s) := by
  unfold xfin
  dsimp only
  exact outOk_issue (fun _ ht => memOk_memEffect (fun _ _ ht1 => tileOk_addJob ht1) ht) h

theorem outOk_execFence {sc : Scope} {succ pred : BitVec 9} (h : s.memOk = true) : OutOk (execFence g sc succ pred s) :=
  outOk_issue (fun _ hu => memOk_ite (memOk_onTl hu (fun _ ht => tileOk_same ht rfl)) hu) h

theorem outOk_execTouch (h : s.memOk = true) : OutOk (execTouch g d a s) := by
  unfold execTouch
  extract_lets dva
  refine outOk_issue (fun u hu => ?_) h
  extract_lets v
  have hv : v.memOk = true := memOk_memEffect (fun _ _ ht => ht) hu
  exact memOk_ite (memOk_timer hv) hv

theorem outOk_execLandq (h : s.memOk = true) : OutOk (execLandq g d a s) := by
  unfold execLandq
  exact outOk_issue (fun _ hu => memOk_ite (memOk_onTl hu (fun _ ht => tileOk_addJob ht)) hu) h

theorem memOk_landqSample {j : Job} {no : BitVec 16} (h : s.memOk = true) : (landqSample j d no s).memOk = true :=
  memOk_onTl (memOk_logX h) (fun _ ht => tileOk_pushPend ht)

theorem outOk_execFencedRelease (h : s.memOk = true) : OutOk (execFencedRelease id s) := by
  unfold execFencedRelease
  split
  · exact .next (memOk_ite (memOk_setOp h) h)
  · exact .next (memOk_same h rfl)

theorem memOk_lineFault {j : Nat} {c : BitVec 8} (h : s.memOk = true) : (lineFault o j c s).memOk = true :=
  memOk_syncTicket (memOk_setOp h)

theorem memOk_performAt {j da : Nat} {tag : LineTag} (h : s.memOk = true) : (performAt o j da tag s).1.memOk = true := by
  have stored : ∀ l, (bufferStale da o.id (devStore s tag da l)).memOk = true :=
    fun l => memOk_stale (memOk_devStore h tag da l)
  unfold performAt
  split
  · exact h
  · exact stored _
  · exact stored _
  · exact stored _
  · exact stored _
  · exact h
  · exact stored _
  · exact h

theorem memOk_logEntry {ctx : BitVec 16} {f : BitVec 8 × X} {gen : BitVec 32} (h : s.memOk = true) :
    (logEntry ctx f gen s).memOk = true :=
  memOk_same h rfl

theorem memOk_engLost {c : BitVec 8} (h : s.memOk = true) : (engLost o c s).memOk = true := memOk_same h rfl

theorem memOk_performLine {j : Nat} (h : s.memOk = true) : (performLine o j s).memOk = true := by
  unfold performLine
  extract_lets r u fail
  have hu : u.memOk = true := memOk_opTarget h
  have hfail : ∀ c v, v.memOk = true → (fail c v).memOk = true :=
    fun c v hv => memOk_lineFault (memOk_ite (memOk_engLost hv) hv)
  split
  · exact hfail _ _ hu
  · have looked := memOk_looked hu
    exact memOk_ite (hfail _ _ hu) (memOk_ite (hfail _ _ looked) (memOk_syncTicket (memOk_setOp looked)))
  · exact memOk_ite (hfail _ _ hu) (memOk_ite (hfail _ _ hu) (memOk_syncTicket (memOk_setOp (memOk_performAt hu))))

theorem memOk_peerWrite (h : s.memOk = true) : (peerWrite n s).memOk = true := by
  unfold peerWrite
  dsimp only
  split
  · exact h
  · split
    · exact memOk_stale (memOk_devStore (memOk_looked h) _ _ _)
    · exact h
    · exact h

theorem outOk_execHomeStationPerform {line : Nat} (h : s.memOk = true) : OutOk (execHomeStationPerform id line s) := by
  unfold execHomeStationPerform
  split
  · exact .next (memOk_peerWrite h)
  · split
    · exact .next h
    · exact .next (memOk_ite (memOk_pruneOps (memOk_performLine h)) h)

theorem outOk_execCopyDataArrival {line : Nat} (h : s.memOk = true) : OutOk (execCopyDataArrival id line s) := by
  unfold execCopyDataArrival
  split
  · exact .next h
  · split
    · exact .next (memOk_syncTicket (memOk_setOp h))
    · exact .next h

theorem outOk_execStationReport (h : s.memOk = true) : OutOk (execStationReport id s) := by
  unfold execStationReport
  split
  · exact .next h
  · split
    · exact .next h
    · split
      · exact .next h
      · refine .next (memOk_pruneOps ?_)
        split
        · split
          · exact memOk_logEntry (memOk_setOp h)
          · exact memOk_changeTile (memOk_logEntry (memOk_setOp h)) (fun _ ht => tileOk_same ht rfl)
        · exact memOk_logEntry (memOk_setOp h)

theorem outOk_execTouchWalk (h : s.memOk = true) : OutOk (execTouchWalk id s) := by
  unfold execTouchWalk
  split
  · exact .next h
  · split
    · exact .next h
    · exact .next (memOk_pruneOps (memOk_setOp (memOk_opLook h)))

theorem outOk_execStationInvalidation {ctx : BitVec 16} {page : Option Nat} (h : s.memOk = true) :
    OutOk (execStationInvalidation ctx page s) := by
  unfold execStationInvalidation
  refine .next (memOk_mapTiles h (fun ⟨p, t⟩ ht => ?_) rfl)
  dsimp only
  exact tileOk_same ht rfl

theorem memOk_landingLog (h : s.memOk = true) : (landingLog o s).memOk = true := by
  unfold landingLog
  extract_lets live r u
  have hu : u.memOk = true := memOk_logInput h
  exact memOk_ite (memOk_diverge hu) (memOk_ite (memOk_setOp hu) (memOk_ite (memOk_diverge hu) hu))

theorem memOk_faultedLog (h : s.memOk = true) : (faultedLog o s).memOk = true := by
  unfold faultedLog
  split
  · exact h
  · generalize logNext s 16 = x
    cases x with
    | none => exact h
    | some p =>
      dsimp only
      split
      · exact h
      · split
        · exact memOk_setOp (memOk_logInput h)
        · exact memOk_diverge (memOk_logInput h)

theorem memOk_logLandings (h : s.memOk = true) : (logLandings s).memOk = true := by
  unfold logLandings
  refine memOk_foldl h (fun _ _ hu => ?_)
  split
  · exact hu
  · split
    · exact memOk_faultedLog hu
    · exact memOk_landingLog hu

theorem memOk_landingSlot (h : s.memOk = true) : (landingSlot s).memOk = true :=
  memOk_foldl (memOk_logLandings h) (fun _ _ hu => memOk_ite (memOk_onTl hu (fun _ ht => tileOk_same ht rfl)) hu)

theorem tileOk_passLanding (h : t.memOk = true) : (passLanding id t).memOk = true := tileOk_same h rfl

theorem memOk_drainLandings (h : s.memOk = true) : (drainLandings s).memOk = true :=
  memOk_foldl (memOk_logLandings h) (fun _ _ hu => memOk_ite hu (memOk_onTl hu (fun _ ht => tileOk_passLanding ht)))

theorem tileOk_landTicket {lost fin : Bool} (h : t.memOk = true) : (landTicket id lost fin t).memOk = true :=
  tileOk_same h rfl

theorem tileOk_landWord {addr : Nat} (h : t.memOk = true) : (landWord o addr n t).memOk = true :=
  tileOk_landTicket (tileOk_mem h (wf_mwriteLE _ _ _ (wf_tileMem h)) rfl)

theorem wf_landLines {bad : BitVec 32} {first : Nat} {addrs : List Nat} {m : Memory} (hm : Memory.wf m = true) :
    Memory.wf (landLines bad o first addrs m) = true := by
  unfold landLines
  refine wf_foldl hm (fun m ⟨a, i⟩ hm => ?_)
  dsimp only
  split
  · exact hm
  · split
    · exact wf_mwrites _ hm
    · exact hm

theorem memOk_landJob {bad : BitVec 32} {j : Job} (h : s.memOk = true) : (landJob bad j s).memOk = true := by
  unfold landJob
  split
  · split
    · exact h
    · refine memOk_onTl h (fun t ht => ?_)
      split
      · exact tileOk_landTicket ht
      · exact tileOk_landTicket (tileOk_mem ht (wf_landLines (wf_tileMem ht)) rfl)
  · split
    · exact h
    · refine memOk_onTl h (fun t ht => ?_)
      split
      · exact tileOk_landTicket ht
      · exact tileOk_landWord ht
  · split
    · exact h
    · refine memOk_onTl h (fun t ht => ?_)
      split
      · exact tileOk_landTicket ht
      · exact tileOk_landWord ht
  · exact h

end Sys2Proof.Machine
end

section
/-! PROOFS. What kennels and engine commands leave of the byte stores (O60). -/

namespace Sys2Proof.Machine

variable {s : State} {g : Guard} {a d : BitVec 5} {k id n : Nat} {dva : X} {w : Who} {line : Line} {l : Lease}

/-! ### Kennels and leases -/

theorem memOk_onKennel {f : Kennel → Kennel} (h : s.memOk = true) : (State.onKennel s k f).memOk = true :=
  memOk_same h rfl

theorem memOk_setLease (h : s.memOk = true) : (State.setLease s k l).memOk = true := memOk_onKennel h

theorem memOk_kennelPost {b m : Nat} {payload : Line} {wrote : List Nat} (h : s.memOk = true) :
    (kennelPost k w b m payload wrote s).memOk = true := by
  unfold kennelPost
  split
  · exact h
  · extract_lets seq r p u
    refine memOk_same (s := u) ?_ rfl
    unfold u
    split
    · refine memOk_changeTile (memOk_fresh h) (fun t ht => ?_)
      split <;> exact tileOk_same ht rfl
    · exact memOk_fresh h

theorem memOk_leash {st cause qpos fin : Nat} (h : s.memOk = true) : (leash k l st cause qpos fin s).memOk = true :=
  memOk_kennelPost h

theorem memOk_postDropped {b : Nat} {gen : BitVec 32} (h : s.memOk = true) : (postDropped k w b gen line s).memOk = true :=
  memOk_kennelPost h

theorem memOk_tellPositions (h : s.memOk = true) : (tellPositions k s).memOk = true :=
  memOk_foldl h (fun _ _ hu => memOk_ite (memOk_leash (memOk_setLease hu)) hu)

theorem memOk_timerOnce {at_ : Nat} {i : Instr} (h : s.memOk = true) : (timerOnce s at_ i).memOk = true := by
  unfold timerOnce
  split
  · exact h
  · exact memOk_timer h

theorem memOk_oweGrants (h : s.memOk = true) : (oweGrants k s).memOk = true := memOk_same h rfl

theorem memOk_settle (h : s.memOk = true) : (settle k s).memOk = true := by
  unfold settle
  dsimp only
  split
  · exact memOk_timerOnce (memOk_oweGrants (memOk_tellPositions h))
  · exact memOk_oweGrants (memOk_tellPositions h)

theorem memOk_flushWrites (h : s.memOk = true) : (flushWrites w s).memOk = true := by
  unfold flushWrites
  refine memOk_pruneOps ?_
  refine memOk_foldl h (fun _ _ hu => ?_)
  split
  · split
    · exact hu
    · split
      · exact memOk_performLine hu
      · exact memOk_setOp hu
  · exact hu

theorem memOk_endLease {code cause : BitVec 8} (h : s.memOk = true) : (endLease k id code cause s).memOk = true := by
  unfold endLease
  split
  · exact h
  · split
    · exact h
    · extract_lets u v w
      have hv : v.memOk = true := memOk_setLease (memOk_flushWrites h)
      have hw : w.memOk = true := memOk_foldl hv (fun _ _ hu => memOk_postDropped hu)
      exact memOk_settle (memOk_timer hw)

theorem memOk_freeLeases (h : s.memOk = true) : (freeLeases w s).memOk = true :=
  memOk_foldl h (fun _ _ ht => memOk_foldl ht (fun _ _ ht1 => memOk_endLease ht1))

theorem outOk_execGrant (h : s.memOk = true) : OutOk (execGrant k s) := by
  unfold execGrant
  extract_lets q u
  have hu : u.memOk = true := memOk_same h rfl
  split
  · exact .next hu
  · split
    · exact .next hu
    · exact .next (memOk_settle (memOk_timer (memOk_leash (memOk_setLease hu))))

theorem outOk_execWakeDone (h : s.memOk = true) : OutOk (execWakeDone k id s) := by
  unfold execWakeDone
  split
  · exact .next h
  · split
    · exact .next h
    · exact .next (memOk_timer (memOk_leash (memOk_setLease h)))

theorem outOk_execLeaseExpiry (h : s.memOk = true) : OutOk (execLeaseExpiry k id s) := by
  unfold execLeaseExpiry
  split
  · exact .next h
  · exact .next (memOk_ite h (memOk_endLease h))

theorem outOk_execEndingLeash (h : s.memOk = true) : OutOk (execEndingLeash k id s) := by
  unfold execEndingLeash
  split
  · exact .next h
  · split
    · exact .next h
    · exact .next (memOk_leash (memOk_onKennel h))

theorem outOk_execFullnessReport (h : s.memOk = true) : OutOk (execFullnessReport k s) := by
  unfold execFullnessReport
  dsimp only
  refine .next (memOk_mapTiles h (fun ⟨p, t⟩ ht => ?_) rfl)
  split
  · dsimp only
    exact tileOk_same ht rfl
  · exact ht

theorem memOk_evictOne {cause : BitVec 8} (h : s.memOk = true) : (evictOne k cause s).memOk = true := by
  unfold evictOne
  split
  · exact memOk_endLease h
  · exact h

theorem memOk_evictTo {cause : BitVec 8} {m : Nat} (h : s.memOk = true) : (evictTo k n cause m s).memOk = true := by
  induction m generalizing s with
  | zero => exact h
  | succ m ih =>
    unfold evictTo
    split
    · exact h
    · exact ih (memOk_evictOne h)

theorem memOk_shed {cause : BitVec 8} (h : s.memOk = true) : (shed k cause s).memOk = true := by
  unfold shed
  extract_lets old cap u
  have hu : u.memOk = true := memOk_timer (memOk_onKennel h)
  exact memOk_oweGrants (memOk_evictTo (memOk_ite (memOk_evictOne hu) hu))

theorem outOk_execCapRecovery (h : s.memOk = true) : OutOk (execCapRecovery k s) := by
  unfold execCapRecovery
  dsimp only
  split
  · exact .next h
  · exact .next (memOk_settle (memOk_ite (memOk_timer (memOk_onKennel h)) (memOk_onKennel h)))

theorem outOk_execRingSlot {p : Nat} (h : s.memOk = true) : OutOk (execRingSlot p s) := by
  unfold execRingSlot
  extract_lets t k
  split
  · exact .next h
  next =>
    split
    · exact .next h
    · split
      · exact .next (memOk_timer h)
      · extract_lets u v w
        have hu : u.memOk = true := memOk_changeTile h (fun _ ht => tileOk_same ht rfl)
        have hw : w.memOk = true := memOk_timer (memOk_onKennel hu)
        split
        · exact .next hw
        · exact .next (memOk_timer hw)

theorem memOk_takeRing {kind : BitVec 2} {f : RingMsg → State → State} (h : s.memOk = true)
    (hf : ∀ a0 u, u.memOk = true → (f a0 u).memOk = true) : (takeRing k kind s f).memOk = true := by
  unfold takeRing
  split
  · exact h
  · split
    · exact hf _ _ (memOk_onKennel h)
    · exact h

theorem outOk_execLeaseArrival (h : s.memOk = true) : OutOk (execLeaseArrival k s) := by
  unfold execLeaseArrival
  dsimp only
  refine .next (memOk_takeRing h (fun _ _ hu => ?_))
  split
  · exact memOk_leash hu
  · split
    · exact memOk_settle (memOk_leash (memOk_onKennel hu))
    · exact memOk_endLease (memOk_leash (memOk_onKennel hu))

theorem outOk_execRenewArrival (h : s.memOk = true) : OutOk (execRenewArrival k s) := by
  unfold execRenewArrival
  refine .next (memOk_takeRing h (fun _ _ hu => ?_))
  split
  · exact hu
  · split
    · exact hu
    · exact memOk_timer (memOk_leash (memOk_setLease hu))

theorem outOk_execLfreeArrival (h : s.memOk = true) : OutOk (execLfreeArrival k s) := by
  unfold execLfreeArrival
  refine .next (memOk_takeRing h (fun _ _ hu => ?_))
  split
  · exact hu
  · exact memOk_endLease hu

theorem outOk_execEcmdArrival (h : s.memOk = true) : OutOk (execEcmdArrival k s) := by
  unfold execEcmdArrival
  refine .next (memOk_takeRing h (fun _ u hu => ?_))
  split
  · exact memOk_postDropped hu
  · extract_lets ws v
    have hv : v.memOk = true := memOk_setLease hu
    exact memOk_ite (memOk_timer hv) hv

theorem memOk_statusInput {apart : BitVec 2 → Bool} {st : BitVec 2} (h : s.memOk = true) :
    (statusInput apart d st s).memOk = true :=
  memOk_onTl (memOk_ite (memOk_diverge (memOk_logX h)) (memOk_logX h)) (fun _ ht => tileOk_writeL ht)

theorem memOk_giveStatus {idle : List (BitVec 2)} {st : BitVec 2} (h : s.memOk = true) :
    (giveStatus idle d st s).memOk = true :=
  memOk_statusInput h

theorem memOk_ecmdStatus {st : BitVec 2} (h : s.memOk = true) : (ecmdStatus d st s).memOk = true := memOk_statusInput h

theorem memOk_onPort {f : Port → Port} (h : s.memOk = true) : (State.onPort s f).memOk = true :=
  memOk_onTl h (fun _ ht => tileOk_same ht rfl)

theorem memOk_sendMsg {kind : BitVec 2} {cls : Bool} {term : X} (h : s.memOk = true) :
    (sendMsg kind cls term s).memOk = true :=
  memOk_timer (memOk_onPort (memOk_fresh h))

theorem outOk_leaseReq {cls : Bool} (h : s.memOk = true) : OutOk (leaseReq g cls d a s) :=
  outOk_issue (fun _ hu => memOk_ite hu (memOk_ite (memOk_giveStatus hu)
    (memOk_ite (memOk_giveStatus hu) (memOk_giveStatus (memOk_sendMsg (memOk_onPort hu)))))) h

theorem outOk_execRenew (h : s.memOk = true) : OutOk (execRenew g d a s) := by
  unfold execRenew
  refine outOk_issue (fun _ hu => ?_) h
  split
  · exact hu
  · split
    · exact memOk_giveStatus hu
    · split
      · exact memOk_giveStatus hu
      · exact memOk_giveStatus (memOk_sendMsg hu)

theorem outOk_execLfree (h : s.memOk = true) : OutOk (execLfree g d s) := by
  unfold execLfree
  refine outOk_issue (fun _ hu => ?_) h
  split
  · exact hu
  · split
    · exact memOk_giveStatus hu
    · split
      · exact memOk_giveStatus hu
      · exact memOk_giveStatus (memOk_sendMsg hu)

theorem outOk_execEcmd (h : s.memOk = true) : OutOk (execEcmd g d a s) := by
  unfold execEcmd
  extract_lets addr bank
  refine outOk_issue (fun u hu => ?_) h
  have idle : (u.onTl (addJob 1 15 bank .idle)).memOk = true := memOk_onTl hu (fun _ ht => tileOk_addJob ht)
  split
  · exact idle
  · split
    · exact memOk_ecmdStatus idle
    · split
      · exact memOk_ecmdStatus idle
      · exact memOk_onTl (memOk_ecmdStatus (memOk_onPort (memOk_sendMsg hu)))
          (fun _ ht => tileOk_accessEvent (tileOk_addEv (tileOk_addJob ht)))

theorem memOk_ecmdUndo {j : Job} {logAt : Nat} (h : s.memOk = true) : (ecmdUndo j id logAt s).memOk = true := by
  unfold ecmdUndo
  extract_lets st u t
  have hu : u.memOk = true := memOk_onTl h (fun _ ht => tileOk_same ht rfl)
  split
  · exact memOk_dvaWrite hu _ _ _ _
  · exact hu

theorem memOk_ecmdRead {cancelled : Bool} {j : Job} {addr logAt : Nat} (h : s.memOk = true) :
    (ecmdRead cancelled j addr id logAt s).memOk = true := by
  unfold ecmdRead
  split
  · exact memOk_ecmdUndo h
  · exact memOk_timer (memOk_onPort h)

theorem tileOk_readyMsgs {t : Tile} (h : t.memOk = true) : (readyMsgs t).memOk = true := tileOk_same h rfl

/-! ### Engine commands -/

theorem memOk_onRun {f : CmdRun → CmdRun} (h : s.memOk = true) : (onRun k id f s).memOk = true := by
  unfold onRun
  split
  · exact memOk_setLease h
  · exact h

theorem memOk_engineFault {code : BitVec 8} {failidx : W32} (h : s.memOk = true) :
    (engineFault k id code failidx dva s).memOk = true := by
  unfold engineFault
  split
  · exact h
  · exact memOk_onRun (memOk_logEntry h)

theorem memOk_windowFault {failidx : W32} (h : s.memOk = true) : (windowFault k id failidx dva s).memOk = true := by
  unfold windowFault
  split
  · exact h
  · exact memOk_onRun (memOk_same h rfl)

theorem memOk_pickOf (h : s.memOk = true) : (pickOf n s).2.memOk = true := by
  unfold pickOf
  split
  · exact h
  · dsimp only
    exact memOk_free h

theorem memOk_beginRun {ticks : Nat} {rows : List X} (h : s.memOk = true) : (beginRun k l line ticks rows s).memOk = true :=
  memOk_setLease h

theorem memOk_addTicks {a : State} (h : a.memOk = true) : (addTicks k id n a).memOk = true := memOk_onRun h

theorem memOk_engTarget {write : Bool} (h : s.memOk = true) : (engTarget k id dva write s).2.memOk = true := by
  unfold engTarget
  split
  · exact h
  · extract_lets held q u v
    have hu : u.memOk = true := memOk_setLease h
    have hv : v.memOk = true := memOk_ite hu (memOk_addTicks hu)
    have looked : v.looked.memOk = true := memOk_looked hv
    split
    · exact hv
    · split
      · exact hv
      · split
        · exact looked
        · exact memOk_ite looked (memOk_addTicks looked)
    · split <;> exact hv

theorem memOk_flushLine {da : Nat} (h : s.memOk = true) : (flushLine w da s).memOk = true := by
  unfold flushLine
  refine memOk_pruneOps ?_
  refine memOk_foldl h (fun _ _ hu => ?_)
  split
  · split
    · exact hu
    · exact memOk_performLine hu
  · exact hu

theorem memOk_engLine (h : s.memOk = true) : (engLine k id dva s).2.memOk = true := by
  unfold engLine
  extract_lets q
  have hq : q.2.memOk = true := memOk_engTarget h
  split
  · exact hq
  · exact hq
  · exact memOk_looked hq
  · extract_lets u
    have hu : u.memOk = true := memOk_ite hq (memOk_flushLine hq)
    split <;> exact hu

theorem memOk_engIssue {row : Nat} {data : Line} {place : Place} (h : s.memOk = true) :
    (engIssue k id row dva data place s).memOk = true := by
  unfold engIssue
  split
  · exact h
  · exact memOk_onRun (memOk_same (memOk_fresh h) rfl)

theorem memOk_engWrite {data : Line} (h : s.memOk = true) : (engWrite k id dva data s).memOk = true := by
  unfold engWrite
  dsimp only
  split
  · exact memOk_engineFault (memOk_engTarget h)
  · exact memOk_engIssue (memOk_engTarget h)

theorem memOk_windowWrite {win : Nat} {data : Line} (h : s.memOk = true) : OptOk (windowWrite w win data s) := by
  unfold windowWrite
  split
  · exact .some h
  · split
    · exact .none
    · exact .some (memOk_changeTile h (fun _ ht => tileOk_mem ht (wf_mwrites _ (wf_tileMem ht)) rfl))

theorem memOk_carryOn {again : Instr} (h : s.memOk = true) : (carryOn k id again s).memOk = true := by
  unfold carryOn
  split
  · exact h
  · split
    · exact h
    · dsimp only
      have hu : State.memOk { s with timers := s.timers.filter (fun e => e.2 != again) } = true := memOk_same h rfl
      split
      · exact memOk_timerOnce hu
      · exact memOk_timer hu

theorem memOk_firstIndex {a : Nat} {idx : List X} (h : s.memOk = true) : (firstIndex line a idx s).2.memOk = true := by
  unfold firstIndex
  split
  · dsimp only
    exact memOk_free h
  · exact h

theorem memOk_rvBegin (h : s.memOk = true) : (rvBegin k l line s).memOk = true := by
  unfold rvBegin
  split
  · exact memOk_onRun (memOk_beginRun h)
  · split
    · exact memOk_windowFault (memOk_free (memOk_firstIndex (memOk_beginRun h)))
    · exact memOk_beginRun h

theorem memOk_rowTranslate {write : Bool} {m : Nat} (h : s.memOk = true) :
    (rowTranslate k id dva write m s).2.memOk = true := by
  induction m generalizing dva s with
  | zero => exact h
  | succ m ih =>
    unfold rowTranslate
    have h1 : (engTarget k id dva write s).2.memOk = true := memOk_engTarget h
    split
    next e => exact memOk_of_snd h1 e
    next e =>
      have h2 := ih (dva := dva + 64) (memOk_of_snd h1 e)
      split
      next e' => exact memOk_of_snd h2 e'
      next e' => exact memOk_of_snd h2 e'

theorem memOk_rvRowBegin {r : CmdRun} {idx : Nat} (h : s.memOk = true) : (rvRowBegin k id r idx s).memOk = true := by
  unfold rvRowBegin
  extract_lets n win gather dva
  split
  · exact memOk_onRun h
  · split
    · exact memOk_onRun h
    · have hrow : (rowTranslate k id dva (!gather) n s).2.memOk = true := memOk_rowTranslate h
      split
      next e => exact memOk_engineFault (memOk_of_snd hrow e)
      next e =>
        have hu := memOk_of_snd hrow e
        exact memOk_onRun (memOk_ite (memOk_addTicks hu) hu)

theorem memOk_rowRead {win : Nat} (h : s.memOk = true) : (rowRead k id dva win s).2.memOk = true := by
  unfold rowRead
  split
  next e => exact memOk_of_snd (memOk_engLine h) e
  next e => exact memOk_of_snd (memOk_engLine h) e

theorem memOk_gatherStep {r : CmdRun} (h : s.memOk = true) : (gatherStep k id r s).memOk = true := by
  unfold gatherStep
  dsimp only
  split
  · split
    · exact memOk_engineFault (memOk_rowRead (memOk_pickOf h))
    · exact memOk_onRun (memOk_rowRead (memOk_pickOf h))
  · exact h

theorem memOk_workStep {r : CmdRun} (h : s.memOk = true) : (workStep k id w r s).memOk = true := by
  unfold workStep
  split
  · exact memOk_gatherStep h
  · split
    · exact h
    · exact h
    · exact h
    · split
      next e => exact memOk_onRun (memOk_windowWrite h _ e)
      · exact h
    · split
      next e => exact memOk_onRun (memOk_windowWrite h _ e)
      · exact h
    · exact memOk_ite (memOk_windowFault h) (memOk_onRun (memOk_engIssue h))
    · exact memOk_onRun (memOk_engWrite h)

theorem memOk_rvStep {r : CmdRun} (h : s.memOk = true) : (rvStep k id l r s).memOk = true := by
  unfold rvStep
  split
  · split
    · exact h
    · exact memOk_rvRowBegin h
  · exact memOk_workStep h

theorem memOk_retriever {gather : Bool} {again : Instr} (h : s.memOk = true) :
    (retriever gather k id again s).memOk = true := by
  unfold retriever
  split
  · exact h
  · split
    · exact h
    · split
      · split
        · exact h
        · exact memOk_carryOn (memOk_ite h (memOk_rvStep h))
      · split
        · exact h
        · split
          · exact h
          · exact memOk_carryOn (memOk_rvBegin h)

theorem memOk_sdFail {f : BitVec 8 × X} (h : s.memOk = true) : (sdFail k id f s).memOk = true := by
  unfold sdFail
  split
  · exact memOk_engineFault h
  · exact memOk_onRun h

theorem memOk_setGram {g : Gram} (h : s.memOk = true) : (setGram k id g s).memOk = true := by
  unfold setGram
  split
  · exact memOk_setLease h
  · exact h

theorem memOk_sdMask {g : Gram} {x : Nat} {es : List Edge} (h : s.memOk = true) : (sdMask k id g x es s).memOk = true :=
  memOk_onRun h

theorem memOk_sdStep {g : Gram} {t : Nat} {es : List Edge} (h : s.memOk = true) : (sdStep k id g t es s).memOk = true := by
  unfold sdStep
  split
  · exact memOk_sdFail h
  · split
    · exact memOk_sdFail h
    · exact memOk_setGram (memOk_onRun h)

theorem memOk_sdSnap {g : Gram} {x : Nat} (h : s.memOk = true) : (sdSnap k id g x s).memOk = true := memOk_onRun h

theorem memOk_sdDone {e : SdRead} (h : s.memOk = true) : (sdDone k id line e s).memOk = true := by
  unfold sdDone
  split
  · exact memOk_setGram (memOk_onRun h)
  · split
    · exact memOk_sdMask h
    · exact memOk_sdStep h

theorem memOk_sdGo {gram : Option Gram} {got : Got} (h : s.memOk = true) : (sdGo k id line gram got s).memOk = true := by
  unfold sdGo
  split
  · exact memOk_onRun h
  · exact memOk_sdFail h
  · exact memOk_sdDone h

theorem memOk_sdRead {got : Got} (h : s.memOk = true) : (sdRead k l line got s).memOk = true := by
  unfold sdRead
  dsimp only
  split
  · split
    · exact h
    · split
      · exact h
      · exact memOk_sdGo (memOk_addTicks (memOk_engLine (memOk_pickOf h)))
  · exact memOk_sdGo h
  · exact memOk_sdGo h

theorem memOk_sdBegin (h : s.memOk = true) : (sdBegin k l line s).memOk = true := by
  unfold sdBegin
  dsimp only
  split
  · exact memOk_onRun (memOk_onRun (memOk_beginRun h))
  · split
    · exact memOk_sdSnap (memOk_addTicks (memOk_onRun (memOk_beginRun h)))
    · exact memOk_sdGo (memOk_addTicks (memOk_onRun (memOk_beginRun h)))

theorem memOk_sdCarry {r : CmdRun} (h : s.memOk = true) : (sdCarry k l r s).memOk = true := by
  unfold sdCarry
  split
  · exact memOk_sdRead h
  · exact memOk_workStep h

theorem memOk_sheepdog {op : Nat} {again : Instr} (h : s.memOk = true) : (sheepdog op k id again s).memOk = true := by
  unfold sheepdog
  split
  · exact h
  · split
    · exact h
    · split
      · split
        · exact h
        · exact memOk_carryOn (memOk_ite h (memOk_sdCarry h))
      · split
        · exact h
        · split
          · exact h
          · exact memOk_carryOn (memOk_sdBegin h)

theorem memOk_spoilSnap {r : CmdRun} (h : s.memOk = true) : (spoilSnap k l r s).memOk = true := by
  unfold spoilSnap
  dsimp only
  split
  · split
    · exact memOk_engTarget h
    · exact memOk_engIssue (memOk_looked (memOk_engTarget h))
  · exact h

theorem outOk_execEngineResult (h : s.memOk = true) : OutOk (execEngineResult k id s) := by
  unfold execEngineResult
  split
  · exact .next h
  next l _ =>
    split
    · exact .next h
    next r _ =>
      split
      · exact .next h
      · extract_lets u l1 wrote v l2 w
        have hu : u.memOk = true := memOk_spoilSnap (memOk_same h rfl)
        have hw : w.memOk = true := memOk_setLease (memOk_kennelPost hu)
        refine .next ?_
        split
        · exact memOk_timer hw
        · exact hw

end Sys2Proof.Machine
end

section
/-! PROOFS. What the matrix array, and a context bound, saved, moved or killed, leave of the byte stores (O60). -/

namespace Sys2Proof.Machine

variable {s : State} {t : Tile} {g : Guard} {a b : BitVec 5} {p idx : Nat} {ctx : BitVec 16} {w : Who}

/-! ### The matrix array -/

theorem outOk_execAshape {m : BitVec 4} (h : s.memOk = true) : OutOk (execAshape g m s) :=
  outOk_issue (fun _ hu => memOk_ite (memOk_onTl hu (fun _ ht => tileOk_same ht rfl)) hu) h

theorem tileOk_resHold {need : List (Nat × Nat × Nat)} (h : t.memOk = true) : (resHold need t).memOk = true :=
  tileOk_same h rfl

theorem tileOk_jobsFrom {f : Nat → Tile → Tile} {i m : Nat} (hf : ∀ a t, t.memOk = true → (f a t).memOk = true)
    (h : t.memOk = true) : (jobsFrom f i m t).memOk = true := by
  induction m generalizing i t with
  | zero => exact h
  | succ m ih => exact ih (hf i t h)

theorem outOk_execWfill {nrow : BitVec 8} {spoff : BitVec 21} (h : s.memOk = true) :
    OutOk (execWfill g a b nrow spoff s) := by
  unfold execWfill
  extract_lets addr xb n cols need
  refine outOk_issueTl (fun t ht => ?_) h
  extract_lets en t'
  have h' : t'.memOk = true := tileOk_resHold (tileOk_jobsFrom (fun _ _ hu => tileOk_addJob hu) ht)
  exact tileOk_ite (tileOk_accessEvent (tileOk_same h' rfl)) h'

theorem outOk_execCtab {spoff : BitVec 21} (h : s.memOk = true) : OutOk (execCtab g a spoff s) :=
  outOk_issueTl (fun _ ht => tileOk_accessIf (tileOk_addJob ht)) h

theorem outOk_execWload {ty : Ty} {d : BitVec 5} {spoff : BitVec 21} (h : s.memOk = true) :
    OutOk (execWload g ty d a b spoff s) := by
  unfold execWload
  extract_lets t addr set cnt nl bands fin need
  refine outOk_issueTl (fun _ ht => ?_) h
  extract_lets en t1 t2 t3 run arr t4
  have h1 : t1.memOk = true := tileOk_jobsFrom (fun _ _ hu => tileOk_addJob hu) ht
  have h3 : t3.memOk = true := tileOk_same (t := t1) h1 rfl
  have h4 : t4.memOk = true := tileOk_same h3 rfl
  exact tileOk_ite (tileOk_ite h4 (tileOk_accessEvent h4)) h3

theorem tileOk_mmaLand {r : MmaRun} {m : Nat} (h : t.memOk = true) : (mmaLand r m t).memOk = true := by
  unfold mmaLand
  split
  · exact h
  · exact tileOk_accWrite h

theorem outOk_execMma {ty : Ty} {acc swap : Bool} {h : BitVec 3} {arow nrow : BitVec 8} {spoff : BitVec 21}
    (hs : s.memOk = true) : OutOk (execMma g ty acc swap h a arow nrow spoff s) := by
  unfold execMma
  extract_lets t addr m bands nb pl pw p lines land need
  refine outOk_issueTl (fun _ ht => ?_) hs
  extract_lets en plane1 t1 t2 t3 run arr t4
  have h1 : t1.memOk = true := tileOk_jobsFrom (fun _ _ hu => tileOk_addJob hu) ht
  have h2 : t2.memOk = true := tileOk_ite (tileOk_jobsFrom (fun _ _ hu => tileOk_addJob hu) h1) h1
  have h4 : t4.memOk = true := tileOk_same (t := t2) h2 rfl
  exact tileOk_accessIf h4

theorem outOk_accOut {fmt : Option Ty} {arow nrow : BitVec 8} {spoff : BitVec 21} (h : s.memOk = true) :
    OutOk (accOut g fmt a arow nrow spoff s) := by
  unfold accOut
  extract_lets addr m lines need
  refine outOk_issueTl (fun t ht => ?_) h
  extract_lets en t1
  have h1 : t1.memOk = true :=
    tileOk_jobsFrom (fun _ _ hu => tileOk_addJob (tileOk_ite (tileOk_addJob hu) hu)) (tileOk_resHold ht)
  exact tileOk_accessIf h1

theorem outOk_accIn {fmt : Option Ty} {arow nrow : BitVec 8} {spoff : BitVec 21} (h : s.memOk = true) :
    OutOk (accIn g fmt a arow nrow spoff s) := by
  unfold accIn
  extract_lets addr m lines need
  refine outOk_issueTl (fun t ht => ?_) h
  extract_lets en t1
  have h1 : t1.memOk = true := tileOk_jobsFrom (fun _ _ hu => tileOk_addJob hu) (tileOk_resHold ht)
  exact tileOk_accessIf h1

theorem outOk_execAccz {arow nrow : BitVec 8} (h : s.memOk = true) : OutOk (execAccz g arow nrow s) := by
  unfold execAccz
  extract_lets m need
  refine outOk_issueTl (fun t ht => ?_) h
  have h1 : (resHold need t).memOk = true := tileOk_resHold ht
  exact tileOk_ite (tileOk_jobsFrom (fun _ _ hu => tileOk_addJob hu) h1) h1

/-! ### Contexts: binding, saving, moving and killing -/

theorem memOk_dvaLines {dva : X} {f : Nat → Line} {j m : Nat} (h : s.memOk = true) :
    (dvaLines ctx dva f j m s).memOk = true := by
  induction m generalizing j s with
  | zero => exact h
  | succ m ih =>
    unfold dvaLines
    refine ih ?_
    split
    · exact memOk_stale (memOk_devStore h _ _ _)
    · exact h
    · exact h

theorem tileOk_clearTile : (clearTile t).memOk = true := rfl

theorem tileOk_freshTile {b : BindRec} {old : Tile} : (freshTile s idx b old).memOk = true :=
  tileOk_same tileOk_clearTile rfl

theorem tileOk_boundTile {b : BindRec} {old : Tile} : (boundTile s idx b old).memOk = true := by
  unfold boundTile
  extract_lets t0 clk replay t
  refine tileOk_foldl ?_ (fun _ _ ht => tileOk_wx ht)
  have hi : Memory.wf t.imem = true := wf_dvaCells s b.ctx b.routine 0 b.routlen.toNat
  exact (tileOk_iff t).mpr ⟨hi, rfl, rfl⟩

theorem tileOk_resumedTile {b : BindRec} {kept : Option Kept} (ht : t.memOk = true) :
    (resumedTile s b kept t).memOk = true := by
  unfold resumedTile
  extract_lets u seqOf writers
  have hu : u.memOk = true := tileOk_loadImage (wf_dvaCells s b.ctx b.savearea 0 0x600000) ht
  clear_value u
  exact tileOk_same hu rfl

theorem memOk_dropPosts {all : Bool} (h : s.memOk = true) : (dropPosts w all s).memOk = true := memOk_same h rfl

theorem tileOk_repointLive {now_ : Nat} (ht : t.memOk = true) :
    (repointLive s idx now_ t).memOk = true :=
  tileOk_same ht rfl

theorem memOk_repointSaved {c : Ctx} {now_ : Nat} {k : Kept} (h : s.memOk = true) :
    (repointSaved c idx now_ k s).memOk = true := by
  unfold repointSaved
  dsimp only
  refine memOk_foldl h (fun _ _ hu => ?_)
  split
  · exact memOk_dvaWrite hu _ _ _ _
  · exact hu

theorem memOk_repointPack {now_ : Nat} (h : s.memOk = true) : (repointPack ctx idx now_ s).memOk = true := by
  unfold repointPack
  dsimp only
  split
  · exact h
  · refine memOk_mapTiles (memOk_foldl h (fun _ _ ht => memOk_repointSaved ht)) (fun ⟨p, t⟩ ht => ?_) rfl
    split
    · dsimp only
      exact tileOk_repointLive ht
    · exact ht

theorem memOk_noteWriter {c : Ctx} {lt : Nat} (h : s.memOk = true) : (noteWriter c idx lt s).memOk = true := by
  unfold noteWriter
  dsimp only
  refine memOk_mapTiles h (fun ⟨p, t⟩ ht => ?_) rfl
  split
  · dsimp only
    exact tileOk_same ht rfl
  · exact ht

theorem memOk_noteBound {b : BindRec} {start : Nat} (h : s.memOk = true) : (noteBound b idx start s).memOk = true :=
  memOk_same h rfl

theorem memOk_mapTile {lt ph : Nat} (h : s.memOk = true) : (mapTile lt ph s).memOk = true := memOk_same h rfl

theorem memOk_supersede (h : s.memOk = true) : (supersede p w s).memOk = true := by
  unfold supersede
  dsimp only
  refine memOk_mapTiles h (fun ⟨p, t⟩ ht => ?_) rfl
  split
  · dsimp only
    exact tileOk_same ht rfl
  · exact ht

theorem memOk_bindTileAt {r : List Byte} (h : s.memOk = true) : (bindTileAt p idx r s).memOk = true := by
  unfold bindTileAt
  extract_lets b old resume w r0 s0 t0 kept t1 t2 t3 s1 s2 s3 s4 s5
  have h0 : s0.memOk = true := memOk_same (memOk_looked (memOk_fresh h)) rfl
  split
  next =>
    have ht0 : t0.memOk = true := tileOk_freshTile
    exact memOk_dropPosts (memOk_supersede (memOk_changeTile h0 (fun _ _ => tileOk_same ht0 rfl)))
  next =>
    have h1 : t1.memOk = true := tileOk_boundTile
    have h2 : t2.memOk = true := tileOk_ite (tileOk_resumedTile h1) h1
    have h3 : t3.memOk = true := tileOk_same h2 rfl
    have hs1 : s1.memOk = true := memOk_supersede (memOk_changeTile h0 (fun _ _ => h3))
    have hs2 : s2.memOk = true := memOk_noteBound (memOk_dropPosts (memOk_same hs1 rfl))
    have hs3 : s3.memOk = true := memOk_ite (memOk_repointPack hs2) hs2
    have hs4 : s4.memOk = true := memOk_ite (memOk_dvaWrite hs3 _ _ _ _) hs3
    have hs5 : s5.memOk = true := memOk_timer hs4
    exact memOk_same hs5 rfl

theorem memOk_mcSays {c : BitVec 8} (h : s.memOk = true) : (State.mcSays c s).memOk = true := memOk_same h rfl

theorem tileOk_releaseTile {r : List Byte} (h : t.memOk = true) : (releaseTile r t).memOk = true := tileOk_same h rfl

theorem outOk_execControlWordWrite {record : List Byte} (h : s.memOk = true) :
    OutOk (execControlWordWrite p idx record s) := by
  unfold execControlWordWrite
  dsimp only
  split
  · exact .next (memOk_mcSays h)
  · split
    · exact .next (memOk_ite (memOk_mcSays (memOk_bindTileAt h)) (memOk_mcSays h))
    · split
      · exact .next (memOk_mcSays (memOk_changeTile h (fun _ ht => tileOk_releaseTile ht)))
      · exact .next (memOk_mcSays h)

theorem outOk_execTileStart (h : s.memOk = true) : OutOk (execTileStart p s) := by
  unfold execTileStart
  dsimp only
  split
  · exact .next h
  · exact .next (memOk_changeTile h (fun _ ht => tileOk_same ht rfl))

theorem memOk_writeLstat {slot v : Nat} (h : s.memOk = true) : (writeLstat slot v s).memOk = true := by
  unfold writeLstat
  extract_lets u
  have hu : u.memOk = true := by
    unfold u
    split
    · exact memOk_dvaWrite h _ _ _ _
    · exact h
  exact memOk_ite hu (memOk_same hu rfl)

theorem memOk_ctxLstat {c : Ctx} {v : Nat} (h : s.memOk = true) : (ctxLstat c v s).memOk = true := by
  unfold ctxLstat
  split
  · exact memOk_writeLstat h
  · exact h

theorem memOk_checkLaunch {k : Nat} (h : s.memOk = true) : (checkLaunch ctx k s).memOk = true := by
  unfold checkLaunch
  dsimp only
  split
  · exact memOk_writeLstat h
  · exact memOk_writeLstat (memOk_same (memOk_fresh h) rfl)

theorem outOk_execServeNotify (h : s.memOk = true) : OutOk (execServeNotify ctx s) := by
  unfold execServeNotify
  split
  · exact .next h
  · split
    · exact .next h
    · extract_lets u k v at_
      have hu : u.memOk = true := memOk_same h rfl
      split
      · exact .next (memOk_same (memOk_looked hu) rfl)
      · split
        · exact .next (memOk_looked (memOk_checkLaunch hu))
        · have hv : v.memOk = true := memOk_looked hu
          exact .next (memOk_timer (memOk_same hv rfl))

theorem outOk_execLseqReread (h : s.memOk = true) : OutOk (execLseqReread ctx s) := by
  unfold execLseqReread
  split
  · exact .next h
  next v _ =>
    have hu : State.memOk { s with serving := none } = true := memOk_same h rfl
    extract_lets k at_ u
    split
    · exact .next h
    · split
      · exact .next (memOk_looked (memOk_checkLaunch hu))
      · split
        · exact .next (memOk_looked (memOk_writeLstat hu))
        · have hv : u.memOk = true := memOk_looked h
          exact .next (memOk_timer (memOk_same hv rfl))

theorem outOk_execLstatRunning (h : s.memOk = true) : OutOk (execLstatRunning ctx s) := by
  unfold execLstatRunning
  split
  · exact .next h
  · split
    · exact .next h
    · split
      · exact .next (memOk_ctxLstat h)
      · exact .next h

theorem memOk_noteHalted (h : s.memOk = true) : (noteHalted w s).memOk = true := memOk_same h rfl

theorem memOk_finishCtx (h : s.memOk = true) : (finishCtx ctx s).memOk = true := by
  unfold finishCtx
  split
  · exact h
  · split
    · exact memOk_ctxLstat (memOk_same h rfl)
    · exact h

theorem memOk_beginSave (h : s.memOk = true) : (beginSave p s).memOk = true := by
  unfold beginSave
  extract_lets u
  have hu : u.memOk = true := memOk_changeTile h (fun _ ht => tileOk_same ht rfl)
  exact memOk_timer (memOk_freeLeases hu)

theorem memOk_noteSaved (h : s.memOk = true) : (noteSaved p s).memOk = true := by
  unfold noteSaved
  split
  · exact h
  · exact memOk_same (memOk_noteWriter h) rfl

theorem outOk_execSaveComplete (h : s.memOk = true) : OutOk (execSaveComplete p s) := by
  unfold execSaveComplete
  dsimp only
  split
  · exact .next h
  · exact .next (memOk_changeTile (memOk_noteSaved (memOk_dvaWrite (memOk_dvaLines h) _ _ _ _))
      (fun _ ht => tileOk_same ht rfl))

theorem memOk_moveTile {q : Nat} (h : s.memOk = true) : (moveTile q s).memOk = true := by
  unfold moveTile
  extract_lets p t d arr moved freed left
  have hm : moved.memOk = true := tileOk_same (memOk_tl h) rfl
  have hl : left.memOk = true := rfl
  refine memOk_mapTile (memOk_tset (s := { s with tiles := tset s.tiles p left }) (memOk_tset h hl rfl) hm rfl)

theorem memOk_dropHeld {sel : Who → Bool} (h : s.memOk = true) : (dropHeld sel s).memOk = true :=
  memOk_pruneOps (memOk_same h rfl)

theorem memOk_killCtx (h : s.memOk = true) : (killCtx ctx s).memOk = true := by
  unfold killCtx
  split
  · exact h
  next c _ =>
    extract_lets stops u
    have hu : u.memOk = true := memOk_dropHeld h
    exact memOk_same hu rfl

theorem tileOk_stopTile (h : t.memOk = true) : (stopTile t).memOk = true := tileOk_same h rfl

theorem outOk_execKillTileStop (h : s.memOk = true) : OutOk (execKillTileStop p s) := by
  unfold execKillTileStop
  extract_lets t u v
  have hu : u.memOk = true := memOk_sendPosts (memOk_same h rfl)
  have hv : v.memOk = true := memOk_same hu rfl
  split
  · exact .next h
  · split
    · exact .next (memOk_dropHeld h)
    · exact .next (memOk_freeLeases (memOk_dropHeld (memOk_changeTile hv (fun _ ht => tileOk_stopTile ht))))

theorem outOk_execKillComplete (h : s.memOk = true) : OutOk (execKillComplete ctx s) := by
  unfold execKillComplete
  split
  · exact .next h
  · split
    · exact .next h
    · extract_lets u
      have hu : u.memOk = true :=
        memOk_foldl h (fun _ _ hv => memOk_changeTile (memOk_freeLeases hv) (fun _ _ => tileOk_same tileOk_clearTile rfl))
      exact .next (memOk_ctxLstat (memOk_same hu rfl))

theorem memOk_controlPost {m : Nat} {payload : Line} {stamp : X} (h : s.memOk = true) :
    (controlPost w m payload stamp s).memOk = true := by
  unfold controlPost
  extract_lets seq r p u
  refine memOk_same (s := u) ?_ rfl
  unfold u
  split
  · refine memOk_changeTile (memOk_fresh h) (fun t ht => ?_)
    split <;> exact tileOk_same ht rfl
  · exact memOk_fresh h

theorem outOk_windowOnly {act : State → State} (hact : ∀ u, u.memOk = true → (act u).memOk = true)
    (h : s.memOk = true) : OutOk (windowOnly g act s) := by
  unfold windowOnly
  split
  · exact .next (memOk_ite (hact _ h) (memOk_dbgOk h))
  · exact outOk_issue (fun _ ht => ht) h

theorem outOk_execPreempt (h : s.memOk = true) : OutOk (execPreempt g a s) := by
  unfold execPreempt
  dsimp only
  refine outOk_windowOnly (fun _ hu => ?_) h
  split
  · exact memOk_dbgFault hu
  · split
    · exact memOk_dbgFault hu
    · exact memOk_dbgOk (memOk_foldl hu (fun _ _ ht => memOk_controlPost ht))

theorem outOk_execKill (h : s.memOk = true) : OutOk (execKill g a s) := by
  unfold execKill
  dsimp only
  refine outOk_windowOnly (fun _ hu => ?_) h
  split
  · exact memOk_dbgFault hu
  · exact memOk_dbgOk (memOk_killCtx hu)

theorem outOk_execMapset (h : s.memOk = true) : OutOk (execMapset g a b s) := by
  unfold execMapset
  dsimp only
  refine outOk_windowOnly (fun _ hu => ?_) h
  split
  · exact memOk_dbgFault hu
  · split
    · exact memOk_dbgFault hu
    · split
      · split
        · exact memOk_dbgOk (memOk_changeTile hu (fun _ ht => tileOk_same ht rfl))
        · exact memOk_dbgFault hu
      · split
        · exact memOk_dbgOk (memOk_same hu rfl)
        · exact memOk_dbgFault hu

theorem outOk_execKeysel (h : s.memOk = true) : OutOk (execKeysel g a b s) := by
  unfold execKeysel
  extract_lets
  refine outOk_windowOnly (fun u hu => ?_) h
  extract_lets v dpa k
  split
  · exact memOk_dbgFault hu
  · split
    · exact memOk_dbgOk (memOk_same hu rfl)
    · split
      · exact memOk_dbgFault hu
      next da _ =>
        extract_lets l
        split
        · exact memOk_dbgFault hu
        · exact memOk_dbgOk (memOk_stale (memOk_same (memOk_lineStored hu) rfl))

end Sys2Proof.Machine
end

section
/-! PROOFS. What the vector unit, the jobs of a cycle and its end leave of the byte stores (O60). -/

namespace Sys2Proof.Machine

variable {s : State} {t : Tile} {g : Guard} {a b d : BitVec 5} {p : Nat} {j : Job}

/-! ### Frequency, voltage and alarms -/

theorem memOk_setClocks {sel : Tile → Bool} {f : Nat} (h : s.memOk = true) : (setClocks sel f s).memOk = true := by
  unfold setClocks
  dsimp only
  refine memOk_mapTiles h (fun ⟨p, t⟩ ht => ?_) rfl
  split
  · dsimp only
    exact tileOk_same ht rfl
  · exact ht

theorem memOk_beginChangeover (h : s.memOk = true) : (beginChangeover s).memOk = true := memOk_setClocks (memOk_same h rfl)

theorem memOk_startChange {f : Nat} (h : s.memOk = true) : (startChange f s).memOk = true := by
  unfold startChange
  dsimp only
  split
  · exact memOk_same h rfl
  · exact memOk_beginChangeover (memOk_same h rfl)

theorem memOk_requestFreq {f : Nat} (h : s.memOk = true) : (requestFreq f s).memOk = true := by
  unfold requestFreq
  split
  · exact memOk_startChange (memOk_same h rfl)
  · exact memOk_startChange (memOk_same h rfl)
  · exact memOk_same h rfl

theorem memOk_freqWrite {f : Nat} (h : s.memOk = true) : (freqWrite f s).memOk = true := by
  unfold freqWrite
  split
  · exact memOk_mcSays h
  · exact memOk_mcSays (memOk_requestFreq h)

theorem outOk_execVoltageRampDone (h : s.memOk = true) : OutOk (execVoltageRampDone s) := by
  unfold execVoltageRampDone
  split
  · exact .next (memOk_beginChangeover (memOk_same h rfl))
  · exact .next h

theorem memOk_endChangeover (h : s.memOk = true) : (endChangeover s).memOk = true := by
  unfold endChangeover
  dsimp only
  split
  · exact memOk_setClocks (memOk_same h rfl)
  · exact memOk_requestFreq (memOk_setClocks (memOk_same h rfl))

theorem outOk_execChangeoverEnd (h : s.memOk = true) : OutOk (execChangeoverEnd s) :=
  .next (memOk_ite (memOk_endChangeover h) h)

theorem memOk_thermalShed (h : s.memOk = true) : (thermalShed p s).memOk = true := memOk_shed (memOk_same h rfl)

theorem outOk_execThermalSensorRead {temp : Nat} (h : s.memOk = true) : OutOk (execThermalSensorRead p temp s) := by
  unfold execThermalSensorRead
  dsimp only
  split
  · exact .next (memOk_changeTile (memOk_same h rfl) (fun _ ht => tileOk_same ht rfl))
  · split
    · exact .next (memOk_same h rfl)
    · split
      · exact .next (memOk_changeTile (memOk_same h rfl) (fun _ ht => tileOk_same ht rfl))
      · exact .next (memOk_thermalShed (memOk_same h rfl))

theorem outOk_execCurrentAlarm {d : Nat} {src : BitVec 4} (h : s.memOk = true) : OutOk (execCurrentAlarm d src s) :=
  .next (memOk_foldl (memOk_ite (memOk_requestFreq (memOk_same h rfl)) (memOk_same h rfl)) (fun _ _ ht => memOk_shed ht))

theorem outOk_execRegisterFileParity {file : BitVec 2} {r : BitVec 5} (h : s.memOk = true) :
    OutOk (execRegisterFileParity p file r s) :=
  .next (memOk_ite (memOk_changeTile h (fun _ ht => tileOk_same ht rfl)) h)

/-! ### Vector lanes -/

theorem tileOk_vres {l unit : Nat} {mask : X} {f : Nat → W32} (h : t.memOk = true) :
    (vres l unit d mask f t).memOk = true :=
  tileOk_writeL h

theorem outOk_lanewise {unit l occ : Nat} {f : Tile → Nat → W32} (h : s.memOk = true) :
    OutOk (lanewise unit l occ g d f s) :=
  outOk_issueTl (fun _ ht => tileOk_vres ht) h

theorem outOk_vcmp {gd : BitVec 3} {f : W32 → W32 → Bool} (h : s.memOk = true) : OutOk (vcmp g gd a b f s) :=
  outOk_issueTl (fun _ ht => tileOk_writeL ht) h

theorem outOk_execVlaneget {n : BitVec 6} (h : s.memOk = true) : OutOk (execVlaneget g d a n s) :=
  outOk_issueTl (fun _ ht => tileOk_ite (tileOk_writeL ht) ht) h

theorem outOk_execVlaneset {n : BitVec 6} (h : s.memOk = true) : OutOk (execVlaneset g d a n s) :=
  outOk_issueTl (fun _ ht => tileOk_ite (tileOk_vres ht) ht) h

theorem outOk_vred {l occ : Nat} {f : Tile → X} (h : s.memOk = true) : OutOk (vred d l occ f s) :=
  outOk_issueTl (fun _ ht => tileOk_writeL ht) h

theorem outOk_vscan {t : LaneTy} {f : List (Option W32) → List W32} (h : s.memOk = true) : OutOk (vscan t g d a f s) :=
  outOk_issueTl (fun _ ht => tileOk_vres ht) h

/-! ### Vector memory and sampling -/

theorem outOk_execVld {t : Ty} {imm : BitVec 32} (h : s.memOk = true) : OutOk (execVld g t d a imm s) := by
  unfold execVld
  split
  · exact outOk_issueTl (fun _ ht => tileOk_accessUnless (tileOk_addJob ht)) h
  · exact outOk_issueTl (fun _ ht => tileOk_accessUnless (tileOk_addJob ht)) h

theorem outOk_execVst {t : Ty} {imm : BitVec 32} (h : s.memOk = true) : OutOk (execVst g t d a imm s) := by
  unfold execVst
  split
  · exact outOk_issueTl (fun _ ht => tileOk_accessUnless (tileOk_addJob ht)) h
  · exact outOk_issueTl (fun _ ht => tileOk_accessUnless (tileOk_addJob ht)) h

theorem tileOk_holdBanks {banks : BitVec 32} {k m : Nat} (h : t.memOk = true) : (holdBanks banks k m t).memOk = true := by
  induction m generalizing k t with
  | zero => exact h
  | succ m ih => exact ih (tileOk_addJob h)

theorem outOk_execVgather {t : Ty} (h : s.memOk = true) : OutOk (execVgather g t d a b s) := by
  unfold execVgather
  exact outOk_issueTl (fun _ ht => tileOk_accessUnless (tileOk_holdBanks (tileOk_addJob ht))) h

theorem outOk_execVscatter {t : Ty} (h : s.memOk = true) : OutOk (execVscatter g t d a b s) := by
  unfold execVscatter
  exact outOk_issueTl (fun _ ht => tileOk_accessUnless (tileOk_addJob (tileOk_holdBanks ht))) h

theorem outOk_vatom {op : RmwOp} {t : IntTy} {c : BitVec 5} (h : s.memOk = true) : OutOk (vatom op g t d a b c s) := by
  unfold vatom
  exact outOk_issueTl (fun _ ht => tileOk_accessUnless (tileOk_holdBanks (tileOk_addJob ht))) h

theorem outOk_execVmaskLd {gd : BitVec 3} {imm : BitVec 32} (h : s.memOk = true) : OutOk (execVmaskLd g gd a imm s) :=
  outOk_issueTl (fun _ ht => tileOk_ite (tileOk_accessEvent (tileOk_addJob ht)) (tileOk_addJob ht)) h

theorem outOk_execVmaskSt {b : BitVec 3} {imm : BitVec 32} (h : s.memOk = true) : OutOk (execVmaskSt g a b imm s) :=
  outOk_issueTl (fun _ ht => tileOk_ite (tileOk_accessEvent (tileOk_addJob ht)) (tileOk_addJob ht)) h

theorem outOk_execVmaskCnt {b : BitVec 3} (h : s.memOk = true) : OutOk (execVmaskCnt g d b s) :=
  outOk_issue (fun _ hu => memOk_ite (memOk_onTl hu (fun _ ht => tileOk_writeL ht)) hu) h

theorem outOk_execVmaskFirst {b : BitVec 3} (h : s.memOk = true) : OutOk (execVmaskFirst g d b s) :=
  outOk_issue (fun _ hu => memOk_ite (memOk_onTl hu (fun _ ht => tileOk_writeL ht)) hu) h

theorem tileOk_sampleJob {en : Bool} {a b v n : Nat} (h : t.memOk = true) : (sampleJob en a b v n t).memOk = true :=
  tileOk_addJob h

theorem tileOk_sampleJobs {en : Bool} {a b v k n : Nat} (h : t.memOk = true) :
    (sampleJobs en a b v k n t).memOk = true := by
  induction n generalizing k t with
  | zero => exact h
  | succ n ih => exact ih (tileOk_sampleJob h)

theorem outOk_execSample {gd : BitVec 3} {c : BitVec 5} {v : BitVec 32} (h : s.memOk = true) :
    OutOk (execSample g d gd a b c v s) := by
  unfold execSample
  exact outOk_issueTl (fun _ ht => tileOk_ite (tileOk_accessEvent (tileOk_same (tileOk_sampleJobs ht) rfl))
    (tileOk_sampleJobs ht)) h

/-! ### Jobs and the end of a cycle -/

theorem tileOk_fillJob {order cyc : Nat} {op : JobOp} (h : t.memOk = true) : (fillJob order cyc op t).memOk = true :=
  tileOk_same h rfl

theorem tileOk_atomStep {w addr : Nat} {signed : Bool} {op : RmwOp} {b cmp : X} (h : t.memOk = true) :
    (atomStep j d w signed op addr b cmp t).memOk = true :=
  tileOk_pushPend (tileOk_fillJob h)

theorem tileOk_vloadStep {w after : Nat} {signed : Bool} {lanes : List (Nat × Nat)} (h : t.memOk = true) :
    (vloadStep j d w signed lanes after t).memOk = true :=
  tileOk_pushPend h

theorem tileOk_vloadSeStep {w : Nat} {slots : List (Nat × Nat)} (h : t.memOk = true) :
    (vloadSeStep j d w slots t).memOk = true :=
  tileOk_pushPend h

theorem tileOk_vatomStep {signed : Bool} {op : RmwOp} {lanes : List (Nat × Nat × W32)} (h : t.memOk = true) :
    (vatomStep j d signed op lanes t).memOk = true :=
  tileOk_pushPend (tileOk_fillJob h)

theorem tileOk_onSample {order : Nat} {f : SampleRun → SampleRun} (h : t.memOk = true) :
    (onSample order f t).memOk = true :=
  tileOk_same h rfl

theorem memOk_sampleFinish (h : s.memOk = true) : (sampleFinish j s).memOk = true := by
  unfold sampleFinish
  split
  · exact h
  · extract_lets u q
    have hu : u.memOk = true := memOk_onTl h (fun _ ht => tileOk_same ht rfl)
    have hq : q.2.memOk = true := by
      unfold q
      split
      · exact memOk_free hu
      · exact hu
    exact memOk_ite hu (memOk_onTl hq (fun _ ht => tileOk_pushPend (tileOk_pushPend ht)))

theorem tileOk_onMma {order : Nat} {f : MmaRun → MmaRun} (h : t.memOk = true) : (onMma order f t).memOk = true :=
  tileOk_same h rfl

theorem tileOk_onWload {order : Nat} {f : WloadRun → WloadRun} (h : t.memOk = true) : (onWload order f t).memOk = true :=
  tileOk_same h rfl

theorem tileOk_listStep {bad : BitVec 32} {l : Nat} {addrs : List Nat} (h : t.memOk = true) :
    (listStep bad j l addrs t).memOk = true :=
  tileOk_foldl h (fun _ _ ht => tileOk_onWload ht)

theorem tileOk_rowStep {row addr lines : Nat} {fmt : Option Ty} (h : t.memOk = true) :
    (rowStep j row fmt addr lines t).memOk = true :=
  tileOk_same h rfl

theorem memOk_runJob {bad : BitVec 32} (h : s.memOk = true) : (runJob bad j s).memOk = true := by
  unfold runJob
  split
  · exact h
  · exact h
  · split
    · exact h
    · exact memOk_onTl h (fun _ ht => tileOk_pushPend ht)
  · exact memOk_onTl h (fun _ ht => tileOk_mem ht (wf_mwrites _ (wf_tileMem ht)) rfl)
  · split
    · exact h
    · exact memOk_onTl h (fun _ ht => tileOk_atomStep ht)
  · extract_lets kept
    split
    · exact h
    · exact memOk_onTl h (fun _ ht => tileOk_vloadStep ht)
  · split
    · exact h
    · exact memOk_onTl h (fun _ ht => tileOk_vloadSeStep ht)
  · extract_lets kept
    split
    · exact h
    · exact memOk_onTl h (fun _ ht => tileOk_vatomStep ht)
  · split
    · exact h
    · exact memOk_onTl h (fun _ ht => tileOk_pushPend ht)
  · exact memOk_onTl h (fun _ ht => tileOk_onSample ht)
  · exact memOk_sampleFinish h
  · split
    · exact h
    · exact memOk_onTl h (fun _ ht => tileOk_onMma ht)
  · refine memOk_onTl h (fun t ht => ?_)
    split
    · exact tileOk_mmaLand ht
    · exact ht
  · split
    · exact h
    · exact memOk_onTl h (fun _ ht => tileOk_wfillWrite ht)
  · exact memOk_onTl h (fun _ ht => tileOk_listStep ht)
  · exact memOk_onTl h (fun _ ht => tileOk_shadowLoad ht)
  · split
    · exact h
    · exact memOk_onTl h (fun _ ht => tileOk_same ht rfl)
  · exact memOk_onTl h (fun _ ht => tileOk_fillJob ht)
  · split
    · exact h
    · exact memOk_onTl h (fun _ ht => tileOk_rowStep ht)
  · exact memOk_onTl h (fun _ ht => tileOk_accWrite ht)
  · exact memOk_postRead h
  · exact memOk_postOut h
  · exact memOk_ecmdRead h
  · split
    · exact memOk_setOp h
    · exact h
  · split
    · exact memOk_setOp h
    · exact h
  · exact memOk_landJob h
  · exact memOk_landJob h
  · exact memOk_landJob h
  · exact memOk_sampleMirror h
  · exact memOk_landqSample h

theorem memOk_runJobs {sel : JobOp → Bool} (h : s.memOk = true) : (runJobs sel s).memOk = true :=
  memOk_foldl h (fun _ _ ht => memOk_runJob ht)

theorem tileOk_landResults (h : t.memOk = true) : (landResults t).memOk = true := by
  unfold landResults
  refine tileOk_same (t := List.foldl _ _ _) ?_ rfl
  refine tileOk_foldl h (fun _ _ hu => ?_)
  split
  · exact tileOk_wdest hu
  · exact hu

theorem tileOk_pruneTile (ht : t.memOk = true) : (pruneTile s t).memOk = true := tileOk_same ht rfl

theorem tileOk_nextCycle (h : t.memOk = true) : (nextCycle t).memOk = true := tileOk_same h rfl

theorem memOk_holdTile {ticks : Nat} (h : s.memOk = true) : (holdTile ticks s).memOk = true :=
  memOk_timer (memOk_onTl h (fun v hv => tileOk_same (t := v) hv rfl))

theorem memOk_switchClock (h : s.memOk = true) : (switchClock s).memOk = true :=
  memOk_onTl h (fun _ ht => tileOk_same ht rfl)

theorem memOk_afterPeriod (h : s.memOk = true) : (afterPeriod s).memOk = true := by
  unfold afterPeriod
  extract_lets target shedNow u s1 change s2 ticks
  clear_value target
  have hu : u.memOk = true := memOk_onTl h (fun _ ht => tileOk_same ht rfl)
  have h1 : s1.memOk = true := by
    unfold s1
    split
    · exact memOk_moveTile h
    · exact memOk_ite (memOk_thermalShed hu) hu
  have h2 : s2.memOk = true := memOk_ite (memOk_switchClock h1) h1
  split
  · exact memOk_beginSave (memOk_onTl h (fun _ ht => tileOk_same ht rfl))
  · exact memOk_ite h2 (memOk_holdTile h2)

theorem memOk_trapHold {late : List Job} (h : s.memOk = true) : (trapHold late s).memOk = true := by
  unfold trapHold
  split
  · exact memOk_holdTile (memOk_switchClock (memOk_onTl h (fun _ ht => tileOk_same ht rfl)))
  · exact h

theorem memOk_closeCycle (h : s.memOk = true) : (closeCycle s).memOk = true := by
  unfold closeCycle
  extract_lets late s1 s2 period s3 s4
  have h1 : s1.memOk = true := memOk_runJobs (memOk_runJobs h)
  have h2 : s2.memOk = true := memOk_onTl h1 (fun _ ht => tileOk_landResults (tileOk_readyMsgs ht))
  have h3 : s3.memOk = true := memOk_onTl h2 (fun _ ht => tileOk_nextCycle ht)
  have h4 : s4.memOk = true := memOk_quotaCheck (memOk_pruneOps (memOk_onTl h3 (fun _ ht => tileOk_pruneTile ht)))
  split
  · exact memOk_afterPeriod h4
  · exact memOk_trapHold h4

theorem outOk_execTrapEntry (h : s.memOk = true) : OutOk (execTrapEntry s) := by
  unfold execTrapEntry
  split
  · exact .next h
  · exact .next (memOk_ite (memOk_onTl h (fun _ ht => tileOk_enterTrap ht)) h)

theorem outOk_execEscalation (h : s.memOk = true) : OutOk (execEscalation s) := by
  unfold execEscalation
  split
  · exact .next h
  · exact .next (memOk_ite (memOk_onTl h (fun _ ht => tileOk_escalate ht)) h)

theorem outOk_execHaltComplete (h : s.memOk = true) : OutOk (execHaltComplete s) := by
  unfold execHaltComplete
  dsimp only
  split
  · exact .next (memOk_finishCtx (memOk_noteHalted (memOk_freeLeases (memOk_onTl h (fun _ ht => tileOk_same ht rfl)))))
  · exact .next h

theorem memOk_takeLate (h : s.memOk = true) : (takeLate p s).memOk = true := by
  unfold takeLate
  extract_lets late back u v
  split
  · exact h
  · have hb : ∀ t : Tile, t.memOk = true → (back t).memOk = true := fun _ ht => tileOk_same ht rfl
    have hp : State.memOk { s with turn := p } = true := memOk_same h rfl
    have hu : u.memOk = true := memOk_foldl (memOk_onTl hp hb) (fun _ _ hu => memOk_runJob hu)
    have hv : v.memOk = true := memOk_onTl hu (fun _ ht => tileOk_same ht rfl)
    exact memOk_same hv rfl

theorem outOk_execHoldEnd (h : s.memOk = true) : OutOk (execHoldEnd p s) := by
  unfold execHoldEnd
  dsimp only
  split
  · exact .next (memOk_changeTile (memOk_takeLate h) (fun _ ht => tileOk_same ht rfl))
  · exact .next h

theorem outOk_execDroopStretch (h : s.memOk = true) : OutOk (execDroopStretch p s) := by
  have noted : State.memOk { s with occause := s.occause ||| 8 } = true := memOk_same h rfl
  have clocked : ∀ f : Clock → Clock, (s.onTile p (fun t => { t with clk := f t.clk })).memOk = true :=
    fun _ => memOk_changeTile h (fun _ ht => tileOk_same ht rfl)
  unfold execDroopStretch
  extract_lets t
  split
  · exact .next h
  · split
    · split
      · exact .next h
      · split
        · exact .next noted
        · exact .next (clocked (fun c => { c with droop := true }))
    · split
      · exact .next h
      · split
        · exact .next noted
        · exact .next (clocked (fun c => { c with stretched := true }))

theorem tileOk_thaw (ht : t.memOk = true) : (thaw s t).memOk = true := tileOk_same ht rfl

theorem outOk_execFrozenResume (h : s.memOk = true) : OutOk (execFrozenResume p s) := by
  unfold execFrozenResume
  split
  · exact .next (memOk_changeTile h (fun _ ht => tileOk_thaw (tileOk_returnFromTrap ht)))
  · exact .next h

theorem outOk_execFrozenHandlerEntry (h : s.memOk = true) : OutOk (execFrozenHandlerEntry p s) := by
  unfold execFrozenHandlerEntry
  dsimp only
  split
  · exact .next (memOk_changeTile h (fun _ ht => tileOk_thaw (tileOk_same ht rfl)))
  · exact .next h

end Sys2Proof.Machine
end

section
/-! PROOFS. What the host and the debug window leave of the byte stores (O60). -/

namespace Sys2Proof.Machine

variable {s : State} {off : Nat} {v : X}

/-! ### The host's windows, boot and reset -/

theorem memOk_bootImage {m : Memory} (hm : Memory.wf m = true) (h : s.memOk = true) : (bootImage m s).memOk = true := by
  obtain ⟨hd, hf, -, hw, ha⟩ := memOk_stores h
  unfold bootImage
  split
  · exact memOk_same h rfl
  · exact memOk_ofStores h rfl ⟨hd, hf, hm, hw, ha⟩

theorem outOk_execPowerOnReset (h : s.memOk = true) : OutOk (execPowerOnReset s) := by
  obtain ⟨-, -, hflash, -, -⟩ := memOk_stores h
  exact .next (memOk_bootImage hflash (memOk_ofStores (s := State.reset) rfl rfl ⟨rfl, rfl, hflash, rfl, rfl⟩))

theorem memOk_packageReset (h : s.memOk = true) : (packageReset s).memOk = true := by
  obtain ⟨hmem, -, hflash, -, -⟩ := memOk_stores h
  exact memOk_bootImage hflash (memOk_ofStores (s := State.reset) rfl rfl ⟨hmem, rfl, hflash, rfl, rfl⟩)

theorem memOk_enterRecovery (h : s.memOk = true) : (enterRecovery s).memOk = true := memOk_same h rfl

theorem memOk_bootGo (h : s.memOk = true) : (bootGo s).memOk = true := by
  obtain ⟨-, -, -, hwindow, -⟩ := memOk_stores h
  unfold bootGo
  split
  · exact memOk_bootImage hwindow h
  · exact h

theorem memOk_attestGo (h : s.memOk = true) : (attestGo s).memOk = true := by
  obtain ⟨hd, hf, hb, hw, -⟩ := memOk_stores h
  unfold attestGo
  split
  · exact h
  · exact memOk_ofStores h rfl ⟨hd, hf, hb, hw, wf_mwrites _ rfl⟩

theorem wf_reportHead (h : s.memOk = true) : Memory.wf (reportHead s) = true := by
  obtain ⟨-, -, -, -, ha⟩ := memOk_stores h
  exact wf_mwriteLE _ _ _ (wf_mwriteLE _ _ _ (wf_mwrites _ (wf_mwriteLE _ _ _ (wf_mwriteLE _ _ _ ha))))

theorem outOk_execAttestReportReady (h : s.memOk = true) : OutOk (execAttestReportReady s) := by
  have hr := wf_reportHead h
  unfold execAttestReportReady
  split
  · exact .next h
  · extract_lets m sig u
    have hm : Memory.wf (mwriteLE m 0x180 2420 sig) = true := wf_mwriteLE _ _ _ hr
    generalize mwriteLE m 0x180 2420 sig = report at hm ⊢
    exact .next (memOk_same (memOk_attest (n := 2) (memOk_looked h) hm) rfl)

theorem memOk_notifyWrite (h : s.memOk = true) : (notifyWrite v s).memOk = true := by
  unfold notifyWrite
  split <;> exact memOk_same h rfl

theorem memOk_commit {lt : Nat} {ro : Bool} (h : s.memOk = true) : (commit lt ro s).memOk = true := by
  unfold commit
  split
  · exact h
  · exact memOk_controlPost h

theorem memOk_hostBytes {l : List Byte} (h : s.memOk = true) : (hostBytes off l s).memOk = true := by
  induction l generalizing off s with
  | nil => exact h
  | cons b r ih =>
    unfold hostBytes
    refine ih ?_
    split
    next da tag _ => exact memOk_same (memOk_devStore h tag da (lineSplice (devLine s tag da) (da % 64) 1 b.toNat)) rfl
    · exact h
    · exact h

theorem memOk_hostWrite {bytes : List Byte} (h : s.memOk = true) : (hostWrite off bytes s).memOk = true := by
  unfold hostWrite
  refine memOk_looked (memOk_foldl (memOk_hostBytes h) (fun u i hu => ?_))
  split
  · split
    · exact memOk_same hu rfl
    · exact hu
  · exact hu
  · exact hu

theorem memOk_hostWriteFault (h : s.memOk = true) : (hostWriteFault off s).memOk = true := by
  unfold hostWriteFault
  split <;> exact memOk_same h rfl

theorem outOk_execHostMemoryWrite {bytes : List Byte} {ro : Bool} (h : s.memOk = true) :
    OutOk (execHostMemoryWrite off bytes ro s) := by
  unfold execHostMemoryWrite
  split
  · exact .next (memOk_hostWriteFault h)
  · exact .next (memOk_hostWrite h)

theorem memOk_bufferLine {loc : Nat} {l : Line} (h : s.memOk = true) : (bufferLine loc l s).memOk = true := by
  unfold bufferLine
  split
  · exact h
  · exact memOk_same h rfl

theorem memOk_hostLine {buffered : Bool} (h : s.memOk = true) : (hostLine buffered off s).2.memOk = true := by
  unfold hostLine
  split
  · split
    · exact h
    · split
      · exact h
      · dsimp only
        exact memOk_bufferLine (memOk_same h rfl)
  · dsimp only
    exact memOk_looked h
  · exact h

theorem memOk_hostLines {buffered : Bool} {m : Nat} (h : s.memOk = true) : (hostLines buffered off m s).2.memOk = true := by
  induction m generalizing off s with
  | zero => exact h
  | succ m ih =>
    have hr := ih (off := off + 64) (memOk_hostLine (buffered := buffered) (off := off) h)
    unfold hostLines
    extract_lets q r
    split <;> exact hr

theorem outOk_execReadBufferInvalidate {loc : Nat} (h : s.memOk = true) : OutOk (execReadBufferInvalidate loc s) := by
  unfold execReadBufferInvalidate
  split
  · exact .next (memOk_pruneOps (memOk_same h rfl))
  · exact .next h

theorem memOk_mcBytes {dpa : Nat} {l : List Byte} (h : s.memOk = true) : (mcBytes dpa l s).memOk = true := by
  induction l generalizing dpa s with
  | nil => exact h
  | cons b r ih =>
    unfold mcBytes
    refine ih ?_
    split
    · exact memOk_stale (memOk_same (memOk_lineStored h) rfl)
    · exact h

theorem memOk_mcWrite {dpa : Nat} {bytes : List Byte} (h : s.memOk = true) : (mcWrite dpa bytes s).memOk = true := by
  unfold mcWrite
  refine memOk_foldl (memOk_mcBytes h) (fun u k hu => ?_)
  split
  · exact memOk_same hu rfl
  · exact hu

theorem memOk_dropPathless (h : s.memOk = true) : (dropPathless s).memOk = true :=
  memOk_foldl (memOk_same h rfl) (fun _ _ ht => memOk_countLost ht)

theorem memOk_killOnDie {d : Nat} (h : s.memOk = true) : (killOnDie d s).memOk = true :=
  memOk_foldl h (fun _ _ ht => memOk_killCtx ht)

theorem outOk_execDieReset {d : Nat} (h : s.memOk = true) : OutOk (execDieReset d s) := by
  unfold execDieReset
  split
  · exact .next (memOk_packageReset h)
  · split
    · exact .next (memOk_same (memOk_killOnDie h) rfl)
    · split
      · split
        · exact .next h
        · exact .next (memOk_dropPathless (memOk_same h rfl))
      · exact .next (memOk_same (memOk_killOnDie h) rfl)

theorem outOk_execDieReturn {d : Nat} (h : s.memOk = true) : OutOk (execDieReturn d s) := by
  unfold execDieReturn
  split
  · exact .next h
  · split <;> exact .next (memOk_same h rfl)

theorem memOk_bar0Write (h : s.memOk = true) : (bar0Write off v s).memOk = true := by
  obtain ⟨hd, hf, hb, hw, ha⟩ := memOk_stores h
  unfold bar0Write
  extract_lets bytes
  split
  · exact memOk_bootGo h
  · split
    · exact memOk_notifyWrite h
    · split
      · exact memOk_nonce h
      · split
        · exact memOk_attestGo h
        · split
          · split
            · exact memOk_commit h
            · exact memOk_ofStores h rfl ⟨hd, wf_mwriteLE _ _ _ hf, hb, hw, ha⟩
          · split
            · exact memOk_ofStores h rfl ⟨hd, hf, hb, wf_mwriteLE _ _ _ hw, ha⟩
            · exact h

theorem memOk_mcRegWrite (h : s.memOk = true) : (mcRegWrite off v s).memOk = true := by
  unfold mcRegWrite
  split
  · exact memOk_same h rfl
  · exact memOk_same h rfl
  · exact memOk_same h rfl
  · exact memOk_freqWrite h
  · exact h

theorem memOk_barMapWrite (h : s.memOk = true) : (barMapWrite off v s).memOk = true := memOk_same h rfl

theorem memOk_farWrite (h : s.memOk = true) : (farWrite off v s).memOk = true := memOk_same h rfl

theorem outOk_execRegisterWrite {win : Nat} (h : s.memOk = true) : OutOk (execRegisterWrite win off v s) := by
  unfold execRegisterWrite
  refine .next ?_
  split
  · exact memOk_bar0Write h
  · exact memOk_mcRegWrite h
  · split
    · exact memOk_changeTile h (fun _ ht => tileOk_same ht rfl)
    · exact h
  · exact memOk_barMapWrite h
  · split
    · exact memOk_same h rfl
    · exact h
  · split
    · exact memOk_changeTile h (fun _ ht => tileOk_same ht rfl)
    · exact h
  · split
    · exact memOk_changeTile h (fun _ ht => tileOk_same ht rfl)
    · exact h
  · split
    · exact memOk_same h rfl
    · exact h
  · exact memOk_farWrite h
  · exact h

/-! ### The debug window -/

theorem memOk_outState {o : Host.Outcome State Fault Refusal} (ho : OutOk o) (h : s.memOk = true) :
    (outState o s).memOk = true := by
  unfold outState
  split
  · exact ho _ rfl
  · exact h
  · exact h

theorem memOk_windowInstr {i : Instr} (h : s.memOk = true) : (windowInstr i s).memOk = true := by
  unfold windowInstr
  split
  · exact memOk_outState (outOk_execSysr h) h
  · exact memOk_outState (outOk_execSysw h) h
  · exact memOk_outState (outOk_execMbind h) h
  · exact memOk_outState (outOk_execPreempt h) h
  · exact memOk_outState (outOk_execKill h) h
  · exact memOk_outState (outOk_execMapset h) h
  · exact memOk_outState (outOk_execKeysel h) h
  · exact memOk_dbgFault h

theorem memOk_dbgInsn {w : W32} (h : s.memOk = true) : (dbgInsn w s).memOk = true := by
  unfold dbgInsn
  refine memOk_same (s := if _ then _ else _) ?_ rfl
  split
  · exact memOk_dbgFault (memOk_same h rfl)
  · split
    · exact memOk_windowInstr (memOk_same h rfl)
    · exact memOk_dbgFault (memOk_same h rfl)

theorem tileOk_seqWrite {i : Nat} {t : Tile} (h : t.memOk = true) : (seqWrite i v t).memOk = true := by
  unfold seqWrite
  split <;> exact tileOk_same h rfl

theorem memOk_stoppedOnly {f : Tile → Tile} (hf : ∀ t, t.memOk = true → (f t).memOk = true) (h : s.memOk = true) :
    (stoppedOnly f s).memOk = true := by
  unfold stoppedOnly
  split
  · exact memOk_onTl h (fun _ ht => hf _ ht)
  · exact memOk_dbgFault h

theorem outOk_execDebugWindowWrite {p : Nat} (h : s.memOk = true) : OutOk (execDebugWindowWrite p off v s) := by
  unfold execDebugWindowWrite
  extract_lets turn u a w
  have hu : u.memOk = true := memOk_same h rfl
  suffices hw : w.memOk = true from .next (memOk_same hw rfl)
  unfold w
  split
  · exact memOk_stoppedOnly (fun _ ht => tileOk_liveWrite ht) hu
  · split
    · exact memOk_dbgInsn hu
    · split
      · exact memOk_onTl hu (fun _ ht => tileOk_same ht rfl)
      · split
        · exact memOk_onTl hu (fun _ ht => tileOk_same ht rfl)
        · split
          · exact memOk_stoppedOnly (fun _ ht => tileOk_seqWrite ht) hu
          · split
            · exact memOk_stoppedOnly (fun _ ht => tileOk_imemWrite ht) hu
            · exact hu

end Sys2Proof.Machine
end

section
/-! PROOFS. Every instruction, event and step keeps the byte stores canonical (O60). -/

namespace Sys2Proof.Machine

variable {s : State} {g : Guard} {d : BitVec 5} {len : Nat} {v : X}

/-! ### Branches, loops and periods -/

theorem outOk_execPbr {d : BitVec 2} {imm : BitVec 10} (h : s.memOk = true) : OutOk (execPbr g d imm s) :=
  outOk_issue (fun _ hu => memOk_ite (memOk_onTl hu (fun _ ht => tileOk_writeL ht)) hu) h

theorem outOk_execPbrLit {d : BitVec 2} {lit : X} (h : s.memOk = true) : OutOk (execPbrLit g d lit s) :=
  outOk_issue (fun _ hu => memOk_ite (memOk_onTl hu (fun _ ht => tileOk_writeL ht)) hu) h

theorem outOk_branch {target : X} {link : Bool} (h : s.memOk = true) : OutOk (branch g target link s) := by
  unfold branch
  refine outOk_issue (fun _ hu => ?_) h
  refine memOk_onTl hu (fun _ hu1 => ?_)
  refine tileOk_same (t := if _ then _ else _) ?_ rfl
  split
  · exact tileOk_write1 hu1
  · exact hu1

theorem outOk_execLoop {imm : BitVec 10} (h : s.memOk = true) : OutOk (execLoop g d imm s) := by
  unfold execLoop
  refine outOk_issueTl (fun _ hu1 => ?_) h
  split
  · split <;> exact tileOk_same hu1 rfl
  · split <;> exact tileOk_same hu1 rfl

theorem outOk_issueIllegal {r : Reject} (h : s.memOk = true) : OutOk (issueIllegal r s) := outOk_issue (fun _ ht => ht) h

theorem outOk_execPeriod (h : s.memOk = true) : OutOk (execPeriod s) := by
  unfold execPeriod
  refine outOk_issue (fun _ hu => ?_) h
  refine memOk_onTl (memOk_noteSample hu) (fun _ hu1 => ?_)
  split <;> exact tileOk_same hu1 rfl

theorem outOk_execNopn {imm : BitVec 10} (h : s.memOk = true) : OutOk (execNopn g imm s) := by
  unfold execNopn
  exact outOk_issueTl (fun _ ht => tileOk_ite ht (tileOk_same ht rfl)) h

theorem outOk_nopnCycle (h : s.memOk = true) : OutOk (nopnCycle s) := by
  unfold nopnCycle
  split
  · exact .next (memOk_onTl h (fun _ ht => tileOk_beginSlip ht))
  · exact .next (memOk_onTl h (fun _ ht => tileOk_same ht rfl))

theorem outOk_execResync (h : s.memOk = true) : OutOk (execResync d s) := by
  unfold execResync
  extract_lets v
  exact outOk_issue (fun u hu => memOk_onTl hu (fun _ ht => tileOk_same ht rfl)) h

theorem outOk_execResyncT (h : s.memOk = true) : OutOk (execResyncT d s) := by
  unfold execResyncT
  extract_lets v
  refine outOk_issue (fun u hu => ?_) h
  extract_lets at_ w
  have hw : w.memOk = true := memOk_onTl hu (fun _ ht => tileOk_same ht rfl)
  exact memOk_same hw rfl

theorem outOk_execResyncTRestart {p : Nat} (h : s.memOk = true) : OutOk (execResyncTRestart p s) := by
  unfold execResyncTRestart
  dsimp only
  split
  · split
    · exact .next h
    · exact .next (memOk_changeTile h (fun _ ht => tileOk_same (tileOk_same ht rfl) rfl))
  · exact .next h

theorem outOk_execHalt (h : s.memOk = true) : OutOk (execHalt g s) :=
  outOk_issue (fun _ hu => memOk_ite (memOk_onTl hu (fun _ ht => tileOk_same ht rfl)) hu) h

/-! ### Scalar operations -/

theorem outOk_alu (h : s.memOk = true) : OutOk (alu g d v len s) :=
  outOk_issue (fun _ hu => memOk_ite (memOk_onTl hu (fun _ ht => tileOk_write1 ht)) hu) h

theorem outOk_muldiv {l occ : Nat} (h : s.memOk = true) : OutOk (muldiv g d l occ v s) :=
  outOk_issue (fun _ hu => memOk_ite (memOk_onTl hu (fun _ ht => tileOk_writeL ht)) hu) h

theorem outOk_guardWrite {d : BitVec 3} (h : s.memOk = true) : OutOk (guardWrite g d v len s) :=
  outOk_issue (fun _ hu => memOk_ite (memOk_onTl hu (fun _ ht => tileOk_write1 ht)) hu) h

theorem outOk_loadAt {ty : MemTy} {addr : X} (h : s.memOk = true) : OutOk (loadAt g ty d addr len s) :=
  outOk_issueTl (fun _ ht => tileOk_ite (tileOk_accessEvent (tileOk_addJob ht)) (tileOk_addJob ht)) h

theorem outOk_storeAt {ty : MemTy} {addr : X} (h : s.memOk = true) : OutOk (storeAt g ty d addr len s) :=
  outOk_issueTl (fun _ ht => tileOk_ite (tileOk_accessEvent (tileOk_addJob ht)) (tileOk_addJob ht)) h

theorem outOk_atom {op : RmwOp} {ty : AtomTy} {a b : BitVec 5} (h : s.memOk = true) : OutOk (atom op g ty d a b s) :=
  outOk_issueTl (fun _ ht => tileOk_accessIf (tileOk_addJob (tileOk_addJob (tileOk_addJob ht)))) h

/-! ### Every instruction and event -/

theorem outOk_exec {i : Instr} (h : s.memOk = true) : OutOk (exec i s) := by
  unfold exec
  cases i with
  | add | sub | and | or | xor | andn | shl | shr | sar | rol | min | max | minn | maxn | slt | sltn | seq | clz | popc
  | sel | addi | addiLit | li | liLit | shli | shri | sari | roli => exact outOk_alu h
  | mul | mulh | mulhn | div | divn | rem | remn => exact outOk_muldiv h
  | geq | gne | glt | gle | gltn | glen | gand | gor | gxor | gnot | gmov | gseti => exact outOk_guardWrite h
  | ld | ldLit => exact outOk_loadAt h
  | st | stLit => exact outOk_storeAt h
  | atomAdd | atomMin | atomMax | atomXchg | atomCmpxchg => exact outOk_atom h
  | pbr => exact outOk_execPbr h
  | pbrLit => exact outOk_execPbrLit h
  | br | call | ret => exact outOk_branch h
  | loop => exact outOk_execLoop h
  | period => exact outOk_execPeriod h
  | resync => exact outOk_execResync h
  | resyncT => exact outOk_execResyncT h
  | nopn g => exact outOk_execNopn (g := g) h
  | slot | trap => exact outOk_issue (fun _ ht => ht) h
  | tbase => exact outOk_execTbase h
  | sysr => exact outOk_execSysr h
  | sysw => exact outOk_execSysw h
  | eret => exact outOk_issueTl (fun _ ht => tileOk_returnFromTrap ht) h
  | halt => exact outOk_execHalt h
  | vadd | vsub | vand | vor | vxor | vandn | vshl | vshr | vsar | vmin | vmax | vmul | vmulh | vabs | vneg | vfadd
  | vfsub | vfmul | vfma | vfmin | vfmax | vfabs | vfneg | vfdiv | vfsqrt | vfexp2 | vflog2 | vsel | vmov | vbcast | vcvt
  | vunpackse | vperm | vrot | philox => exact outOk_lanewise h
  | vcmpEq | vcmpNe | vcmpLt | vcmpLe => exact outOk_vcmp h
  | vbcastLit | vpackse => exact outOk_issueTl (fun _ ht => tileOk_vres ht) h
  | vlaneget => exact outOk_execVlaneget h
  | vlaneset => exact outOk_execVlaneset h
  | vredSum | vredMin | vredMax | vredArgmax | vredArgmin | vredAnd | vredOr | vredXor | vredXsum => exact outOk_vred h
  | vscanSum | vscanMin | vscanMax => exact outOk_vscan h
  | vld => exact outOk_execVld h
  | vst => exact outOk_execVst h
  | vgather => exact outOk_execVgather h
  | vscatter => exact outOk_execVscatter h
  | vatomAdd | vatomMin | vatomMax | vatomXchg => exact outOk_vatom h
  | sample => exact outOk_execSample h
  | vmaskLd => exact outOk_execVmaskLd h
  | vmaskSt => exact outOk_execVmaskSt h
  | vmaskCnt => exact outOk_execVmaskCnt h
  | vmaskFirst => exact outOk_execVmaskFirst h
  | ashape => exact outOk_execAshape h
  | wfill => exact outOk_execWfill h
  | wload => exact outOk_execWload h
  | ctab => exact outOk_execCtab h
  | mma => exact outOk_execMma h
  | accrd | accsave => exact outOk_accOut h
  | accwr | accrest => exact outOk_accIn h
  | accz => exact outOk_execAccz h
  | post => exact outOk_execPost h
  | postScratch => exact outOk_execPostScratch h
  | peek | seqMirror | age | mquery => exact outOk_sampleInstr h
  | mbind g a => exact outOk_execMbind (a := a) h
  | cpy | cpyLit => exact outOk_cpy h
  | cpyw | cpywLit => exact outOk_cpyw h
  | fence => exact outOk_execFence h
  | matomAdd | matomMin | matomMax | matomXchg | matomCmpxchg | matomAnd | matomOr | matomXor | matomAddLit | matomMinLit
  | matomMaxLit | matomXchgLit | matomCmpxchgLit | matomAndLit | matomOrLit | matomXorLit => exact outOk_matom h
  | xacc | xaccLit | xclr | xclrLit => exact outOk_cellOp h
  | xfin | xfinLit => exact outOk_xfin h
  | tlook => exact outOk_execTlook h
  | tset => exact outOk_execTset h
  | tclr => exact outOk_execTclr h
  | touch => exact outOk_execTouch h
  | landq => exact outOk_execLandq h
  | leaseSd | leaseRv => exact outOk_leaseReq h
  | renew => exact outOk_execRenew h
  | lfree => exact outOk_execLfree h
  | ecmd => exact outOk_execEcmd h
  | preempt => exact outOk_execPreempt h
  | kill => exact outOk_execKill h
  | mapset => exact outOk_execMapset h
  | keysel => exact outOk_execKeysel h
  | resultLanding => exact .next (memOk_onTl h (fun _ ht => tileOk_landResults ht))
  | trapEntry => exact outOk_execTrapEntry h
  | escalation => exact outOk_execEscalation h
  | haltComplete => exact outOk_execHaltComplete h
  | holdEnd => exact outOk_execHoldEnd h
  | resyncTRestart => exact outOk_execResyncTRestart h
  | bandAwake => exact .next (memOk_onTl h (fun _ ht => tileOk_same ht rfl))
  | shadowPlaneLoad | mmaRowLanding | cpyLanding | matomLanding | xfinLanding => exact .next (memOk_runJobs h)
  | postDelivery => exact outOk_execPostDelivery h
  | postRelease => exact outOk_execPostRelease h
  | fencedRelease => exact outOk_execFencedRelease h
  | homeStationPerform => exact outOk_execHomeStationPerform h
  | copyDataArrival => exact outOk_execCopyDataArrival h
  | touchWalk => exact outOk_execTouchWalk h
  | ringSlot => exact outOk_execRingSlot h
  | leaseArrival => exact outOk_execLeaseArrival h
  | renewArrival => exact outOk_execRenewArrival h
  | lfreeArrival => exact outOk_execLfreeArrival h
  | ecmdArrival => exact outOk_execEcmdArrival h
  | grant => exact outOk_execGrant h
  | wakeDone => exact outOk_execWakeDone h
  | leaseExpiry => exact outOk_execLeaseExpiry h
  | endingLeash => exact outOk_execEndingLeash h
  | fullnessReport => exact outOk_execFullnessReport h
  | capRecovery => exact outOk_execCapRecovery h
  | gather | scatter => exact .next (memOk_retriever h)
  | loadg | mask | step | snap | restore => exact .next (memOk_sheepdog h)
  | engineResult => exact outOk_execEngineResult h
  | lseqReread => exact outOk_execLseqReread h
  | tileStart => exact outOk_execTileStart h
  | lstatRunning => exact outOk_execLstatRunning h
  | saveComplete => exact outOk_execSaveComplete h
  | killTileStop => exact outOk_execKillTileStop h
  | killComplete => exact outOk_execKillComplete h
  | readBufferInvalidate => exact outOk_execReadBufferInvalidate h
  | notify => exact .next (memOk_notifyWrite h)
  | serveNotify => exact outOk_execServeNotify h
  | controlWordWrite => exact outOk_execControlWordWrite h
  | thermalSensorRead => exact outOk_execThermalSensorRead h
  | currentAlarm => exact outOk_execCurrentAlarm h
  | occauseClear | camrakLinkDown | camrakLinkUp => exact .next (memOk_same h rfl)
  | freqRequest => exact .next (memOk_freqWrite h)
  | dieReset => exact outOk_execDieReset h
  | dieReturn => exact outOk_execDieReturn h
  | powerOnReset => exact outOk_execPowerOnReset h
  | bootgo => exact .next (memOk_bootGo h)
  | ago => exact .next (memOk_attestGo h)
  | attestReportReady => exact outOk_execAttestReportReady h
  | voltageRampDone => exact outOk_execVoltageRampDone h
  | changeoverEnd => exact outOk_execChangeoverEnd h
  | hostMemoryWrite => exact outOk_execHostMemoryWrite h
  | hostMemoryRead => exact .next (memOk_same (memOk_hostLines (memOk_hostLines h)) rfl)
  | debugWindowWrite => exact outOk_execDebugWindowWrite h
  | registerWrite => exact outOk_execRegisterWrite h
  | firmwarePriorityEviction => exact .next (memOk_endLease h)
  | registerFileParity => exact outOk_execRegisterFileParity h
  | managementCoreMemoryWrite => exact .next (memOk_mcWrite h)
  | frozenResume => exact outOk_execFrozenResume h
  | frozenHandlerEntry => exact outOk_execFrozenHandlerEntry h
  | droopStretch => exact outOk_execDroopStretch h
  | hostCommit => exact .next (memOk_commit h)
  | stationInvalidation => exact outOk_execStationInvalidation h
  | stationReport => exact outOk_execStationReport h

/-! ### What comes next -/

theorem memOk_focus {p at_ : Nat} (h : s.memOk = true) : (focus p at_ s).memOk = true := memOk_same h rfl

theorem outOk_drainSlot (h : s.memOk = true) : OutOk (drainSlot s) := by
  unfold drainSlot
  split
  · split
    · exact outOk_exec h
    · split
      · split <;> exact outOk_exec h
      · split <;> exact outOk_exec h
  · exact .next (memOk_onTl (memOk_ite (memOk_drainLandings h) h) (fun _ ht => tileOk_same ht rfl))

theorem outOk_issueSlot (h : s.memOk = true) : OutOk (issueSlot s) := by
  unfold issueSlot
  dsimp only
  split
  · exact outOk_nopnCycle (memOk_landingSlot h)
  · split
    · exact outOk_exec (memOk_landingSlot h)
    · exact outOk_issueIllegal (memOk_landingSlot h)

theorem outOk_tileSlot (h : s.memOk = true) : OutOk (tileSlot s) := by
  unfold tileSlot
  split
  · exact outOk_exec h
  · split
    · exact outOk_issueSlot h
    · exact outOk_drainSlot h

theorem outOk_agendaStep (h : s.memOk = true) : OutOk (agendaStep s) := by
  unfold agendaStep
  split
  · exact .next h
  · split
    · exact outOk_exec (memOk_same h rfl)
    · exact .fault

theorem outOk_timerStep {k at_ : Nat} {i : Instr} (h : s.memOk = true) : OutOk (timerStep k at_ i s) := by
  unfold timerStep
  dsimp only
  split
  · exact outOk_exec (memOk_same h rfl)
  · split
    · exact .next (memOk_same h rfl)
    · split
      · refine .next ?_
        split <;> exact memOk_same h rfl
      · refine outOk_exec ?_
        split <;> exact memOk_same h rfl

theorem outOk_runEntry {e : Entry} (h : s.memOk = true) : OutOk (runEntry e s) := by
  unfold runEntry
  split
  · exact outOk_agendaStep h
  · exact outOk_timerStep h
  · exact .next (memOk_closeCycle (memOk_focus h))
  · exact outOk_tileSlot (memOk_focus h)

theorem outOk_act (h : s.memOk = true) : OutOk (act s) := by
  unfold act
  split
  · exact outOk_exec h
  · split
    · exact .next (memOk_enterRecovery h)
    · split
      · exact .next h
      · exact outOk_runEntry h

/-! ### A step -/

theorem outOk_step (h : s.memOk = true) : OutOk (step s) := outOk_act h

/-- Settles O60: reset lists no store; every step, instruction and event, and the end of a cycle, keeps each store of the
tiles and of the package in canonical form. -/
theorem byteStoresStayCanonical : Obligations.ByteStoresStayCanonical := by
  unfold Obligations.ByteStoresStayCanonical
  exact ⟨rfl, fun _ h => memOk_closeCycle h, fun _ t _ h he => outOk_exec h t he, fun _ t h he => outOk_step h t he⟩

end Sys2Proof.Machine
end

section
/-! PROOFS. Every word form read back (02:R35-R45, R51). -/

namespace Sys2Proof.Laws.RoundTrip

/-- One lemma of `Laws/PerInstr.lean` for each instruction; an event has no words. -/
theorem statement (i : Instr) : Statement i := by
  cases i with
  | add => apply add | sub => apply sub | and => apply and | or => apply or | xor => apply xor | andn => apply andn
  | shl => apply shl | shr => apply shr | sar => apply sar | rol => apply rol | min => apply min | max => apply max
  | minn => apply minn | maxn => apply maxn | slt => apply slt | sltn => apply sltn | seq => apply seq
  | clz => apply clz | popc => apply popc | sel => apply sel | addi => apply addi | addiLit => apply addiLit
  | li => apply li | liLit => apply liLit | shli => apply shli | shri => apply shri | sari => apply sari
  | roli => apply roli | mul => apply mul | mulh => apply mulh | mulhn => apply mulhn | div => apply div
  | divn => apply divn | rem => apply rem | remn => apply remn | geq => apply geq | gne => apply gne
  | glt => apply glt | gle => apply gle | gltn => apply gltn | glen => apply glen | gand => apply gand
  | gor => apply gor | gxor => apply gxor | gnot => apply gnot | gmov => apply gmov | gseti => apply gseti
  | ld => apply ld | ldLit => apply ldLit | st => apply st | stLit => apply stLit | atomAdd => apply atomAdd
  | atomMin => apply atomMin | atomMax => apply atomMax | atomXchg => apply atomXchg
  | atomCmpxchg => apply atomCmpxchg | pbr => apply pbr | pbrLit => apply pbrLit | br => apply br
  | call => apply call | ret => apply ret | loop => apply loop | period => apply period | resync => apply resync
  | resyncT => apply resyncT | nopn => apply nopn | slot => apply slot | tbase => apply tbase | sysr => apply sysr
  | sysw => apply sysw | trap => apply trap | eret => apply eret | halt => apply halt | vadd => apply vadd
  | vsub => apply vsub | vand => apply vand | vor => apply vor | vxor => apply vxor | vandn => apply vandn
  | vshl => apply vshl | vshr => apply vshr | vsar => apply vsar | vmin => apply vmin | vmax => apply vmax
  | vmul => apply vmul | vmulh => apply vmulh | vabs => apply vabs | vneg => apply vneg | vfadd => apply vfadd
  | vfsub => apply vfsub | vfmul => apply vfmul | vfma => apply vfma | vfmin => apply vfmin | vfmax => apply vfmax
  | vfabs => apply vfabs | vfneg => apply vfneg | vfdiv => apply vfdiv | vfsqrt => apply vfsqrt
  | vfexp2 => apply vfexp2 | vflog2 => apply vflog2 | vcmpEq => apply vcmpEq | vcmpNe => apply vcmpNe
  | vcmpLt => apply vcmpLt | vcmpLe => apply vcmpLe | vsel => apply vsel | vmov => apply vmov
  | vbcast => apply vbcast | vbcastLit => apply vbcastLit | vlaneget => apply vlaneget | vlaneset => apply vlaneset
  | vcvt => apply vcvt | vpackse => apply vpackse | vunpackse => apply vunpackse | vredSum => apply vredSum
  | vredMin => apply vredMin | vredMax => apply vredMax | vredArgmax => apply vredArgmax
  | vredArgmin => apply vredArgmin | vredAnd => apply vredAnd | vredOr => apply vredOr | vredXor => apply vredXor
  | vredXsum => apply vredXsum | vscanSum => apply vscanSum | vscanMin => apply vscanMin | vscanMax => apply vscanMax
  | vperm => apply vperm | vrot => apply vrot | vld => apply vld | vst => apply vst | vgather => apply vgather
  | vscatter => apply vscatter | vatomAdd => apply vatomAdd | vatomMin => apply vatomMin | vatomMax => apply vatomMax
  | vatomXchg => apply vatomXchg | philox => apply philox | sample => apply sample | vmaskLd => apply vmaskLd
  | vmaskSt => apply vmaskSt | vmaskCnt => apply vmaskCnt | vmaskFirst => apply vmaskFirst | ashape => apply ashape
  | wfill => apply wfill | wload => apply wload | ctab => apply ctab | mma => apply mma | accrd => apply accrd
  | accwr => apply accwr | accz => apply accz | accsave => apply accsave | accrest => apply accrest
  | post => apply post | postScratch => apply postScratch | peek => apply peek | seqMirror => apply seqMirror
  | age => apply age | mbind => apply mbind | mquery => apply mquery | cpy => apply cpy | cpyLit => apply cpyLit
  | cpyw => apply cpyw | cpywLit => apply cpywLit | fence => apply fence | matomAdd => apply matomAdd
  | matomMin => apply matomMin | matomMax => apply matomMax | matomXchg => apply matomXchg
  | matomCmpxchg => apply matomCmpxchg | matomAnd => apply matomAnd | matomOr => apply matomOr
  | matomXor => apply matomXor | matomAddLit => apply matomAddLit | matomMinLit => apply matomMinLit
  | matomMaxLit => apply matomMaxLit | matomXchgLit => apply matomXchgLit | matomCmpxchgLit => apply matomCmpxchgLit
  | matomAndLit => apply matomAndLit | matomOrLit => apply matomOrLit | matomXorLit => apply matomXorLit
  | xacc => apply xacc | xaccLit => apply xaccLit | xfin => apply xfin | xfinLit => apply xfinLit
  | xclr => apply xclr | xclrLit => apply xclrLit | tlook => apply tlook | tset => apply tset | tclr => apply tclr
  | touch => apply touch | landq => apply landq | leaseSd => apply leaseSd | leaseRv => apply leaseRv
  | renew => apply renew | lfree => apply lfree | ecmd => apply ecmd | preempt => apply preempt | kill => apply kill
  | mapset => apply mapset | keysel => apply keysel
  | _ => exact ofEvent _ rfl

end Sys2Proof.Laws.RoundTrip

namespace Sys2Proof.Machine

/-- Settles O1: instruction by instruction, what splitting a word gives back of the fields that made it. -/
theorem decodeOfEncode : Obligations.DecodeOfEncode := by
  unfold Obligations.DecodeOfEncode
  exact Laws.RoundTrip.statement

/-- Settles O2: the words are those that the encoder gives for well-formed instructions, so that O1 reads them back. -/
theorem sampleWordsDecode : Obligations.SampleWordsDecode := by
  unfold Obligations.SampleWordsDecode
  intro e he
  have hwords : encode e.2 = e.1 ∧ e.2.wellFormed = true ∧ e.2.isEvent = false := by
    revert e
    decide
  obtain ⟨henc, hwf, hev⟩ := hwords
  rw [← henc]
  exact Laws.RoundTrip.statement e.2 hwf hev false

end Sys2Proof.Machine
end

section
/-! PROOFS. Words that are no instruction, and the slip there (02:R46-R48). -/

namespace Sys2Proof

/-! ### Words -/

/-- The majors that 02:R45 reserves. -/
def reservedMajors : List (BitVec 6) := [0x0D#6, 0x0E, 0x0F, 0x1F, 0x27, 0x38, 0x39, 0x3A, 0x3B, 0x3C, 0x3D, 0x3E]

/-- A reserved major makes nothing, whatever LEN and the other fields are. -/
theorem candidate_reserved {w0 : W32} (w1 w2 w3 w4 : W32) (h : w0.extractLsb' 2 6 ∈ reservedMajors) :
    candidate w0 w1 w2 w3 w4 = none := by
  change (First.split w0).maj ∈ _ at h
  simp only [reservedMajors, List.mem_cons, List.not_mem_nil, or_false] at h
  rcases h with h | h | h | h | h | h | h | h | h | h | h | h <;> simp only [candidate, h] <;> split <;> rfl

theorem decodeWords_reserved (lvl : Bool) {w0 : W32} (ws : List W32) (h : w0.extractLsb' 2 6 ∈ reservedMajors) :
    decodeWords lvl (w0 :: ws) = .error { cause := 0x01, word := 0 } := by
  simp only [decodeWords, candidate_reserved _ _ _ _ h, verdict, ite_self]

end Sys2Proof

namespace Sys2Proof.Machine

/-! ### TRAPINFO (02:R47) -/

theorem wordInfo_word (t : Tile) (n : BitVec 2) : (wordInfo t n).extractLsb' 0 32 = fetchWord t t.pc.toNat :=
  low_append _ _

theorem wordInfo_number (t : Tile) (n : BitVec 2) : (wordInfo t n).extractLsb' 32 2 = n := by
  rw [wordInfo, BitVec.extractLsb'_append_eq_of_le (by decide)]
  exact low_append _ _

theorem wordInfo_zeros (t : Tile) (n : BitVec 2) : (wordInfo t n).extractLsb' 34 30 = 0 := by
  rw [wordInfo, BitVec.extractLsb'_append_eq_of_le (by decide)]
  exact high_append _ _

/-! ### The slip -/

/-- Words that are no instruction are the cause at a quiet slot: nothing before them in 04:R84 holds. -/
theorem slotCause_bad (p : Plan) (s : State) (e : BitVec 8 × X) (hq : quiet s = true) (hesc : p.esc = none)
    (hn : p.isPeriod = false) (hlate : p.late = none) (hbad : p.bad = some e) : slotCause p s = some e := by
  obtain ⟨hpick, hover, -⟩ := (quiet_iff s).mp hq
  simp [slotCause, slotCauses, hesc, hn, hlate, hbad, hpick, hover, causeIf]

theorem issueIllegal_slips (s : State) (r : Reject) (hq : quiet s = true) :
    ∃ t, issueIllegal r s = .next t ∧ Slips s t r.cause (wordInfo s.tl r.word) :=
  issue_slips _ _ _ s _ _ (slotCause_bad _ s _ hq rfl rfl rfl rfl)

/-- Settles O3: no major of the list has an arm in the opcode map (`candidate_reserved`); the slip is `issueIllegal_slips`, with
the fields of `wordInfo`. -/
theorem wordsThatAreNoInstruction : Obligations.WordsThatAreNoInstruction := by
  unfold Obligations.WordsThatAreNoInstruction
  refine ⟨⟨fun lvl w ws h => decodeWords_reserved lvl ws h, ?_⟩, fun s r hq => ?_⟩
  · simp only [List.forall_mem_cons, List.not_mem_nil, false_imp_iff, implies_true, and_true]
    -- Major 0x0D; major 0x00 with LEN 10; CLZ with its field B set; PERIOD with a guard.
    exact ⟨fun _ _ => decodeWords_reserved false _ (by decide), fun _ _ => rfl, fun _ _ => rfl, fun _ _ => rfl⟩
  · obtain ⟨t, hnext, hslip⟩ := issueIllegal_slips s r hq
    exact ⟨t, _, hnext, hslip, wordInfo_word _ _, wordInfo_number _ _, wordInfo_zeros _ _⟩

end Sys2Proof.Machine
end

section
/-! PROOFS. The instruction at the pc: what a tile fetches, and that a step runs it (02:R35, R36; 04:R72). -/

namespace Sys2Proof

/-! ### An instruction is made of the words that LEN counts (02:R35) -/

theorem candidate_oneWord {w0 : W32} (h : (First.split w0).len = 0#2) (w1 w2 w3 w4 : W32) :
    candidate w0 w1 w2 w3 w4 = candidate w0 0 0 0 0 := by
  simp only [candidate, h]
  rfl

theorem candidate_threeWords {w0 : W32} (h : (First.split w0).len = 1#2 ∨ (First.split w0).len = 2#2) (w1 w2 w3 w4 : W32) :
    candidate w0 w1 w2 w3 w4 = candidate w0 w1 w2 0 0 := by
  rcases h with h | h <;> simp only [candidate, h] <;> rfl

theorem len_cases : ∀ len : BitVec 2, len = 0#2 ∨ (len = 1#2 ∨ len = 2#2) ∨ len = 3#2 := by decide

/-- Of five words, those beyond LEN's count change nothing. -/
theorem decodeWords_take (lvl : Bool) (w0 w1 w2 w3 w4 : W32) :
    decodeWords lvl ([w0, w1, w2, w3, w4].take (lenWords (First.split w0).len)) = decodeWords lvl [w0, w1, w2, w3, w4] := by
  rcases len_cases (First.split w0).len with h | h | h
  · simp [decodeWords, h, lenWords, candidate_oneWord h w1]
  · have hlen : lenWords (First.split w0).len = 3 := by rcases h with h | h <;> rw [h] <;> rfl
    simp [decodeWords, hlen, candidate_threeWords h w1 w2 w3]
  · simp [h, lenWords]

theorem decode_fst (lvl : Bool) (bs : List Byte) : (decode lvl bs).map (fun r => r.1) = decodeWords lvl (wordsOfBytes bs) := by
  unfold decode
  cases decodeWords lvl (wordsOfBytes bs) <;> rfl

/-- The length of what decodes is LEN's. -/
theorem decode_length {lvl : Bool} {bs : List Byte} {i : Instr} {n : Nat} (h : decode lvl bs = .ok (i, n)) :
    n = 4 * lenWords (First.split ((wordsOfBytes bs).getD 0 0)).len := by
  unfold decode at h
  split at h <;> cases h
  rfl

end Sys2Proof

namespace Sys2Proof.Machine

/-! ### Fetch -/

theorem wordOfBytes_toNat (b0 b1 b2 b3 : Byte) :
    (wordOfBytes b0 b1 b2 b3).toNat = b0.toNat + 256 * (b1.toNat + 256 * (b2.toNat + 256 * b3.toNat)) := by
  have hor (x : Nat) (b : Byte) : x <<< 8 ||| b.toNat = b.toNat + 256 * x := by
    rw [← Nat.shiftLeft_add_eq_or_of_lt b.isLt, Nat.shiftLeft_eq, Nat.mul_comm, Nat.add_comm]
  simp only [wordOfBytes, BitVec.toNat_append, hor]

/-- The word at an address is its four bytes, the lowest first (02:R36). -/
theorem fetchWord_bytes (t : Tile) (a : Nat) : fetchWord t a
    = wordOfBytes (mread t.imem a) (mread t.imem (a + 1)) (mread t.imem (a + 2)) (mread t.imem (a + 3)) := by
  apply BitVec.eq_of_toNat_eq
  rw [fetchWord, BitVec.toNat_ofNat, Nat.mod_eq_of_lt (mreadLE_lt t.imem a 4), wordOfBytes_toNat]
  rfl

/-- Twenty bytes of the instruction store are five of its words. -/
theorem wordsOfBytes_imem (t : Tile) (a : Nat) : wordsOfBytes ((List.range 20).map (fun k => mread t.imem (a + k)))
    = [fetchWord t a, fetchWord t (a + 4), fetchWord t (a + 8), fetchWord t (a + 12), fetchWord t (a + 16)] := by
  simp only [fetchWord_bytes]
  rfl

/-- The words fetched are the first of those five, as many as LEN counts. -/
theorem fetchWords_within {t : Tile} {a : Nat} (h : a + instrLen t a ≤ 0x20000) : fetchWords t a
    = [fetchWord t a, fetchWord t (a + 4), fetchWord t (a + 8), fetchWord t (a + 12), fetchWord t (a + 16)].take
        (lenWords (First.split (fetchWord t a)).len) := by
  rw [fetchWords, if_neg (Nat.not_lt.mpr h)]
  rcases len_cases (First.split (fetchWord t a)).len with h | (h | h) | h <;> rw [h] <;> rfl

theorem fetchWords_beyond {t : Tile} {a : Nat} (h : 0x20000 < a + instrLen t a) : fetchWords t a = [] := if_pos h

/-- Settles O4: the words fetched are the first of the five that the bytes make, and decoding reads no others
(`decodeWords_take`). -/
theorem fetchReadsTheBytesAtThePc : Obligations.FetchReadsTheBytesAtThePc := by
  unfold Obligations.FetchReadsTheBytesAtThePc
  intro t lvl
  dsimp only
  refine ⟨fun h => ⟨?_, fun i n hd => ?_⟩, fun h => ?_⟩
  · rw [decode_fst, wordsOfBytes_imem, fetch, fetchWords_within h, decodeWords_take]
  · rw [decode_length hd, wordsOfBytes_imem]
    rfl
  · rw [fetch, fetchWords_beyond h]
    rfl

/-! ### The step at an issue slot (log entries 2 and 3) -/

/-- The slot of a tile is the step when nothing comes before it. -/
theorem step_slot {s : State} {p : Nat} {e : Entry} (hnow : atOnce s = none) (hrec : recoveryFirst s = false)
    (hnext : soonest (entries s) = some e) (hslot : e.due = .slot p) : step s = tileSlot (focus p e.at_ s) := by
  simp [step, act, hnow, hrec, hnext, runEntry, hslot]

theorem tileSlot_running {s : State} (hland : forceLanding s = none) (hrun : s.tl.phase = .run) :
    tileSlot s = issueSlot s := by
  simp [tileSlot, hland, hrun]

theorem issueSlot_instruction {s : State} {i : Instr} (hn : (landingSlot s).tl.nopn = none)
    (hf : fetch (landingSlot s).tl (landingSlot s).level = .ok i) : issueSlot s = exec i (landingSlot s) := by
  simp only [issueSlot, hn, hf]

theorem issueSlot_noInstruction {s : State} {r : Reject} (hn : (landingSlot s).tl.nopn = none)
    (hf : fetch (landingSlot s).tl (landingSlot s).level = .error r) : issueSlot s = issueIllegal r (landingSlot s) := by
  simp only [issueSlot, hn, hf]

/-- Settles O5: the step is the tile's slot (`step_slot`), which fetches once the landings of the cycle are in. -/
theorem stepRunsTheInstructionAtThePc : Obligations.StepRunsTheInstructionAtThePc := by
  unfold Obligations.StepRunsTheInstructionAtThePc
  intro s p e hnow hrec hnext hslot hland hrun
  dsimp only
  intro hn
  rw [step_slot hnow hrec hnext hslot, tileSlot_running hland hrun]
  exact ⟨fun i hf => issueSlot_instruction hn hf, fun r hf => issueSlot_noInstruction hn hf⟩

end Sys2Proof.Machine
end

section
/-! PROOFS. Values as rationals, and rounding to an integer (03:R60). -/

namespace Sys2Proof.Machine

/-! ### Magnitudes as rationals -/

theorem pow2_cast {k : Int} (h : 0 ≤ k) : (pow2 k : ℚ) = 2 ^ k := by
  rw [pow2, Nat.cast_pow, Nat.cast_ofNat, ← zpow_natCast, Int.toNat_of_nonneg h]

/-- A magnitude brought to a smaller exponent. -/
theorem pow2_scale (m : Nat) {e k : Int} (h : k ≤ e) : ((m * pow2 (e - k) : Nat) : ℚ) * 2 ^ k = m * 2 ^ e := by
  rw [Nat.cast_mul, pow2_cast (by omega), mul_assoc, ← zpow_add₀ two_ne_zero, sub_add_cancel]

theorem magLt_iff (m n : Nat) (e f : Int) : magLt m e n f = true ↔ (m : ℚ) * 2 ^ e < n * 2 ^ f := by
  have hpos : (0 : ℚ) < 2 ^ min e f := by positivity
  rw [magLt, decide_eq_true_iff, ← Nat.cast_lt (α := ℚ), ← mul_lt_mul_iff_left₀ hpos, pow2_scale m (min_le_left e f),
    pow2_scale n (min_le_right e f)]

theorem abs_of_isNumber {x : Ext} {v : ℚ} (h : IsNumber x v) : |v| = ((magOf x).1 : ℚ) * 2 ^ (magOf x).2 := by
  obtain ⟨neg, m, e, rfl, rfl⟩ := h
  rw [abs_mul, abs_mul, abs_of_pos (by positivity : (0 : ℚ) < 2 ^ e), Nat.abs_cast]
  cases neg <;> simp [magOf]

theorem magLe_iff {x : Ext} {v : ℚ} (h : IsNumber x v) (c : Nat) (k : Int) :
    magLe x c k = true ↔ |v| ≤ (c : ℚ) * 2 ^ k := by
  rw [abs_of_isNumber h, ← not_lt, ← magLt_iff, magLe]
  simp

theorem isNumber_fin (neg : Bool) (m : Nat) (e : Int) :
    IsNumber (.fin neg m e) ((if neg then -1 else 1) * m * 2 ^ e) := ⟨neg, m, e, rfl, rfl⟩

theorem isFin_of_isNumber {x : Ext} {v : ℚ} (h : IsNumber x v) : x.isFin = true := by
  obtain ⟨neg, m, e, rfl, -⟩ := h
  rfl

theorem isZero_iff {x : Ext} {v : ℚ} (h : IsNumber x v) : x.isZero = true ↔ |v| = 0 := by
  rw [abs_of_isNumber h]
  obtain ⟨neg, m, e, rfl, -⟩ := h
  cases m with
  | zero => simp [Ext.isZero, magOf]
  | succ n => simp [Ext.isZero, magOf, Nat.cast_add_one_ne_zero, zpow_ne_zero]

/-! ### Rounding to an integer -/

theorem mod_add_div_mul (m d : Nat) : m % 2 ^ d + m / 2 ^ d * 2 ^ d = m := by
  rw [Nat.mul_comm]
  exact Nat.mod_add_div m (2 ^ d)

/-- The top bit of a number of k + 1 bits. -/
theorem topBit_eq {k x : Nat} (hx : x < 2 * 2 ^ k) : (x / 2 ^ k == 1) = decide (2 ^ k ≤ x) := by
  by_cases h : 2 ^ k ≤ x
  · have h1 : x / 2 ^ k = 1 := Nat.div_eq_of_lt_le (by omega) (by omega)
    simp [h, h1]
  · simp [h, Nat.div_eq_of_lt (Nat.not_le.mp h)]

/-- To nearest: the quotient below half, the next one above, the even one of the two at half (03:R60). -/
theorem roundShift_ne (neg : Bool) (m d : Nat) :
    2 * (m % 2 ^ d) < 2 ^ d ∧ roundShift .ne neg m d = m / 2 ^ d
    ∨ 2 ^ d < 2 * (m % 2 ^ d) ∧ roundShift .ne neg m d = m / 2 ^ d + 1
    ∨ 2 * (m % 2 ^ d) = 2 ^ d ∧ roundShift .ne neg m d = m / 2 ^ d + m / 2 ^ d % 2 := by
  rcases Nat.lt_trichotomy (2 * (m % 2 ^ d)) (2 ^ d) with h | h | h
  · exact .inl ⟨h, by simp [roundShift, h.ne, h.not_gt]⟩
  · refine .inr (.inr ⟨h, ?_⟩)
    rcases Nat.mod_two_eq_zero_or_one (m / 2 ^ d) with hq | hq <;> simp [roundShift, h, hq]
  · exact .inr (.inl ⟨h, by simp [roundShift, h]⟩)

/-- The number rounded to nearest, times 2^d, lies at most half of 2^d from m; it is even where it lies that far. -/
theorem roundShift_ne_near (neg : Bool) (m d : Nat) :
    2 * (roundShift .ne neg m d * 2 ^ d) ≤ 2 * m + 2 ^ d ∧ 2 * m ≤ 2 * (roundShift .ne neg m d * 2 ^ d) + 2 ^ d
      ∧ (2 * (m % 2 ^ d) = 2 ^ d → roundShift .ne neg m d % 2 = 0)
      ∧ (2 * (roundShift .ne neg m d * 2 ^ d) = 2 * m + 2 ^ d ∨ 2 * m = 2 * (roundShift .ne neg m d * 2 ^ d) + 2 ^ d →
        2 * (m % 2 ^ d) = 2 ^ d) := by
  have hm := mod_add_div_mul m d
  have hlt := Nat.mod_lt m (Nat.two_pow_pos d)
  rcases roundShift_ne neg m d with ⟨hr, h⟩ | ⟨hr, h⟩ | ⟨hr, h⟩
  · rw [h]
    omega
  · rw [h, Nat.add_mul]
    omega
  · rcases Nat.mod_two_eq_zero_or_one (m / 2 ^ d) with hq | hq <;> rw [h, hq]
    · rw [Nat.add_zero]
      omega
    · rw [Nat.add_mul]
      omega

/-- The quotient rounded up. -/
theorem ceilDiv_pow (m d : Nat) : (m + 2 ^ d - 1) / 2 ^ d = m / 2 ^ d + if m % 2 ^ d = 0 then 0 else 1 := by
  have hpos := Nat.two_pow_pos d
  have hm := mod_add_div_mul m d
  have hlt := Nat.mod_lt m hpos
  split
  · rw [Nat.div_eq_of_lt_le] <;> simp only [Nat.add_mul] <;> omega
  · rw [Nat.div_eq_of_lt_le] <;> simp only [Nat.add_mul] <;> omega

/-- The modes that drop the part below. -/
theorem roundShift_down (neg : Bool) (m d : Nat) : roundShift .tz neg m d = m / 2 ^ d
    ∧ roundShift .dn false m d = m / 2 ^ d ∧ roundShift .up true m d = m / 2 ^ d := by simp [roundShift]

/-- The modes that round a magnitude up. -/
theorem roundShift_up (m d : Nat) : roundShift .up false m d = (m + 2 ^ d - 1) / 2 ^ d
    ∧ roundShift .dn true m d = (m + 2 ^ d - 1) / 2 ^ d := by
  rw [ceilDiv_pow]
  by_cases h : m % 2 ^ d = 0 <;> simp [roundShift, h]

/-- Rounding m·2^e to nearest gives the nearest integer, the even one of two (03:R60). -/
theorem roundMag_ne (neg : Bool) (m : Nat) (e : Int) :
    RoundsToInt .ne ((m : ℚ) * 2 ^ e) (roundMag .ne neg m e : Nat) := by
  unfold roundMag
  split
  next h => simp [RoundsToInt, pow2_cast h]
  next h =>
    obtain ⟨d, rfl⟩ : ∃ d : Nat, e = -(d : Int) := ⟨(-e).toNat, by omega⟩
    obtain ⟨hle, hge, heven, htie⟩ := roundShift_ne_near neg m d
    rw [neg_neg, Int.toNat_natCast]
    set r := roundShift .ne neg m d
    have hpos : (0 : ℚ) < 2 ^ d := by positivity
    have hdiff : (m : ℚ) * 2 ^ (-(d : Int)) - (r : Int) = (2 * m - 2 * (r * 2 ^ d)) / 2 ^ d / 2 := by
      rw [zpow_neg, zpow_natCast, Int.cast_natCast]
      field_simp
    have hle' : (2 : ℚ) * (r * 2 ^ d) ≤ 2 * m + 2 ^ d := by exact_mod_cast hle
    have hge' : (2 : ℚ) * m ≤ 2 * (r * 2 ^ d) + 2 ^ d := by exact_mod_cast hge
    refine ⟨?_, fun h => ?_⟩
    · rw [hdiff, abs_div, abs_two, div_le_div_iff_of_pos_right two_pos, abs_div, abs_of_pos hpos, div_le_one hpos, abs_le]
      constructor <;> linarith
    · rw [hdiff, abs_div, abs_two, div_left_inj' two_ne_zero, abs_div, abs_of_pos hpos, div_eq_one_iff_eq hpos.ne'] at h
      have htie' : (2 : ℚ) * (r * 2 ^ d) = 2 * m + 2 ^ d ∨ (2 : ℚ) * m = 2 * (r * 2 ^ d) + 2 ^ d :=
        (eq_or_eq_neg_of_abs_eq h).symm.imp (fun h => by linarith) (fun h => by linarith)
      exact_mod_cast heven (htie (by exact_mod_cast htie'))

end Sys2Proof.Machine
end

section
/-! PROOFS. The codes of the float formats: their values, and rounding a code's value (03:R57-R61). -/

namespace Sys2Proof.Machine

/-! ### A code's sign, magnitude, significand and exponent -/

/-- The bits below the sign. -/
def FloatFmt.magnitude (f : FloatFmt) (c : Nat) : Nat := c % 2 ^ (f.width - 1)

/-- The sign bit of a code. -/
def FloatFmt.signBit (f : FloatFmt) (c : Nat) : Bool := c / 2 ^ (f.width - 1) % 2 == 1

/-- A magnitude's value is this integer times 2^exponent (`significand_mul_exponent`). -/
def FloatFmt.significand (f : FloatFmt) (mag : Nat) : Nat :=
  if mag / 2 ^ f.mbits = 0 then mag % 2 ^ f.mbits else 2 ^ f.mbits + mag % 2 ^ f.mbits

/-- The exponent of a magnitude's lowest fraction bit; 0 and 1 in the exponent field share it. -/
def FloatFmt.exponent (f : FloatFmt) (mag : Nat) : Int := (max (mag / 2 ^ f.mbits) 1 : Nat) - f.bias - f.mbits

theorem significand_subnormal {f : FloatFmt} {mag : Nat} (h : mag / 2 ^ f.mbits = 0) :
    f.significand mag = mag % 2 ^ f.mbits := if_pos h

theorem significand_normal {f : FloatFmt} {mag : Nat} (h : mag / 2 ^ f.mbits ≠ 0) :
    f.significand mag = 2 ^ f.mbits + mag % 2 ^ f.mbits := if_neg h

theorem exponent_subnormal {f : FloatFmt} {mag : Nat} (h : mag / 2 ^ f.mbits = 0) :
    f.exponent mag = 1 - f.bias - f.mbits := by
  rw [FloatFmt.exponent, h]
  rfl

theorem exponent_normal {f : FloatFmt} {mag : Nat} (h : mag / 2 ^ f.mbits ≠ 0) :
    f.exponent mag = (mag / 2 ^ f.mbits : Nat) - f.bias - f.mbits := by
  rw [FloatFmt.exponent, max_eq_left (Nat.one_le_iff_ne_zero.mpr h)]

theorem decodeFloat_nan {f : FloatFmt} {c : Nat} (h : f.top < f.magnitude c) : decodeFloat f c = .nan := by
  unfold FloatFmt.magnitude at h
  simp [decodeFloat, h]

theorem decodeFloat_inf {f : FloatFmt} {c : Nat} (hinf : f.hasInf = true) (h : f.magnitude c = f.top) :
    decodeFloat f c = .inf (f.signBit c) := by
  unfold FloatFmt.magnitude at h
  simp [decodeFloat, h, hinf, FloatFmt.signBit]

theorem decodeFloat_number {f : FloatFmt} {c : Nat} (hnan : ¬f.top < f.magnitude c)
    (hinf : ¬(f.hasInf = true ∧ f.magnitude c = f.top)) :
    decodeFloat f c = .fin (f.signBit c) (f.significand (f.magnitude c)) (f.exponent (f.magnitude c)) := by
  unfold FloatFmt.magnitude at *
  have hinf' : ¬((f.hasInf && c % 2 ^ (f.width - 1) == f.top) = true) := by simpa using hinf
  rw [decodeFloat, if_neg hnan, if_neg hinf']
  by_cases he : c % 2 ^ (f.width - 1) / 2 ^ f.mbits = 0
  · rw [if_pos he, significand_subnormal he, exponent_subnormal he, FloatFmt.signBit]
  · rw [if_neg he, significand_normal he, exponent_normal he, FloatFmt.signBit]

theorem decodeFloat_eq_nan_iff {f : FloatFmt} {c : Nat} : decodeFloat f c = .nan ↔ f.top < f.magnitude c := by
  refine ⟨fun h => ?_, decodeFloat_nan⟩
  by_contra hnan
  by_cases hinf : f.hasInf = true ∧ f.magnitude c = f.top
  · simp [decodeFloat_inf hinf.1 hinf.2] at h
  · simp [decodeFloat_number hnan hinf] at h

theorem width_sub_one (f : FloatFmt) : f.width - 1 = f.ebits + f.mbits := by
  rw [FloatFmt.width]
  omega

theorem two_pow_width (f : FloatFmt) : 2 ^ f.width = 2 * 2 ^ (f.width - 1) := by
  rw [← pow_succ', FloatFmt.width]
  congr 1
  omega

theorem signBit_eq {f : FloatFmt} {c : Nat} (hc : c < 2 ^ f.width) : f.signBit c = decide (2 ^ (f.width - 1) ≤ c) := by
  rw [two_pow_width] at hc
  rw [FloatFmt.signBit, Nat.mod_eq_of_lt ((Nat.div_lt_iff_lt_mul (Nat.two_pow_pos _)).mpr hc), topBit_eq hc]

/-- A code is its magnitude with its sign. -/
theorem signed_signBit {f : FloatFmt} {c : Nat} (hc : c < 2 ^ f.width) : signed f (f.signBit c) (f.magnitude c) = c := by
  rw [signBit_eq hc, signed, FloatFmt.magnitude]
  rw [two_pow_width] at hc
  by_cases h : 2 ^ (f.width - 1) ≤ c
  · rw [decide_eq_true h, if_pos rfl, Nat.mod_eq_sub_mod h, Nat.mod_eq_of_lt (by omega)]
    omega
  · simp [h, Nat.mod_eq_of_lt (Nat.not_le.mp h)]

/-- The fields of a code below its sign (03:R56). -/
theorem magnitude_fields (f : FloatFmt) (c : Nat) : f.magnitude c / 2 ^ f.mbits = c / 2 ^ f.mbits % 2 ^ f.ebits
    ∧ f.magnitude c % 2 ^ f.mbits = c % 2 ^ f.mbits := by
  rw [FloatFmt.magnitude, width_sub_one, Nat.add_comm, pow_add]
  exact ⟨Nat.mod_mul_right_div_self c _ _, Nat.mod_mul_right_mod c _ _⟩

/-! ### Rounding a code's value -/

/-- The formats of 03:R56. -/
def floatFormats : List FloatFmt := [f32, f16, bf16, e4m3, e5m2, e2m1]

/-- What rounding needs of a format's limits (03:R58): with infinities, +∞ is the code after the largest finite one and no
NaN; without, the largest finite magnitude is the last that is no NaN. -/
def FloatFmt.Limits (f : FloatFmt) : Prop :=
  f.maxFin = (if f.hasInf then f.top - 1 else f.top) ∧ (f.hasInf = true → f.infSource = f.top ∧ f.nanCode ≠ f.top)

theorem limits_formats : ∀ f ∈ floatFormats, f.Limits := by
  unfold FloatFmt.Limits
  decide

/-- The bits of a magnitude's significand above the first subnormal's exponent are the magnitude's own. -/
theorem significand_add_exponent (f : FloatFmt) (mag : Nat) :
    f.significand mag + (f.exponent mag - (1 - f.bias - f.mbits)).toNat * 2 ^ f.mbits = mag := by
  have hmag : mag % 2 ^ f.mbits + mag / 2 ^ f.mbits * 2 ^ f.mbits = mag := mod_add_div_mul mag f.mbits
  by_cases he : mag / 2 ^ f.mbits = 0
  · rw [he, zero_mul, add_zero] at hmag
    rw [significand_subnormal he, exponent_subnormal he, sub_self, Int.toNat_zero, zero_mul, add_zero, hmag]
  · obtain ⟨e, he'⟩ := Nat.exists_eq_succ_of_ne_zero he
    have hstep : (f.exponent mag - (1 - f.bias - f.mbits)).toNat = e := by
      rw [exponent_normal he, he']
      omega
    rw [he', Nat.succ_mul] at hmag
    rw [hstep, significand_normal he]
    omega

/-- The exponent that rounding chooses for a magnitude's value is the magnitude's own. -/
theorem rounding_exponent {f : FloatFmt} {mag : Nat} (h : f.significand mag ≠ 0) :
    max (f.exponent mag + Nat.log2 (f.significand mag) - f.mbits) (1 - f.bias - f.mbits) = f.exponent mag := by
  have hlt := Nat.mod_lt mag (Nat.two_pow_pos f.mbits)
  by_cases he : mag / 2 ^ f.mbits = 0
  · have hlog : Nat.log2 (f.significand mag) < f.mbits := by
      rw [Nat.log2_lt h, significand_subnormal he]
      exact hlt
    rw [exponent_subnormal he]
    omega
  · have hlog : Nat.log2 (f.significand mag) = f.mbits := by
      rw [Nat.log2_eq_iff h, significand_normal he, pow_succ]
      omega
    obtain ⟨e, he'⟩ := Nat.exists_eq_succ_of_ne_zero he
    rw [hlog, exponent_normal he, he']
    omega

theorem roundMag_zero (rnd : Rnd) (neg : Bool) (m : Nat) : roundMag rnd neg m 0 = m := by simp [roundMag, pow2]

/-- A finite code's value is rounded to its code, whatever the mode. -/
theorem roundFin_exact {f : FloatFmt} (rnd : Rnd) (neg : Bool) {mag : Nat} (h : mag ≤ f.maxFin) :
    roundFin f rnd neg (f.significand mag) (f.exponent mag) = signed f neg mag := by
  unfold roundFin
  split
  next hz =>
    have hmag := significand_add_exponent f mag
    have he : mag / 2 ^ f.mbits = 0 := by
      by_contra he
      have := Nat.two_pow_pos f.mbits
      rw [significand_normal he] at hz
      omega
    rw [hz, exponent_subnormal he, sub_self, Int.toNat_zero, zero_mul, add_zero] at hmag
    rw [hmag]
  next hz =>
    dsimp only
    rw [rounding_exponent hz, sub_self, roundMag_zero, significand_add_exponent, if_neg (by omega)]

/-- A code that is no NaN survives reading and rounding. -/
theorem roundFloat_decodeFloat {f : FloatFmt} (hf : f.Limits) (rnd : Rnd) {c : Nat} (hc : c < 2 ^ f.width)
    (hnan : decodeFloat f c ≠ .nan) : roundFloat f rnd (decodeFloat f c) = c := by
  obtain ⟨hmax, hsource⟩ := hf
  rw [Ne, decodeFloat_eq_nan_iff] at hnan
  by_cases hinf : f.hasInf = true ∧ f.magnitude c = f.top
  · obtain ⟨hsrc, hne⟩ := hsource hinf.1
    rw [decodeFloat_inf hinf.1 hinf.2, roundFloat, hsrc, if_neg hne, ← hinf.2, signed_signBit hc]
  · have hle : f.magnitude c ≤ f.maxFin := by
      rw [hmax]
      split
      next h => exact Nat.le_sub_one_of_lt (lt_of_le_of_ne (Nat.not_lt.mp hnan) (fun he => hinf ⟨h, he⟩))
      next => exact Nat.not_lt.mp hnan
    rw [decodeFloat_number hnan hinf, roundFloat, roundFin_exact rnd _ hle, signed_signBit hc]

/-- The fields' widths and the bias of each format (03:R56). -/
theorem formats_layout : ∀ e ∈ ([(f32, 8, 23, 127), (f16, 5, 10, 15), (bf16, 8, 7, 127), (e4m3, 4, 3, 7), (e5m2, 5, 2, 15),
    (e2m1, 2, 1, 1)] : List (FloatFmt × Nat × Nat × Int)), e.1 ∈ floatFormats ∧ e = (e.1, e.1.ebits, e.1.mbits, e.1.bias) := by
  decide

/-! ### The special codes (03:R58) -/

/-- An exponent field of all ones. -/
def FloatFmt.AllOnes (f : FloatFmt) (c : Nat) : Prop := c / 2 ^ f.mbits % 2 ^ f.ebits = 2 ^ f.ebits - 1

/-- The codes that R58 lists as infinities. -/
def FloatFmt.InfCode (f : FloatFmt) (c : Nat) : Prop := f.AllOnes c ∧ c % 2 ^ f.mbits = 0 ∧ f ∉ [e4m3, e2m1]

/-- The codes that R58 lists as NaN. -/
def FloatFmt.NanCode (f : FloatFmt) (c : Nat) : Prop :=
  f.AllOnes c ∧ (if f = e4m3 then c % 2 ^ f.mbits = 7 else f ≠ e2m1 ∧ c % 2 ^ f.mbits ≠ 0)

/-- With infinities: an exponent of all ones is +∞'s magnitude when the fraction is zero, else a NaN's. -/
theorem allOnes_iff {f : FloatFmt} (htop : f.top = (2 ^ f.ebits - 1) * 2 ^ f.mbits) (c : Nat) :
    (f.AllOnes c ∧ c % 2 ^ f.mbits = 0 ↔ f.magnitude c = f.top)
    ∧ (f.AllOnes c ∧ c % 2 ^ f.mbits ≠ 0 ↔ f.top < f.magnitude c) := by
  obtain ⟨hex, hfrac⟩ := magnitude_fields f c
  have hmag := mod_add_div_mul (f.magnitude c) f.mbits
  have hlt : c / 2 ^ f.mbits % 2 ^ f.ebits < 2 ^ f.ebits := Nat.mod_lt _ (Nat.two_pow_pos _)
  have hfr : c % 2 ^ f.mbits < 2 ^ f.mbits := Nat.mod_lt _ (Nat.two_pow_pos _)
  rw [hex, hfrac] at hmag
  rw [FloatFmt.AllOnes]
  set ex := c / 2 ^ f.mbits % 2 ^ f.ebits
  set frac := c % 2 ^ f.mbits
  rcases eq_or_lt_of_le (Nat.le_sub_one_of_lt hlt) with h | h
  · rw [h, ← htop] at hmag
    omega
  · have hstep : (ex + 1) * 2 ^ f.mbits ≤ f.top := htop ▸ Nat.mul_le_mul_right _ h
    rw [Nat.add_mul] at hstep
    omega

/-- E4M3 and E2M1 have no infinity; the other formats' +∞ is the code with an exponent of all ones and no fraction. -/
theorem formats_top : ∀ f ∈ floatFormats, f = e4m3 ∨ f = e2m1
    ∨ f ≠ e4m3 ∧ f ≠ e2m1 ∧ f.hasInf = true ∧ f.top = (2 ^ f.ebits - 1) * 2 ^ f.mbits := by decide

theorem infCode_iff {f : FloatFmt} (hf : f ∈ floatFormats) (c : Nat) :
    f.InfCode c ↔ f.hasInf = true ∧ f.magnitude c = f.top := by
  rcases formats_top f hf with rfl | rfl | ⟨h4, h2, hinf, htop⟩
  · simp [FloatFmt.InfCode, e4m3]
  · simp [FloatFmt.InfCode, e2m1]
  · simp [FloatFmt.InfCode, h4, h2, hinf, ← (allOnes_iff htop c).1]

theorem nanCode_iff {f : FloatFmt} (hf : f ∈ floatFormats) (c : Nat) : f.NanCode c ↔ f.top < f.magnitude c := by
  rcases formats_top f hf with rfl | rfl | ⟨h4, h2, -, htop⟩
  · change c / 2 ^ 3 % 2 ^ 4 = 2 ^ 4 - 1 ∧ c % 2 ^ 3 = 7 ↔ 0x7E < c % 2 ^ 7
    omega
  · refine iff_of_false (fun h => h.2.1 rfl) ?_
    change ¬7 < c % 2 ^ 3
    omega
  · rw [FloatFmt.NanCode, if_neg h4, ← (allOnes_iff htop c).2]
    exact and_congr_right fun _ => and_iff_right h2

/-! ### The value of a code (03:R57) -/

/-- A magnitude's significand and exponent make the value of its fields. -/
theorem significand_mul_exponent (f : FloatFmt) (mag : Nat) : (f.significand mag : ℚ) * 2 ^ f.exponent mag
    = if mag / 2 ^ f.mbits = 0 then 2 ^ (1 - f.bias) * ((mag % 2 ^ f.mbits : Nat) : ℚ) / 2 ^ f.mbits
      else 2 ^ ((mag / 2 ^ f.mbits : Nat) - f.bias) * (1 + ((mag % 2 ^ f.mbits : Nat) : ℚ) / 2 ^ f.mbits) := by
  by_cases he : mag / 2 ^ f.mbits = 0
  · rw [if_pos he, significand_subnormal he, exponent_subnormal he, zpow_sub₀ two_ne_zero _ (f.mbits : Int), zpow_natCast]
    ring
  · rw [if_neg he, significand_normal he, exponent_normal he, zpow_sub₀ two_ne_zero _ (f.mbits : Int), zpow_natCast,
      Nat.cast_add, Nat.cast_pow, Nat.cast_ofNat]
    field_simp

/-- The value of a code by its fields, and which codes are NaN and the infinities (03:R57, R58). -/
theorem decodeFloat_code {f : FloatFmt} (hf : f ∈ floatFormats) {c : Nat} (hc : c < 2 ^ f.width) :
    let neg := decide (2 ^ (f.ebits + f.mbits) ≤ c)
    let ex := c / 2 ^ f.mbits % 2 ^ f.ebits
    let frac := c % 2 ^ f.mbits
    let mag : ℚ := if ex = 0 then 2 ^ (1 - f.bias) * (frac : ℚ) / 2 ^ f.mbits
      else 2 ^ (ex - f.bias) * (1 + (frac : ℚ) / 2 ^ f.mbits)
    (f.NanCode c → decodeFloat f c = .nan) ∧ (f.InfCode c → decodeFloat f c = .inf neg)
      ∧ (¬f.NanCode c → ¬f.InfCode c → ∃ m k, decodeFloat f c = .fin neg m k
        ∧ IsNumber (.fin neg m k) ((if neg then -1 else 1) * mag)) := by
  obtain ⟨hex, hfrac⟩ := magnitude_fields f c
  rw [nanCode_iff hf, infCode_iff hf, ← width_sub_one, ← signBit_eq hc, ← hex, ← hfrac]
  refine ⟨decodeFloat_nan, fun h => decodeFloat_inf h.1 h.2, fun h h' => ⟨_, _, decodeFloat_number h h', ?_⟩⟩
  rw [← significand_mul_exponent, ← mul_assoc]
  exact isNumber_fin _ _ _

end Sys2Proof.Machine
end

section
/-! PROOFS. NaN in FP32 arithmetic (03:R59, 07:R143). -/

namespace Sys2Proof.Machine

/-! ### Exact sums -/

theorem Sum.nan_add (a : Sum) (x : Ext) (h : a.nan = true ∨ x = .nan) : (a.add x).nan = true := by
  rcases h with h | rfl
  · cases x with
    | nan => rfl
    | inf neg => cases neg <;> exact h
    | fin neg m e => by_cases hm : m = 0 <;> simpa [Sum.add, hm] using h
  · rfl

theorem Sum.nan_foldl (l : List Ext) (a : Sum) (h : a.nan = true ∨ .nan ∈ l) : (l.foldl Sum.add a).nan = true := by
  induction l generalizing a with
  | nil => simpa using h
  | cons x l ih =>
    refine ih _ ?_
    rcases h with h | h
    · exact .inl (nan_add a x (.inl h))
    · rcases List.mem_cons.mp h with h | h
      · exact .inl (nan_add a x (.inr h.symm))
      · exact .inr h

/-- A NaN among the terms makes the sum NaN. -/
theorem exactSum_nan {l : List Ext} (h : .nan ∈ l) : exactSum l = .nan := by
  simp [exactSum, Sum.value, Sum.nan_foldl l {} (.inr h)]

theorem mulExt_nan {x y : Ext} (h : x = .nan ∨ y = .nan) : mulExt x y = .nan := by
  rcases h with rfl | rfl
  · rfl
  · cases x <;> rfl

/-! ### NaN lanes -/

theorem rneF32_nan : rneF32 .nan = 0x7FC00000 := rfl

theorem valF32_eq_nan_iff (w : W32) : valF32 w = .nan ↔ isNan w = true := by
  rw [valF32, decodeFloat_eq_nan_iff, isNan, decide_eq_true_iff]
  rfl

/-- A lane that is no NaN survives reading and rounding. -/
theorem rneF32_valF32 {w : W32} (h : isNan w = false) : rneF32 (valF32 w) = w := by
  have hnan : decodeFloat f32 w.toNat ≠ .nan := by
    rw [Ne, ← valF32, valF32_eq_nan_iff, h]
    exact Bool.false_ne_true
  rw [rneF32, valF32, roundFloat_decodeFloat (limits_formats f32 (by decide)) .ne w.isLt hnan, BitVec.ofNat_toNat,
    BitVec.setWidth_eq]

theorem fDiv_nan {a b : W32} (h : valF32 a = .nan ∨ valF32 b = .nan) : fDiv a b = 0x7FC00000 := by
  unfold fDiv
  rcases h with h | h
  · rw [h]
    rfl
  · rw [h]
    cases valF32 a <;> rfl

/-- An operation with a NaN among its sources gives the canonical NaN. -/
theorem arithmetic_nan {a b : W32} (h : isNan a = true ∨ isNan b = true) :
    fAdd a b = 0x7FC00000 ∧ fSub a b = 0x7FC00000 ∧ fMul a b = 0x7FC00000 ∧ fDiv a b = 0x7FC00000 ∧ fMin a b = 0x7FC00000
      ∧ fMax a b = 0x7FC00000 := by
  have hval : valF32 a = .nan ∨ valF32 b = .nan := by simpa only [valF32_eq_nan_iff] using h
  have hor : (isNan a || isNan b) = true := by simpa using h
  have hadd : .nan ∈ [valF32 a, valF32 b] := by simpa [eq_comm] using hval
  have hsub : .nan ∈ [valF32 a, (valF32 b).negate] := by
    rcases hval with h | h <;> simp [h, Ext.negate]
  refine ⟨?_, ?_, ?_, fDiv_nan hval, if_pos hor, if_pos hor⟩
  · rw [fAdd, exactSum_nan hadd, rneF32_nan]
  · rw [fSub, exactSum_nan hsub, rneF32_nan]
  · rw [fMul, mulExt_nan hval, rneF32_nan]

end Sys2Proof.Machine
end

section
/-! PROOFS. Shared-exponent blocks: the value of an element, and the block that sixteen numbers are encoded into
(03:R63, R64, R66); and the number formats together. -/

namespace Sys2Proof.Machine

/-! ### Digits of a number -/

theorem ofDigits_digit {p : Nat} {l : List Nat} (hl : ∀ x ∈ l, x < p) (n : Nat) :
    Nat.ofDigits p l / p ^ n % p = l.getD n 0 := by
  by_cases hp : 0 < p
  · rw [Nat.ofDigits_div_pow_eq_ofDigits_drop n hp l hl]
    by_cases hn : n < l.length
    · rw [List.drop_eq_getElem_cons hn, Nat.ofDigits_cons, Nat.add_mul_mod_self_left, List.getD_eq_getElem _ _ hn,
        Nat.mod_eq_of_lt (hl _ (List.getElem_mem hn))]
    · rw [List.drop_eq_nil_of_le (by omega), List.getD_eq_default _ _ (by omega), Nat.ofDigits_nil, Nat.zero_mod]
  · have hnil : l = [] := List.eq_nil_iff_forall_not_mem.mpr (fun x hx => by have := hl x hx; omega)
    simp [hnil]

/-- A field of the low n bits is a field of the number. -/
theorem mod_pow_field {i w n : Nat} (x : Nat) (h : i + w ≤ n) : x % 2 ^ n / 2 ^ i % 2 ^ w = x / 2 ^ i % 2 ^ w := by
  rw [← Nat.mod_mul_right_div_self, ← Nat.mod_mul_right_div_self x, ← pow_add, Nat.mod_mod_of_dvd _ (pow_dvd_pow 2 h)]

/-! ### The value of an element (03:R64) -/

theorem seDecode_nan {t : SeTy} {b i : Nat} (h : b % 256 = 255) : seDecode t b i = .nan := if_pos h

theorem seWidth_pos (t : SeTy) : 1 ≤ seWidth t := by cases t <;> decide

theorem seDecode_value (t : SeTy) (b i : Nat) (h : b % 256 ≠ 255) :
    let el := b / 2 ^ (16 + seWidth t * i) % 2 ^ seWidth t
    let neg := decide (2 ^ (seWidth t - 1) ≤ el)
    ∃ m k, seDecode t b i = .fin neg m k ∧ IsNumber (.fin neg m k) ((if neg then -1 else 1)
      * (el % 2 ^ (seWidth t - 1) : Nat) * 2 ^ (((b % 256 : Nat) : Int) - 127 - (b / 2 ^ (8 + i / 2) % 2 : Nat))) := by
  intro el neg
  have hel : el < 2 * 2 ^ (seWidth t - 1) := by
    rw [← pow_succ', Nat.sub_add_cancel (seWidth_pos t)]
    exact Nat.mod_lt _ (Nat.two_pow_pos _)
  refine ⟨_, _, ?_, isNumber_fin _ _ _⟩
  rw [seDecode, if_neg h, topBit_eq hel]

/-! ### The parts of an encoded block (03:R66) -/

/-- An element's code: its magnitude by the pair's scale, rounded and limited, under its sign. -/
def seCode (t : SeTy) (e micro : Nat) (x : Ext) : Nat :=
  min (roundMag .ne false (magOf x).1 ((magOf x).2 - ((e : Int) - 127 - micro))) (2 ^ (seWidth t - 1) - 1)
    + (if signOf x then 2 ^ (seWidth t - 1) else 0)

/-- The micro-exponents of the pairs, 1 where both values fit half the scale. -/
def seMicroBits (mx e : Nat) : List Ext → List Nat
  | a :: b :: r => (if magLe a mx ((e : Int) - 128) && magLe b mx ((e : Int) - 128) then 1 else 0) :: seMicroBits mx e r
  | _ => []

/-- The block exponent of finite values. -/
def seExponent (t : SeTy) (xs : List Ext) : Nat :=
  if xs.all Ext.isZero then 0
  else ((List.range 255).find? (fun (e : Nat) =>
    xs.all (fun x => magLe x (2 ^ (seWidth t - 1) - 1) ((e : Int) - 127)))).getD 254

theorem seCode_lt (t : SeTy) (e micro : Nat) (x : Ext) : seCode t e micro x < 2 ^ seWidth t := by
  obtain ⟨k, hk⟩ := Nat.exists_eq_add_of_le' (seWidth_pos t)
  have hpos := Nat.two_pow_pos k
  rw [seCode, hk, Nat.add_sub_cancel, pow_succ]
  split <;> omega

/-- A number's code: its magnitude by the scale, to the nearest integer, at most the largest magnitude, under its sign. -/
theorem seCode_number (t : SeTy) (e micro : Nat) {x : Ext} {q : ℚ} (h : IsNumber x q) :
    ∃ neg m k, x = .fin neg m k ∧ ∃ y : Nat, RoundsToInt .ne (|q| / 2 ^ ((e : Int) - 127 - micro)) y
      ∧ seCode t e micro x = min y (2 ^ (seWidth t - 1) - 1) + if neg then 2 ^ (seWidth t - 1) else 0 := by
  have habs := abs_of_isNumber h
  obtain ⟨neg, m, k, rfl, -⟩ := h
  refine ⟨neg, m, k, rfl, _, ?_, rfl⟩
  rw [habs, mul_div_assoc, ← zpow_sub₀ two_ne_zero]
  exact roundMag_ne false m _

theorem seElems_eq_ofDigits (t : SeTy) (e mu : Nat) (xs : List Ext) (i : Nat) : seElems t e mu xs i
    = 2 ^ (16 + seWidth t * i) * Nat.ofDigits (2 ^ seWidth t) (xs.mapIdx (fun n => seCode t e (mu / 2 ^ ((i + n) / 2) % 2))) := by
  induction xs generalizing i with
  | nil => rfl
  | cons x xs ih =>
    have hidx (n : Nat) : i + 1 + n = i + (n + 1) := by omega
    rw [seElems, ih, List.mapIdx_cons, Nat.ofDigits_cons]
    simp only [hidx]
    change seCode t e (mu / 2 ^ (i / 2) % 2) x * _ + _ = _
    rw [Nat.mul_add, Nat.mul_one, ← Nat.add_assoc, pow_add _ _ (seWidth t), Nat.add_zero]
    ring

theorem seMicro_eq_ofDigits (mx e : Nat) (xs : List Ext) (j : Nat) :
    seMicro mx e xs j = 2 ^ j * Nat.ofDigits 2 (seMicroBits mx e xs) := by
  fun_induction seMicroBits mx e xs generalizing j with
  | case1 a b r ih =>
    rw [seMicro, ih, Nat.ofDigits_cons, pow_succ]
    split <;> ring
  | case2 => simp [seMicro]

theorem seMicroBits_lt (mx e : Nat) (xs : List Ext) : ∀ b ∈ seMicroBits mx e xs, b < 2 := by
  fun_induction seMicroBits mx e xs with
  | case1 a b r ih =>
    refine List.forall_mem_cons.mpr ⟨?_, ih⟩
    split <;> decide
  | case2 => simp

theorem length_seMicroBits (mx e : Nat) (xs : List Ext) : (seMicroBits mx e xs).length = xs.length / 2 := by
  fun_induction seMicroBits mx e xs with
  | case1 a b r ih =>
    simp only [List.length_cons, ih]
    omega
  | case2 xs h =>
    match xs, h with
    | [], _ => rfl
    | [_], _ => simp
    | a :: b :: r, h => exact absurd rfl (h a b r)

theorem getD_seMicroBits (mx e : Nat) (xs : List Ext) (j : Nat) (h : 2 * j + 1 < xs.length) :
    (seMicroBits mx e xs).getD j 0
      = if magLe (xs.getD (2 * j) .nan) mx ((e : Int) - 128) && magLe (xs.getD (2 * j + 1) .nan) mx ((e : Int) - 128)
        then 1 else 0 := by
  fun_induction seMicroBits mx e xs generalizing j with
  | case1 a b r ih =>
    cases j with
    | zero => rfl
    | succ j =>
      simp only [List.length_cons] at h
      exact ih j (by omega)
  | case2 xs hxs =>
    match xs, hxs with
    | [_], _ => simp at h
    | a :: b :: r, hxs => exact absurd rfl (hxs a b r)

/-! ### Encoding (03:R66) -/

theorem seEncode_special (t : SeTy) {xs : List Ext} (h : ∃ v ∈ xs, v.isFin = false) : seEncode t xs = 255 := by
  refine if_pos ?_
  simpa using h

/-- The micro-exponents of finite values, as a number. -/
def seMu (t : SeTy) (xs : List Ext) : Nat := Nat.ofDigits 2 (seMicroBits (2 ^ (seWidth t - 1) - 1) (seExponent t xs) xs)

/-- The codes of finite values. -/
def seCodes (t : SeTy) (xs : List Ext) : List Nat :=
  xs.mapIdx (fun n => seCode t (seExponent t xs) (seMu t xs / 2 ^ (n / 2) % 2))

/-- A block of finite values: its exponent, its micro-exponents and its elements side by side (03:R63). -/
theorem seEncode_finite (t : SeTy) {xs : List Ext} (h : ∀ v ∈ xs, v.isFin = true) :
    seEncode t xs = seExponent t xs + 256 * (seMu t xs + 256 * Nat.ofDigits (2 ^ seWidth t) (seCodes t xs)) := by
  have hany : ¬(xs.any (fun x => !x.isFin)) = true := by simpa using h
  have hmu : seMicro (2 ^ (seWidth t - 1) - 1) (seExponent t xs) xs 0 = seMu t xs := by
    rw [seMicro_eq_ofDigits, pow_zero, Nat.one_mul, seMu]
  have hparts : seEncode t xs = seExponent t xs + seMicro _ (seExponent t xs) xs 0 * 256
      + seElems t (seExponent t xs) (seMicro _ (seExponent t xs) xs 0) xs 0 := if_neg hany
  rw [hparts, hmu, seElems_eq_ofDigits, seCodes]
  simp only [Nat.zero_add]
  ring

theorem seMu_lt (t : SeTy) {xs : List Ext} (hlen : xs.length = 16) : seMu t xs < 2 ^ 8 := by
  have := Nat.ofDigits_lt_base_pow_length (by decide) (seMicroBits_lt (2 ^ (seWidth t - 1) - 1) (seExponent t xs) xs)
  rwa [length_seMicroBits, hlen] at this

theorem length_seCodes (t : SeTy) (xs : List Ext) : (seCodes t xs).length = xs.length := List.length_mapIdx

theorem seCodes_lt (t : SeTy) (xs : List Ext) : ∀ c ∈ seCodes t xs, c < 2 ^ seWidth t := by
  intro c hc
  obtain ⟨i, hi, rfl⟩ := List.mem_mapIdx.mp hc
  exact seCode_lt _ _ _ _

theorem getD_seCodes (t : SeTy) {xs : List Ext} {i : Nat} (hi : i < xs.length) : (seCodes t xs).getD i 0
    = seCode t (seExponent t xs) (seMu t xs / 2 ^ (i / 2) % 2) (xs.getD i .nan) := by
  simp [seCodes, hi]

theorem ofDigits_seCodes_lt (t : SeTy) {xs : List Ext} (hlen : xs.length = 16) :
    Nat.ofDigits (2 ^ seWidth t) (seCodes t xs) < 2 ^ (16 * seWidth t) := by
  have hbase : 1 < 2 ^ seWidth t := Nat.one_lt_two_pow (Nat.one_le_iff_ne_zero.mp (seWidth_pos t))
  have := Nat.ofDigits_lt_base_pow_length hbase (seCodes_lt t xs)
  rwa [length_seCodes, hlen, ← pow_mul, Nat.mul_comm] at this

/-- The fields of a block whose parts are side by side (03:R63). -/
theorem block_fields {e mu els : Nat} (he : e < 256) (hmu : mu < 2 ^ 8) : let b := e + 256 * (mu + 256 * els)
    b % 256 = e ∧ (∀ j, j < 8 → b / 2 ^ (8 + j) % 2 = mu / 2 ^ j % 2) ∧ ∀ i, b / 2 ^ (16 + i) = els / 2 ^ i := by
  intro b
  have hmicro : b / 2 ^ 8 % 2 ^ 8 = mu := by omega
  have hels : b / 2 ^ 16 = els := by omega
  refine ⟨by omega, fun j hj => ?_, fun i => ?_⟩
  · rw [← hmicro, pow_add, ← Nat.div_div_eq_div_mul]
    exact (mod_pow_field (w := 1) _ (by omega)).symm
  · rw [pow_add, ← Nat.div_div_eq_div_mul, hels]

/-- The least number to n with a property, or n. -/
theorem find_range (p : Nat → Bool) (n : Nat) : let k := ((List.range (n + 1)).find? p).getD n
    k ≤ n ∧ (k < n → p k = true) ∧ ∀ j, j < k → p j = false := by
  intro k
  cases h : (List.range (n + 1)).find? p with
  | none =>
    have hk : k = n := by simp [k, h]
    rw [List.find?_range_eq_none] at h
    refine ⟨hk.le, fun hlt => absurd hk hlt.ne, fun j hj => ?_⟩
    simpa using h j (by omega)
  | some i =>
    have hk : k = i := by simp [k, h]
    obtain ⟨hp, hmem, hmin⟩ := List.find?_range_eq_some.mp h
    rw [List.mem_range] at hmem
    exact hk ▸ ⟨by omega, fun _ => hp, fun j hj => by simpa using hmin j hj⟩

/-! ### The block of sixteen numbers (03:R66) -/

/-- The largest magnitude of an element. -/
theorem cast_most (t : SeTy) : ((2 ^ (seWidth t - 1) - 1 : Nat) : ℚ) = 2 ^ (seWidth t - 1) - 1 := by
  rw [Nat.cast_pred (Nat.two_pow_pos _), Nat.cast_pow, Nat.cast_ofNat]

theorem forall_mem_iff_getD (xs : List Ext) (p : Ext → Prop) :
    (∀ x ∈ xs, p x) ↔ ∀ i, i < xs.length → p (xs.getD i .nan) := by
  rw [List.forall_mem_iff_forall_getElem]
  exact forall_congr' fun i => forall_congr' fun hi => by rw [List.getD_eq_getElem _ _ hi]

section
variable {t : SeTy} {xs : List Ext} {v : Nat → ℚ} (hlen : xs.length = 16)
  (hv : ∀ i, i < 16 → IsNumber (xs.getD i .nan) (v i))

include hlen hv

theorem all_magLe_iff (c : Nat) (k : Int) :
    (xs.all (fun x => magLe x c k)) = true ↔ ∀ i, i < 16 → |v i| ≤ (c : ℚ) * 2 ^ k := by
  rw [List.all_eq_true, forall_mem_iff_getD, hlen]
  exact forall_congr' fun i => forall_congr' fun hi => magLe_iff (hv i hi) c k

theorem all_isZero_iff : (xs.all Ext.isZero) = true ↔ ∀ i, i < 16 → |v i| = 0 := by
  rw [List.all_eq_true, forall_mem_iff_getD, hlen]
  exact forall_congr' fun i => forall_congr' fun hi => isZero_iff (hv i hi)

/-- The block exponent is the least that all the values fit, or 254. -/
theorem seExponent_least : seExponent t xs ≤ 254
    ∧ (seExponent t xs < 254 → ∀ i, i < 16 → |v i| ≤ (2 ^ (seWidth t - 1) - 1) * 2 ^ ((seExponent t xs : Int) - 127))
    ∧ ∀ k, k < seExponent t xs → ∃ i, i < 16 ∧ (2 ^ (seWidth t - 1) - 1) * 2 ^ ((k : Int) - 127) < |v i| := by
  have hfit (k : Int) := all_magLe_iff hlen hv (2 ^ (seWidth t - 1) - 1) k
  simp only [cast_most] at hfit
  by_cases hz : xs.all Ext.isZero = true
  · have he : seExponent t xs = 0 := if_pos hz
    rw [he]
    refine ⟨by decide, fun _ i hi => ?_, fun k hk => absurd hk (Nat.not_lt_zero k)⟩
    rw [(all_isZero_iff hlen hv).mp hz i hi, ← cast_most]
    positivity
  · obtain ⟨hle, hall, hmin⟩ := find_range (fun (e : Nat) =>
      xs.all (fun x => magLe x (2 ^ (seWidth t - 1) - 1) ((e : Int) - 127))) 254
    rw [seExponent, if_neg hz]
    refine ⟨hle, fun h => (hfit _).mp (hall h), fun k hk => ?_⟩
    by_contra hno
    push Not at hno
    exact Bool.false_ne_true ((hmin k hk).symm.trans ((hfit _).mpr hno))

theorem isFin_of_numbers : ∀ x ∈ xs, x.isFin = true := by
  rw [forall_mem_iff_getD, hlen]
  exact fun i hi => isFin_of_isNumber (hv i hi)

/-- The fields of the block (03:R63): its exponent, the micro-exponents, the elements; and its size. -/
theorem seEncode_fields : let b := seEncode t xs
    b < 2 ^ (16 + 16 * seWidth t) ∧ b % 256 = seExponent t xs
      ∧ (∀ j, j < 8 → b / 2 ^ (8 + j) % 2 = (seMicroBits (2 ^ (seWidth t - 1) - 1) (seExponent t xs) xs).getD j 0)
      ∧ ∀ i, i < 16 → b / 2 ^ (16 + seWidth t * i) % 2 ^ seWidth t
        = seCode t (seExponent t xs) (b / 2 ^ (8 + i / 2) % 2) (xs.getD i .nan) := by
  obtain ⟨he, -⟩ := seExponent_least (t := t) hlen hv
  have hmu := seMu_lt t hlen
  have hels := ofDigits_seCodes_lt t hlen
  rw [seEncode_finite t (isFin_of_numbers hlen hv)]
  obtain ⟨hexp, hmicro, helem⟩ := block_fields (e := seExponent t xs) (els := Nat.ofDigits (2 ^ seWidth t) (seCodes t xs))
    (by omega) hmu
  refine ⟨?_, hexp, fun j hj => ?_, fun i hi => ?_⟩
  · rw [pow_add]
    omega
  · rw [hmicro j hj, seMu, ofDigits_digit (seMicroBits_lt _ _ _)]
  · rw [helem, hmicro (i / 2) (by omega), pow_mul, ofDigits_digit (seCodes_lt t xs), getD_seCodes t (by omega)]

/-- A pair's micro-exponent is 1 where both its values fit half the block's scale. -/
theorem seEncode_micro {j : Nat} (hj : j < 8) : seEncode t xs / 2 ^ (8 + j) % 2 = 1
    ↔ |v (2 * j)| ≤ (2 ^ (seWidth t - 1) - 1) * 2 ^ ((seExponent t xs : Int) - 128)
      ∧ |v (2 * j + 1)| ≤ (2 ^ (seWidth t - 1) - 1) * 2 ^ ((seExponent t xs : Int) - 128) := by
  obtain ⟨-, -, hmicro, -⟩ := seEncode_fields (t := t) hlen hv
  rw [hmicro j hj, getD_seMicroBits _ _ _ _ (by omega), ← cast_most, ← magLe_iff (hv (2 * j) (by omega)),
    ← magLe_iff (hv (2 * j + 1) (by omega)), ← Bool.and_eq_true]
  split
  next h => exact iff_of_true rfl h
  next h => exact iff_of_false (by decide) h

end

/-! ### The statement -/

/-- Settles O32: rounding by `roundShift_ne_near`; a code's value by its significand and exponent (`decodeFloat_code`), whose
rounding gives the code back (`roundFloat_decodeFloat`); a block by its three parts side by side (`seEncode_fields`), the
exponent the least that fits (`seExponent_least`). -/
theorem numberFormats : Obligations.NumberFormats := by
  unfold Obligations.NumberFormats
  refine ⟨fun m d => ?_, fun m d neg => ?_, fun f hf c hc hnan => ?_, fun w h => rneF32_valF32 h, fun a b h => arithmetic_nan h,
    by decide, by decide, by decide, fun t xs h => seEncode_special t h, ?_, fun t => ?_⟩
  · obtain ⟨hle, hge, heven, -⟩ := roundShift_ne_near false m d
    exact ⟨hle, hge, heven⟩
  · obtain ⟨htz, hdn, hup⟩ := roundShift_down neg m d
    obtain ⟨hup', hdn'⟩ := roundShift_up m d
    exact ⟨htz, hdn, hup, hup', hdn'⟩
  · have hsub : ∀ g ∈ [e4m3, e5m2, e2m1], g ∈ floatFormats := by decide
    exact roundFloat_decodeFloat (limits_formats f (hsub f hf)) .ne hc hnan
  · intro e he
    obtain ⟨hf, heq⟩ := formats_layout e he
    rw [heq]
    exact fun c hc => decodeFloat_code hf hc
  · refine ⟨fun b i _ => ⟨fun h => seDecode_nan h, fun h => seDecode_value t b i h⟩, fun xs v hlen hv => ?_⟩
    obtain ⟨hsize, hexp, -, helem⟩ := seEncode_fields (t := t) hlen hv
    obtain ⟨hle, hall, hmin⟩ := seExponent_least (t := t) hlen hv
    have hmicro (j : Nat) (hj : j < 8) := seEncode_micro (t := t) hlen hv hj
    rw [← hexp] at hle hall hmin helem hmicro
    refine ⟨hsize, hle, hall, hmin, hmicro, fun i hi => ?_⟩
    obtain ⟨neg, m, k, hx, y, hy, hcode⟩ := seCode_number t _ _ (hv i hi)
    exact ⟨neg, m, k, hx, y, hy, (helem i hi).trans hcode⟩

end Sys2Proof.Machine
end

section
/-! PROOFS. Nullified scalars (04:R77). -/

namespace Sys2Proof.Machine

/-- Settles O10: the guard decides in the operation that the instructions of a unit share. -/
theorem nullifiedScalars : Obligations.NullifiedScalars := by
  intro s g d a b gd p q imm sh lit hq hsalu hsmul he
  have salu : ∀ v len, ∃ t, alu g d v len s = .next t ∧ WritesNothing s t := fun v len => alu_null g d v len s hq hsalu he
  have guard : ∀ v len, ∃ t, guardWrite g gd v len s = .next t ∧ WritesNothing s t :=
    fun v len => guardWrite_null g gd v len s hq hsalu he
  have smul : ∀ l occ v, ∃ t, muldiv g d l occ v s = .next t ∧ WritesNothing s t ∧ tget 0 t.tl.units 1 = s.tl.abs + occ :=
    fun l occ v => muldiv_null g d l occ v s hq hsmul he
  have product : ∀ l occ v, ∃ t, muldiv g d l occ v s = .next t ∧ WritesNothing s t :=
    fun l occ v => (smul l occ v).imp fun _ h => ⟨h.1, h.2.1⟩
  simp only [List.forall_mem_cons, List.not_mem_nil, false_implies, implies_true, and_true]
  refine ⟨⟨salu _ _, salu _ _, salu _ _, salu _ _, salu _ _, salu _ _, salu _ _, salu _ _, salu _ _, salu _ _, salu _ _, salu _ _,
    salu _ _, salu _ _, salu _ _, salu _ _, salu _ _, salu _ _, salu _ _, salu _ _, salu _ _, salu _ _, salu _ _, salu _ _,
    salu _ _, salu _ _, salu _ _, product _ _ _, product _ _ _, product _ _ _, guard _ _, guard _ _, guard _ _, guard _ _,
    guard _ _, guard _ _, guard _ _, guard _ _, guard _ _, guard _ _, guard _ _, guard _ _⟩, smul _ _ _, smul _ _ _, smul _ _ _,
    smul _ _ _⟩

end Sys2Proof.Machine
end

section
/-! PROOFS. Every instruction of a routine comes to its slot through `issue` (04:R82, R84). -/

namespace Sys2Proof.Machine

variable {s : State} {g : Guard} {d a b : BitVec 5} {len : Nat} {land : BitVec 21}

/-! ### What an outcome is -/

/-- An outcome is a next state of which R holds: what `Gives` says of an instruction's. -/
def Answers (o : Host.Outcome State Fault Refusal) (R : State → Prop) : Prop := ∃ t, o = .next t ∧ R t

theorem gives_iff {i : Instr} {s : State} {R : State → Prop} : Gives i s R ↔ Answers (exec i s) R := Iff.rfl

/-- An issue with a cause answers its slip. -/
theorem answers_slip {p : Plan} {len : Nat} {eff : State → State} {s : State} {c : BitVec 8} {info : X}
    (h : slotCause p s = some (c, info)) : Answers (issue p len eff s) (fun t => Slips s t c info) := issue_slips p len eff s c info h

/-! ### What an instruction's outcome is -/

/-- The array's stores hold no failing byte. -/
def NoBadBytes (t : Tile) : Prop := t.arr.badBytes = [] ∧ t.arr.plane0.bad = [] ∧ t.arr.plane1.bad = []

/-- An outcome is that of an issue slot: its instruction is no PERIOD, and has a cause 0x21 of its own only where the array's stores
hold a failing byte (08:R182). -/
def Issues (s : State) (o : Host.Outcome State Fault Refusal) : Prop :=
  ∃ p len eff, o = issue p len eff s ∧ p.isPeriod = false ∧ (NoBadBytes s.tl → p.esc = none)

theorem issues_of {p : Plan} {eff : State → State} (hn : p.isPeriod = false) (he : NoBadBytes s.tl → p.esc = none) :
    Issues s (issue p len eff s) := ⟨p, len, eff, rfl, hn, he⟩

/-- The plan of every instruction but WLOAD, MMA, ACCRD and ACCSAVE. -/
theorem issues_plain {p : Plan} {eff : State → State} (hn : p.isPeriod = false) (he : p.esc = none) :
    Issues s (issue p len eff s) := issues_of hn (fun _ => he)

/-! ### The operations that the scalar instructions share (05) -/

theorem issues_loadAt {ty : MemTy} {addr : X} : Issues s (loadAt g ty d addr len s) := issues_plain rfl rfl

theorem issues_storeAt {ty : MemTy} {addr : X} : Issues s (storeAt g ty d addr len s) := issues_plain rfl rfl

theorem issues_atom {op : RmwOp} {ty : AtomTy} : Issues s (atom op g ty d a b s) := by
  unfold atom
  exact issues_plain rfl rfl

theorem issues_branch {target : X} {link : Bool} : Issues s (branch g target link s) := by
  unfold branch
  exact issues_plain rfl rfl

/-! ### The operations that the vector instructions share (07) -/

theorem issues_lanewise {unit l occ : Nat} {f : Tile → Nat → W32} : Issues s (lanewise unit l occ g d f s) := issues_plain rfl rfl

theorem issues_vcmp {gd : BitVec 3} {f : W32 → W32 → Bool} : Issues s (vcmp g gd a b f s) := issues_plain rfl rfl

theorem issues_vred {l occ : Nat} {f : Tile → X} : Issues s (vred d l occ f s) := issues_plain rfl rfl

theorem issues_vscan {t : LaneTy} {f : List (Option W32) → List W32} : Issues s (vscan t g d a f s) := issues_plain rfl rfl

theorem issues_execVld {t : Ty} {imm : BitVec 32} : Issues s (execVld g t d a imm s) := by
  unfold execVld
  dsimp only
  split <;> exact issues_plain rfl rfl

theorem issues_execVst {t : Ty} {imm : BitVec 32} : Issues s (execVst g t d a imm s) := by
  unfold execVst
  dsimp only
  split <;> exact issues_plain rfl rfl

theorem issues_vatom {op : RmwOp} {t : IntTy} {c : BitVec 5} : Issues s (vatom op g t d a b c s) := by
  unfold vatom
  exact issues_plain rfl rfl

/-! ### The array's instructions (09) -/

section
variable (h : NoBadBytes s.tl)
include h

theorem badOfSet_none {f : Ty} {set : Nat} {m : BitVec 4} : badWeights (badOfSet s.tl.arr f set m) = none := by
  simp [badWeights, badOfSet, h.1]

theorem badRow_none {row n : Nat} : badRow s.tl row n = none := by
  simp [badRow, h.1]

theorem badPlane_none {one : Bool} : badWeights (s.tl.arr.plane one).bad = none := by
  cases one
  · simp [badWeights, ArraySt.plane, h.2.1]
  · simp [badWeights, ArraySt.plane, h.2.2]

end

theorem issues_execWload {ty : Ty} : Issues s (execWload g ty d a b land s) := by
  unfold execWload
  refine issues_of rfl (fun h => ?_)
  simp [badOfSet_none h]

theorem issues_execMma {ty : Ty} {acc swap : Bool} {i : BitVec 3} {arow nrow : BitVec 8} :
    Issues s (execMma g ty acc swap i a arow nrow land s) := by
  unfold execMma
  refine issues_of rfl (fun h => ?_)
  simp [badPlane_none h, badRow_none h]

theorem issues_accOut {fmt : Option Ty} {arow nrow : BitVec 8} : Issues s (accOut g fmt a arow nrow land s) := by
  unfold accOut
  refine issues_of rfl (fun h => ?_)
  simp [badRow_none h]

theorem issues_accIn {fmt : Option Ty} {arow nrow : BitVec 8} : Issues s (accIn g fmt a arow nrow land s) := by
  unfold accIn
  exact issues_plain rfl rfl

/-! ### The operations that the memory and lease instructions share (13, 16, 21), and those of the debug window (25:R356) -/

theorem issues_leaseReq {cls : Bool} : Issues s (leaseReq g cls d a s) := by
  unfold leaseReq
  exact issues_plain rfl rfl

theorem issues_windowOnly {act : State → State} (h : s.level = false) : Issues s (windowOnly g act s) := by
  unfold windowOnly
  rw [if_neg (by simp [h])]
  exact issues_plain rfl rfl

theorem issues_execSysr {num : BitVec 12} (h : s.level = false) : Issues s (execSysr g d num s) := by
  unfold execSysr
  rw [if_neg (by simp [h])]
  exact issues_plain rfl rfl

theorem issues_execSysw {num : BitVec 12} (h : s.level = false) : Issues s (execSysw g d num s) := by
  unfold execSysw
  rw [if_neg (by simp [h])]
  exact issues_plain rfl rfl

theorem issues_execMbind {n : BitVec 6} (h : s.level = false) : Issues s (execMbind g a n s) := by
  unfold execMbind
  rw [if_neg (by simp [h])]
  exact issues_plain rfl rfl

/-! ### Every instruction -/

/-- At a routine's level every instruction but PERIOD is judged by its slot. -/
theorem issues_exec {i : Instr} (hi : i.isEvent = false) (hp : i ≠ .period) (hl : s.level = false) : Issues s (exec i s) := by
  unfold exec
  cases i with
  | ld | ldLit => exact issues_loadAt
  | st | stLit => exact issues_storeAt
  | atomAdd | atomMin | atomMax | atomXchg | atomCmpxchg => exact issues_atom
  | br | call | ret => exact issues_branch
  | period => exact absurd rfl hp
  | sysr => exact issues_execSysr hl
  | sysw => exact issues_execSysw hl
  | vadd | vsub | vand | vor | vxor | vandn | vshl | vshr | vsar | vmin | vmax | vmul | vmulh | vabs | vneg | vfadd
  | vfsub | vfmul | vfma | vfmin | vfmax | vfabs | vfneg | vfdiv | vfsqrt | vfexp2 | vflog2 | vsel | vmov | vbcast | vcvt
  | vunpackse | vperm | vrot | philox => exact issues_lanewise
  | vcmpEq | vcmpNe | vcmpLt | vcmpLe => exact issues_vcmp
  | vredSum | vredMin | vredMax | vredArgmax | vredArgmin | vredAnd | vredOr | vredXor | vredXsum => exact issues_vred
  | vscanSum | vscanMin | vscanMax => exact issues_vscan
  | vld => exact issues_execVld
  | vst => exact issues_execVst
  | vatomAdd | vatomMin | vatomMax | vatomXchg => exact issues_vatom
  | wload => exact issues_execWload
  | mma => exact issues_execMma
  | accrd | accsave => exact issues_accOut
  | accwr | accrest => exact issues_accIn
  | mbind => exact issues_execMbind hl
  | leaseSd | leaseRv => exact issues_leaseReq
  | preempt | kill | mapset | keysel =>
    unfold execPreempt execKill execMapset execKeysel
    exact issues_windowOnly hl
  | loop | resync | resyncT | nopn | slot =>
    unfold execLoop execResync execResyncT execNopn execSlot
    exact issues_plain rfl rfl
  | vgather | vscatter | sample | vmaskLd | vmaskSt =>
    unfold execVgather execVscatter execSample execVmaskLd execVmaskSt
    exact issues_plain rfl rfl
  | wfill | ctab | accz =>
    unfold execWfill execCtab execAccz
    exact issues_plain rfl rfl
  | postScratch | touch | renew | ecmd =>
    unfold execPostScratch execTouch execRenew execEcmd
    exact issues_plain rfl rfl
  | add | sub | and | or | xor | andn | shl | shr | sar | rol | min | max | minn | maxn | slt | sltn | seq | clz | popc
  | sel | addi | addiLit | li | liLit | shli | shri | sari | roli | mul | mulh | mulhn | div | divn | rem | remn | geq | gne
  | glt | gle | gltn | glen | gand | gor | gxor | gnot | gmov | gseti => exact issues_plain rfl rfl
  | pbr | pbrLit | tbase | trap | eret | halt | vbcastLit | vlaneget | vlaneset | vpackse | vmaskCnt | vmaskFirst | ashape | post
  | peek | seqMirror | age | mquery | cpy | cpyLit | cpyw | cpywLit | fence | tlook | tset | tclr | landq | lfree =>
    exact issues_plain rfl rfl
  | matomAdd | matomMin | matomMax | matomXchg | matomCmpxchg | matomAnd | matomOr | matomXor | matomAddLit | matomMinLit
  | matomMaxLit | matomXchgLit | matomCmpxchgLit | matomAndLit | matomOrLit | matomXorLit | xacc | xaccLit | xclr | xclrLit
  | xfin | xfinLit => exact issues_plain rfl rfl
  | _ => exact nomatch hi

end Sys2Proof.Machine
end

section
/-! PROOFS. The order of the conditions at a slot (04:R82, R84, R86). -/

namespace Sys2Proof.Machine

/-! ### The overrun (04:R82) -/

/-- A cycle PERLEN − 1 without its PERIOD comes before every condition of an instruction. -/
theorem slotCause_overrun (p : Plan) (s : State) (hesc : pickEscalated (escalatedNow false s) = none)
    (ho : overrun s.tl false = true) (hn : p.isPeriod = false) (he : p.esc = none) :
    slotCause p s = some (0x10, BitVec.ofNat 64 (s.tl.perlen - 1)) := by
  simp [slotCause, slotCauses, hn, he, hesc, ho, causeIf]

/-- Settles O18: every instruction comes through `issue`, and the overrun is the first condition there that does not escalate. -/
theorem overrunStopsEveryInstruction : Obligations.OverrunStopsEveryInstruction := by
  intro s i hi hp hl hmode hcyc hesc hbad h0 h1
  obtain ⟨p, len, eff, ho, hn, he⟩ := issues_exec hi hp hl
  have hover : overrun s.tl false = true := by simp [overrun, hmode, hcyc]
  rw [gives_iff, ho]
  exact answers_slip (slotCause_overrun p s hesc hover hn (he ⟨hbad, h0, h1⟩))

/-! ### The conditions that the state alone and a unit decide (04:R84) -/

theorem findSome_id_cons {α : Type} (a : Option α) (l : List (Option α)) : (a :: l).findSome? id = a.or (l.findSome? id) := by
  cases a <;> rfl

/-- The conditions at a slot whose instruction asks for a unit only, in their order. -/
theorem slotCause_unit (u : Nat) (s : State) : slotCause { unit := some u } s
    = (pickEscalated (escalatedNow false s)).or ((causeIf (overrun s.tl false) 0x10 (BitVec.ofNat 64 (s.tl.perlen - 1))).or
      (((recurs s.tl 0x01).map (fun i => (0x01, i))).or (((outlierNow s.tl).map (fun i => (0x17, i))).or
      ((causeIf (!unitFree s u) 0x16 (BitVec.ofNat 64 u)).or (((recurs s.tl 0x16).map (fun i => (0x16, i))).or
      ((causeIf (collided s.tl != 0) 0x13 (bankInfo (collided s.tl))).or ((lateNow s).map (fun i => (0x12, i))))))))) := by
  simp [slotCause, slotCauses, findSome_id_cons, causeIf, unitFree]

theorem causeIf_true (c : BitVec 8) (i : X) : causeIf true c i = some (c, i) := rfl
theorem causeIf_false (c : BitVec 8) (i : X) : causeIf false c i = none := rfl

/-! ### Banks with two uses (04:R86) -/

/-- The uses of a bank in a cycle, among a list of jobs. -/
def bankUses (c k : Nat) (l : List Job) : List Job := (l.filter (fun j => j.cyc == c)).filter (fun j => j.banks.getLsbD k)

theorem bankUse_iff (c k : Nat) (l : List Job) :
    ((bankUse c l).1.getLsbD k = true ↔ 1 ≤ (bankUses c k l).length)
      ∧ ((bankUse c l).2.getLsbD k = true ↔ 2 ≤ (bankUses c k l).length) := by
  induction l with
  | nil => simp [bankUse, bankUses]
  | cons j r ih =>
    obtain ⟨ih1, ih2⟩ := ih
    by_cases hc : j.cyc = c
    · by_cases hk : j.banks.getLsbD k = true
      · have hu : bankUses c k (j :: r) = j :: bankUses c k r := by simp [bankUses, hc, hk]
        simp only [bankUse, if_pos hc, hu, List.length_cons, BitVec.getLsbD_or, BitVec.getLsbD_and, hk, Bool.or_true, Bool.and_true,
          Bool.or_eq_true, ih1, ih2]
        exact ⟨by simp, by omega⟩
      · have hu : bankUses c k (j :: r) = bankUses c k r := by simp [bankUses, hc, hk]
        simp only [bankUse, if_pos hc, hu, BitVec.getLsbD_or, BitVec.getLsbD_and, Bool.eq_false_iff.mpr hk, Bool.or_false,
          Bool.and_false, ih1, ih2, and_self]
    · have hu : bankUses c k (j :: r) = bankUses c k r := by simp [bankUses, hc]
      simp only [bankUse, if_neg hc, hu]
      exact ⟨ih1, ih2⟩

/-- The lowest set bit of a range is found. -/
theorem lowBitFrom_eq {w : BitVec 32} {k m n : Nat} (hk : k ≤ m) (hn : m < k + n) (hm : w.getLsbD m = true)
    (hlow : ∀ i, k ≤ i → i < m → w.getLsbD i = false) : lowBitFrom w k n = m := by
  induction n generalizing k with
  | zero => omega
  | succ n ih =>
    rcases Nat.eq_or_lt_of_le hk with rfl | hlt
    · simp [lowBitFrom, hm]
    · rw [lowBitFrom, if_neg (by simp [hlow k (Nat.le_refl k) hlt])]
      exact ih hlt (by omega) (fun i hi => hlow i (Nat.le_of_succ_le hi))

/-- Settles O20: the list of `slotCause_unit` gives the first condition that holds; `bankUse_iff` counts the uses of a bank. -/
theorem firstConditionIsReported : Obligations.FirstConditionIsReported := by
  constructor
  · intro s g d a b slip
    have slips : ∀ {c : BitVec 8} {info : X}, slotCause { unit := some 0 } s = some (c, info) → slip c info := answers_slip
    refine ⟨fun e he => slips ?_, fun he => ⟨fun ho => slips ?_, fun ho => ⟨fun v hv => slips ?_, fun h1 =>
      ⟨fun v hv => slips ?_, fun hout => ⟨fun hu => slips ?_, fun hu => ⟨fun v hv => slips ?_, fun h16 =>
        ⟨fun hb => slips ?_, fun v hb hv => slips ?_⟩⟩⟩⟩⟩⟩⟩
    all_goals rw [slotCause_unit]
    · rw [he, Option.some_or]
    all_goals rw [he, ho, Option.none_or]
    · rw [causeIf_true, Option.some_or]
    all_goals rw [causeIf_false, Option.none_or]
    · rw [hv, Option.map_some, Option.some_or]
    all_goals rw [h1, Option.map_none, Option.none_or]
    · rw [hv, Option.map_some, Option.some_or]
    all_goals rw [hout, hu, Option.map_none, Option.none_or]
    · rfl
    all_goals rw [Bool.not_true, causeIf_false, Option.none_or]
    · rw [hv, Option.map_some, Option.some_or]
    all_goals rw [h16, Option.map_none, Option.none_or]
    · rw [bne_iff_ne.mpr hb, causeIf_true, Option.some_or]
    · rw [hb, hv]
      rfl
  · intro t k hk
    refine ⟨(bankUse_iff t.abs k t.jobs).2, fun hset hlow => ?_⟩
    rw [bankInfo, lowBitFrom_eq (Nat.zero_le k) (by omega) hset (fun i _ => hlow i)]

end Sys2Proof.Machine
end

section
/-! PROOFS. Where the next instruction comes from: loop passes and delay slots (04:R78-R81). -/

namespace Sys2Proof.Machine

/-! ### Passes of loops (04:R80, R81) -/

/-- Loops that end elsewhere stay, whatever the loops outside them do. -/
theorem loopNext_append {pc next : X} {i : List LoopRec} (h : ∀ k ∈ i, k.last ≠ pc) (r : List LoopRec) :
    loopNext pc next (i ++ r) = ((loopNext pc next r).1, i ++ (loopNext pc next r).2) := by
  induction i with
  | nil => rfl
  | cons k i ih =>
    obtain ⟨hk, hi⟩ := List.forall_mem_cons.mp h
    simp [loopNext, hk, ih hi]

/-- Where no active loop ends, the next address is the one in program order. -/
theorem loopNext_elsewhere {pc next : X} {l : List LoopRec} (h : ∀ k ∈ l, k.last ≠ pc) : loopNext pc next l = (next, l) := by
  simpa [loopNext] using loopNext_append (next := next) h []

/-- A pass still to come begins at the body's first instruction. -/
theorem loopNext_pass {pc next : X} {l : LoopRec} (hl : l.last = pc) (hn : 1 < l.left) (r : List LoopRec) :
    loopNext pc next (l :: r) = (l.start, { l with left := l.left - 1 } :: r) := by
  simp [loopNext, hl, hn]

/-- A loop whose last pass ends here has ended, and the loops outside it complete theirs. -/
theorem loopNext_over {pc next : X} {l : LoopRec} (hl : l.last = pc) (hn : l.left ≤ 1) (r : List LoopRec) :
    loopNext pc next (l :: r) = loopNext pc next r := by
  simp [loopNext, hl, Nat.not_lt.mpr hn]

/-- No loop is left exactly when every active one ends here with its last pass. -/
theorem loopNext_isEmpty (pc next : X) (l : List LoopRec) :
    (loopNext pc next l).2 = [] ↔ ∀ k ∈ l, k.last = pc ∧ k.left ≤ 1 := by
  induction l with
  | nil => simp [loopNext]
  | cons k r ih =>
    rw [List.forall_mem_cons]
    by_cases hk : k.last = pc
    · by_cases hn : k.left ≤ 1
      · simp [loopNext_over hk hn, ih, hk, hn]
      · simp [loopNext_pass hk (Nat.lt_of_not_le hn), hn]
    · simp [loopNext, hk]

/-! ### Moving past an instruction (04:R78) -/

/-- Where tile u stands after an instruction of n bytes that tile t issued: what `advance` makes of its pc, loops and delay slots. -/
def Moved (n : Nat) (t u : Tile) : Prop :=
  u.pc = (advance n t).pc ∧ u.loops = (advance n t).loops ∧ u.redirect = (advance n t).redirect

/-- Nothing but the pc, the loops and the delay slots decides where a tile goes on. -/
theorem moved_of_same {t w : Tile} (h : (w.pc, w.loops, w.redirect) = (t.pc, t.loops, t.redirect)) (n : Nat) :
    Moved n t (endIssue false n w) := by
  simp only [Prod.mk.injEq] at h
  obtain ⟨hp, hl, hr⟩ := h
  unfold Moved
  simp only [endIssue, advance, hp, hl, hr, Bool.false_eq_true, if_false]
  cases t.redirect with
  | none => exact ⟨rfl, rfl, rfl⟩
  | some r => dsimp only; split <;> exact ⟨rfl, rfl, rfl⟩

theorem moved_noSlot {n : Nat} {t u : Tile} (h : Moved n t u) (hr : t.redirect = none) :
    let next := loopNext t.pc (t.pc + BitVec.ofNat 64 n) t.loops
    u.pc = next.1 ∧ u.loops = next.2 ∧ u.redirect = none := by
  simpa [Moved, advance, hr] using h

theorem moved_firstSlot {n : Nat} {t u : Tile} {tgt : Option X} (h : Moved n t u)
    (hr : t.redirect = some { slots := 2, target := tgt }) :
    let next := loopNext t.pc (t.pc + BitVec.ofNat 64 n) t.loops
    u.pc = next.1 ∧ u.loops = next.2 ∧ u.redirect = some { slots := 1, target := tgt } := by
  simpa [Moved, advance, hr] using h

theorem moved_lastSlot {n : Nat} {t u : Tile} {tgt : Option X} (h : Moved n t u)
    (hr : t.redirect = some { slots := 1, target := tgt }) :
    let next := loopNext t.pc (t.pc + BitVec.ofNat 64 n) t.loops
    u.pc = tgt.getD next.1 ∧ u.loops = next.2 ∧ u.redirect = none := by
  simpa [Moved, advance, hr] using h

/-- Every instruction that ends its issue in program order leaves the loops that it does not end. -/
theorem moved_loops {n : Nat} {t u : Tile} (h : Moved n t u) (hl : ∀ l ∈ t.loops, l.last ≠ t.pc) : u.loops = t.loops := by
  rw [h.2.1]
  unfold advance
  simp only [loopNext_elsewhere hl]
  split
  · rfl
  · split <;> rfl

/-- SALU's results do not decide where the tile goes on, and nullified it goes on in the same way. -/
theorem alu_moves (g : Guard) (d : BitVec 5) (v : X) (len : Nat) (s : State) (hq : quiet s = true) (hu : unitFree s 0 = true) :
    ∃ t, alu g d v len s = .next t ∧ Moved len s.tl t.tl := by
  cases he : enabled s.tl g with
  | false =>
    refine ⟨_, issue_runs _ len (fun t => t) _ s hq (clear_unit _ _ s) rfl (by simpa using hu) (by simp [he]), ?_⟩
    rw [tl_onTl]
    exact moved_of_same (t := s.tl) (w := holdUnit (some 0) 1 s.tl) rfl len
  | true =>
    refine ⟨_, issue_runs _ len (write1 (.x d) (val64 v)) _ s hq (clear_unit _ _ s) rfl (by simpa using hu) ?_, ?_⟩
    · simp only [tl_onTl, holdUnit_enabled, he, if_true, onTl_onTl]
    · rw [tl_onTl]
      refine moved_of_same (w := write1 (.x d) (val64 v) (holdUnit (some 0) 1 s.tl)) ?_ len
      rw [write1_eq]
      rfl

/-! ### Placement (04:R79, R81) -/

/-- A placement fault comes before every condition but the overrun, those that escalate and words that are no instruction. -/
theorem slotCause_place (p : Plan) (s : State) (hq : quiet s = true) (hn : p.isPeriod = false) (h1 : p.esc = none)
    (h2 : p.late = none) (h3 : p.bad = none) (h4 : (p.flow = true ∧ s.tl.redirect.isSome = true) ∨ p.place = true) :
    slotCause p s = some (0x01, wordInfo s.tl 0) := by
  obtain ⟨q1, q2, -⟩ := (quiet_iff s).mp hq
  have hf : (p.flow && s.tl.redirect.isSome || p.place) = true := by simpa using h4
  simp [slotCause, slotCauses, hn, q1, q2, h1, h2, h3, hf, causeIf]

/-! ### LOOP (05:R103) -/

/-- The address of the body's last instruction, where it lies in the instruction store. -/
theorem loopLast_toNat {pc : X} {imm : BitVec 10} (h : pc.toNat + 4 * imm.toNat < 0x20000) :
    (pc + 4 * imm.setWidth 64).toNat = pc.toNat + 4 * imm.toNat := by
  have h10 : imm.toNat < 2 ^ 10 := imm.isLt
  have h4 : (4 : X).toNat = 4 := rfl
  rw [BitVec.toNat_add, BitVec.toNat_mul, BitVec.toNat_setWidth, h4]
  omega

/-- Depth and nesting (04:R81). -/
theorem loopMisplaced_iff (t : Tile) (imm : BitVec 10) : loopMisplaced t imm = true ↔ 4 ≤ t.loops.length
    ∨ ∃ l ∈ t.loops, l.start.toNat ≤ t.pc.toNat ∧ t.pc.toNat ≤ l.last.toNat
        ∧ l.last.toNat < (t.pc + 4 * imm.setWidth 64).toNat := by
  simp [loopMisplaced, loopLast, and_assoc]

/-- What LOOP does to its tile before the end of its issue: with no pass the instruction after the body follows as a branch's
target does, else the body is active. -/
def loopBegins (n : Nat) (last : X) (t : Tile) : Tile :=
  if n = 0 then { t with redirect := some { slots := 1, target := some (last + BitVec.ofNat 64 (instrLen t last.toNat)) } }
  else { t with loops := { start := t.pc + 4, last := last, left := n } :: t.loops }

/-- LOOP's plan. -/
def loopPlan (g : Guard) (imm : BitVec 10) (t : Tile) : Plan :=
  { flow := true, place := loopMisplaced t imm, unit := some 3
    c17 := if enabled t g && decide (0x20000 ≤ (loopLast t imm).toNat) then some (loopLast t imm) else none }

theorem exec_loop (g : Guard) (d : BitVec 5) (imm : BitVec 10) (s : State) : exec (.loop g d imm) s
    = issue (loopPlan g imm s.tl) 4
        (fun u => u.onTl (loopBegins (if enabled s.tl g then (rx s.tl d).toNat else 1) (loopLast s.tl imm))) s := rfl

/-- An effect on units, loops and delay slots only is part of the timetable. -/
theorem writesNothing_flow {s : State} {F : Tile → Tile} {n : Nat} {w : Tile} (hF : F s.tl = endIssue false n w)
    (hw : ∃ un ls r, w = { s.tl with units := un, loops := ls, redirect := r }) : WritesNothing s (s.onTl F) := by
  obtain ⟨un, ls, r, rfl⟩ := hw
  obtain ⟨h1, h2⟩ := runs_frame s F (by rw [hF, endIssue_mem])
  refine ⟨h1, h2, ?_⟩
  unfold Advanced
  rw [tl_onTl, hF, endIssue_units]
  conv_lhs => rw [endIssue_eq]

/-- A LOOP that is permitted: a next state, where its tile goes on, and nothing else changes. -/
theorem loop_runs (g : Guard) (d : BitVec 5) (imm : BitVec 10) (s : State) (hq : quiet s = true) (hu : unitFree s 3 = true)
    (hr : s.tl.redirect = none) (hp : loopMisplaced s.tl imm = false) (hlast : (loopLast s.tl imm).toNat < 0x20000) :
    ∃ t, exec (.loop g d imm) s = .next t ∧ WritesNothing s t
      ∧ Moved 4 (loopBegins (if enabled s.tl g then (rx s.tl d).toNat else 1) (loopLast s.tl imm) s.tl) t.tl := by
  rw [exec_loop]
  generalize (if enabled s.tl g then (rx s.tl d).toNat else 1) = n
  have hc17 : (loopPlan g imm s.tl).c17 = none := by simp [loopPlan, Nat.not_le.mpr hlast]
  refine ⟨_, issue_runs (loopPlan g imm s.tl) 4 (loopBegins n (loopLast s.tl imm)) _ s hq
    ⟨rfl, fun _ => hr, hp, rfl, hc17, rfl, rfl, rfl, rfl, rfl, rfl, rfl⟩ rfl (by simpa [loopPlan] using hu) (onTl_onTl ..), ?_, ?_⟩
  · refine writesNothing_flow rfl ?_
    unfold loopBegins
    split <;> exact ⟨_, _, _, rfl⟩
  · rw [tl_onTl]
    refine moved_of_same ?_ 4
    unfold loopBegins
    split <;> rfl

/-! ### The statements -/

/-- Settles O14: `advance` counts the open delay slots, and a branch, loop or restart asks that none is open. -/
theorem delaySlotsThenTarget : Obligations.DelaySlotsThenTarget := by
  refine ⟨fun s g d a b lit hq hu hl => ?_, fun s g d r imm hq hr => ?_⟩
  · have moves : ∀ v len, ∃ t, alu g d v len s = .next t ∧ t.tl.loops = s.tl.loops
        ∧ (s.tl.redirect = none → t.tl.pc = s.tl.pc + BitVec.ofNat 64 len ∧ t.tl.redirect = none)
        ∧ (∀ tgt, s.tl.redirect = some { slots := 2, target := tgt } →
            t.tl.pc = s.tl.pc + BitVec.ofNat 64 len ∧ t.tl.redirect = some { slots := 1, target := tgt })
        ∧ (∀ tgt, s.tl.redirect = some { slots := 1, target := tgt } →
            t.tl.pc = tgt.getD (s.tl.pc + BitVec.ofNat 64 len) ∧ t.tl.redirect = none) := by
      intro v len
      obtain ⟨t, ht, hm⟩ := alu_moves g d v len s hq hu
      have hnext := loopNext_elsewhere (next := s.tl.pc + BitVec.ofNat 64 len) hl
      refine ⟨t, ht, moved_loops hm hl, fun hr => ?_, fun tgt hr => ?_, fun tgt hr => ?_⟩
      · obtain ⟨hpc, -, hred⟩ := moved_noSlot hm hr
        exact ⟨by rw [hpc, hnext], hred⟩
      · obtain ⟨hpc, -, hred⟩ := moved_firstSlot hm hr
        exact ⟨by rw [hpc, hnext], hred⟩
      · obtain ⟨hpc, -, hred⟩ := moved_lastSlot hm hr
        exact ⟨by rw [hpc, hnext], hred⟩
    simp only [List.forall_mem_cons, List.not_mem_nil, false_implies, implies_true, and_true]
    exact ⟨moves _ 4, moves _ 12⟩
  · have slips : ∀ {p : Plan} {len : Nat} {eff : State → State}, p.isPeriod = false → p.esc = none → p.late = none → p.bad = none →
        p.flow = true → Answers (issue p len eff s) (fun t => Slips s t 0x01 (wordInfo s.tl 0)) :=
      fun hn h1 h2 h3 hf => answers_slip (slotCause_place _ s hq hn h1 h2 h3 (.inl ⟨hf, hr⟩))
    simp only [List.forall_mem_cons, List.not_mem_nil, false_implies, implies_true, and_true, gives_iff]
    unfold exec execBr execCall execRet branch execLoop execResync execResyncT
    exact ⟨slips rfl rfl rfl rfl rfl, slips rfl rfl rfl rfl rfl, slips rfl rfl rfl rfl rfl, slips rfl rfl rfl rfl rfl,
      slips rfl rfl rfl rfl rfl, slips rfl rfl rfl rfl rfl, slips rfl rfl rfl rfl rfl, slips rfl rfl rfl rfl rfl⟩

/-- Settles O15: `loopBegins` says where a permitted LOOP goes on; what is not permitted is in its plan. -/
theorem loopStarts : Obligations.LoopStarts := by
  constructor
  · intro s g d imm hq hu hr himm hin hdepth n last hloops
    have hlast : last.toNat = s.tl.pc.toNat + 4 * imm.toNat := loopLast_toNat hin
    have hplace : loopMisplaced s.tl imm = false := by
      rw [← Bool.not_eq_true, loopMisplaced_iff]
      rintro (h | ⟨l, hl, h1, h2, h3⟩)
      · exact absurd hdepth (Nat.not_lt.mpr h)
      · exact absurd h3 (Nat.not_lt.mpr ((hloops l hl).2 h1 h2))
    obtain ⟨t, ht, hnothing, hm⟩ := loop_runs g d imm s hq hu hr hplace (by rw [show loopLast s.tl imm = last from rfl, hlast]; exact hin)
    have helse : ∀ l ∈ s.tl.loops, l.last ≠ s.tl.pc := fun l hl => (hloops l hl).1
    have hne : last ≠ s.tl.pc := by
      intro h
      have h0 : imm.toNat ≠ 0 := fun h0 => himm (BitVec.eq_of_toNat_eq h0)
      rw [h] at hlast
      omega
    refine ⟨t, ht, hnothing, ?_⟩
    change Moved 4 (loopBegins n last s.tl) t.tl at hm
    unfold loopBegins at hm
    by_cases hn : n = 0
    · rw [if_pos hn] at hm ⊢
      obtain ⟨hpc, hl, hred⟩ := moved_lastSlot hm rfl
      refine ⟨hred, hpc, ?_⟩
      rw [hl, loopNext_elsewhere helse]
    · rw [if_neg hn] at hm ⊢
      obtain ⟨hpc, hl, hred⟩ := moved_noSlot hm hr
      rw [loopNext_elsewhere (List.forall_mem_cons.mpr ⟨hne, helse⟩)] at hpc hl
      exact ⟨hred, hpc, hl⟩
  · intro s g d imm hq hr last
    refine ⟨fun hmis => ?_, fun hl he hfar => ?_⟩ <;> rw [gives_iff, exec_loop]
    · exact answers_slip (slotCause_place _ s hq rfl rfl rfl rfl (.inr ((loopMisplaced_iff s.tl imm).mpr hmis)))
    · refine answers_slip (slotCause_c17 _ s last hq rfl rfl rfl rfl (fun _ => hr) ?_ rfl ?_)
      · simp [loopPlan, loopMisplaced, hl]
      · have hlast : loopLast s.tl imm = last := rfl
        simp [loopPlan, hlast, he, hfar]

/-- Settles O16: `loopNext` passes the loops that end elsewhere, and goes through those that end here from the innermost on. -/
theorem loopPassesRepeat : Obligations.LoopPassesRepeat := by
  intro s g d a b hq hu hr
  obtain ⟨t, ht, hm⟩ := alu_moves g d (rx s.tl a + rx s.tl b) 4 s hq hu
  obtain ⟨hpc, hloops, -⟩ := moved_noSlot hm hr
  refine ⟨t, ht, fun hl => ?_, fun i l r hs hi hlast => ⟨fun hn => ?_, fun hn hrest => ?_, fun j m q hn hrest hj hmlast hmn => ?_⟩⟩
  · rw [hpc, hloops, loopNext_elsewhere hl]
    exact ⟨rfl, rfl⟩
  · rw [hpc, hloops, hs, loopNext_append hi, loopNext_pass hlast hn]
    exact ⟨rfl, rfl⟩
  · rw [hpc, hloops, hs, loopNext_append hi, loopNext_over hlast hn, loopNext_elsewhere hrest]
    exact ⟨rfl, rfl⟩
  · rw [hpc, hloops, hs, hrest, loopNext_append hi, loopNext_over hlast hn, loopNext_append hj, loopNext_pass hmlast hmn]
    exact ⟨rfl, (List.append_assoc i j _).symm⟩

end Sys2Proof.Machine
end

section
/-! PROOFS. The end of a period (04:R82, R83; 05:R104). -/

namespace Sys2Proof.Machine

/-! ### What is in flight (04:R83) -/

/-- The lowest busy unit is what PERIOD reports. -/
theorem inFlight_unit {t : Tile} {u : Nat} (hu : u < 16) (hb : unitBusyAfter t u = true)
    (hlow : ∀ v, v < u → unitBusyAfter t v = false) : inFlight t = some (BitVec.ofNat 64 u) := by
  have hfind : (List.range 16).find? (unitBusyAfter t) = some u :=
    List.find?_range_eq_some.mpr ⟨hb, List.mem_range.mpr hu, fun v hv => by simp [hlow v hv]⟩
  rw [inFlight, hfind]

/-- With every unit free, loops that are still active count, and nothing else does. -/
theorem inFlight_loops {t : Tile} (hfree : ∀ u, u < 16 → unitBusyAfter t u = false) :
    inFlight t = if (loopNext t.pc (t.pc + 4) t.loops).2 = [] then none else some 3 := by
  have hfind : (List.range 16).find? (unitBusyAfter t) = none :=
    List.find?_range_eq_none.mpr (fun u hu => by simp [hfree u hu])
  simp only [inFlight, hfind, List.isEmpty_iff]

/-! ### The conditions at a PERIOD (04:R84) -/

/-- The conditions that `quietPeriod` excludes. -/
theorem quietPeriod_iff (s : State) : quietPeriod s = true ↔
    pickEscalated (escalatedNow true s) = none ∧ recurs s.tl 1#8 = none ∧ recurs s.tl 22#8 = none ∧ outlierNow s.tl = none
      ∧ collided s.tl = 0 ∧ lateNow s = none := by
  simp [quietPeriod, Option.isNone_iff_eq_none, and_assoc]

/-- PERIOD's plan. -/
def periodPlan (t : Tile) : Plan :=
  { isPeriod := true, place := t.trap.mode, unit := some 4
    early := if t.cyc + 1 < t.perlen then some (BitVec.ofNat 64 (t.perlen - 1)) else none
    late := if t.perlen < t.cyc + 1 && !t.trap.mode then some (BitVec.ofNat 64 (t.perlen - 1)) else none
    c14 := inFlight t }

/-- Trap mode comes first, then an early PERIOD, then what is in flight. -/
theorem slotCause_period {s : State} (hq : quietPeriod s = true) (hu : unitFree s 4 = true)
    (hcyc : s.tl.trap.mode = true ∨ s.tl.cyc + 1 ≤ s.tl.perlen) : slotCause (periodPlan s.tl) s
      = (causeIf s.tl.trap.mode 0x01 (wordInfo s.tl 0)).or
        ((causeIf (decide (s.tl.cyc + 1 < s.tl.perlen)) 0x11 (BitVec.ofNat 64 (s.tl.perlen - 1))).or
          ((inFlight s.tl).map (fun i => (0x14, i)))) := by
  obtain ⟨h1, h2, h3, h4, h5, h6⟩ := (quietPeriod_iff s).mp hq
  have hheld : unitHeld s.tl 4 = false := by simpa [unitFree] using hu
  have hlate : (periodPlan s.tl).late = none := by
    have : ¬(s.tl.perlen < s.tl.cyc + 1 && !s.tl.trap.mode) = true := by
      rcases hcyc with h | h
      · simp [h]
      · simp [Nat.not_lt.mpr h]
    exact if_neg this
  have hover : overrun s.tl true = false := by simp [overrun]
  simp only [slotCause, slotCauses, findSome_id_cons, hlate]
  simp [periodPlan, h1, h2, h3, h4, h5, h6, hheld, hover, causeIf]

/-! ### PERIOD's effect (05:R104, 06:R128) -/

/-- What PERIOD makes of its tile, the time base given: the period ends, and a pre-emption asked for is taken. -/
def periodTile (base : X) (t : Tile) : Tile :=
  let u := { endPeriod base (cycEnd t) t with perEnd := true }
  if preemptAsked t then { u with saveDue := true, pcseq := (tget mirrorInit t.mirs 61).seq } else u

theorem exec_period (s : State) : exec .period s = issue (periodPlan s.tl) 4
    (fun u => (noteSample 61 u).onTl (fun t => periodTile (timeBase u u.turn (cycEnd t)) t)) s := rfl

/-- Noting a sample changes no more than mirrors of the turn tile. -/
theorem noteSample_tl (n : BitVec 6) (s : State) : (noteSample n s).tl = { s.tl with mirs := (noteSample n s).tl.mirs } := by
  rcases noteSample_eq n s with h | h <;> rw [h]
  rw [tl_onTl]

theorem onTl_noteSample (n : BitVec 6) (s : State) (f : Tile → Tile) :
    (noteSample n s).onTl f = s.onTl (fun _ => f (noteSample n s).tl) := by
  rcases noteSample_eq n s with h | h <;> rw [h]
  · rfl
  · rw [onTl_onTl, tl_onTl]
    rfl

/-- The sample that PERIOD takes of mirror 61 is no new post. -/
theorem preemptAsked_noteSample (s : State) : preemptAsked (noteSample 61 s).tl = preemptAsked s.tl := by
  rcases noteSample_eq 61 s with h | h <;> rw [h]
  rw [tl_onTl]
  simp [preemptAsked]

theorem periodTile_frame (base : X) (t : Tile) : periodTile base t
    = { endPeriod base (cycEnd t) t with perEnd := true, saveDue := (periodTile base t).saveDue, pcseq := (periodTile base t).pcseq } := by
  unfold periodTile
  split <;> rfl

theorem periodTile_saveDue (base : X) {t : Tile} (h : preemptAsked t = true) : (periodTile base t).saveDue = true := by
  simp [periodTile, h]

/-- A PERIOD that nothing stops: its tile, but for the mirror's mark and the timetable. -/
theorem period_runs {s : State} (hc : slotCause (periodPlan s.tl) s = none) :
    ∃ w, exec .period s = .next (s.onTl (fun _ => endIssue false 4 (periodTile (timeBase s s.turn (cycEnd s.tl)) w)))
      ∧ (∃ un ms, w = { s.tl with units := un, mirs := ms }) ∧ preemptAsked w = preemptAsked s.tl := by
  have hw := noteSample_tl 61 (s.onTl (holdUnit (some 4) 1))
  refine ⟨(noteSample 61 (s.onTl (holdUnit (some 4) 1))).tl, ?_, ⟨_, _, by rw [hw, tl_onTl]; rfl⟩, ?_⟩
  · rw [exec_period, issue_clear _ _ _ _ hc]
    change Host.Outcome.next (((noteSample 61 (s.onTl (holdUnit (some 4) 1))).onTl _).onTl _) = _
    rw [onTl_noteSample, onTl_onTl, onTl_onTl]
    rw [hw, tl_onTl]
    rfl
  · rw [preemptAsked_noteSample, tl_onTl]
    rfl

/-- What the end of a period leaves, of a tile that differs in units and mirrors only. -/
theorem periodEnd_holds {s : State} {w : Tile} (hmode : s.tl.trap.mode = false)
    (hw : ∃ un ms, w = { s.tl with units := un, mirs := ms }) (hasked : preemptAsked w = preemptAsked s.tl) :
    let t := s.onTl (fun _ => endIssue false 4 (periodTile (timeBase s s.turn (cycEnd s.tl)) w))
    t.tl.clk.perstamp = timeBase s s.turn (cycEnd s.tl) ∧ t.tl.perlen = s.tl.perlenNext ∧ t.tl.memused = 0
      ∧ t.tl.clk.stretch = BitVec.ofNat 64 (s.tl.clk.count + (if s.tl.clk.stretched then 1 else 0))
      ∧ t.tl.perEnd = true ∧ (preemptAsked s.tl = true → t.tl.saveDue = true) ∧ t.tl.regs = s.tl.regs
      ∧ t.tl.trap.cause = s.tl.trap.cause ∧ t.tl.arr = s.tl.arr ∧ SameBytes s t ∧ OnlyTile s t := by
  obtain ⟨un, ms, rfl⟩ := hw
  intro t
  have ht : t.tl = endIssue false 4 (periodTile (timeBase s s.turn (cycEnd s.tl)) { s.tl with units := un, mirs := ms }) := tl_onTl ..
  rw [endIssue_eq, periodTile_frame] at ht
  obtain ⟨hbytes, honly⟩ := runs_frame s (fun _ => t.tl) (by rw [ht]; rfl)
  have hstate : s.onTl (fun _ => t.tl) = t := by rw [tl_onTl]
  rw [hstate] at hbytes honly
  rw [ht]
  refine ⟨rfl, rfl, rfl, ?_, rfl, fun h => periodTile_saveDue _ (hasked.trans h), rfl, rfl, rfl, hbytes, honly⟩
  simp [endPeriod, hmode]

/-! ### The statement -/

/-- Settles O17: `slotCause_period` orders PERIOD's conditions, `period_runs` gives the tile that it leaves, and `inFlight` is the
lowest busy unit. -/
theorem periodEnds : Obligations.PeriodEnds := by
  constructor
  · intro s hq hu
    have slips : ∀ {c : BitVec 8} {info : X}, slotCause (periodPlan s.tl) s = some (c, info) →
        Gives .period s (fun t => Slips s t c info) :=
      fun h => by
        rw [gives_iff, exec_period]
        exact answers_slip h
    refine ⟨fun hmode hcyc hfree => ?_, fun hmode hcyc => slips ?_, fun u hmode hcyc hbusy => slips ?_, fun hmode => slips ?_⟩
    · have hc : slotCause (periodPlan s.tl) s = none := by
        rw [slotCause_period hq hu (.inr (Nat.le_of_eq hcyc)), hmode, hfree, causeIf_false]
        simp [causeIf, hcyc]
      obtain ⟨w, hw, hsame, hasked⟩ := period_runs hc
      exact ⟨_, hw, periodEnd_holds hmode hsame hasked⟩
    · rw [slotCause_period hq hu (.inr hcyc.le), hmode, causeIf_false, Option.none_or, decide_eq_true hcyc, causeIf_true, Option.some_or]
    · rw [slotCause_period hq hu (.inr hcyc.le), hmode, hbusy, causeIf_false, Option.none_or,
        decide_eq_false (by omega), causeIf_false, Option.none_or, Option.map_some]
    · rw [slotCause_period hq hu (.inl hmode), hmode, causeIf_true, Option.some_or]
  · intro t after busy
    have hafter : after = landsAfter := funext fun op => by cases op <;> rfl
    have hbusy : busy = unitBusyAfter t := funext fun u => by
      simp only [busy, hafter, unitBusyAfter, Bool.and_assoc, Bool.and_comm, Bool.and_left_comm]
    rw [hbusy]
    refine ⟨fun u hu hb hlow => inFlight_unit hu hb hlow, fun hfree hl => ?_, fun hfree hl => ?_⟩
    · obtain ⟨l, hl, hleft⟩ := hl
      refine (inFlight_loops hfree).trans (if_neg fun h => ?_)
      have hover := (loopNext_isEmpty ..).mp h l hl
      rcases hleft with hlast | hmore
      · exact hlast hover.1
      · exact absurd hover.2 (Nat.not_le.mpr hmore)
    · rw [inFlight_loops hfree, if_pos ((loopNext_isEmpty ..).mpr hl)]

end Sys2Proof.Machine
end

section
/-! PROOFS. What a landing writes (04:R87, 16:R258, R260, R262). -/

namespace Sys2Proof.Machine

/-! ### The bytes of a number and of a line -/

/-- Each byte of a number written. -/
theorem mread_mwriteLE_byte (m : Memory) (a n v : Nat) {k : Nat} (h : k < n) :
    mread (mwriteLE m a n v) (a + k) = BitVec.ofNat 8 (v / 256 ^ k) := by
  induction n generalizing m a v k with
  | zero => omega
  | succ n ih =>
    cases k with
    | zero =>
      change mread (mwriteLE m a (n + 1) v) a = _
      rw [mwriteLE, mread_mwriteLE_other _ _ _ (.inl (Nat.lt_succ_self a)), mread_mwrite_self, Nat.pow_zero, Nat.div_one]
    | succ k =>
      rw [mwriteLE, show a + (k + 1) = a + 1 + k by omega, ih _ _ _ (Nat.lt_of_succ_lt_succ h), Nat.div_div_eq_div_mul, Nat.pow_succ']

/-- The cells of a number, written one after another, are the number written. -/
theorem mwrites_cellsLE (m : Memory) (a n v : Nat) : mwrites m (cellsLE a n v) = mwriteLE m a n v := by
  induction n generalizing m a v with
  | zero => rfl
  | succ n ih => exact ih ..

/-- Byte k of a line, of which n bytes are taken. -/
theorem ofNat_lineByte (l : Line) {k n : Nat} (h : k < n) : BitVec.ofNat 8 (lineBytes l 0 n / 256 ^ k) = l.extractLsb' (8 * k) 8 := by
  apply BitVec.eq_of_toNat_eq
  rw [BitVec.toNat_ofNat, BitVec.extractLsb'_toNat, Nat.shiftRight_eq_div_pow, lineBytes, Nat.mul_zero, Nat.pow_zero, Nat.div_one,
    show (256 : Nat) = 2 ^ 8 by rfl, ← Nat.pow_mul, mod_pow_field _ (by omega)]

theorem lineBytes_all (l : Line) : lineBytes l 0 64 = l.toNat := by
  rw [lineBytes, Nat.mul_zero, Nat.pow_zero, Nat.div_one, Nat.mod_eq_of_lt (BitVec.toNat_lt_twoPow_of_le (by decide))]

/-- A line written: its bytes. -/
theorem mread_line (m : Memory) (a : Nat) (l : Line) {k : Nat} (h : k < 64) :
    mread (mwrites m (lineCells a l)) (a + k) = l.extractLsb' (8 * k) 8 := by
  rw [lineCells, mwrites_cellsLE, mread_mwriteLE_byte _ _ _ _ h, ← lineBytes_all, ofNat_lineByte l h]

/-- A line written: the other bytes. -/
theorem mread_line_other (m : Memory) (a : Nat) (l : Line) {b : Nat} (h : b < a ∨ a + 64 ≤ b) :
    mread (mwrites m (lineCells a l)) b = mread m b := by
  rw [lineCells, mwrites_cellsLE, mread_mwriteLE_other _ _ _ h]

/-! ### The lines of a copy's group (16:R258) -/

/-- The addresses of n lines from one on. -/
def lineRun (addr n : Nat) : List Nat := (List.range n).map (fun i => addr + 64 * i)

/-- With every bank serving, one line more of a group is written after those before it. -/
theorem landLines_succ (o : MemOp) (first addr n : Nat) (m : Memory) : landLines 0 o first (lineRun addr (n + 1)) m
    = (o.lines[first + n]?).elim (landLines 0 o first (lineRun addr n) m)
        (fun l => mwrites (landLines 0 o first (lineRun addr n) m) (lineCells (addr + 64 * n) l.data)) := by
  have hrun : (lineRun addr (n + 1)).zipIdx = (lineRun addr n).zipIdx ++ [(addr + 64 * n, n)] := by
    simp [lineRun, List.range_succ, List.zipIdx_append]
  have hserves : ¬(0 : BitVec 32).getLsbD (bankOf (addr + 64 * n)) = true := by simp
  rw [landLines, hrun, List.foldl_append, List.foldl_cons, List.foldl_nil]
  dsimp only
  rw [if_neg hserves]
  cases o.lines[first + n]? <;> rfl

theorem landLines_other (o : MemOp) (first addr n : Nat) (m : Memory) {b : Nat} (h : b < addr ∨ addr + 64 * n ≤ b) :
    mread (landLines 0 o first (lineRun addr n) m) b = mread m b := by
  induction n with
  | zero => rfl
  | succ n ih =>
    rw [landLines_succ]
    cases o.lines[first + n]? with
    | none => exact ih (by omega)
    | some l => rw [Option.elim_some, mread_line_other _ _ _ (by omega), ih (by omega)]

/-- Each line of the group stands in its place. -/
theorem landLines_line (o : MemOp) (first addr n : Nat) (m : Memory) {i k : Nat} {l : LineSt} (hi : i < n)
    (hl : o.lines[first + i]? = some l) (hk : k < 64) :
    mread (landLines 0 o first (lineRun addr n) m) (addr + 64 * i + k) = l.data.extractLsb' (8 * k) 8 := by
  induction n with
  | zero => omega
  | succ n ih =>
    rw [landLines_succ]
    rcases Nat.eq_or_lt_of_le (Nat.le_of_lt_succ hi) with rfl | hlt
    · rw [hl, Option.elim_some, mread_line _ _ _ hk]
    · cases o.lines[first + n]? with
      | none => exact ih hlt
      | some q => rw [Option.elim_some, mread_line_other _ _ _ (by omega), ih hlt]

/-! ### Tickets (16:R270) -/

/-- The last line written lands the operation's ticket, when nothing of it was lost or abandoned. -/
theorem landTicket_lands {id : Nat} {t : Tile} {k : Ticket} (hk : k ∈ (landTicket id false true t).tickets) (ho : k.op = id)
    (ha : k.abandoned = false) (hl : k.lost = false) : k.landed = true := by
  obtain ⟨q, -, rfl⟩ := List.mem_map.mp hk
  by_cases hq : q.op = id
  · simp only [if_pos hq] at ha hl ⊢
    simp_all
  · rw [if_neg hq] at ho
    exact absurd ho hq

/-- An earlier cycle's lines leave the tickets. -/
theorem landTicket_earlier (id : Nat) (t : Tile) : (landTicket id false false t).tickets = t.tickets := by
  refine (List.map_congr_left fun q _ => ?_).trans (List.map_id t.tickets)
  simp

/-! ### The only landing of a cycle -/

/-- A cycle with one job has no bank with two uses, and runs it when it is one of those selected. -/
theorem runJobs_single {s : State} {j : Job} (hj : s.tl.jobs = [j]) (hc : j.cyc = s.tl.abs) {sel : JobOp → Bool} (hs : sel j.op = true) :
    runJobs sel s = runJob 0 j s := by
  have hbad : collided s.tl = 0 := by simp [collided, bankUse, hj, hc]
  simp [runJobs, hj, hc, hs, hbad]

/-- What a landing leaves of the state beside n bytes of its tile and a ticket. -/
theorem landing_frame (s : State) (F : Tile → Tile) (addr n : Nat) (hregs : (F s.tl).regs = s.tl.regs)
    (hmem : ∀ b, b < addr ∨ addr + n ≤ b → mread (F s.tl).mem b = mread s.tl.mem b) :
    OnlyTile s (s.onTl F) ∧ (s.onTl F).tl.regs = s.tl.regs ∧ (s.onTl F).mem = s.mem
      ∧ ∀ b, b < addr ∨ addr + n ≤ b → mread (s.onTl F).tl.mem b = mread s.tl.mem b := by
  rw [tl_onTl]
  exact ⟨onlyTile_onTl s F, hregs, rfl, hmem⟩

/-- The word that MATOM or XFIN lands. -/
theorem landWord_holds {s : State} {o : MemOp} {l : LineSt} (hl : o.lines = [l]) (addr n : Nat) :
    let t := s.onTl (landWord o addr n)
    (OnlyTile s t ∧ t.tl.regs = s.tl.regs ∧ t.mem = s.mem ∧ (∀ b, b < addr ∨ addr + n ≤ b → mread t.tl.mem b = mread s.tl.mem b))
      ∧ (∀ k ∈ t.tl.tickets, k.op = o.id → k.abandoned = false → k.lost = false → k.landed = true)
      ∧ ∀ k, k < n → mread t.tl.mem (addr + k) = l.data.extractLsb' (8 * k) 8 := by
  refine ⟨landing_frame s _ addr n rfl (fun b hb => mread_mwriteLE_other _ _ _ hb), fun k hk => ?_, fun k hk => ?_⟩
  · rw [tl_onTl] at hk
    exact landTicket_lands hk
  · rw [tl_onTl]
    have hdata : (o.lines.head?.map (fun l => l.data)).getD 0 = l.data := by simp [hl]
    change mread (mwriteLE s.tl.mem addr n (lineBytes ((o.lines.head?.map (fun l => l.data)).getD 0) 0 n)) (addr + k) = _
    rw [hdata, mread_mwriteLE_byte _ _ _ _ hk, ofNat_lineByte _ hk]

/-- The effect of a copy's landing cycle with every bank serving: n lines from the first on, at an address. -/
def landGroup (o : MemOp) (first addr n : Nat) (t : Tile) : Tile :=
  landTicket o.id false (decide (o.lines.length ≤ first + n)) { t with mem := landLines 0 o first (lineRun addr n) t.mem }

/-- The lines that a copy's cycle lands. -/
theorem landGroup_holds (s : State) (o : MemOp) (first addr n : Nat) :
    let t := s.onTl (landGroup o first addr n)
    (OnlyTile s t ∧ t.tl.regs = s.tl.regs ∧ t.mem = s.mem ∧ (∀ b, b < addr ∨ addr + 64 * n ≤ b → mread t.tl.mem b = mread s.tl.mem b))
      ∧ (∀ i l, i < n → o.lines[first + i]? = some l → ∀ k, k < 64 →
          mread t.tl.mem (addr + 64 * i + k) = l.data.extractLsb' (8 * k) 8)
      ∧ (o.lines.length = first + n →
          ∀ k ∈ t.tl.tickets, k.op = o.id → k.abandoned = false → k.lost = false → k.landed = true)
      ∧ (first + n < o.lines.length → t.tl.tickets = s.tl.tickets) := by
  refine ⟨landing_frame s _ addr (64 * n) rfl (fun b hb => landLines_other o first addr n _ hb), fun i l hi hl k hk => ?_,
    fun hlast k hk => ?_, fun hmore => ?_⟩
  · rw [tl_onTl]
    exact landLines_line o first addr n _ hi hl hk
  · rw [tl_onTl, landGroup, decide_eq_true (Nat.le_of_eq hlast)] at hk
    exact landTicket_lands hk
  · rw [tl_onTl, landGroup, decide_eq_false (Nat.not_le.mpr hmore)]
    exact landTicket_earlier _ _

/-! ### The statement -/

/-- Settles O48: the cycle's one landing runs with every bank serving it, and writes its lines or its word. -/
theorem landingsWriteTheScratchpad : Obligations.LandingsWriteTheScratchpad := by
  intro s j o addr hj hc ho hwhole same landed
  refine ⟨fun first n hop _ _ _ => ?_, fun l hl hop => ?_, fun l hl hop => ?_⟩
  · refine ⟨s.onTl (landGroup o first addr n), ?_, landGroup_holds s o first addr n⟩
    change j.op = .cpyLand o.id first (lineRun addr n) at hop
    have hserved : (lineRun addr n).any (fun a => (0 : BitVec 32).getLsbD (bankOf a)) = false := by simp
    have hlength : (lineRun addr n).length = n := by simp [lineRun]
    rw [exec, execCpyLanding, runJobs_single hj hc (by rw [hop])]
    simp only [runJob, landJob, hop, ho, hwhole, hserved, hlength, Bool.not_true, Bool.false_eq_true, if_false]
    rfl
  · refine ⟨s.onTl (landWord o addr 8), ?_, landWord_holds hl addr 8⟩
    rw [exec, execMatomLanding, runJobs_single hj hc (by rw [hop])]
    simp [runJob, landJob, hop, ho, hwhole]
  · refine ⟨s.onTl (landWord o addr 4), ?_, landWord_holds hl addr 4⟩
    rw [exec, execXfinLanding, runJobs_single hj hc (by rw [hop])]
    simp [runJob, landJob, hop, ho, hwhole]

end Sys2Proof.Machine
end

section
/-! PROOFS. Results that land at the end of a cycle (04:R72, R75, R76). -/

namespace Sys2Proof.Machine

/-! ### The due results in order of issue -/

theorem insertRes_perm (p : Pending) (l : List Pending) : (insertRes p l).Perm (p :: l) := by
  induction l with
  | nil => exact .refl _
  | cons q r ih =>
    rw [insertRes]
    split
    · exact .refl _
    · exact (ih.cons q).trans (.swap p q r)

theorem sortRes_perm (l : List Pending) : (sortRes l).Perm l := by
  induction l with
  | nil => exact .refl _
  | cons p r ih => exact (insertRes_perm p _).trans (ih.cons p)

/-- No result is before an earlier issued one. -/
def InOrder (l : List Pending) : Prop := l.Pairwise (fun p q => p.order ≤ q.order)

theorem insertRes_inOrder (p : Pending) {l : List Pending} (h : InOrder l) : InOrder (insertRes p l) := by
  induction l with
  | nil => exact List.pairwise_singleton ..
  | cons q r ih =>
    obtain ⟨hq, hr⟩ := List.pairwise_cons.mp h
    rw [insertRes]
    split
    · rename_i hlt
      refine List.pairwise_cons.mpr ⟨fun x hx => ?_, h⟩
      rcases List.mem_cons.mp hx with rfl | hx
      · exact hlt.le
      · exact hlt.le.trans (hq x hx)
    · rename_i hle
      refine List.pairwise_cons.mpr ⟨fun x hx => ?_, ih hr⟩
      rcases List.mem_cons.mp ((insertRes_perm p r).mem_iff.mp hx) with rfl | hx
      · exact Nat.le_of_not_lt hle
      · exact hq x hx

theorem sortRes_inOrder (l : List Pending) : InOrder (sortRes l) := by
  induction l with
  | nil => exact List.Pairwise.nil
  | cons p r ih => exact insertRes_inOrder p ih

/-! ### One result written over those before it -/

/-- A due result written, but for what the cycle's own instruction has written already. -/
def landStep (own : List Dest) (t : Tile) (p : Pending) : Tile :=
  match underLanded own p.dest with
  | some d => wdest t d p.val
  | none => t

/-- The results due now, in order of issue. -/
def dueRes (t : Tile) : List Pending := sortRes (t.pend.filter (fun p => p.due == t.abs))

/-- The registers that the landing of a cycle's results leaves. -/
def landedTile (t : Tile) : Tile := (dueRes t).foldl (landStep t.landed) t

theorem wdest_frame (t : Tile) (d : Dest) (v : VReg) : wdest t d v = { t with regs := (wdest t d v).regs } := by
  cases d <;> simp only [wdest, wx, wg, wb, wv] <;> split <;> rfl

theorem landStep_frame (own : List Dest) (t : Tile) (p : Pending) : landStep own t p = { t with regs := (landStep own t p).regs } := by
  unfold landStep
  split
  · exact wdest_frame ..
  · rfl

theorem foldl_landStep_frame (own : List Dest) (l : List Pending) (t : Tile) :
    l.foldl (landStep own) t = { t with regs := (l.foldl (landStep own) t).regs } := by
  induction l generalizing t with
  | nil => rfl
  | cons p r ih =>
    rw [List.foldl_cons, ih, landStep_frame]

/-! ### A part of the register files: a register, a bit of a guard, a lane -/

/-- `get` reads a part of the register files that results of some destinations write, as `val` gives it of their value: so does
every landing, but where the cycle's own instruction has written that part. -/
def LandsPart {α : Type} (own : List Dest) (get : Tile → α) (meets : Dest → Prop) (val : VReg → α) : Prop :=
  ∀ t p, (meets p.dest → (∀ d ∈ own, ¬meets d) → get (landStep own t p) = val p.val)
    ∧ (¬meets p.dest ∨ (∃ d ∈ own, meets d) → get (landStep own t p) = get t)

section
variable {α : Type} {own : List Dest} {get : Tile → α} {meets : Dest → Prop} {val : VReg → α}
variable (h : LandsPart own get meets val)
include h

/-- A part that no result writes, or that the cycle's own instruction has written, stays. -/
theorem foldl_landStep_stays (l : List Pending) (t : Tile) (hs : (∃ d ∈ own, meets d) ∨ ∀ p ∈ l, ¬meets p.dest) :
    get (l.foldl (landStep own) t) = get t := by
  induction l generalizing t with
  | nil => rfl
  | cons p r ih =>
    rw [List.foldl_cons, ih _ (hs.imp_right fun hl q hq => hl q (List.mem_cons_of_mem p hq))]
    exact (h t p).2 (hs.symm.imp_left fun hl => hl p List.mem_cons_self)

/-- Of results in order of issue that write a part, it takes the latest issued one's value. -/
theorem foldl_landStep_takes {l : List Pending} (hl : InOrder l) (t : Tile) (hown : ∀ d ∈ own, ¬meets d) {p : Pending} (hp : p ∈ l)
    (hm : meets p.dest) (hlast : ∀ q ∈ l, meets q.dest → q.order < p.order ∨ q = p) :
    get (l.foldl (landStep own) t) = val p.val := by
  induction l generalizing t with
  | nil => exact absurd hp List.not_mem_nil
  | cons q r ih =>
    obtain ⟨hq, hr⟩ := List.pairwise_cons.mp hl
    rw [List.foldl_cons]
    by_cases hmore : ∃ x ∈ r, meets x.dest
    · obtain ⟨x, hx, hxm⟩ := hmore
      have hpr : p ∈ r := by
        rcases List.mem_cons.mp hp with rfl | hpr
        · rcases hlast x (List.mem_cons_of_mem _ hx) hxm with hlt | rfl
          · exact absurd hlt (Nat.not_lt.mpr (hq x hx))
          · exact hx
        · exact hpr
      exact ih hr _ hpr (fun y hy => hlast y (List.mem_cons_of_mem q hy))
    · have hrest : ∀ x ∈ r, ¬meets x.dest := fun x hx hxm => hmore ⟨x, hx, hxm⟩
      rw [foldl_landStep_stays h r _ (.inr hrest)]
      rcases List.mem_cons.mp hp with rfl | hpr
      · exact (h t p).1 hm hown
      · exact absurd hm (hrest p hpr)

end

/-- The landing of a tile's due results, at a part of its register files. -/
theorem landedTile_part {α : Type} {t : Tile} {get : Tile → α} {meets : Dest → Prop} {val : VReg → α}
    (h : LandsPart t.landed get meets val) :
    let due := t.pend.filter (fun p => p.due == t.abs)
    ((∃ d ∈ t.landed, meets d) ∨ (∀ p ∈ due, ¬meets p.dest) → get (landedTile t) = get t)
      ∧ ((∀ d ∈ t.landed, ¬meets d) →
          ∀ p, p ∈ due ∧ meets p.dest ∧ (∀ q ∈ due, meets q.dest → q.order < p.order ∨ q = p) → get (landedTile t) = val p.val) := by
  intro due
  have hmem : ∀ p, p ∈ dueRes t ↔ p ∈ due := fun p => (sortRes_perm due).mem_iff
  refine ⟨fun hs => foldl_landStep_stays h _ t (hs.imp_right fun hn p hp => hn p ((hmem p).mp hp)), fun hown p hp => ?_⟩
  obtain ⟨hdue, hm, hlast⟩ := hp
  exact foldl_landStep_takes h (sortRes_inOrder due) t hown ((hmem p).mpr hdue) hm (fun q hq => hlast q ((hmem q).mp hq))

/-! ### Reads of a register file after a write to another -/

theorem rx_wg (t : Tile) (d : BitVec 3) (bits v : X) (r : BitVec 5) : rx (wg t d bits v) r = rx t r := by
  unfold wg
  split <;> rfl
theorem rx_wv (t : Tile) (d : BitVec 5) (lanes : X) (v : VReg) (r : BitVec 5) : rx (wv t d lanes v) r = rx t r := rfl

theorem rg_wx (t : Tile) (d : BitVec 5) (v : X) (r : BitVec 3) : rg (wx t d v) r = rg t r := by
  rw [wx_eq]
  unfold wx
  split <;> rfl
theorem rg_wv (t : Tile) (d : BitVec 5) (lanes : X) (v : VReg) (r : BitVec 3) : rg (wv t d lanes v) r = rg t r := rfl

theorem rb_wx (t : Tile) (d : BitVec 5) (v : X) (r : BitVec 2) : rb (wx t d v) r = rb t r := by
  unfold wx
  split <;> rfl
theorem rb_wg (t : Tile) (d : BitVec 3) (bits v : X) (r : BitVec 2) : rb (wg t d bits v) r = rb t r := by
  unfold wg
  split <;> rfl
theorem rb_wv (t : Tile) (d : BitVec 5) (lanes : X) (v : VReg) (r : BitVec 2) : rb (wv t d lanes v) r = rb t r := rfl

theorem rv_wx (t : Tile) (d : BitVec 5) (v : X) (r : BitVec 5) : rv (wx t d v) r = rv t r := by
  unfold wx
  split <;> rfl
theorem rv_wg (t : Tile) (d : BitVec 3) (bits v : X) (r : BitVec 5) : rv (wg t d bits v) r = rv t r := by
  unfold wg
  split <;> rfl

/-! ### Writes of some bits of a guard and of some lanes -/

/-- A bit of a guard whose named bits are written. -/
theorem rg_wg_bit (t : Tile) (d r : BitVec 3) (bits v : X) (hr : r ≠ 0) {i : Nat} (hi : i < 64) :
    (rg (wg t d bits v) r).getLsbD i = if r = d ∧ bits.getLsbD i = true then v.getLsbD i else (rg t r).getLsbD i := by
  rw [rg_wg, if_neg hr]
  by_cases hd : r = d
  · subst hd
    rw [if_pos rfl, BitVec.getLsbD_or, BitVec.getLsbD_and, BitVec.getLsbD_and, BitVec.getLsbD_not, decide_eq_true hi]
    cases BitVec.getLsbD bits i <;> simp
  · simp [hd]

/-- A lane of a register whose named lanes are written. -/
theorem rv_wv_lane (t : Tile) (d r : BitVec 5) (lanes : X) (v : VReg) {i : Nat} (hi : i < 64) :
    lane (rv (wv t d lanes v) r) i = if r = d ∧ lanes.getLsbD i = true then lane v i else lane (rv t r) i := by
  by_cases hd : r = d
  · subst hd
    have hw : rv (wv t r lanes v) r = mergeLanes lanes (rv t r) v := Vector.getElem_set_self _
    rw [hw, mergeLanes, lane_ofLanes _ _ hi]
    simp
  · have hw : rv (wv t d lanes v) r = rv t r := Vector.getElem_set_ne d.isLt r.isLt (toNat_ne hd)
    simp [hw, hd]

/-! ### What a landing writes, by the kind of its destination -/

/-- Of a guard's bits or a register's lanes, those that the cycle's own instruction has not written. -/
def bitsUnder (own : List X) (bits : X) : X := own.foldl (fun m l => m &&& ~~~l) bits

theorem bitsUnder_bit (own : List X) (bits : X) {i : Nat} (hi : i < 64) :
    (bitsUnder own bits).getLsbD i = true ↔ bits.getLsbD i = true ∧ ∀ l ∈ own, l.getLsbD i = false := by
  induction own generalizing bits with
  | nil => simp [bitsUnder]
  | cons l r ih =>
    have hstep : bitsUnder (l :: r) bits = bitsUnder r (bits &&& ~~~l) := rfl
    rw [hstep, ih, List.forall_mem_cons]
    simp [hi, and_assoc]

/-- The bits of a guard that a list of writes names. -/
def guardBits (q : BitVec 3) (own : List Dest) : List X :=
  own.filterMap (fun d => match d with | .g r l => if r = q then some l else none | _ => none)

/-- The lanes of a register that a list of writes names. -/
def vectorLanes (q : BitVec 5) (own : List Dest) : List X :=
  own.filterMap (fun d => match d with | .v r l => if r = q then some l else none | _ => none)

theorem mem_guardBits (q : BitVec 3) (own : List Dest) (l : X) : l ∈ guardBits q own ↔ .g q l ∈ own := by
  simp only [guardBits, List.mem_filterMap]
  constructor
  · rintro ⟨d, hd, h⟩
    cases d <;> simp_all
  · exact fun h => ⟨_, h, by simp⟩

theorem mem_vectorLanes (q : BitVec 5) (own : List Dest) (l : X) : l ∈ vectorLanes q own ↔ .v q l ∈ own := by
  simp only [vectorLanes, List.mem_filterMap]
  constructor
  · rintro ⟨d, hd, h⟩
    cases d <;> simp_all
  · exact fun h => ⟨_, h, by simp⟩

section
variable {own : List Dest} {t : Tile} {p : Pending}

theorem landStep_x {q : BitVec 5} (h : p.dest = .x q) :
    landStep own t p = if .x q ∈ own then t else wx t q (p.val.extractLsb' 0 64) := by
  unfold landStep
  rw [h]
  by_cases hq : Dest.x q ∈ own <;> simp [underLanded, hq, wdest]

theorem landStep_b {q : BitVec 2} (h : p.dest = .b q) :
    landStep own t p = if .b q ∈ own then t else wb t q (p.val.extractLsb' 0 64) := by
  unfold landStep
  rw [h]
  by_cases hq : Dest.b q ∈ own <;> simp [underLanded, hq, wdest]

theorem landStep_g {q : BitVec 3} {bits : X} (h : p.dest = .g q bits) :
    landStep own t p = wg t q (bitsUnder (guardBits q own) bits) (p.val.extractLsb' 0 64) := by
  have hbits : own.foldl (fun m e => match e with | .g r l => if r = q then m &&& ~~~l else m | _ => m) bits
      = bitsUnder (guardBits q own) bits := by
    rw [bitsUnder, guardBits, List.foldl_filterMap]
    congr 1
    funext m d
    cases d with
    | g r l =>
      dsimp only
      split <;> rfl
    | _ => rfl
  unfold landStep
  rw [h, ← hbits]
  rfl

theorem landStep_v {q : BitVec 5} {lanes : X} (h : p.dest = .v q lanes) :
    landStep own t p = wv t q (bitsUnder (vectorLanes q own) lanes) p.val := by
  have hbits : own.foldl (fun m e => match e with | .v r l => if r = q then m &&& ~~~l else m | _ => m) lanes
      = bitsUnder (vectorLanes q own) lanes := by
    rw [bitsUnder, vectorLanes, List.foldl_filterMap]
    congr 1
    funext m d
    cases d with
    | v r l =>
      dsimp only
      split <;> rfl
    | _ => rfl
  unfold landStep
  rw [h, ← hbits]
  rfl

end

/-! ### Every part of the register files is landed -/

theorem landsPart_x (own : List Dest) {r : BitVec 5} (hr : r ≠ 0) :
    LandsPart own (fun t => rx t r) (fun d => d = .x r) (fun v => v.extractLsb' 0 64) := by
  intro t p
  cases hd : p.dest with
  | x q =>
    simp only [landStep_x hd, Dest.x.injEq]
    refine ⟨fun hm hown => ?_, fun hs => ?_⟩
    · rw [if_neg (fun h => hown _ h (by rw [hm])), rx_wx, if_neg hr, if_pos hm.symm]
    · split
      · rfl
      · rename_i hq
        have hne : r ≠ q := by
          rintro rfl
          rcases hs with hs | ⟨d, hd, rfl⟩
          · exact hs rfl
          · exact hq hd
        rw [rx_wx, if_neg hr, if_neg hne]
  | g q bits => exact ⟨fun hm => (nomatch hm), fun _ => by simp only [landStep_g hd, rx_wg]⟩
  | b q =>
    refine ⟨fun hm => (nomatch hm), fun _ => ?_⟩
    simp only [landStep_b hd]
    split <;> rfl
  | v q lanes => exact ⟨fun hm => (nomatch hm), fun _ => by simp only [landStep_v hd, rx_wv]⟩

theorem landsPart_b (own : List Dest) (r : BitVec 2) :
    LandsPart own (fun t => rb t r) (fun d => d = .b r) (fun v => v.extractLsb' 0 64) := by
  intro t p
  cases hd : p.dest with
  | b q =>
    simp only [landStep_b hd, Dest.b.injEq]
    refine ⟨fun hm hown => ?_, fun hs => ?_⟩
    · rw [if_neg (fun h => hown _ h (by rw [hm])), rb_wb, if_pos hm.symm]
    · split
      · rfl
      · rename_i hq
        have hne : r ≠ q := by
          rintro rfl
          rcases hs with hs | ⟨d, hd, rfl⟩
          · exact hs rfl
          · exact hq hd
        rw [rb_wb, if_neg hne]
  | x q =>
    refine ⟨fun hm => (nomatch hm), fun _ => ?_⟩
    simp only [landStep_x hd]
    split
    · rfl
    · exact rb_wx ..
  | g q bits => exact ⟨fun hm => (nomatch hm), fun _ => by simp only [landStep_g hd, rb_wg]⟩
  | v q lanes => exact ⟨fun hm => (nomatch hm), fun _ => by simp only [landStep_v hd, rb_wv]⟩

theorem landsPart_g (own : List Dest) {r : BitVec 3} (hr : r ≠ 0) {i : Nat} (hi : i < 64) :
    LandsPart own (fun t => (rg t r).getLsbD i) (fun d => ∃ bits : X, d = .g r bits ∧ bits.getLsbD i = true)
      (fun v => v.getLsbD i) := by
  intro t p
  cases hd : p.dest with
  | g q bits =>
    have hfree : (bitsUnder (guardBits q own) bits).getLsbD i = true
        ↔ bits.getLsbD i = true ∧ ∀ l, .g q l ∈ own → l.getLsbD i = false := by
      rw [bitsUnder_bit _ _ hi]
      simp only [mem_guardBits]
    simp only [landStep_g hd, rg_wg_bit t q r _ _ hr hi, hfree]
    refine ⟨?_, fun hs => if_neg ?_⟩
    · rintro ⟨l, hl, hb⟩ hown
      obtain ⟨rfl, rfl⟩ := Dest.g.inj hl
      rw [if_pos ⟨rfl, hb, fun l hl => Bool.eq_false_iff.mpr fun h => hown _ hl ⟨l, rfl, h⟩⟩]
      simp [hi]
    · rintro ⟨rfl, hb, hown⟩
      rcases hs with hs | ⟨d, hd, l, rfl, hl⟩
      · exact hs ⟨bits, rfl, hb⟩
      · rw [hown l hd] at hl
        exact absurd hl Bool.false_ne_true
  | x q =>
    refine ⟨fun ⟨_, hm, _⟩ => (nomatch hm), fun _ => ?_⟩
    simp only [landStep_x hd]
    split
    · rfl
    · rw [rg_wx]
  | b q =>
    refine ⟨fun ⟨_, hm, _⟩ => (nomatch hm), fun _ => ?_⟩
    simp only [landStep_b hd]
    split <;> rfl
  | v q lanes => exact ⟨fun ⟨_, hm, _⟩ => (nomatch hm), fun _ => by simp only [landStep_v hd, rg_wv]⟩

theorem landsPart_v (own : List Dest) (r : BitVec 5) {i : Nat} (hi : i < 64) :
    LandsPart own (fun t => lane (rv t r) i) (fun d => ∃ lanes : X, d = .v r lanes ∧ lanes.getLsbD i = true) (fun v => lane v i) := by
  intro t p
  cases hd : p.dest with
  | v q lanes =>
    have hfree : (bitsUnder (vectorLanes q own) lanes).getLsbD i = true
        ↔ lanes.getLsbD i = true ∧ ∀ l, .v q l ∈ own → l.getLsbD i = false := by
      rw [bitsUnder_bit _ _ hi]
      simp only [mem_vectorLanes]
    simp only [landStep_v hd, rv_wv_lane t q r _ _ hi, hfree]
    refine ⟨?_, fun hs => if_neg ?_⟩
    · rintro ⟨l, hl, hb⟩ hown
      obtain ⟨rfl, rfl⟩ := Dest.v.inj hl
      exact if_pos ⟨rfl, hb, fun l hl => Bool.eq_false_iff.mpr fun h => hown _ hl ⟨l, rfl, h⟩⟩
    · rintro ⟨rfl, hb, hown⟩
      rcases hs with hs | ⟨d, hd, l, rfl, hl⟩
      · exact hs ⟨lanes, rfl, hb⟩
      · rw [hown l hd] at hl
        exact absurd hl Bool.false_ne_true
  | x q =>
    refine ⟨fun ⟨_, hm, _⟩ => (nomatch hm), fun _ => ?_⟩
    simp only [landStep_x hd]
    split
    · rfl
    · rw [rv_wx]
  | g q bits => exact ⟨fun ⟨_, hm, _⟩ => (nomatch hm), fun _ => by simp only [landStep_g hd, rv_wg]⟩
  | b q =>
    refine ⟨fun ⟨_, hm, _⟩ => (nomatch hm), fun _ => ?_⟩
    simp only [landStep_b hd]
    split <;> rfl

/-! ### COLLIDE (04:R75) -/

/-- The registers met beyond the first result of each: what is left of a list's length without its repetitions. -/
theorem sum_count_sub_one (N : Nat) (l : List Nat) (h : ∀ x ∈ l, x < N) :
    ((List.range N).map (fun k => l.count k - 1)).sum = l.length - l.eraseDups.length := by
  match l with
  | [] => simp
  | a :: r =>
    have hlen : (r.filter (fun b => !b == a)).length < r.length + 1 := Nat.lt_succ_of_le (List.length_filter_le ..)
    have ih := sum_count_sub_one N (r.filter (fun b => !b == a)) (fun x hx => h x (List.mem_cons_of_mem a (List.mem_filter.mp hx).1))
    have hle := length_eraseDups_le (r.filter (fun b => !b == a))
    have hsplit : r.length = r.count a + (r.filter (fun b => !b == a)).length := by
      rw [List.length_eq_countP_add_countP (fun b => b == a), ← List.countP_eq_length_filter, List.count]
      exact congrArg _ (List.countP_congr (by simp))
    have hpoint : ∀ k, (a :: r).count k - 1 = ((r.filter (fun b => !b == a)).count k - 1) + if k = a then r.count a else 0 := by
      intro k
      by_cases hk : k = a
      · subst hk
        have hnone : (r.filter (fun b => !b == k)).count k = 0 := List.count_eq_zero.mpr (by simp)
        simp [hnone]
      · rw [List.count_cons_of_ne (Ne.symm hk), List.count_filter (by simpa using hk), if_neg hk, Nat.add_zero]
    have hone : ((List.range N).map (fun k => if k = a then r.count a else 0)).sum = r.count a := by
      rw [← List.sum_toFinset _ List.nodup_range, List.toFinset_range, Finset.sum_ite_eq',
        if_pos (Finset.mem_range.mpr (h a List.mem_cons_self))]
    simp only [hpoint]
    rw [List.sum_map_add, ih, hone, List.eraseDups_cons, List.length_cons, List.length_cons]
    omega
termination_by l.length

theorem destKey_lt {d : Dest} {k : Nat} (h : destKey d = some k) : k < 96 := by
  cases d with
  | x r =>
    have := r.isLt
    simp only [destKey, Option.ite_none_left_eq_some, Option.some.injEq] at h
    omega
  | g r bits =>
    have := r.isLt
    simp only [destKey, Option.ite_none_left_eq_some, Option.some.injEq] at h
    omega
  | b r =>
    have := r.isLt
    simp only [destKey, Option.some.injEq] at h
    omega
  | v r lanes =>
    have := r.isLt
    simp only [destKey, Option.some.injEq] at h
    omega

/-- The results that met, counted register by register in any order. -/
theorem collide_met {l m : List Dest} (h : l.Perm m) :
    (l.filterMap destKey).length - (l.filterMap destKey).eraseDups.length
      = ((List.range 96).map (fun k => m.countP (fun d => destKey d == some k) - 1)).sum := by
  rw [← sum_count_sub_one 96 (l.filterMap destKey) (fun x hx => ?_)]
  · congr 2
    funext k
    rw [List.count_filterMap, h.countP_eq]
  · obtain ⟨d, -, hd⟩ := List.mem_filterMap.mp hx
    exact destKey_lt hd

/-! ### The statement -/

/-- Registers, results in flight and COLLIDE are what a landing changes. -/
theorem landResults_eq (t : Tile) : landResults t = { landedTile t with
    pend := t.pend.filter (fun p => p.due != t.abs), landed := t.landed ++ (dueRes t).map (fun p => p.dest)
    collide := t.collide + BitVec.ofNat 64 ((((dueRes t).map (fun p => p.dest) ++ t.landed).filterMap destKey).length
      - (((dueRes t).map (fun p => p.dest) ++ t.landed).filterMap destKey).eraseDups.length) } := rfl

/-- Settles O27: each part of the register files takes the latest due result that writes it, by `landedTile_part`. -/
theorem resultsLandInIssueOrder : Obligations.ResultsLandInIssueOrder := by
  intro s due latest register own met lands
  have hregister : register = destKey := funext fun d => by cases d <;> rfl
  have hperm : ((dueRes s.tl).map (fun p => p.dest) ++ own).Perm (own ++ due.map (fun p => p.dest)) :=
    List.perm_append_comm.trans (((sortRes_perm due).map _).append_left own)
  have hmem : (landResults s.tl).mem = s.tl.mem := by
    rw [landResults_eq, landedTile, foldl_landStep_frame]
  obtain ⟨hbytes, honly⟩ := runs_frame s landResults hmem
  refine ⟨s.onTl landResults, rfl, honly, hbytes, ?_⟩
  rw [tl_onTl]
  refine ⟨rfl, ?_, rfl, rfl, fun r hr => landedTile_part (landsPart_x own hr), fun r => landedTile_part (landsPart_b own r),
    fun r i hr hi => landedTile_part (landsPart_g own hr hi), fun r i hi => landedTile_part (landsPart_v own r hi)⟩
  simp only [met, hregister]
  rw [landResults_eq, ← collide_met hperm]

end Sys2Proof.Machine
end

section
/-! PROOFS. Results of the integer, MULDIV and guard instructions (05:R90-R95). -/

namespace Sys2Proof.Machine

/-! ### Values of the integer instructions (05:R90) -/

theorem ltBy_total {w : Nat} (signed : Bool) {a b : BitVec w} (h1 : ltBy signed a b = false) (h2 : ltBy signed b a = false) :
    a = b := by
  cases signed with
  | false =>
    simp only [ltBy, Bool.false_eq_true, if_false, BitVec.ult_eq_decide, decide_eq_false_iff_not] at h1 h2
    exact BitVec.eq_of_toNat_eq (by omega)
  | true =>
    simp only [ltBy, if_true, BitVec.slt_eq_decide, decide_eq_false_iff_not] at h1 h2
    exact BitVec.eq_of_toInt_eq (by omega)

theorem ltBy_asymm {w : Nat} (signed : Bool) {a b : BitVec w} (h : ltBy signed a b = true) : ltBy signed b a = false := by
  cases signed with
  | false =>
    simp only [ltBy, Bool.false_eq_true, if_false, BitVec.ult_eq_decide, decide_eq_true_eq] at h
    simp only [ltBy, Bool.false_eq_true, if_false, BitVec.ult_eq_decide, decide_eq_false_iff_not]
    omega
  | true =>
    simp only [ltBy, if_true, BitVec.slt_eq_decide, decide_eq_true_eq] at h
    simp only [ltBy, if_true, BitVec.slt_eq_decide, decide_eq_false_iff_not]
    omega

/-- The smaller of two values, whichever of them is asked about first. -/
theorem minBy_eq {w : Nat} (signed : Bool) (a b : BitVec w) : minBy signed a b = if ltBy signed a b then a else b := by
  unfold minBy
  cases hab : ltBy signed a b with
  | true => rw [ltBy_asymm signed hab, if_neg Bool.false_ne_true, if_pos rfl]
  | false =>
    cases hba : ltBy signed b a with
    | true => rw [if_pos rfl, if_neg Bool.false_ne_true]
    | false => rw [ltBy_total signed hab hba, ite_self]

/-- A rotation by an amount from 0 to 63 is two shifts. -/
theorem rotateLeft_shifts (x : X) {k : Nat} (hk : k < 64) : x.rotateLeft k = (x <<< k) ||| (x >>> ((64 - k) % 64)) := by
  rw [BitVec.rotateLeft_def, Nat.mod_eq_of_lt hk]
  rcases Nat.eq_zero_or_pos k with rfl | hpos
  · have hout : x >>> 64 = 0#64 := BitVec.ushiftRight_eq_zero (Nat.le_refl 64)
    simp [hout]
  · rw [Nat.mod_eq_of_lt (by omega : 64 - k < 64)]

/-- The zeros that CLZ counts, and the one below them. -/
theorem clzFrom_spec {w : Nat} (v : BitVec w) (n : Nat) : clzFrom v n ≤ n
    ∧ (∀ k, k < clzFrom v n → v.getLsbD (n - 1 - k) = false) ∧ (clzFrom v n < n → v.getLsbD (n - 1 - clzFrom v n) = true) := by
  induction n with
  | zero => exact ⟨Nat.le_refl 0, fun k hk => absurd hk (Nat.not_lt_zero k), fun h => absurd h (Nat.lt_irrefl 0)⟩
  | succ n ih =>
    obtain ⟨hle, hzeros, hone⟩ := ih
    rw [clzFrom]
    cases hb : v.getLsbD n with
    | true => exact ⟨Nat.zero_le _, fun k hk => absurd hk (Nat.not_lt_zero k), fun _ => hb⟩
    | false =>
      rw [if_neg Bool.false_ne_true]
      refine ⟨by omega, fun k hk => ?_, fun hlt => ?_⟩
      · rcases Nat.eq_zero_or_pos k with rfl | hpos
        · exact hb
        · rw [show n + 1 - 1 - k = n - 1 - (k - 1) by omega]
          exact hzeros (k - 1) (by omega)
      · rw [show n + 1 - 1 - (1 + clzFrom v n) = n - 1 - clzFrom v n by omega]
        exact hone (by omega)

/-- POPC counts the one bits. -/
theorem popFrom_eq_countP {w : Nat} (v : BitVec w) (n : Nat) : popFrom v n = (List.range n).countP (fun k => v.getLsbD k) := by
  induction n with
  | zero => rfl
  | succ n ih => rw [popFrom, ih, List.range_succ, List.countP_append, List.countP_singleton]

/-! ### The integer instructions -/

/-- Settles O6: every one of them is SALU's result, and its value is the statement's. -/
theorem aluResults : Obligations.AluResults := by
  intro s g d a b imm sh lit hq hu he x y
  have writes : ∀ v len, ∃ t, alu g d v len s = .next t ∧ WritesX s t d v := fun v len => alu_runs g d v len s hq hu he
  have writesEq : ∀ {v w : X} (len : Nat), v = w → ∃ t, alu g d v len s = .next t ∧ WritesX s t d w := fun len h => h ▸ writes _ len
  have hrol := rotateLeft_shifts x (Nat.mod_lt y.toNat (by decide : 0 < 64))
  have hseq : oneIf (x == y) = if x = y then 1 else 0 := by simp [oneIf]
  simp only [List.forall_mem_cons, List.not_mem_nil, false_implies, implies_true, and_true]
  exact ⟨writes _ 4, writes _ 4, writes _ 4, writes _ 4, writes _ 4, writes _ 4, writes _ 4, writes _ 4, writes _ 4, writesEq 4 hrol,
    writesEq 4 (minBy_eq true x y), writes _ 4, writesEq 4 (minBy_eq false x y), writes _ 4, writes _ 4, writes _ 4, writesEq 4 hseq,
    writes _ 4, writes _ 12, writes _ 4, writes _ 12, writes _ 4, writes _ 4, writes _ 4, writes _ 4⟩

/-- The guard that SEL's result is issued under always holds. -/
theorem enabled_always (t : Tile) : enabled t { neg := false, reg := 0 } = true := by simp [enabled, effGuard, rg]

/-- Settles O7: `clzFrom_spec` and `popFrom_eq_countP` say what is counted; SEL's result does not ask its guard. -/
theorem countAndSelectResults : Obligations.CountAndSelectResults := by
  intro s g d a b hq hu x
  refine ⟨fun he => ⟨?_, ?_⟩, alu_runs ⟨false, 0⟩ d _ 4 s hq hu (enabled_always _)⟩
  · obtain ⟨hle, hzeros, hone⟩ := clzFrom_spec x 64
    exact ⟨clzFrom x 64, alu_runs g d _ 4 s hq hu he, hle, hzeros, hone⟩
  · rw [← popFrom_eq_countP]
    exact alu_runs g d _ 4 s hq hu he

end Sys2Proof.Machine
end

section
/-! PROOFS. MULDIV and the guard instructions, their results and their words (05:R93-R95). -/

namespace Sys2Proof.Machine

/-! ### Values of MULDIV (05:R93) -/

/-- The signed product of two words, in 128 bits. -/
theorem signedProduct (x y : X) : x.signExtend 128 * y.signExtend 128 = BitVec.ofInt 128 (x.toInt * y.toInt) := by
  rw [BitVec.ofInt_mul, ← BitVec.toInt_signExtend_of_le (x := x) (by decide : 64 ≤ 128),
    ← BitVec.toInt_signExtend_of_le (x := y) (by decide : 64 ≤ 128), BitVec.ofInt_toInt, BitVec.ofInt_toInt]

theorem mul_low (x y : X) : x * y = (x.signExtend 128 * y.signExtend 128).extractLsb' 0 64 := by
  have hxy : x * y = BitVec.ofInt 64 (x.toInt * y.toInt) := by rw [BitVec.ofInt_mul, BitVec.ofInt_toInt, BitVec.ofInt_toInt]
  rw [signedProduct, hxy]
  generalize x.toInt * y.toInt = z
  apply BitVec.eq_of_toNat_eq
  rw [BitVec.extractLsb'_toNat, BitVec.toNat_ofInt, BitVec.toNat_ofInt, Nat.shiftRight_zero]
  omega

theorem mulHiS_eq (x y : X) : mulHiS x y = (x.signExtend 128 * y.signExtend 128).extractLsb' 64 64 := by
  rw [signedProduct, mulHiS]
  generalize x.toInt * y.toInt = z
  apply BitVec.eq_of_toNat_eq
  rw [BitVec.extractLsb'_toNat, BitVec.toNat_ofInt, BitVec.toNat_ofInt, Nat.shiftRight_eq_div_pow]
  omega

theorem mulHiU_eq (x y : X) : mulHiU x y = (x.setWidth 128 * y.setWidth 128).extractLsb' 64 64 := by
  have hx : x.toNat < 2 ^ 64 := x.isLt
  have hy : y.toNat < 2 ^ 64 := y.isLt
  have hprod : x.toNat * y.toNat < 2 ^ 128 := by
    calc x.toNat * y.toNat < 2 ^ 64 * 2 ^ 64 := Nat.mul_lt_mul'' hx hy
      _ = 2 ^ 128 := by norm_num
  apply BitVec.eq_of_toNat_eq
  rw [mulHiU, BitVec.toNat_ofNat, BitVec.extractLsb'_toNat, Nat.shiftRight_eq_div_pow, BitVec.toNat_mul, BitVec.toNat_setWidth,
    BitVec.toNat_setWidth, Nat.mod_eq_of_lt (by omega : x.toNat < 2 ^ 128), Nat.mod_eq_of_lt (by omega : y.toNat < 2 ^ 128),
    Nat.mod_eq_of_lt hprod]

theorem divS_eq (x y : X) : divS x y = if y = 0 then -1 else x.sdiv y := by
  unfold divS
  split
  · rfl
  · apply BitVec.eq_of_toInt_eq
    rw [BitVec.toInt_ofInt, BitVec.toInt_sdiv]

theorem divU_eq (x y : X) : divU x y = if y = 0 then -1 else x / y := by
  unfold divU
  split
  · rfl
  · rw [← BitVec.toNat_udiv, BitVec.ofNat_toNat, BitVec.setWidth_eq]

theorem remS_eq (x y : X) : remS x y = if y = 0 then x else x - y * x.sdiv y := by
  unfold remS
  split
  · rfl
  · rename_i hy
    have hdiv : BitVec.ofInt 64 (x.toInt.tdiv y.toInt) = x.sdiv y := by
      have h := divS_eq x y
      rwa [divS, if_neg hy, if_neg hy] at h
    rw [Int.tmod_def, Int.sub_eq_add_neg, BitVec.ofInt_add, BitVec.ofInt_neg, BitVec.ofInt_mul, hdiv, BitVec.ofInt_toInt,
      BitVec.ofInt_toInt, BitVec.sub_eq_add_neg]

theorem remU_eq (x y : X) : remU x y = if y = 0 then x else x - y * (x / y) := by
  unfold remU
  split
  · rfl
  · have hsplit : x.toNat % y.toNat + y.toNat * (x.toNat / y.toNat) = x.toNat := Nat.mod_add_div ..
    have hsum := congrArg (BitVec.ofNat 64) hsplit
    rw [BitVec.ofNat_add, BitVec.ofNat_mul, ← BitVec.toNat_udiv] at hsum
    simp only [BitVec.ofNat_toNat, BitVec.setWidth_eq] at hsum
    rw [eq_sub_iff_add_eq, hsum]

/-! ### MULDIV -/

/-- What MULDIV says of the issue of one of its operations, of its latency, occupancy and result. -/
theorem muldiv_free_or_held (s : State) (g : Guard) (d : BitVec 5) (l occ : Nat) {v w : X} (hq : quiet s = true) (h : v = w) :
    (unitFree s 1 = true → ∃ t, muldiv g d l occ v s = .next t ∧ tget 0 t.tl.units 1 = s.tl.abs + occ
        ∧ IfEnabled s g (fun u => Sends s u l 1 (.x d) (val64 w)) (fun u => WritesNothing s u) t)
      ∧ (unitFree s 1 = false → ∃ t, muldiv g d l occ v s = .next t ∧ Slips s t 0x16 1) :=
  h ▸ ⟨muldiv_answers g d l occ v s hq, muldiv_held g d l occ v s hq⟩

/-! ### Words of the register layout with LEN 00 and with none that the major permits (02:R37, R46) -/

theorem split_regWord (maj : BitVec 6) (len : BitVec 2) (fn : BitVec 5) (g : Guard) (d a b : BitVec 5) :
    First.split (regWord maj len fn g d a b) = { hi := fn ++ b, a := a, d := d, g := g, maj := maj, len := len } :=
  split_encReg ..

/-- A word alone, of LEN 00. -/
theorem decodeWords_single (lvl : Bool) (w : W32) (h : (First.split w).len = 0) :
    decodeWords lvl [w] = verdict lvl (candidate w 0 0 0 0) := by
  simp [decodeWords, h, lenWords]

/-- Words that make nothing are no instruction, cut short or not. -/
theorem decodeWords_unassigned (lvl : Bool) (w : W32) (ws : List W32) (h : ∀ w1 w2 w3 w4, candidate w w1 w2 w3 w4 = none) :
    decodeWords lvl (w :: ws) = unassigned := by
  simp only [decodeWords, h, verdict, ite_self]
  rfl

/-- A word of which only the first's zero fields are checked. -/
theorem verdict_plain (lvl z : Bool) (i : Instr) : verdict lvl (plain z i) = if z = false then .ok i else reservedIn 0 := by
  cases z <;> rfl

/-- The three values of LEN beside 00. -/
theorem len_of_ne_zero : ∀ len : BitVec 2, len ≠ 0 → len = 1 ∨ len = 2 ∨ len = 3 := by decide

/-- A guard field names a guard where its upper two bits are zero (02:R39). -/
theorem g3bad_eq_false_iff : ∀ r : BitVec 5, g3bad r = false ↔ r.toNat < 8 := by decide

section
variable (lvl : Bool) (len : BitVec 2) (fn : BitVec 5) (g : Guard) (d a b : BitVec 5) (w1 w2 w3 w4 : W32)

theorem decodeWords_mul : decodeWords lvl [regWord 4#6 0#2 fn g d a b]
    = verdict lvl (decMul { hi := fn ++ b, a := a, d := d, g := g, maj := 0x04, len := 0 }) := by
  rw [decodeWords_single _ _ (by rw [split_regWord]; rfl)]
  simp [candidate, split_regWord]

theorem decodeWords_gcmp : decodeWords lvl [regWord 5#6 0#2 fn g d a b]
    = verdict lvl (decGcmp { hi := fn ++ b, a := a, d := d, g := g, maj := 0x05, len := 0 }) := by
  rw [decodeWords_single _ _ (by rw [split_regWord]; rfl)]
  simp [candidate, split_regWord]

theorem decodeWords_glog : decodeWords lvl [regWord 6#6 0#2 fn g d a b]
    = verdict lvl (decGlog { hi := fn ++ b, a := a, d := d, g := g, maj := 0x06, len := 0 } 0) := by
  rw [decodeWords_single _ _ (by rw [split_regWord]; rfl)]
  simp [candidate, split_regWord]

/-- GSETI's words: the first and the literal. -/
theorem decodeWords_gseti : decodeWords lvl [regWord 6#6 1#2 5#5 g d a b, w1, w2]
    = verdict lvl (plain (g3bad d || a != 0 || b != 0) (.gseti g (g3 d) (w2 ++ w1))) := by
  simp [decodeWords, candidate, split_regWord, decGlog, lenWords]

theorem decMul_none {f : First} (h : 7 ≤ f.fn.toNat) : decMul f = none := by
  unfold decMul
  split
  case h_8 => rfl
  all_goals omega

theorem decGcmp_none {f : First} (h : 6 ≤ f.fn.toNat) : decGcmp f = none := by
  unfold decGcmp
  split
  case h_7 => rfl
  all_goals omega

theorem decGlog_none {f : First} {lit : X} (h0 : f.len.toNat = 0 → 5 ≤ f.fn.toNat) (h1 : f.len.toNat = 1 → f.fn.toNat ≠ 5) :
    decGlog f lit = none := by
  unfold decGlog
  split
  case h_7 => rfl
  all_goals omega

/-- MULDIV has no other LEN, and no function from 7 on. -/
theorem candidate_mul_none (h : len ≠ 0 ∨ 7 ≤ fn.toNat) : candidate (regWord 0x04 len fn g d a b) w1 w2 w3 w4 = none := by
  rcases eq_or_ne len 0 with rfl | hlen
  · have hnone := decMul_none (f := ⟨fn ++ b, a, d, g, 0x04, 0⟩) (by rw [fn_reg]; exact h.resolve_left (fun h => h rfl))
    simpa [candidate, split_regWord] using hnone
  · rcases len_of_ne_zero len hlen with rfl | rfl | rfl <;> simp [candidate, split_regWord]

/-- GCMP has no other LEN, and no function from 6 on. -/
theorem candidate_gcmp_none (h : len ≠ 0 ∨ 6 ≤ fn.toNat) : candidate (regWord 0x05 len fn g d a b) w1 w2 w3 w4 = none := by
  rcases eq_or_ne len 0 with rfl | hlen
  · have hnone := decGcmp_none (f := ⟨fn ++ b, a, d, g, 0x05, 0⟩) (by rw [fn_reg]; exact h.resolve_left (fun h => h rfl))
    simpa [candidate, split_regWord] using hnone
  · rcases len_of_ne_zero len hlen with rfl | rfl | rfl <;> simp [candidate, split_regWord]

/-- GLOG has functions 0 to 4 with LEN 00, and GSETI's with LEN 01. -/
theorem candidate_glog_none (h0 : len ≠ 0 ∨ 5 ≤ fn.toNat) (h1 : len ≠ 1 ∨ fn ≠ 5) :
    candidate (regWord 0x06 len fn g d a b) w1 w2 w3 w4 = none := by
  have hnone := fun lit => decGlog_none (f := ⟨fn ++ b, a, d, g, 0x06, len⟩) (lit := lit)
    (fun hl => by simpa using h0.resolve_left (fun h => h (BitVec.eq_of_toNat_eq hl)))
    (fun hl hf => h1.elim (fun h => h (BitVec.eq_of_toNat_eq hl)) (fun h => h (BitVec.eq_of_toNat_eq (by simpa using hf))))
  rcases eq_or_ne len 0 with rfl | hlen
  · simpa [candidate, split_regWord] using hnone 0
  · rcases len_of_ne_zero len hlen with rfl | rfl | rfl
    · simpa [candidate, split_regWord] using hnone (w2 ++ w1)
    · simp [candidate, split_regWord]
    · simp [candidate, split_regWord]

end

/-! ### The statements -/

/-- Settles O8: `muldiv_free_or_held` for the issue, the values of the products and quotients, and the words that `decMul` reads. -/
theorem mulDivResults : Obligations.MulDivResults := by
  constructor
  · intro s g d a b hq x y
    simp only [List.forall_mem_cons, List.not_mem_nil, false_implies, implies_true, and_true]
    exact ⟨muldiv_free_or_held s g d 3 1 hq (mul_low x y), muldiv_free_or_held s g d 3 1 hq (mulHiS_eq x y),
      muldiv_free_or_held s g d 3 1 hq (mulHiU_eq x y), muldiv_free_or_held s g d 20 4 hq (divS_eq x y),
      muldiv_free_or_held s g d 20 4 hq (divU_eq x y), muldiv_free_or_held s g d 20 4 hq (remS_eq x y),
      muldiv_free_or_held s g d 20 4 hq (remU_eq x y)⟩
  · intro lvl g d a b
    refine ⟨?_, fun fn hfn => ?_, fun len fn ws hlen => ?_⟩
    · simp [decodeWords_mul, decMul, verdict_plain]
    · exact decodeWords_unassigned lvl _ [] fun w1 w2 w3 w4 => candidate_mul_none 0 fn g d a b w1 w2 w3 w4 (.inr hfn)
    · exact decodeWords_unassigned lvl _ ws fun w1 w2 w3 w4 => candidate_mul_none len fn g d a b w1 w2 w3 w4 (.inl hlen)

/-- a ≤ b is what GLE and GLEN ask by b < a. -/
theorem not_ltBy_true (x y : X) : (!ltBy true y x) = x.sle y := by
  rw [BitVec.sle_eq_not_slt]
  rfl

theorem not_ltBy_false (x y : X) : (!ltBy false y x) = x.ule y := by
  rw [BitVec.ule_eq_not_ult]
  rfl

/-- Settles O9: `guardWrite_answers` for the issue, the relations, and the words that `decGcmp` and `decGlog` read. -/
theorem guardResults : Obligations.GuardResults := by
  constructor
  · intro s g d p q a b lit hq hu x y all
    have answers := fun v len => guardWrite_answers g d v len s hq hu
    have relation : ∀ {r q : Bool}, r = q → ∃ t, guardWrite g d (guardOf r) 4 s = .next t ∧ tget 0 t.tl.units 0 = s.tl.abs + 1
        ∧ IfEnabled s g (fun u => WritesG s u d (all q)) (fun u => WritesNothing s u) t := fun h => h ▸ answers _ 4
    simp only [List.forall_mem_cons, List.not_mem_nil, false_implies, implies_true, and_true]
    exact ⟨relation rfl, relation rfl, relation rfl, relation (not_ltBy_true x y), relation rfl, relation (not_ltBy_false x y),
      answers _ 4, answers _ 4, answers _ 4, answers _ 4, answers _ 4, answers _ 12⟩
  · intro lvl g d a b low
    have hlow : low = g3 := rfl
    refine ⟨?_, fun fn hfn => ?_, fun len fn ws hlen => ?_, ?_, ?_, fun w1 w2 => ?_, fun len fn ws h0 h1 => ?_⟩
    · simp [decodeWords_gcmp, decGcmp, verdict_plain, g3bad_eq_false_iff, hlow]
    · exact decodeWords_unassigned lvl _ [] fun w1 w2 w3 w4 => candidate_gcmp_none 0 fn g d a b w1 w2 w3 w4 (.inr hfn)
    · exact decodeWords_unassigned lvl _ ws fun w1 w2 w3 w4 => candidate_gcmp_none len fn g d a b w1 w2 w3 w4 (.inl hlen)
    · simp [decodeWords_glog, decGlog, verdict_plain, g3bad_eq_false_iff, hlow, and_assoc]
    · simp [decodeWords_glog, decGlog, verdict_plain, g3bad_eq_false_iff, hlow, and_assoc]
    · refine (decodeWords_gseti lvl g d a b w1 w2).trans ?_
      simp [verdict_plain, g3bad_eq_false_iff, hlow, and_assoc]
    · exact decodeWords_unassigned lvl _ ws fun w1 w2 w3 w4 => candidate_glog_none len fn g d a b w1 w2 w3 w4 h0 h1

end Sys2Proof.Machine
end

section
/-! PROOFS. Scratchpad loads, stores and ATOM: the banks that they use, and what a use moves (05:R96-R100, 06:R119). -/

namespace Sys2Proof.Machine

/-! ### The bank of an address, and an address that is not permitted (04:R85, 05:R96) -/

theorem bankBit_bankOf (a : X) : bankBit (bankOf a.toNat) = bankSet a := by
  unfold bankOf bankSet
  split <;> rw [bankBit, Nat.mod_eq_of_lt (by omega)]

/-- An access whose address its plan finds not permitted slips at a quiet slot. -/
theorem access_slips {s : State} {a : X} {n : Nat} (hq : quiet s = true) (ha : ¬PermitsAddr a n) (unit occ len : Nat)
    (eff : State → State) :
    ∃ t, issue { unit := some unit, occ := occ, c17 := checkAddr a n } len eff s = .next t ∧ Slips s t 0x17 a :=
  issue_slips _ len eff s _ _ (slotCause_c17 _ s a hq rfl rfl rfl rfl (fun h => absurd h Bool.false_ne_true) rfl rfl (checkAddr_some a n ha))

/-- LD, whatever its address. -/
theorem loadAt_answers (g : Guard) (ty : MemTy) (d : BitVec 5) (a : X) (len : Nat) {s : State} (hq : quiet s = true)
    (hu : unitFree s 2 = true) :
    (PermitsAddr a (memSize ty) → ∃ t, loadAt g ty d a len s = .next t ∧ IfEnabled s g
        (fun t => Uses s t 2 [(1, bankSet a, .load d (memSize ty) (memSigned ty) a.toNat)] (accessed s.tl 1))
        (fun t => Uses s t 2 [(1, bankSet a, .idle)] s.tl) t)
      ∧ (¬PermitsAddr a (memSize ty) → ∃ t, loadAt g ty d a len s = .next t ∧ Slips s t 0x17 a) := by
  refine ⟨fun ha => ?_, fun ha => access_slips hq ha 2 1 len _⟩
  rw [← bankBit_bankOf]
  exact loadAt_runs g ty d a len s hq hu ha

/-- ST, whatever its address. -/
theorem storeAt_answers (g : Guard) (ty : MemTy) (d : BitVec 5) (a : X) (len : Nat) {s : State} (hq : quiet s = true)
    (hu : unitFree s 2 = true) :
    (PermitsAddr a (memSize ty) → ∃ t, storeAt g ty d a len s = .next t ∧ IfEnabled s g
        (fun t => Uses s t 2 [(1, bankSet a, .writes (cellsLE a.toNat (memSize ty) (rx s.tl d).toNat))] (accessed s.tl 1))
        (fun t => Uses s t 2 [(1, bankSet a, .idle)] s.tl) t)
      ∧ (¬PermitsAddr a (memSize ty) → ∃ t, storeAt g ty d a len s = .next t ∧ Slips s t 0x17 a) := by
  refine ⟨fun ha => ?_, fun ha => access_slips hq ha 2 1 len _⟩
  rw [← bankBit_bankOf]
  exact storeAt_runs g ty d a len s hq hu ha

/-- ATOM, whatever its address. -/
theorem atom_answers (op : RmwOp) (g : Guard) (ty : AtomTy) (d a b : BitVec 5) {s : State} (hq : quiet s = true)
    (hu : unitFree s 2 = true) :
    let at_ := rx s.tl a
    (PermitsAddr at_ (atomSize ty) → ∃ t, atom op g ty d a b s = .next t ∧ IfEnabled s g
        (fun t => Uses s t 2 [(1, bankSet at_, .atomRead d (atomSize ty) (atomSigned ty) op at_.toNat (rx s.tl b) (rx s.tl d)),
          (2, bankSet at_, .idle), (3, bankSet at_, .idle)] (accessed s.tl 3))
        (fun t => Uses s t 2 [(1, bankSet at_, .idle), (2, bankSet at_, .idle), (3, bankSet at_, .idle)] s.tl) t)
      ∧ (¬PermitsAddr at_ (atomSize ty) → ∃ t, atom op g ty d a b s = .next t ∧ Slips s t 0x17 at_) := by
  refine ⟨fun ha => ?_, fun ha => by unfold atom; exact access_slips hq ha 2 3 4 _⟩
  rw [← bankBit_bankOf]
  exact atom_runs op g ty d a b s hq hu ha

/-- Settles O11: `loadAt_answers` and `storeAt_answers`, at either form of the address. -/
theorem loadStoreUses : Obligations.LoadStoreUses := by
  intro s g ty d a imm lit hq hu n near far done
  simp only [List.forall_mem_cons, List.not_mem_nil, false_implies, implies_true, and_true]
  exact ⟨⟨loadAt_answers g ty d near 4 hq hu, loadAt_answers g ty d far 12 hq hu⟩,
    storeAt_answers g ty d near 4 hq hu, storeAt_answers g ty d far 12 hq hu⟩

/-- Settles O12: `atom_answers`, for every operation. -/
theorem atomReserves : Obligations.AtomReserves := by
  intro s g ty d a b hq hu n at_ done
  have answers := fun op => atom_answers op g ty d a b hq hu
  simp only [List.forall_mem_cons, List.not_mem_nil, false_implies, implies_true, and_true]
  exact ⟨answers _, answers _, answers _, answers _, answers _⟩

/-! ### Values read and written by a use (05:R97, R99) -/

/-- A number of at most 8 bytes, extended as its type says. -/
theorem extends_extend (signed : Bool) {n : Nat} (v : Nat) (hn : n ≤ 8) : Extends signed n v (extend signed n v) := by
  unfold Extends extend
  cases signed with
  | true =>
    rw [if_pos rfl, if_pos rfl, BitVec.toInt_signExtend_of_le (by omega), BitVec.toInt_ofNat']
  | false =>
    have hbytes : v % 2 ^ (8 * n) < 2 ^ (8 * n) := Nat.mod_lt _ (Nat.two_pow_pos _)
    have hword : 2 ^ (8 * n) ≤ 2 ^ 64 := Nat.pow_le_pow_right (by decide) (by omega)
    rw [if_neg Bool.false_ne_true, if_neg Bool.false_ne_true, BitVec.toNat_ofNat]
    exact Nat.mod_eq_of_lt (Nat.lt_of_lt_of_le hbytes hword)

/-- Eight bytes are a whole register. -/
theorem extend_word (signed : Bool) (v : Nat) : extend signed 8 v = BitVec.ofNat 64 v := by
  cases signed with
  | true => exact BitVec.signExtend_eq _
  | false =>
    change BitVec.ofNat 64 (v % 2 ^ 64) = _
    exact BitVec.eq_of_toNat_eq (by simp)

/-- One value is at most another, as integers of their type. -/
def AtMost {w : Nat} (signed : Bool) (a b : BitVec w) : Prop := if signed then a.toInt ≤ b.toInt else a.toNat ≤ b.toNat

theorem atMost_refl {w : Nat} (signed : Bool) (a : BitVec w) : AtMost signed a a := by
  cases signed <;> simp [AtMost]

theorem atMost_iff {w : Nat} (signed : Bool) (a b : BitVec w) : AtMost signed a b ↔ ltBy signed b a = false := by
  cases signed <;> simp [AtMost, ltBy, BitVec.ult_eq_decide, BitVec.slt_eq_decide]

theorem atMost_of_lt {w : Nat} {signed : Bool} {a b : BitVec w} (h : ltBy signed a b = true) : AtMost signed a b :=
  (atMost_iff signed a b).mpr (ltBy_asymm signed h)

theorem minBy_gives {w : Nat} (signed : Bool) (a b : BitVec w) :
    (minBy signed a b = a ∨ minBy signed a b = b) ∧ AtMost signed (minBy signed a b) a ∧ AtMost signed (minBy signed a b) b := by
  unfold minBy
  split
  · rename_i h
    exact ⟨.inr rfl, atMost_of_lt h, atMost_refl signed b⟩
  · rename_i h
    exact ⟨.inl rfl, atMost_refl signed a, (atMost_iff signed a b).mpr (Bool.eq_false_iff.mpr h)⟩

theorem maxBy_gives {w : Nat} (signed : Bool) (a b : BitVec w) :
    (maxBy signed a b = a ∨ maxBy signed a b = b) ∧ AtMost signed a (maxBy signed a b) ∧ AtMost signed b (maxBy signed a b) := by
  unfold maxBy
  split
  · rename_i h
    exact ⟨.inr rfl, atMost_of_lt h, atMost_refl signed b⟩
  · rename_i h
    exact ⟨.inl rfl, atMost_refl signed a, (atMost_iff signed b a).mpr (Bool.eq_false_iff.mpr h)⟩

/-- The new word of a read-modify-write. -/
theorem rmwGives_rmw {w : Nat} (op : RmwOp) (signed : Bool) (old b cmp : BitVec w) :
    RmwGives op signed old b cmp (rmw op signed old b cmp) := by
  cases op with
  | add => exact BitVec.toNat_add ..
  | min => exact minBy_gives signed old b
  | max => exact maxBy_gives signed old b
  | xchg => rfl
  | cmpxchg => exact ⟨fun h => if_pos h, fun h => if_neg h⟩
  | and => exact fun i => BitVec.getLsbD_and ..
  | or => exact fun i => BitVec.getLsbD_or ..
  | xor => exact fun i => BitVec.getLsbD_xor ..

/-- The bytes of a number that lies in one line are in one bank. -/
theorem bankOf_sameLine {addr n k : Nat} (h : addr % 64 + n ≤ 64) (h1 : addr ≤ k) (h2 : k < addr + n) : bankOf k = bankOf addr := by
  unfold bankOf
  have hline : k / 64 = addr / 64 := by omega
  have hregion : k < 0x100000 ↔ addr < 0x100000 := by omega
  simp only [hline, hregion]

/-- A store's bytes are written all, or none where its bank is one that two uses met in. -/
theorem keepCells_number (bad : BitVec 32) {addr n v : Nat} (h : addr % 64 + n ≤ 64) :
    keepCells bad (cellsLE addr n v) = if bad.getLsbD (bankOf addr) then [] else cellsLE addr n v := by
  have hcut : ∀ c ∈ cellsLE addr n v, (!cutAt bad c.1) = !bad.getLsbD (bankOf addr) := by
    intro c hc
    obtain ⟨h1, h2⟩ := mem_cellsLE hc
    rw [cutAt, bankOf_sameLine h h1 h2]
  rw [keepCells, List.filter_congr hcut]
  cases bad.getLsbD (bankOf addr) <;> simp

/-! ### One use in its cycle -/

/-- ATOM's read, w bytes wide, at a word `old` of memory: its old value is in flight, and its reserved cycle c + 3 will write the new word. -/
theorem atomStep_pends (j : Job) (d : BitVec 5) (w : Nat) (signed : Bool) (op : RmwOp) (addr : Nat) (b cmp : X) (t : Tile) :
    (atomStep j d w signed op addr b cmp t).pend = { due := t.abs + 2, order := j.order, unit := j.unit, dest := .x d
                                                     val := val64 (extend signed w (mreadLE t.mem addr w)) } :: t.pend := rfl

/-- A reserved cycle of an instruction takes what it carries. -/
theorem mem_fillJob {order cyc : Nat} {op : JobOp} {t : Tile} {q : Job} (hq : q ∈ t.jobs) (ho : q.order = order) (hc : q.cyc = cyc)
    (hi : q.op = .idle) : { q with op := op } ∈ (fillJob order cyc op t).jobs :=
  List.mem_map.mpr ⟨q, hq, if_pos ⟨ho, hc, hi⟩⟩

theorem atomStep_writes {j q : Job} (d : BitVec 5) (w : Nat) (signed : Bool) (op : RmwOp) (addr : Nat) (b cmp : X) {t : Tile}
    (hq : q ∈ t.jobs) (ho : q.order = j.order) (hc : q.cyc = t.abs + 2) (hi : q.op = .idle) :
    { q with op := .writes (cellsLE addr w (if w = 4
        then (rmw op signed (BitVec.ofNat 32 (mreadLE t.mem addr w)) (b.setWidth 32) (cmp.setWidth 32)).toNat
        else (rmw op signed (BitVec.ofNat 64 (mreadLE t.mem addr w)) b cmp).toNat)) }
      ∈ (atomStep j d w signed op addr b cmp t).jobs := mem_fillJob hq ho hc hi

theorem atomStep_mem (j : Job) (d : BitVec 5) (w : Nat) (signed : Bool) (op : RmwOp) (addr : Nat) (b cmp : X) (t : Tile) :
    (atomStep j d w signed op addr b cmp t).mem = t.mem := rfl

/-- The use of a bank that serves it, or that two uses met in. -/
theorem runJob_load {bad : BitVec 32} {j : Job} {d : BitVec 5} {n addr : Nat} {sgn : Bool} (h : j.op = .load d n sgn addr) (s : State) :
    runJob bad j s = if bad.getLsbD (bankOf addr) then s
      else s.onTl (fun t => pushPend (t.abs + 1) j (.x d) (val64 (extend sgn n (mreadLE t.mem addr n))) t) := by
  rw [runJob, h]
  rfl

theorem runJob_writes {bad : BitVec 32} {j : Job} {l : List Host.Cell} (h : j.op = .writes l) (s : State) :
    runJob bad j s = s.onTl (fun t => { t with mem := mwrites t.mem (keepCells bad l) }) := by rw [runJob, h]

theorem runJob_atomRead {bad : BitVec 32} {j : Job} {d : BitVec 5} {n addr : Nat} {sgn : Bool} {op : RmwOp} {b cmp : X}
    (h : j.op = .atomRead d n sgn op addr b cmp) (s : State) : runJob bad j s
      = if bad.getLsbD (bankOf addr) then s else s.onTl (atomStep j d n sgn op addr b cmp) := by
  rw [runJob, h]
  rfl

/-- Settles O26: a use moves what its kind says where its bank serves it, and nothing where two uses met in the bank. -/
theorem bankUsesMoveBytes : Obligations.BankUsesMoveBytes := by
  intro s bad j d n addr v sgn op b cmp cut pends
  have hlt : mreadLE s.tl.mem addr 4 < 2 ^ 32 := mreadLE_lt ..
  refine ⟨fun hop hn hcut => ?_, fun hop hcut => ?_, fun hop hline hcut => ?_, fun hop hline hcut => ?_, fun hop hcut => ?_,
    fun hop hcut => ?_, fun hop hcut => ?_⟩
  · rw [runJob_load hop, if_neg hcut]
    refine ⟨sameBytes_of _ _ (by rw [tl_onTl]; rfl) rfl, _, extends_extend sgn _ hn, ?_⟩
    simp only [pends, tl_onTl]
    rfl
  · rw [runJob_load hop, if_pos hcut]
  · rw [runJob_writes hop, keepCells_number bad hline, if_neg hcut, tl_onTl]
    simp only [mwrites_cellsLE]
    exact ⟨fun k hk => mread_mwriteLE_byte _ _ _ _ hk, fun a ha => mread_mwriteLE_other _ _ _ ha, trivial⟩
  · rw [runJob_writes hop, keepCells_number bad hline, if_pos hcut, tl_onTl]
    rfl
  · intro old
    rw [runJob_atomRead hop, if_neg hcut]
    have hold : old.toNat = mreadLE s.tl.mem addr 4 := Nat.mod_eq_of_lt hlt
    refine ⟨_, _, extends_extend sgn _ (by decide), rmwGives_rmw op sgn old _ _, ?_, sameBytes_of _ _ (by rw [tl_onTl]; rfl) rfl,
      fun q hq ho hc hi => ?_⟩
    · simp only [pends, tl_onTl, hold]
      rfl
    · rw [tl_onTl]
      exact atomStep_writes d 4 sgn op addr b cmp hq ho hc hi
  · intro old
    rw [runJob_atomRead hop, if_neg hcut]
    refine ⟨_, rmwGives_rmw op sgn old _ _, ?_, sameBytes_of _ _ (by rw [tl_onTl]; rfl) rfl, fun q hq ho hc hi => ?_⟩
    · simp only [pends, tl_onTl, old, ← extend_word sgn]
      rfl
    · rw [tl_onTl]
      exact atomStep_writes d 8 sgn op addr b cmp hq ho hc hi
  · rw [runJob_atomRead hop, if_pos hcut]

end Sys2Proof.Machine
end

section
/-! PROOFS. Branches (04:R78-R80; 05:R101, R102). -/

namespace Sys2Proof.Machine

/-! ### An issue that sends a result where its guard holds -/

/-- Enabled, the result is in flight; nullified, nothing changes. -/
theorem sendIf_runs {p : Plan} (len : Nat) {l unit : Nat} {g : Guard} {d : Dest} {v : VReg} {eff : State → State} {s : State}
    (hq : quiet s = true) (hp : p.clear s) (hn : p.isPeriod = false) (hu : ∀ u, p.unit = some u → unitFree s u = true)
    (heff : eff (s.onTl (holdUnit p.unit p.occ)) = if enabled s.tl g
      then s.onTl (fun t => writeL l unit d v (holdUnit p.unit p.occ t)) else s.onTl (holdUnit p.unit p.occ)) :
    ∃ t, issue p len eff s = .next t ∧ IfEnabled s g (fun t => Sends s t l unit d v) (fun t => WritesNothing s t) t := by
  unfold IfEnabled
  cases he : enabled s.tl g with
  | true =>
    rw [he, if_pos rfl] at heff
    exact ⟨_, issue_runs p len (writeL l unit d v) eff s hq hp hn hu heff, sends_of s _ _ _ _ _ _ _ _⟩
  | false =>
    rw [he, if_neg Bool.false_ne_true] at heff
    exact ⟨_, issue_runs p len (fun t => t) eff s hq hp hn hu heff, writesNothing_of s _ _ _ _⟩

/-! ### What a branch does to its tile -/

/-- A branch's effect: CALL's link, and the delay slots with the target that follows them. -/
def branchTile (en link : Bool) (target : X) (t : Tile) : Tile :=
  { (if en && link then write1 (.x 31) (val64 (t.pc + 12)) t else t) with
    redirect := some { slots := 3, target := if en then some target else none } }

/-- A branch's plan. -/
def branchPlan (en : Bool) (target : X) (t : Tile) : Plan :=
  { flow := true, place := delayInLoopEnd t, unit := some 3, c17 := if en && badTarget target then some target else none }

theorem branch_eq (g : Guard) (target : X) (link : Bool) (s : State) : branch g target link s
    = issue (branchPlan (enabled s.tl g) target s.tl) 4 (fun u => u.onTl (branchTile (enabled s.tl g) link target)) s := rfl

theorem onlyTile_then_onTl {s t : State} (h : OnlyTile s t) (f : Tile → Tile) : OnlyTile s (t.onTl f) := by
  obtain ⟨hsame, hother⟩ := h
  have hturn : t.turn = s.turn := by rw [hsame]
  exact ⟨congrArg (fun u : State => { u with tiles := (t.onTl f).tiles }) hsame,
    fun p hp => (tile_onTl_other t f p (by rwa [hturn])).trans (hother p hp)⟩

/-- The pc, the loops and the delay slots are part of the timetable. -/
theorem writesX_flow {s t : State} {d : BitVec 5} {v : X} (h : WritesX s t d v) (pc : X) (ls : List LoopRec) (r : Option Redirect) :
    WritesX s (t.onTl (fun u => { u with pc := pc, loops := ls, redirect := r })) d v := by
  obtain ⟨hx, hg, hb, hv, ⟨hmem, hdev⟩, honly, hadv⟩ := h
  refine ⟨?_, ?_, ?_, ?_, ⟨?_, hdev⟩, onlyTile_then_onTl honly _, ?_⟩
  all_goals unfold Advanced at *
  all_goals rw [tl_onTl]
  · exact hx
  · exact hg
  · exact hb
  · exact hv
  · exact hmem
  · conv_lhs => rw [hadv]

/-- With the delay slots opened, its effect on registers is CALL's alone. -/
theorem branch_writes (s : State) (en link : Bool) (target : X) :
    let t := s.onTl (fun t => endIssue false 4 (branchTile en link target (holdUnit (some 3) 1 t)))
    if en && link then WritesX s t 31 (s.tl.pc + 12) else WritesNothing s t := by
  intro t
  split
  · rename_i h
    have hw := writesX_flow (writesX_of s false 4 (some 3) 1 31 (s.tl.pc + 12)) t.tl.pc t.tl.loops t.tl.redirect
    have ht : t = (s.onTl (fun t => endIssue false 4 (write1 (.x 31) (val64 (s.tl.pc + 12)) (holdUnit (some 3) 1 t)))).onTl
        (fun u => { u with pc := t.tl.pc, loops := t.tl.loops, redirect := t.tl.redirect }) := by
      rw [onTl_onTl]
      simp only [t, State.onTl, tl_setTl]
      rw [endIssue_eq]
      conv_rhs => rw [endIssue_eq]
      simp [branchTile, h]
    rw [ht]
    exact hw
  · rename_i h
    refine writesNothing_flow rfl ?_
    unfold branchTile
    rw [if_neg h]
    exact ⟨_, _, _, rfl⟩

/-- A branch that may stand where it does and whose target is permitted. -/
theorem branch_runs {g : Guard} {target : X} (link : Bool) {s : State} (hq : quiet s = true) (hu : unitFree s 3 = true)
    (hr : s.tl.redirect = none) (hp : delayInLoopEnd s.tl = false) (ht : enabled s.tl g = true → badTarget target = false) :
    let en := enabled s.tl g
    let next := loopNext s.tl.pc (s.tl.pc + 4) s.tl.loops
    ∃ t, branch g target link s = .next t ∧ t.tl.redirect = some { slots := 2, target := if en then some target else none }
      ∧ t.tl.pc = next.1 ∧ t.tl.loops = next.2 ∧ if en && link then WritesX s t 31 (s.tl.pc + 12) else WritesNothing s t := by
  intro en next
  have hc17 : (branchPlan en target s.tl).c17 = none := by
    refine if_neg ?_
    rw [Bool.and_eq_true]
    exact fun h => absurd h.2 (by rw [ht h.1]; exact Bool.false_ne_true)
  have hmoved : Moved 4 { s.tl with redirect := some { slots := 3, target := if en then some target else none } }
      (endIssue false 4 (branchTile en link target (holdUnit (some 3) 1 s.tl))) := by
    refine moved_of_same ?_ 4
    unfold branchTile
    split <;> [rw [write1_eq]; skip] <;> rfl
  rw [branch_eq]
  obtain ⟨hpc, hloops, hred⟩ := hmoved
  refine ⟨_, issue_runs (branchPlan en target s.tl) 4 (branchTile en link target) _ s hq
    ⟨rfl, fun _ => hr, hp, rfl, hc17, rfl, rfl, rfl, rfl, rfl, rfl, rfl⟩ rfl (by simpa [branchPlan] using hu) (onTl_onTl ..), ?_, ?_, ?_,
    branch_writes s en link target⟩
  all_goals rw [tl_onTl]
  · exact hred.trans rfl
  · exact hpc
  · exact hloops

/-! ### The statement -/

theorem isLast_iff (loops : List LoopRec) (a : X) : isLast loops a = true ↔ ∃ l ∈ loops, l.last = a := by simp [isLast]

theorem badTarget_iff (a : X) : badTarget a = true ↔ BadTarget a := by simp [badTarget, BadTarget]

theorem delayInLoopEnd_eq {t : Tile} {slot : X} {loops : List LoopRec} (h : loopNext t.pc (t.pc + 4) t.loops = (slot, loops)) :
    delayInLoopEnd t = true ↔ (∃ l ∈ loops, l.last = slot) ∨ ∃ l ∈ loops, l.last = slot + BitVec.ofNat 64 (instrLen t slot.toNat) := by
  simp only [delayInLoopEnd, h, Bool.or_eq_true, isLast_iff]

/-- A loop that has a pass still to come ends where it ended. -/
theorem exists_last_cons (l : LoopRec) (n : Nat) (q : List LoopRec) (a : X) :
    (∃ k ∈ { l with left := n } :: q, k.last = a) ↔ ∃ k ∈ l :: q, k.last = a := by simp

/-- Settles O13: a branch opens the delay slots at the address that follows it, that of the next pass where it ends one. -/
theorem branchesOpenDelaySlots : Obligations.BranchesOpenDelaySlots := by
  intro s g d r imm lit hq hu
  refine ⟨?_, fun hr e he => ?_⟩
  · have sends : ∀ (v : X) (len : Nat) (eff : State → State), (eff (s.onTl (holdUnit (some 3) 1)) = if enabled s.tl g
        then s.onTl (fun t => writeL 2 3 (.b d) (val64 v) (holdUnit (some 3) 1 t)) else s.onTl (holdUnit (some 3) 1)) →
        ∃ t, issue { unit := some 3 } len eff s = .next t
          ∧ IfEnabled s g (fun t => Sends s t 2 3 (.b d) (val64 v)) (fun t => WritesNothing s t) t :=
      fun v len eff heff => sendIf_runs len hq (clear_unit _ _ s) rfl (by simpa using hu) heff
    simp only [List.forall_mem_cons, List.not_mem_nil, false_implies, implies_true, and_true]
    refine ⟨sends _ 4 _ ?_, sends _ 12 _ ?_⟩
    · simp only [tl_onTl, holdUnit_enabled, onTl_onTl, holdUnit_pc]
      rfl
    · simp only [tl_onTl, holdUnit_enabled, onTl_onTl]
  · have hexec : exec e.1 s = branch g e.2.1 e.2.2 s := by
      simp only [List.mem_cons, List.not_mem_nil, or_false] at he
      rcases he with rfl | rfl | rfl <;> rfl
    intro ends second next opens
    have hopens : ∀ {slot : X} {loops : List LoopRec}, loopNext s.tl.pc (s.tl.pc + 4) s.tl.loops = (slot, loops) →
        delayInLoopEnd s.tl = false → opens slot loops := by
      intro slot loops hnext hplace
      have runs := fun ht => branch_runs (g := g) (target := e.2.1) e.2.2 hq hu hr hplace ht
      simp only [hnext] at runs
      refine ⟨fun hen hgood => ?_, fun hen hbad => ?_, fun hen => ?_⟩
      all_goals rw [gives_iff, hexec]
      · simpa [hen, Answers] using runs (fun _ => by rw [← Bool.not_eq_true, badTarget_iff]; exact hgood)
      · rw [branch_eq]
        refine answers_slip (slotCause_c17 _ s e.2.1 hq rfl rfl rfl rfl (fun _ => hr) hplace rfl ?_)
        simp [branchPlan, hen, (badTarget_iff _).mpr hbad]
      · simpa [hen, Answers] using runs (fun h => absurd h (by simp [hen]))
    refine ⟨fun h0 h1 h2 => hopens (loopNext_elsewhere fun l hl hlast => h0 ⟨l, hl, hlast⟩) ?_, fun h0 h12 => ?_,
      fun l q hl hlast hleft h1 h2 => ?_⟩
    · rw [← Bool.not_eq_true, delayInLoopEnd_eq (loopNext_elsewhere fun l hl hlast => h0 ⟨l, hl, hlast⟩)]
      exact not_or.mpr ⟨h1, h2⟩
    · rw [gives_iff, hexec, branch_eq]
      refine answers_slip (slotCause_place _ s hq rfl rfl rfl rfl (.inr ?_))
      exact (delayInLoopEnd_eq (loopNext_elsewhere fun l hl hlast => h0 ⟨l, hl, hlast⟩)).mpr h12
    · have hnext : loopNext s.tl.pc (s.tl.pc + 4) s.tl.loops = (l.start, { l with left := l.left - 1 } :: q) := by
        rw [hl, loopNext_pass hlast hleft]
      refine hopens hnext ?_
      rw [← Bool.not_eq_true, delayInLoopEnd_eq hnext, exists_last_cons l (l.left - 1) q l.start,
        exists_last_cons l (l.left - 1) q (second l.start), ← hl]
      exact not_or.mpr ⟨h1, h2⟩

end Sys2Proof.Machine
end

section
/-! PROOFS. Cycles passed, asserted and trapped; returns from a trap, restarts, and HALT's issue (05:R105-R109, R114-R116). -/

namespace Sys2Proof.Machine

/-! ### The conditions at a quiet slot, and issues that change the turn tile -/

/-- At a quiet slot only what the instruction itself asks for is left of 04:R84. -/
theorem slotCause_quiet {s : State} (hq : quiet s = true) (p : Plan) (hn : p.isPeriod = false) (hesc : p.esc = none) :
    slotCause p s = (p.late.map (fun i => (0x10, i))).or (p.bad.or
      ((causeIf ((p.flow && s.tl.redirect.isSome) || p.place) 0x01 (wordInfo s.tl 0)).or ((causeIf p.priv 0x03 (wordInfo s.tl 0)).or
      ((p.c17.map (fun i => (0x17, i))).or ((p.unit.bind (fun u => causeIf (unitHeld s.tl u) 0x16 (BitVec.ofNat 64 u))).or
      ((causeIf p.arr 0x16 11).or ((p.c15.map (fun i => (0x15, i))).or ((p.early.map (fun i => (0x11, i))).or
      ((p.c14.map (fun i => (0x14, i))).or (p.code.map (fun i => (0x30, i)))))))))))) := by
  obtain ⟨h1, h2, h3, h4, h5, h6, h7⟩ := (quiet_iff s).mp hq
  simp [slotCause, slotCauses, findSome_id_cons, hn, hesc, h1, h2, h3, h4, h5, h6, h7, causeIf]

/-- What an issue makes of its tile, but for the timetable. -/
theorem becomes_of {s : State} {F : Tile → Tile} {j : Bool} {n : Nat} {w u : Tile} (hF : F s.tl = endIssue j n w)
    (hw : ∃ un, w = { u with units := un }) (hm : u.mem = s.tl.mem) (ho : u.order = s.tl.order) : Becomes s (s.onTl F) u := by
  have hmem : (F s.tl).mem = s.tl.mem := by
    obtain ⟨un, rfl⟩ := hw
    rw [hF, endIssue_mem, ← hm]
  obtain ⟨h1, h2⟩ := runs_frame s F hmem
  exact ⟨h1, h2, advanced_of s _ u w j n (by rw [tl_onTl, hF]) hw ho⟩

/-- A clear plan whose effect is that of a function on the turn tile. -/
theorem becomes_runs {p : Plan} (len : Nat) {f : Tile → Tile} {eff : State → State} {s : State} {u : Tile}
    (hq : quiet s = true) (hp : p.clear s) (hn : p.isPeriod = false) (hu : ∀ u, p.unit = some u → unitFree s u = true)
    (heff : eff (s.onTl (holdUnit p.unit p.occ)) = s.onTl (fun t => f (holdUnit p.unit p.occ t)))
    (hw : ∃ un, f (holdUnit p.unit p.occ s.tl) = { u with units := un }) (hm : u.mem = s.tl.mem) (ho : u.order = s.tl.order) :
    ∃ t, issue p len eff s = .next t ∧ Becomes s t u :=
  ⟨_, issue_runs p len f eff s hq hp hn hu heff, becomes_of rfl hw hm ho⟩

/-- An effect that is the identity. -/
theorem nothing_runs {p : Plan} (len : Nat) {eff : State → State} {s : State} (hq : quiet s = true) (hp : p.clear s)
    (hn : p.isPeriod = false) (hu : ∀ u, p.unit = some u → unitFree s u = true)
    (heff : eff (s.onTl (holdUnit p.unit p.occ)) = s.onTl (holdUnit p.unit p.occ)) :
    ∃ t, issue p len eff s = .next t ∧ WritesNothing s t :=
  ⟨_, issue_runs p len (fun t => t) eff s hq hp hn hu heff, writesNothing_of s _ _ _ _⟩

/-! ### NOPN, SLOT and TRAP (05:R105, R106, R114) -/

/-- The cycles that NOPN leaves. -/
def nopnTile (imm : BitVec 10) (t : Tile) : Tile := if imm = 0 then t else { t with nopn := some { pc := t.pc, left := imm.toNat } }

theorem exec_nopn (g : Guard) (imm : BitVec 10) (s : State) :
    exec (.nopn g imm) s = issue { unit := some 4, occ := imm.toNat + 1 } 4 (fun u => u.onTl (nopnTile imm)) s := rfl

theorem nopn_runs (g : Guard) (imm : BitVec 10) {s : State} (hq : quiet s = true) (hu : unitFree s 4 = true)
    (hn : s.tl.nopn = none) : Gives (.nopn g imm) s (fun t =>
      Becomes s t { s.tl with nopn := if imm = 0 then none else some { pc := s.tl.pc, left := imm.toNat } }
        ∧ tget 0 t.tl.units 4 = s.tl.abs + imm.toNat + 1) := by
  rw [gives_iff, exec_nopn]
  refine ⟨_, issue_runs { unit := some 4, occ := imm.toNat + 1 } 4 (nopnTile imm) _ s hq (clear_unit _ _ s) rfl
    (by simpa using hu) (onTl_onTl ..), becomes_of rfl ?_ rfl rfl, ?_⟩
  · unfold nopnTile
    split
    · exact ⟨(holdUnit (some 4) (imm.toNat + 1) s.tl).units, by rw [← hn]; rfl⟩
    · exact ⟨_, rfl⟩
  · have hunits : ∀ t, (nopnTile imm t).units = t.units := fun t => by unfold nopnTile; split <;> rfl
    rw [tl_onTl, endIssue_units, hunits]
    simp [holdUnit, Nat.add_assoc]

/-- A later cycle of a NOPN under way. -/
theorem nopnCycle_runs {s : State} {n : NopnRun} (hq : quiet s = true) (hn : s.tl.nopn = some n) :
    ∃ t, nopnCycle s = .next t
      ∧ t.tl = { s.tl with issued := true, nopn := if n.left ≤ 1 then none else some { n with left := n.left - 1 } }
      ∧ OnlyTile s t := by
  have hc : slotCause {} s = none := slotCause_none {} s hq (by simp [Plan.clear]) rfl (by simp)
  refine ⟨_, by rw [nopnCycle, hc], ?_, onlyTile_onTl _ _⟩
  rw [tl_onTl, hn]
  rfl

/-- SLOT's plan. -/
def slotPlan (en : Bool) (cyc : Nat) (v : X) : Plan :=
  { unit := some 4, early := if en && decide (cyc < v.toNat) then some v else none
    late := if en && decide (v.toNat < cyc) then some v else none }

theorem slotPlan_early {cyc : Nat} {v : X} (h : cyc < v.toNat) : slotPlan true cyc v = { unit := some 4, early := some v } := by
  simp [slotPlan, h, Nat.le_of_lt h]

theorem slotPlan_late {cyc : Nat} {v : X} (h : v.toNat < cyc) : slotPlan true cyc v = { unit := some 4, late := some v } := by
  simp [slotPlan, h, Nat.le_of_lt h]

theorem exec_slot (g : Guard) (d : BitVec 5) (s : State) :
    exec (.slot g d) s = issue (slotPlan (enabled s.tl g) s.tl.cyc (rx s.tl d)) 4 (fun u => u) s := rfl

/-- TRAP's plan. -/
def trapPlan (en : Bool) (code : BitVec 10) : Plan := { unit := some 4, code := if en then some (code.setWidth 64) else none }

theorem exec_trap (g : Guard) (code : BitVec 10) (s : State) :
    exec (.trap g code) s = issue (trapPlan (enabled s.tl g) code) 4 (fun u => u) s := rfl

/-- The words of SLOT and of TRAP. -/
theorem split_immWord (maj : BitVec 6) (g : Guard) (d fn : BitVec 5) (imm : BitVec 10) :
    First.split (immWord maj g d fn imm) = { hi := imm, a := fn, d := d, g := g, maj := maj, len := 0 } :=
  split_encImm ..

theorem decodeWords_slot (lvl : Bool) (g : Guard) (d : BitVec 5) (imm : BitVec 10) :
    decodeWords lvl [immWord 0x0A g d 4 imm] = if imm = 0 then .ok (.slot g d) else reservedIn 0 := by
  rw [decodeWords_single _ _ (by rw [split_immWord])]
  simp [candidate, split_immWord, decTime, verdict_plain]

theorem decodeWords_trap (lvl : Bool) (g : Guard) (d : BitVec 5) (imm : BitVec 10) :
    decodeWords lvl [immWord 0x0C g d 0 imm] = if d = 0 then .ok (.trap g imm) else reservedIn 0 := by
  rw [decodeWords_single _ _ (by rw [split_immWord])]
  simp [candidate, split_immWord, decTrap, verdict_plain]

/-- Settles O19: what each plan asks for decides; nothing else changes but NOPN's cycles. -/
theorem cyclesPassedAssertedTrapped : Obligations.CyclesPassedAssertedTrapped := by
  refine ⟨fun s g imm hq => ⟨fun hu hn => nopn_runs g imm hq hu hn, fun n hn => nopnCycle_runs hq hn⟩, ?_,
    fun s g code hq hu => ?_, fun lvl g d imm => ⟨decodeWords_slot lvl g d imm, decodeWords_trap lvl g d imm⟩⟩
  · intro s g d hq hu v
    have hfree : unitHeld s.tl 4 = false := by simpa [unitFree] using hu
    simp only [gives_iff, exec_slot]
    refine ⟨fun hen hearly => answers_slip ?_, fun hen hlate => answers_slip ?_, fun h => ?_⟩
    · rw [hen, slotPlan_early hearly, slotCause_quiet hq _ rfl rfl]
      simp [hfree, causeIf, v]
    · rw [hen, slotPlan_late hlate, slotCause_quiet hq _ rfl rfl]
      rfl
    · have hplan : slotPlan (enabled s.tl g) s.tl.cyc v = { unit := some 4 } := by
        rcases h with h | h <;> simp [slotPlan, h]
      rw [hplan]
      exact nothing_runs 4 hq (clear_unit _ _ s) rfl (by simpa using hu) rfl
  · have hfree : unitHeld s.tl 4 = false := by simpa [unitFree] using hu
    rw [gives_iff, exec_trap]
    unfold IfEnabled
    cases hen : enabled s.tl g with
    | true =>
      refine answers_slip ?_
      rw [slotCause_quiet hq _ rfl rfl]
      simp [trapPlan, hfree, causeIf]
    | false => exact nothing_runs (p := { unit := some 4 }) 4 hq (clear_unit _ _ s) rfl (by simpa using hu) rfl

/-! ### ERET (05:R115, 06:R123) -/

section
variable {n : Nat} {t : Tile}

/-- After a TRAP. -/
theorem returnFromTrap_trap (h : t.trap.cause = 0x30) : returnFromTrap n t
    = { slipAgain n t with trap := { t.trap with mode := false }, loops := [], redirect := none, resumeNopn := 0
                           pc := t.trap.pc + 4, cycNext := some (t.trap.slot.toNat + 1) } := if_pos h

/-- After another cause. -/
theorem returnFromTrap_slip (h : t.trap.cause ≠ 0x30) (hn : t.resumeNopn = 0) : returnFromTrap n t
    = { slipAgain n t with trap := { t.trap with mode := false }, loops := [], redirect := none, resumeNopn := 0
                           pc := t.trap.pc, cycNext := some t.trap.slot.toNat } := (if_neg h).trans (if_pos hn)

/-- After a slip within a NOPN's cycles. -/
theorem returnFromTrap_nopn (h : t.trap.cause ≠ 0x30) (hn : t.resumeNopn ≠ 0) : returnFromTrap n t
    = { slipAgain n t with trap := { t.trap with mode := false }, loops := [], redirect := none, resumeNopn := 0
                           pc := t.trap.pc + 4, cycNext := some t.trap.slot.toNat
                           nopn := some { pc := t.trap.pc, left := t.resumeNopn }
                           units := tset t.units 4 (n + t.resumeNopn) } := (if_neg h).trans (if_neg hn)

/-- A return from a trap holds no unit but SYS. -/
theorem returnFromTrap_units {u : Nat} (hu : u ≠ 4) : tget 0 (returnFromTrap n t).units u = tget 0 t.units u := by
  by_cases h : t.trap.cause = 0x30
  · rw [returnFromTrap_trap h]
    rfl
  · by_cases hn : t.resumeNopn = 0
    · rw [returnFromTrap_slip h hn]
      rfl
    · rw [returnFromTrap_nopn h hn]
      exact tget_tset_other 0 _ _ _ _ hu

/-- Nothing that the instruction at TRAPPC reads has changed. -/
theorem unchanged_iff {old : Regs × List W32} (h : t.seen = some old) : unchanged t = true ↔
    fetchWords t t.trap.pc.toNat = old.2
      ∧ ∀ i, fetch { t with pc := t.trap.pc } false = .ok i → ∀ r ∈ sources i, sameSrc old.1 t.regs r = true := by
  unfold unchanged
  generalize fetch { t with pc := t.trap.pc } false = f
  rw [h]
  cases f <;> simp

theorem unchanged_none (h : t.seen = none) : unchanged t = false := by simp [unchanged, h]

end

/-- ERET's plan. -/
def eretPlan (t : Tile) : Plan := { flow := true, place := !t.trap.mode, unit := some 4, jump := true }

theorem exec_eret (s : State) :
    exec .eret s = issue (eretPlan s.tl) 4 (fun u => u.onTl (fun t => returnFromTrap (t.abs + 1) t)) s := rfl

/-- The tile that ERET leaves. -/
theorem eret_leaves (s : State) :
    let t := s.onTl (fun t => endIssue true 4 (returnFromTrap ((holdUnit (some 4) 1 t).abs + 1) (holdUnit (some 4) 1 t)))
    let tr := s.tl.trap
    t.tl.trap = { tr with mode := false } ∧ t.tl.loops = [] ∧ t.tl.redirect = none ∧ t.tl.regs = s.tl.regs
      ∧ SameBytes s t ∧ OnlyTile s t
      ∧ (tr.cause = 0x30 → t.tl.pc = tr.pc + 4 ∧ t.tl.cycNext = some (tr.slot.toNat + 1) ∧ t.tl.nopn = s.tl.nopn)
      ∧ (tr.cause ≠ 0x30 → s.tl.resumeNopn = 0 → t.tl.pc = tr.pc ∧ t.tl.cycNext = some tr.slot.toNat
          ∧ t.tl.nopn = s.tl.nopn)
      ∧ (tr.cause ≠ 0x30 → s.tl.resumeNopn ≠ 0 → t.tl.pc = tr.pc + 4 ∧ t.tl.cycNext = some tr.slot.toNat
          ∧ t.tl.nopn = some { pc := tr.pc, left := s.tl.resumeNopn }
          ∧ tget 0 t.tl.units 4 = s.tl.abs + 1 + s.tl.resumeNopn)
      ∧ (∀ old, s.tl.resumeNopn = 0 → s.tl.seen = some old →
          let same := fetchWords s.tl tr.pc.toNat = old.2
            ∧ ∀ i, fetch { s.tl with pc := tr.pc } false = .ok i → ∀ r ∈ sources i, sameSrc old.1 s.tl.regs r = true
          (same → t.tl.again = some (tr.cause.setWidth 8, tr.info, s.tl.abs + 1)) ∧ (¬same → t.tl.again = none))
      ∧ (s.tl.resumeNopn ≠ 0 ∨ s.tl.seen = none → t.tl.again = none)
      ∧ t.tl.seen = none ∧ (∀ u, u ≠ 4 → tget 0 t.tl.units u = tget 0 s.tl.units u) := by
  intro t tr
  have ht : t.tl = { returnFromTrap (s.tl.abs + 1) (holdUnit (some 4) 1 s.tl) with
      order := (returnFromTrap (s.tl.abs + 1) (holdUnit (some 4) 1 s.tl)).order + 1, issued := true } := tl_onTl ..
  obtain ⟨us, pc, c, q, hframe⟩ := returnFromTrap_frame (s.tl.abs + 1) (holdUnit (some 4) 1 s.tl)
  have hagain : t.tl.again = if s.tl.resumeNopn = 0 && unchanged s.tl then some (tr.cause.setWidth 8, tr.info, s.tl.abs + 1) else none := by
    rw [ht, hframe]
    rfl
  have hmem : t.tl.mem = s.tl.mem := by
    rw [ht, hframe]
    rfl
  refine ⟨?_, ?_, ?_, ?_, sameBytes_of s t hmem rfl, onlyTile_onTl _ _, fun h => ?_, fun h hn => ?_, fun h hn => ?_,
    fun old hn hold => ?_, fun h => ?_, ?_, fun u hu => ?_⟩
  · rw [ht, hframe]
    rfl
  · rw [ht, hframe]
  · rw [ht, hframe]
  · rw [ht, hframe]
    rfl
  · rw [ht, returnFromTrap_trap (t := holdUnit (some 4) 1 s.tl) h]
    exact ⟨rfl, rfl, rfl⟩
  · rw [ht, returnFromTrap_slip (t := holdUnit (some 4) 1 s.tl) h hn]
    exact ⟨rfl, rfl, rfl⟩
  · rw [ht, returnFromTrap_nopn (t := holdUnit (some 4) 1 s.tl) h hn]
    exact ⟨rfl, rfl, rfl, tget_tset_self ..⟩
  · intro same
    have hsame : unchanged s.tl = true ↔ same := unchanged_iff hold
    rw [hagain, hn]
    exact ⟨fun h => by simp [hsame.mpr h], fun h => by simp [Bool.eq_false_iff.mpr (mt hsame.mp h)]⟩
  · rw [hagain]
    rcases h with h | h
    · simp [h]
    · simp [unchanged_none h]
  · rw [ht, hframe]
  · rw [ht]
    exact (returnFromTrap_units hu).trans (tget_tset_other 0 _ _ _ _ hu)

/-- Settles O22: `returnFromTrap` by what the trap registers hold, and `slipAgain` by what is kept beside them. -/
theorem eretReturns : Obligations.EretReturns := by
  intro s hq hr
  simp only [gives_iff, exec_eret]
  refine ⟨fun hmode hu => ?_, fun hmode => answers_slip (slotCause_place _ s hq rfl rfl rfl rfl (.inr (by simp [eretPlan, hmode])))⟩
  have hplan : (eretPlan s.tl).clear s := by simp [Plan.clear, eretPlan, hr, hmode]
  refine ⟨_, issue_runs (eretPlan s.tl) 4 (fun t => returnFromTrap (t.abs + 1) t) _ s hq hplan rfl (by simpa [eretPlan] using hu)
    (onTl_onTl ..), ?_⟩
  exact eret_leaves s

end Sys2Proof.Machine
end

section
/-! PROOFS. Restarts at a cycle of the period or at an instant of the time base, and the end of a routine (05:R108, R109, R116). -/

namespace Sys2Proof.Machine

/-! ### RESYNC (05:R108) -/

/-- The plan of RESYNC and of RESYNC.T. -/
def resyncPlan (t : Tile) (bad : Bool) (v : X) : Plan :=
  { flow := true, place := !t.trap.mode, unit := some 4, jump := true, c17 := if bad then some v else none }

/-- The tile that RESYNC leaves, but for the timetable. -/
def resyncTile (v : X) (t : Tile) : Tile :=
  { t with trap := { t.trap with mode := false }, loops := [], redirect := none
           pc := (v.extractLsb' 0 17).setWidth 64, cycNext := some (v.extractLsb' 20 20).toNat }

theorem exec_resync (d : BitVec 5) (s : State) : exec (.resync d) s
    = issue (resyncPlan s.tl (resyncBad s.tl (rx s.tl d)) (rx s.tl d)) 4 (fun u => u.onTl (resyncTile (rx s.tl d))) s := rfl

/-- The tile waits for an instant, to go on at RESYNC.T's address. -/
def waitsTill (v : X) (at_ : Nat) (t : Tile) : Tile := { t with phase := .waitT ((v.extractLsb' 0 17).setWidth 64) at_ }

/-- The effect of RESYNC.T. -/
def resyncTWaits (v : X) (s : State) : State :=
  let at_ := resyncInstant s (v.extractLsb' 32 32).toNat
  { s.onTl (waitsTill v at_) with timers := s.timers ++ [(at_, .resyncTRestart s.turn)] }

theorem exec_resyncT (d : BitVec 5) (s : State) : exec (.resyncT d) s
    = issue (resyncPlan s.tl (resyncTBad (rx s.tl d)) (rx s.tl d)) 4 (resyncTWaits (rx s.tl d)) s := rfl

section
variable {s : State} {v : X} {bad : Bool}

/-- In trap mode, with an operand that meets its fields, the plan asks for nothing. -/
theorem resyncPlan_clear (hr : s.tl.redirect = none) (hm : s.tl.trap.mode = true) : (resyncPlan s.tl false v).clear s := by
  simp [Plan.clear, resyncPlan, hr, hm]

theorem resyncPlan_bad (hq : quiet s = true) (hr : s.tl.redirect = none) (hm : s.tl.trap.mode = true) :
    slotCause (resyncPlan s.tl true v) s = some (0x17, v) :=
  slotCause_c17 _ s v hq rfl rfl rfl rfl (fun _ => hr) (by simp [resyncPlan, hm]) rfl rfl

theorem resyncPlan_place (hq : quiet s = true) (hm : s.tl.trap.mode = false) :
    slotCause (resyncPlan s.tl bad v) s = some (0x01, wordInfo s.tl 0) :=
  slotCause_place _ s hq rfl rfl rfl rfl (.inr (by simp [resyncPlan, hm]))

end

theorem resyncBad_iff (t : Tile) (v : X) : resyncBad t v = false ↔
    v.extractLsb' 40 24 = 0 ∧ v.extractLsb' 17 3 = 0 ∧ (v.extractLsb' 20 20).toNat < t.perlen ∧ v.extractLsb' 0 2 = 0 := by
  simp [resyncBad, and_assoc]

theorem resyncTBad_iff (v : X) : resyncTBad v = false ↔
    v.extractLsb' 17 15 = 0 ∧ v.extractLsb' 0 2 = 0 ∧ v.extractLsb' 32 32 ≠ 0 := by
  simp [resyncTBad, and_assoc]

theorem resync_leaves (s : State) (v : X) :
    let t := s.onTl (fun t => endIssue true 4 (resyncTile v (holdUnit (some 4) 1 t)))
    t.tl.trap = { s.tl.trap with mode := false } ∧ t.tl.loops = [] ∧ t.tl.redirect = none
      ∧ t.tl.pc = (v.extractLsb' 0 17).setWidth 64 ∧ t.tl.cycNext = some (v.extractLsb' 20 20).toNat
      ∧ t.tl.regs = s.tl.regs ∧ SameBytes s t ∧ OnlyTile s t := by
  intro t
  have ht : t.tl = endIssue true 4 (resyncTile v (holdUnit (some 4) 1 s.tl)) := tl_onTl ..
  obtain ⟨hbytes, honly⟩ := runs_frame s (fun t => endIssue true 4 (resyncTile v (holdUnit (some 4) 1 t))) rfl
  rw [ht]
  exact ⟨rfl, rfl, rfl, rfl, rfl, rfl, hbytes, honly⟩

theorem resyncT_leaves (s : State) (v : X) :
    let t := (resyncTWaits v (s.onTl (holdUnit (some 4) 1))).onTl (endIssue true 4)
    let at_ := resyncInstant s (v.extractLsb' 32 32).toNat
    t.tl.phase = .waitT ((v.extractLsb' 0 17).setWidth 64) at_ ∧ t.timers = s.timers ++ [(at_, .resyncTRestart s.turn)]
      ∧ t.tl.regs = s.tl.regs ∧ SameBytes s t := by
  intro t at_
  have hat : resyncInstant (s.onTl (holdUnit (some 4) 1)) (v.extractLsb' 32 32).toNat = at_ := by
    simp only [resyncInstant, tl_onTl]
    rfl
  have heff : t = { ((s.onTl (holdUnit (some 4) 1)).onTl (waitsTill v at_)).onTl (endIssue true 4) with
      timers := s.timers ++ [(at_, .resyncTRestart s.turn)] } := by
    rw [← hat]
    rfl
  rw [onTl_onTl, onTl_onTl] at heff
  have ht : t.tl = endIssue true 4 (waitsTill v at_ (holdUnit (some 4) 1 s.tl)) := by
    rw [heff]
    exact tl_onTl s (fun t => endIssue true 4 (waitsTill v at_ (holdUnit (some 4) 1 t)))
  refine ⟨by rw [ht]; rfl, by rw [heff], by rw [ht]; rfl, sameBytes_of s t (by rw [ht]; rfl) (by rw [heff]; rfl)⟩

/-! ### The instant of RESYNC.T's restart (05:R109) -/

/-- The instant is START off by a multiple of m, and less than m past the end of the cycle. -/
theorem realign_spec (e start : Nat) {m : Nat} (hm : 0 < m) :
    e ≤ realign e start m ∧ realign e start m < e + m ∧ (m : Int) ∣ (realign e start m : Int) - start := by
  unfold realign
  split
  · next h =>
    have hle := Nat.div_mul_le_self (start - e) m
    have hlt := Nat.lt_div_mul_add (a := start - e) hm
    refine ⟨by omega, by omega, -((start - e) / m : Nat), ?_⟩
    rw [Nat.cast_sub (by omega)]
    push_cast
    ring
  · next h =>
    have hle := Nat.div_mul_le_self (e - start + m - 1) m
    have hlt := Nat.lt_div_mul_add (a := e - start + m - 1) hm
    refine ⟨by omega, by omega, ((e - start + m - 1) / m : Nat), ?_⟩
    push_cast
    ring

/-- There is no earlier one. -/
theorem realign_least (e start : Nat) {m k : Nat} (hm : 0 < m) (hk : e ≤ k) (hd : (m : Int) ∣ (k : Int) - start) :
    realign e start m ≤ k := by
  obtain ⟨-, hlt, hr⟩ := realign_spec e start hm
  by_contra hgt
  have hdvd : (m : Int) ∣ (realign e start m : Int) - k := by simpa using Int.dvd_sub hr hd
  have := Int.le_of_dvd (by omega) hdvd
  omega

/-- The tile that the restart leaves. -/
def restarted (s : State) (p : Nat) (a : X) (t : Tile) : Tile :=
  let t := endPeriod (timeBase s p s.now) s.now { t with clk := joinClock s t.clk }
  { t with trap := { t.trap with mode := false }, loops := [], redirect := none, pc := a, cyc := 0, phase := .run
           clk := { t.clk with start := s.now, stretched := false } }

/-- The restart at its instant, and not before. -/
theorem exec_resyncTRestart {s : State} {p at_ : Nat} {a : X} (h : (s.tile p).phase = .waitT a at_) (hi : (s.tile p).issued = false) :
    exec (.resyncTRestart p) s = if s.now < at_ then .next s else .next (s.onTile p (restarted s p a)) := by
  change execResyncTRestart p s = _
  simp only [execResyncTRestart, h, hi, Bool.false_or, decide_eq_true_eq]
  rfl

theorem restarted_spec (s : State) (p : Nat) (a : X) :
    let t := s.onTile p (restarted s p a)
    let u := t.tile p
    u.pc = a ∧ u.cyc = 0 ∧ u.phase = .run ∧ u.trap.mode = false ∧ u.loops = [] ∧ u.redirect = none
      ∧ u.clk.perstamp = timeBase s p s.now ∧ u.perlen = (s.tile p).perlenNext ∧ u.memused = 0
      ∧ u.regs = (s.tile p).regs ∧ u.mem = (s.tile p).mem ∧ ∀ q, q ≠ p → t.tile q = s.tile q := by
  intro t u
  have hu : u = restarted s p a (s.tile p) := tile_onTile_self ..
  rw [hu]
  exact ⟨rfl, rfl, rfl, rfl, rfl, rfl, rfl, rfl, rfl, rfl, rfl, fun q hq => tile_onTile_other _ _ _ _ hq⟩

/-- Settles O23: the operand's fields decide both; RESYNC.T's instant is `realign`'s, and its restart begins a period. -/
theorem resyncsRestart : Obligations.ResyncsRestart := by
  refine ⟨?_, ?_, fun e start m hm => ?_, fun s p at_ a h hi => ?_⟩
  · intro s d hq hr v ok
    have hok : resyncBad s.tl v = false ↔ ok := resyncBad_iff ..
    simp only [gives_iff, exec_resync]
    refine ⟨fun hm hu h => ?_, fun hm h => ?_, fun hm => answers_slip (resyncPlan_place hq hm)⟩
    · rw [hok.mpr h]
      exact ⟨_, issue_runs _ 4 (resyncTile v) _ s hq (resyncPlan_clear hr hm) rfl (by simpa [resyncPlan] using hu) (onTl_onTl ..),
        resync_leaves s v⟩
    · rw [Bool.of_not_eq_false (mt hok.mp h)]
      exact answers_slip (resyncPlan_bad hq hr hm)
  · intro s d hq hr v ok
    have hok : resyncTBad v = false ↔ ok := resyncTBad_iff ..
    simp only [gives_iff, exec_resyncT]
    refine ⟨fun hm hu h => ?_, fun hm h => ?_, fun hm => answers_slip (resyncPlan_place hq hm)⟩
    · rw [hok.mpr h]
      exact ⟨_, issue_clear _ 4 _ s (slotCause_none _ s hq (resyncPlan_clear hr hm) rfl (by simpa [resyncPlan] using hu)),
        resyncT_leaves s v⟩
    · rw [Bool.of_not_eq_false (mt hok.mp h)]
      exact answers_slip (resyncPlan_bad hq hr hm)
  · obtain ⟨hle, -, hd⟩ := realign_spec e start hm
    exact ⟨hle, hd, fun k hk hkd => realign_least e start hm hk hkd⟩
  · rw [gives_iff, exec_resyncTRestart h hi]
    exact ⟨fun hlt => if_pos hlt, fun hle => ⟨_, if_neg (Nat.not_lt.mpr hle), restarted_spec s p a⟩⟩

/-! ### HALT (05:R116) -/

/-- The tile drains, and nothing more is issued. -/
def halts (t : Tile) : Tile := { t with phase := .halting }

theorem exec_halt (g : Guard) (s : State) : exec (.halt g) s = issue { flow := true, unit := some 4 } 4
    (fun u => if enabled u.tl g then u.onTl halts else u) s := rfl

theorem halt_runs (g : Guard) {s : State} (hq : quiet s = true) (hu : unitFree s 4 = true) (hr : s.tl.redirect = none) :
    Gives (.halt g) s (IfEnabled s g (fun t => Becomes s t { s.tl with phase := .halting }) (fun t => WritesNothing s t)) := by
  have hp : ({ flow := true, unit := some 4 } : Plan).clear s := by simp [Plan.clear, hr]
  have hfree : ∀ u, some 4 = some u → unitFree s u = true := by simpa using hu
  rw [gives_iff, exec_halt]
  unfold IfEnabled
  have hen : enabled (s.onTl (holdUnit (some 4) 1)).tl g = enabled s.tl g := by
    rw [tl_onTl]
    rfl
  cases h : enabled s.tl g with
  | true => exact becomes_runs 4 (f := halts) hq hp rfl hfree (by rw [hen, if_pos h, onTl_onTl]) ⟨_, rfl⟩ rfl rfl
  | false => exact nothing_runs 4 hq hp rfl hfree (by simp [h])

/-! ### The end of a routine (05:R116, 01:R19) -/

/-- Two states differ in nothing that a write to device memory reads or writes: in their tiles and their contexts alone. -/
def SameStore (s t : State) : Prop := t = { s with tiles := t.tiles, ctxs := t.ctxs }

namespace SameStore
variable {s t : State} (h : SameStore s t)
include h

theorem xlate (ctx : BitVec 16) (dva : X) (w : Bool) : Machine.xlate t ctx dva w = Machine.xlate s ctx dva w := by
  rw [h]
  rfl

theorem bufferStale (da id : Nat) : SameStore (Machine.bufferStale da id s) (Machine.bufferStale da id t) := by
  rw [h]
  unfold Machine.bufferStale
  dsimp only
  split <;> rfl

theorem stored (tag : LineTag) (da k v : Nat) : SameStore
    { devStore s tag da (lineSplice (devLine s tag da) k 1 v) with badLines := s.badLines }
    { devStore t tag da (lineSplice (devLine t tag da) k 1 v) with badLines := t.badLines } := by
  rw [h]
  rfl

theorem dvaBytes (ctx : BitVec 16) (dva : X) (n v : Nat) : SameStore (Machine.dvaBytes ctx dva n v s) (Machine.dvaBytes ctx dva n v t) := by
  induction n generalizing dva v s t with
  | zero => exact h
  | succ n ih =>
    unfold Machine.dvaBytes
    rw [h.xlate]
    split
    · exact ih ((h.stored _ _ _ _).bufferStale _ _) _ _
    · exact ih h _ _

end SameStore

/-- Renewing the lines that a write covers changes no byte. -/
theorem dvaWrite_mem (ctx : BitVec 16) (dva : X) (n v : Nat) (s : State) : (dvaWrite ctx dva n v s).mem = (dvaBytes ctx dva n v s).mem := by
  unfold dvaWrite
  generalize dvaBytes ctx dva n v s = u
  induction wholeLines dva.toNat n generalizing u with
  | nil => rfl
  | cons o r ih =>
    rw [List.foldl_cons, ih]
    split <;> rfl

theorem SameStore.dvaWrite_mem {s t : State} (h : SameStore s t) (ctx : BitVec 16) (dva : X) (n v : Nat) :
    (dvaWrite ctx dva n v t).mem = (dvaWrite ctx dva n v s).mem := by
  rw [Machine.dvaWrite_mem, Machine.dvaWrite_mem, h.dvaBytes]

/-- What the end of a lease may change of the tiles: tickets, page entries, and the sequences of the kennel's posts. -/
def LeaseTraffic (s t : State) : Prop := t.turn = s.turn ∧ ∀ p, t.tile p = { s.tile p with
  tickets := (t.tile p).tickets, pages := (t.tile p).pages, resultSeq := (t.tile p).resultSeq, leashSeq := (t.tile p).leashSeq }

namespace LeaseTraffic
variable {s t u : State} {w : Who} {k id n : Nat} {o : MemOp} {code cause : BitVec 8}

theorem refl (s : State) : LeaseTraffic s s := ⟨rfl, fun _ => rfl⟩

theorem trans (h : LeaseTraffic s t) (h' : LeaseTraffic t u) : LeaseTraffic s u :=
  ⟨h'.1.trans h.1, fun p => by rw [h'.2 p, h.2 p]⟩

/-- No tile changes. -/
theorem of_tiles (ht : t.turn = s.turn) (hs : t.tiles = s.tiles) : LeaseTraffic s t :=
  ⟨ht, fun p => by rw [show t.tile p = s.tile p by rw [State.tile, hs]; rfl]⟩

theorem onTile (p : Nat) {f : Tile → Tile}
    (hf : ∀ t, f t = { t with tickets := (f t).tickets, pages := (f t).pages, resultSeq := (f t).resultSeq, leashSeq := (f t).leashSeq }) :
    LeaseTraffic s (s.onTile p f) := by
  refine ⟨rfl, fun q => ?_⟩
  by_cases h : q = p
  · subst h
    rw [tile_onTile_self]
    exact hf _
  · rw [tile_onTile_other _ _ _ _ h]

theorem foldl {α : Type} {f : State → α → State} (hf : ∀ s a, LeaseTraffic s (f s a)) (l : List α) (s : State) :
    LeaseTraffic s (l.foldl f s) := by
  induction l generalizing s with
  | nil => exact refl s
  | cons a l ih => exact (hf s a).trans (ih _)

theorem ite {c : Prop} [Decidable c] (ht : LeaseTraffic s t) (hu : LeaseTraffic s u) : LeaseTraffic s (if c then t else u) := by
  split
  · exact ht
  · exact hu

theorem syncTicket : LeaseTraffic s (syncTicket o s) := by
  unfold Machine.syncTicket
  split
  · refine onTile _ (fun _ => ?_)
    rfl
  · exact refl s

theorem setOp : LeaseTraffic s (s.setOp o) := of_tiles rfl rfl

theorem lineFault (j : Nat) (c : BitVec 8) : LeaseTraffic s (lineFault o j c s) := setOp.trans syncTicket

theorem opTarget (j : Nat) : LeaseTraffic s (opTarget o j s).2 := by
  have hlook : LeaseTraffic s (opLook s o j).2 := by
    unfold opLook
    split
    · refine onTile _ (fun _ => ?_)
      rfl
    · exact refl s
  unfold Machine.opTarget
  extract_lets r
  have hr : LeaseTraffic s r.2 := by
    unfold r
    split
    · exact refl s
    · exact hlook
  split <;> exact hr

theorem performAt (j da : Nat) (tag : LineTag) : LeaseTraffic s (performAt o j da tag s).1 := by
  have stored : ∀ l, LeaseTraffic s (bufferStale da o.id (devStore s tag da l)) := fun l => by
    have h := bufferStale_memoryOnly da o.id (devStore s tag da l)
    exact of_tiles (by rw [h]; rfl) h.tiles
  unfold Machine.performAt
  split
  · exact refl s
  · exact stored _
  · exact stored _
  · exact stored _
  · exact stored _
  · exact refl s
  · exact stored _
  · exact refl s

theorem performLine (j : Nat) : LeaseTraffic s (performLine o j s) := by
  unfold Machine.performLine
  extract_lets r u fail
  have hu : LeaseTraffic s u := opTarget j
  have hfail : ∀ c v, LeaseTraffic v (fail c v) := fun c v =>
    (ite (t := engLost o c v) (of_tiles rfl rfl) (refl v)).trans (lineFault j c)
  have hsync : ∀ {v : State} {q : MemOp}, LeaseTraffic v (Machine.syncTicket q (v.setOp q)) :=
    setOp.trans syncTicket
  have hlooked : LeaseTraffic u u.looked := of_tiles rfl rfl
  refine hu.trans ?_
  split
  · exact hfail _ _
  · exact ite (hfail _ _) (ite (hlooked.trans (hfail _ _)) (hlooked.trans hsync))
  · exact ite (hfail _ _) (ite (hfail _ _) ((performAt ..).trans hsync))

theorem flushWrites : LeaseTraffic s (flushWrites w s) := by
  unfold Machine.flushWrites
  refine trans (foldl (fun v q => ?_) _ s) (of_tiles rfl rfl)
  split
  · exact ite (refl v) (ite (performLine 0) (of_tiles rfl rfl))
  · exact refl v

theorem kennelPost (b m : Nat) (payload : Line) (wrote : List Nat) : LeaseTraffic s (kennelPost k w b m payload wrote s) := by
  unfold Machine.kennelPost
  refine ite (refl s) ?_
  extract_lets seq r p v
  have hr : LeaseTraffic s r.2 := of_tiles rfl rfl
  have hv : LeaseTraffic s v := by
    unfold v
    split
    · refine hr.trans (onTile _ (fun t => ?_))
      split <;> rfl
    · exact hr
  exact hv.trans (of_tiles rfl rfl)

theorem settle : LeaseTraffic s (settle k s) := by
  have htell : LeaseTraffic s (tellPositions k s) := foldl (fun v a => by
    dsimp only
    exact ite (trans (t := State.setLease _ _ _) (of_tiles rfl rfl) (kennelPost ..)) (refl v)) _ s
  have howe : LeaseTraffic s (oweGrants k (tellPositions k s)) := htell.trans (of_tiles rfl rfl)
  have htimer : ∀ v at_ i, LeaseTraffic v (timerOnce v at_ i) := fun v at_ i => ite (refl v) (of_tiles rfl rfl)
  exact ite (howe.trans (htimer ..)) howe

theorem endLease : LeaseTraffic s (endLease k id code cause s) := by
  unfold Machine.endLease
  split
  · exact refl s
  · refine ite (refl s) ?_
    extract_lets u v x
    have hu : LeaseTraffic s u := flushWrites
    have hv : LeaseTraffic s v := hu.trans (of_tiles rfl rfl)
    have hx : LeaseTraffic s x := hv.trans (foldl (fun _ _ => kennelPost ..) _ v)
    exact (hx.trans (of_tiles rfl rfl)).trans settle

theorem freeLeases : LeaseTraffic s (freeLeases w s) := foldl (fun _ _ => foldl (fun _ _ => endLease) _ _) _ s

end LeaseTraffic

/-- A tile without a lease has none to free. -/
theorem freeLeases_none {w : Who} {s : State} (h : ∀ e ∈ s.kennels, ∀ l ∈ e.2.leases, l.who ≠ w) : freeLeases w s = s := by
  unfold freeLeases
  suffices ∀ ks : Table Kennel, (∀ e ∈ ks, ∀ l ∈ e.2.leases, l.who ≠ w) → ks.foldl (fun s (k, q) =>
      (q.leases.filter (fun l => l.who == w)).foldl (fun s l => endLease k l.id 7 0 s) s) s = s from this _ h
  intro ks hks
  induction ks with
  | nil => rfl
  | cons e r ih =>
    have hnone : e.2.leases.filter (fun l => l.who == w) = [] := by simpa using hks e (List.mem_cons_self ..)
    rw [List.foldl_cons]
    simp only [hnone, List.foldl_nil]
    exact ih (fun e he => hks e (List.mem_cons_of_mem _ he))


/-! ### The drain of a HALT has ended -/

/-- The tile that HALT leaves. -/
def halted (t : Tile) : Tile := { t with state := 0, phase := .off, issued := false, trap := { t.trap with mode := false } }

theorem exec_haltComplete {s : State} (hp : s.tl.phase = .halting) (hd : drained s.tl = true) : exec .haltComplete s
    = .next (finishCtx s.tl.bind.ctx (noteHalted (whoOf s.tl) (freeLeases (whoOf s.tl) (s.onTl halted)))) := by
  change execHaltComplete s = _
  unfold execHaltComplete
  simp only [hp, hd]
  rfl

theorem writeLstat_turn (k v : Nat) (s : State) : (writeLstat k v s).turn = s.turn := by
  obtain ⟨u, hm, h⟩ := writeLstat_eq k v s
  rw [h, hm]
  split <;> rfl

/-- A value of LSTAT changes device memory only by its write. -/
theorem writeLstat_mem (k v : Nat) (s : State) : (writeLstat k v s).mem = s.mem
    ∨ ∃ d dva, barPlace s (k + 0x30) = some (d, dva) ∧ (writeLstat k v s).mem = (dvaWrite d dva 8 v s).mem := by
  unfold writeLstat
  rcases barPlace s (k + 0x30) with _ | ⟨d, dva⟩
  · left
    dsimp only
    split <;> rfl
  · refine .inr ⟨d, dva, rfl, ?_⟩
    dsimp only
    split <;> rfl

/-- The end of a context changes no tile, and device memory only by its LSTAT. -/
theorem finishCtx_changes (ctx : BitVec 16) (s : State) :
    (finishCtx ctx s).turn = s.turn ∧ (finishCtx ctx s).tiles = s.tiles ∧ ((finishCtx ctx s).mem = s.mem
      ∨ ∃ c k d dva, c ∈ s.ctxs ∧ c.id = ctx ∧ c.slot = some k ∧ barPlace s (k + 0x30) = some (d, dva)
          ∧ (finishCtx ctx s).mem = (dvaWrite d dva 8 3 s).mem) := by
  unfold finishCtx
  split
  · exact ⟨rfl, rfl, .inl rfl⟩
  · next c hc =>
    have hid : c.id = ctx := by simpa using List.find?_some hc
    split
    · unfold ctxLstat
      split
      · next k hk =>
        have hs : SameStore s { s with ctxs := s.ctxs.filter (fun d => d.id != ctx) } := rfl
        refine ⟨writeLstat_turn .., writeLstat_tiles .., (writeLstat_mem ..).imp id ?_⟩
        rintro ⟨d, dva, hb, hm⟩
        exact ⟨c, k, d, dva, List.mem_of_find?_eq_some hc, hid, hk, hb, hm.trans (hs.dvaWrite_mem ..)⟩
      · exact ⟨rfl, rfl, .inl rfl⟩
    · exact ⟨rfl, rfl, .inl rfl⟩

/-- The tile that the drain after HALT leaves. -/
theorem haltComplete_tl (s : State) {w : Who} (ctx : BitVec 16) : ∃ k g r q,
    (finishCtx ctx (noteHalted w (freeLeases w (s.onTl halted)))).tl
      = { halted s.tl with tickets := k, pages := g, resultSeq := r, leashSeq := q } := by
  set f := freeLeases w (s.onTl halted)
  obtain ⟨hturn, htiles, -⟩ := finishCtx_changes ctx (noteHalted w f)
  obtain ⟨hfturn, hftile⟩ : LeaseTraffic (s.onTl halted) f := LeaseTraffic.freeLeases
  have htl : (finishCtx ctx (noteHalted w f)).tl = f.tile s.turn := by
    rw [State.tl, State.tile, hturn, htiles]
    exact congrArg f.tile hfturn
  rw [htl, hftile, show (s.onTl halted).tile s.turn = halted s.tl from tl_onTl s halted]
  exact ⟨_, _, _, _, rfl⟩

/-- Without a lease that ends, device memory changes by LSTAT alone. -/
theorem haltComplete_mem {s : State} {w : Who} (ctx : BitVec 16) (h : ∀ e ∈ s.kennels, ∀ l ∈ e.2.leases, l.who ≠ w) :
    let t := finishCtx ctx (noteHalted w (freeLeases w (s.onTl halted)))
    t.mem = s.mem ∨ ∃ c k d dva, c ∈ s.ctxs ∧ c.id = ctx ∧ c.slot = some k ∧ barPlace s (k + 0x30) = some (d, dva)
      ∧ t.mem = (dvaWrite d dva 8 3 s).mem := by
  intro t
  have hnone : freeLeases w (s.onTl halted) = s.onTl halted := freeLeases_none h
  have hs : SameStore s (noteHalted w (s.onTl halted)) := rfl
  obtain ⟨-, -, hmem⟩ := finishCtx_changes ctx (noteHalted w (s.onTl halted))
  simp only [t, hnone]
  refine hmem.imp id ?_
  rintro ⟨c, k, d, dva, hc, hid, hk, hb, hm⟩
  obtain ⟨c0, hc0, rfl⟩ := List.mem_map.mp hc
  refine ⟨c0, k, d, dva, hc0, ?_, ?_, hb, hm.trans (hs.dvaWrite_mem ..)⟩
  · rw [← hid]
    split <;> rfl
  · rw [← hk]
    split <;> rfl

/-- Settles O24: HALT's issue, and what the leases' end and the context's end leave. -/
theorem haltEndsTheRoutine : Obligations.HaltEndsTheRoutine := by
  refine ⟨fun s g hq hu hr => halt_runs g hq hu hr, fun s hp hd => ?_⟩
  rw [gives_iff, exec_haltComplete hp hd]
  obtain ⟨k, g, r, q, htl⟩ := haltComplete_tl s (w := whoOf s.tl) s.tl.bind.ctx
  refine ⟨_, rfl, ?_⟩
  dsimp only
  rw [htl]
  exact ⟨rfl, rfl, rfl, rfl, rfl, haltComplete_mem s.tl.bind.ctx⟩

end Sys2Proof.Machine
end

section
/-! PROOFS. The time base and the system registers at user level (05:R107, R110-R112; 21:R307). -/

namespace Sys2Proof.Machine

/-- A privileged form at a quiet slot of a routine. -/
theorem slotCause_priv {p : Plan} {s : State} (hq : quiet s = true) (hn : p.isPeriod = false) (hesc : p.esc = none)
    (hlate : p.late = none) (hbad : p.bad = none) (hflow : p.flow = false) (hplace : p.place = false) (hpriv : p.priv = true) :
    slotCause p s = some (0x03, wordInfo s.tl 0) := by
  rw [slotCause_quiet hq p hn hesc]
  simp [hlate, hbad, hflow, hplace, hpriv, causeIf]

/-! ### Values (05:R111, 21:R307) -/

/-- A mask gathered bit by bit has the bits that it was gathered from. -/
theorem gathered_bits : ∀ (p : Fin 4 → Bool) (i : Fin 4),
    ((List.finRange 4).foldl (fun (m : BitVec 4) k => if p k then m ||| BitVec.ofNat 4 (2 ^ k.val) else m) 0).getLsbD i = p i := by
  decide

theorem bandAwakeMask_eq (t : Tile) : bandAwakeMask t = (List.finRange 4).foldl
    (fun m k => if decide (t.arr.band[k] = .awake) then m ||| BitVec.ofNat 4 (2 ^ k.val) else m) 0 := by
  have hget : ∀ k : Fin 4, t.arr.band.toList.getD k.val .asleep = t.arr.band[k] := fun k => by simp [List.getD_eq_getElem?_getD]
  rw [bandAwakeMask, ← List.map_coe_finRange_eq_range, List.foldl_map]
  simp only [hget, decide_eq_true_eq]

/-- The four bands' bits. -/
theorem getLsbD_bandAwakeMask (t : Tile) (k : Nat) :
    ((bandAwakeMask t).setWidth 64).getLsbD k = true ↔ ∃ h : k < 4, t.arr.band[k] = .awake := by
  rw [BitVec.getLsbD_setWidth]
  by_cases hk : k < 4
  · have hbit : (bandAwakeMask t).getLsbD k = decide (t.arr.band[k] = .awake) := by
      rw [bandAwakeMask_eq]
      exact gathered_bits (fun k => decide (t.arr.band[k] = .awake)) ⟨k, hk⟩
    rw [hbit]
    simp [hk, show k < 64 by omega]
  · simp [BitVec.getLsbD_of_ge _ _ (Nat.not_lt.mp hk), hk]

/-- A field above the low part of an append. -/
theorem field_above {m n : Nat} {x : BitVec m} {y : BitVec n} {k w : Nat} {v : BitVec w} (hk : n ≤ k)
    (h : x.extractLsb' (k - n) w = v) : (x ++ y).extractLsb' k w = v :=
  (BitVec.extractLsb'_append_eq_of_le hk).trans h

/-- The fields of LEASEPORT. -/
theorem leasePort_fields (p : Port) : (leasePort p).extractLsb' 0 3 = p.state ∧ (leasePort p).getLsbD 3 = p.cls
    ∧ (leasePort p).extractLsb' 4 3 = p.outst ∧ (leasePort p).extractLsb' 16 5 = p.eng
    ∧ (leasePort p).extractLsb' 32 32 = p.gen := by
  refine ⟨low_append _ p.state, (BitVec.getLsbD_append ..).trans ?_, ?_, ?_, ?_⟩
  · exact (BitVec.getLsbD_append ..).trans (by simp)
  · exact field_above (by decide) (field_above (by decide) (low_append _ p.outst))
  · exact field_above (by decide) (field_above (by decide) (field_above (by decide) (field_above (by decide) (low_append _ p.eng))))
  · exact field_above (by decide) (field_above (by decide) (field_above (by decide) (field_above (by decide)
      (field_above (by decide) (high_append p.gen _)))))

/-! ### SYSR and TBASE (05:R107, R110) -/

section
variable {s : State} {g : Guard} {d : BitVec 5} {n : BitVec 12}

theorem sysValue_holdUnit (u : Option Nat) (o : Nat) : sysValue (s.onTl (holdUnit u o)) n = sysValue s n := by
  have htl : (s.onTl (holdUnit u o)).tl = { s.tl with units := (holdUnit u o s.tl).units } := (tl_onTl ..).trans (holdUnit_eq ..)
  unfold sysValue
  rw [htl]
  rfl

/-- What SYSR does once its unit is held. -/
def sysrSends (g : Guard) (d : BitVec 5) (n : BitVec 12) (s : State) : State :=
  if enabled s.tl g then
    let r := sysInput n s
    r.2.onTl (writeL 2 4 (.x d) (val64 r.1))
  else s

theorem exec_sysr (hl : s.level = false) :
    exec (.sysr g d n) s = issue { unit := some 4, priv := sysPriv n } 4 (sysrSends g d n) s := by
  change execSysr g d n s = _
  rw [execSysr, hl]
  rfl

/-- What TBASE does once its unit is held. -/
def tbaseSends (g : Guard) (d : BitVec 5) (s : State) : State :=
  if enabled s.tl g then
    let r := logX (cycTime s) s
    r.2.onTl (writeL 2 4 (.x d) (val64 r.1))
  else s

theorem exec_tbase : exec (.tbase g d) s = issue { unit := some 4 } 4 (tbaseSends g d) s := rfl

/-- A register of the user level is sent, neither recording nor replaying. -/
theorem sysr_runs (hq : quiet s = true) (hu : unitFree s 4 = true) (hl : s.level = false) (hb : s.tl.bind.replay = 0)
    (hn : sysPriv n = false) : Gives (.sysr g d n) s
      (IfEnabled s g (fun u => Sends s u 2 4 (.x d) (val64 (sysValue s n))) (fun u => WritesNothing s u)) := by
  rw [gives_iff, exec_sysr hl, hn]
  refine sendIf_runs 4 hq (clear_unit _ _ s) rfl (by simpa using hu) ?_
  have hin := sysInput_off n (s.onTl (holdUnit (some 4) 1)) (by rwa [tl_onTl])
  simp only [sysrSends, hin, sysValue_holdUnit, tl_onTl, holdUnit_enabled, onTl_onTl]

theorem sysr_priv_slips (hq : quiet s = true) (hl : s.level = false) (hn : sysPriv n = true) :
    Gives (.sysr g d n) s (fun u => Slips s u 0x03 (wordInfo s.tl 0)) := by
  rw [gives_iff, exec_sysr hl]
  exact answers_slip (slotCause_priv hq rfl rfl rfl rfl rfl rfl hn)

/-- TBASE, neither recording nor replaying. -/
theorem tbase_runs (hq : quiet s = true) (hu : unitFree s 4 = true) (hb : s.tl.bind.replay = 0) : Gives (.tbase g d) s
      (IfEnabled s g (fun u => Sends s u 2 4 (.x d) (val64 (timeBase s s.turn s.tl.clk.start))) (fun u => WritesNothing s u)) := by
  rw [gives_iff, exec_tbase]
  refine sendIf_runs 4 hq (clear_unit _ _ s) rfl (by simpa using hu) ?_
  have hin := logX_off (cycTime (s.onTl (holdUnit (some 4) 1))) (s.onTl (holdUnit (some 4) 1)) (by rwa [tl_onTl])
  have htime : cycTime (s.onTl (holdUnit (some 4) 1)) = timeBase s s.turn s.tl.clk.start := by
    rw [cycTime, tl_onTl]
    rfl
  rw [htime] at hin
  simp only [tbaseSends, hin, htime, tl_onTl, holdUnit_enabled, onTl_onTl]

/-! ### SYSW (05:R110, R112) -/

theorem exec_sysw (hl : s.level = false) : exec (.sysw g d n) s
    = issue { unit := some 4, priv := sysPriv n, c17 := if enabled s.tl g then sysWriteBad n (rx s.tl d) else none } 4
        (fun u => if enabled u.tl g then sysWrite n (rx s.tl d) u else u) s := by
  change execSysw g d n s = _
  rw [execSysw, hl]
  rfl

/-- No register is of both levels. -/
theorem sysPriv_of_user (h : sysUser n = true) : sysPriv n = false := by
  unfold sysUser at h
  unfold sysPriv
  split at h
  case h_22 => exact absurd h Bool.false_ne_true
  all_goals
    next hn => rw [hn]; rfl

/-- A value out of range, or a register that is only read. -/
theorem sysw_slips {i : X} (hq : quiet s = true) (hl : s.level = false) (hen : enabled s.tl g = true) (hn : sysPriv n = false)
    (hbad : sysWriteBad n (rx s.tl d) = some i) : Gives (.sysw g d n) s (fun t => Slips s t 0x17 i) := by
  rw [gives_iff, exec_sysw hl, hen, hn, hbad]
  exact answers_slip (slotCause_c17 _ s i hq rfl rfl rfl rfl (by simp) rfl rfl rfl)

/-- A write that is a function of the turn tile. -/
theorem sysw_runs {f : Tile → Tile} {u : Tile} (hq : quiet s = true) (hu : unitFree s 4 = true) (hl : s.level = false)
    (hen : enabled s.tl g = true) (hn : sysPriv n = false) (hbad : sysWriteBad n (rx s.tl d) = none)
    (hf : ∀ s', sysWrite n (rx s.tl d) s' = s'.onTl f) (hw : ∃ un, f (holdUnit (some 4) 1 s.tl) = { u with units := un })
    (hm : u.mem = s.tl.mem) (ho : u.order = s.tl.order) : Gives (.sysw g d n) s (fun t => Becomes s t u) := by
  rw [gives_iff, exec_sysw hl, hen, hn, hbad]
  refine becomes_runs 4 hq (clear_unit _ _ s) rfl (by simpa using hu) ?_ hw hm ho
  simp only [tl_onTl, holdUnit_enabled, hen, if_true, hf, onTl_onTl]

/-- Nullified, nothing is checked or written. -/
theorem sysw_nothing (hq : quiet s = true) (hu : unitFree s 4 = true) (hl : s.level = false) (hen : enabled s.tl g = false)
    (hn : sysPriv n = false) : Gives (.sysw g d n) s (fun t => WritesNothing s t) := by
  rw [gives_iff, exec_sysw hl, hen, hn]
  refine nothing_runs 4 hq (clear_unit _ _ s) rfl (by simpa using hu) ?_
  simp [hen]

theorem sysw_priv_slips (hq : quiet s = true) (hl : s.level = false) (hn : sysPriv n = true) :
    Gives (.sysw g d n) s (fun u => Slips s u 0x03 (wordInfo s.tl 0)) := by
  rw [gives_iff, exec_sysw hl]
  exact answers_slip (slotCause_priv hq rfl rfl rfl rfl rfl rfl hn)

theorem sysWriteBad_perlen (v : X) : sysWriteBad 0x010 v = if v.toNat < 64 ∨ 1048576 < v.toNat then some v else none := by
  simp [sysWriteBad]

theorem sysWriteBad_trapvec (v : X) : sysWriteBad 0x020 v = if v.toNat % 4 ≠ 0 ∨ 0x20000 ≤ v.toNat then some v else none := by
  simp [sysWriteBad]

/-- The registers that are only read. -/
theorem sysWriteBad_readOnly (h : n ∉ [0x010#12, 0x020#12, 0x060#12, 0x804#12, 0x805#12]) (v : X) :
    sysWriteBad n v = some (n.setWidth 64) := by
  have hne : ∀ m ∈ [0x010#12, 0x020#12, 0x060#12, 0x804#12, 0x805#12], n.toNat ≠ m.toNat :=
    fun m hm he => h (BitVec.eq_of_toNat_eq he ▸ hm)
  unfold sysWriteBad
  split
  · next he => exact absurd he (hne 0x010 (by simp))
  · next he => exact absurd he (hne 0x020 (by simp))
  · next he => exact absurd he (hne 0x060 (by simp))
  · next he => exact absurd he (hne 0x804 (by simp))
  · next he => exact absurd he (hne 0x805 (by simp))
  · rfl

end

/-- A value sent is one that a property of the register's value holds of. -/
theorem sysr_value {s : State} {g : Guard} {d : BitVec 5} {n : BitVec 12} {N : State → Prop} {P : X → Prop}
    (h : Gives (.sysr g d n) s (IfEnabled s g (fun u => Sends s u 2 4 (.x d) (val64 (sysValue s n))) N)) (hP : P (sysValue s n)) :
    Gives (.sysr g d n) s (IfEnabled s g (fun u => ∃ v, Sends s u 2 4 (.x d) (val64 v) ∧ P v) N) := by
  obtain ⟨u, hu, hif⟩ := h
  refine ⟨u, hu, ?_⟩
  unfold IfEnabled at hif ⊢
  split
  · next he => exact ⟨_, by rwa [if_pos he] at hif, hP⟩
  · next he => rwa [if_neg he] at hif

/-- Settles O28: each number's value is `sysValue`'s; with no log, `sysInput` is that value. -/
theorem systemRegistersRead : Obligations.SystemRegistersRead := by
  intro s g d hq hu hl hb t
  have reads : ∀ n v, sysPriv n = false → sysValue s n = v → Gives (.sysr g d n) s
      (IfEnabled s g (fun u => Sends s u 2 4 (.x d) (val64 v)) (fun u => WritesNothing s u)) :=
    fun n v hn hv => hv ▸ sysr_runs hq hu hl hb hn
  refine ⟨?_, ?_, ?_, fun n h1 h2 => ?_, tbase_runs hq hu hb⟩
  · simp only [List.forall_mem_cons, List.not_mem_nil, false_implies, implies_true, and_true]
    refine ⟨?_, ?_, ?_, ?_, ?_, ?_, ?_, ?_, ?_, ?_, ?_, ?_, ?_, ?_, ?_, ?_, ?_, ?_, reads _ _ rfl ?_⟩
    case refine_19 => exact congrArg (BitVec.setWidth 64) hb
    all_goals exact reads _ _ rfl rfl
  · exact sysr_value (sysr_runs hq hu hl hb rfl) (getLsbD_bandAwakeMask t)
  · exact sysr_value (sysr_runs hq hu hl hb rfl) (leasePort_fields t.port)
  · have hn : sysPriv n = true := by simp [sysPriv, h1, h2]
    exact ⟨sysr_priv_slips hq hl hn, sysw_priv_slips hq hl hn⟩

/-- Settles O29: `sysWriteBad` decides what slips, and a write changes the turn tile alone. -/
theorem systemRegistersWritten : Obligations.SystemRegistersWritten := by
  intro s g d hq hu hl v
  refine ⟨fun hen => ⟨fun h => ?_, fun h => ?_, fun h => ?_, fun h => ?_, ?_, fun n hn h1 h2 h3 => ?_⟩,
    fun hen n hn => sysw_nothing hq hu hl hen (sysPriv_of_user hn)⟩
  · exact sysw_runs (f := fun t => { t with perlenNext := v.toNat }) hq hu hl hen rfl
      ((sysWriteBad_perlen v).trans (if_neg (by omega))) (fun _ => rfl) ⟨_, rfl⟩ rfl rfl
  · exact sysw_slips hq hl hen rfl ((sysWriteBad_perlen v).trans (if_pos h))
  · exact sysw_runs (f := fun t => { t with trap := { t.trap with vec := v } }) hq hu hl hen rfl
      ((sysWriteBad_trapvec v).trans (if_neg (by omega))) (fun _ => rfl) ⟨_, rfl⟩ rfl rfl
  · exact sysw_slips hq hl hen rfl ((sysWriteBad_trapvec v).trans (if_pos h))
  · exact sysw_runs (f := fun t => { t with collide := v }) hq hu hl hen rfl rfl (fun _ => rfl) ⟨_, rfl⟩ rfl rfl
  · refine sysw_slips hq hl hen (sysPriv_of_user hn) (sysWriteBad_readOnly ?_ v)
    simp only [List.mem_cons, List.not_mem_nil, or_false, not_or]
    refine ⟨h1, h2, h3, ?_, ?_⟩ <;>
    · rintro rfl
      exact absurd hn (by decide)

end Sys2Proof.Machine
end

section
/-! PROOFS. The privileged instructions, in a routine and through the debug window (05:R110, 13:R229, 25:R355, R356). -/

namespace Sys2Proof.Machine

/-! ### The outcome of an instruction of the debug window (25:R355) -/

/-- A tile with the result of an instruction of its window. -/
def withRes (c info : X) (t : Tile) : Tile := { t with dbg := { t.dbg with res := c, info := info } }

/-- The instruction is done: DBGRES reads 0, registers and bytes stay. -/
def WindowDone (s t : State) : Prop := t.tl.dbg.res = 0 ∧ t.tl.dbg.info = 0 ∧ t.tl.regs = s.tl.regs ∧ t.tl.mem = s.tl.mem

/-- The instruction is refused: nothing but DBGRES and DBGINFO differs. -/
def WindowRefused (s : State) (c info : X) (t : State) : Prop :=
  t.tl = { s.tl with dbg := { s.tl.dbg with res := c, info := info } } ∧ t = { s with tiles := t.tiles }
    ∧ ∀ p, p ≠ s.turn → t.tile p = s.tile p

section
variable {s u : State} {g : Guard}

theorem dbgOk_eq (s : State) : dbgOk s = s.onTl (withRes 0 0) := rfl
theorem dbgFault_eq (c : BitVec 8) (info : X) (s : State) : dbgFault c info s = s.onTl (withRes (c.setWidth 64) info) := rfl

theorem windowDone_dbgOk (h : u.tl.regs = s.tl.regs ∧ u.tl.mem = s.tl.mem) : WindowDone s (dbgOk u) := by
  rw [WindowDone, dbgOk_eq, tl_onTl]
  exact ⟨rfl, rfl, h⟩

theorem windowRefused_dbgFault (c : BitVec 8) (info : X) : WindowRefused s (c.setWidth 64) info (dbgFault c info s) := by
  rw [dbgFault_eq]
  exact ⟨tl_onTl .., onlyTile_onTl _ _⟩

/-- In a routine it is cause 0x03. -/
theorem windowOnly_routine (hl : s.level = false) (act : State → State) :
    windowOnly g act s = issue { priv := true, unit := none } 4 (fun s => s) s := by
  rw [windowOnly, hl]
  rfl

/-- Through the window, enabled, it acts. -/
theorem windowOnly_acts (hl : s.level = true) (hen : enabled s.tl g = true) (act : State → State) :
    windowOnly g act s = .next (act s) := by
  rw [windowOnly, hl, hen]
  rfl

end

/-! ### PREEMPT and KILL (06:R127, R136; 25:R356) -/

/-- The state keeps every tile's registers and scratchpad, and the turn. -/
def KeepsRegs (s t : State) : Prop :=
  t.turn = s.turn ∧ ∀ p, (t.tile p).regs = (s.tile p).regs ∧ (t.tile p).mem = (s.tile p).mem

theorem KeepsRegs.tl {s t : State} (h : KeepsRegs s t) : t.tl.regs = s.tl.regs ∧ t.tl.mem = s.tl.mem := by
  rw [State.tl, h.1]
  exact h.2 s.turn

theorem keepsRegs_onTile (s : State) (p : Nat) {f : Tile → Tile} (hf : ∀ t, (f t).regs = t.regs ∧ (f t).mem = t.mem) :
    KeepsRegs s (s.onTile p f) := by
  refine ⟨rfl, fun q => ?_⟩
  by_cases h : q = p
  · rw [h, tile_onTile_self]
    exact hf _
  · rw [tile_onTile_other _ _ _ _ h]
    exact ⟨rfl, rfl⟩

/-- A post of the management core changes the sequences of its target alone, and is one post more. -/
theorem controlPost_keeps (w : Who) (m : Nat) (payload : Line) (stamp : X) (s : State) :
    KeepsRegs s (controlPost w m payload stamp s) := by
  unfold controlPost
  extract_lets seq r p u
  have hu : KeepsRegs s u := by
    unfold u
    split
    · refine keepsRegs_onTile r.2 _ (fun t => ?_)
      split <;> exact ⟨rfl, rfl⟩
    · exact ⟨rfl, fun _ => ⟨rfl, rfl⟩⟩
  exact hu

theorem controlPost_posts (w : Who) (m : Nat) (payload : Line) (stamp : X) (s : State) : ∃ p : Post,
    (controlPost w m payload stamp s).posts = s.posts ++ [p] ∧ p.src = none ∧ p.payload = payload
      ∧ ∃ d ∈ p.dsts, d.who = w ∧ d.mirror = m ∧ d.done = false := by
  unfold controlPost
  extract_lets seq r p u
  have hu : u.posts = s.posts := by
    unfold u
    split <;> rfl
  exact ⟨p, by rw [← hu], rfl, rfl, _, List.mem_singleton_self _, rfl, rfl, rfl⟩

/-- The posts of a request to some tiles. -/
def askAll (m : Nat) (req : Line) (ws : List Who) (s : State) : State :=
  ws.foldl (fun s w => controlPost w m req (BitVec.ofNat 64 (s.now / subTick)) s) s

theorem askAll_keeps (m : Nat) (req : Line) (ws : List Who) (s : State) : KeepsRegs s (askAll m req ws s) := by
  induction ws generalizing s with
  | nil => exact ⟨rfl, fun _ => ⟨rfl, rfl⟩⟩
  | cons w ws ih =>
    obtain ⟨hturn, htiles⟩ := controlPost_keeps w m req (BitVec.ofNat 64 (s.now / subTick)) s
    obtain ⟨hturn', htiles'⟩ := ih (controlPost w m req (BitVec.ofNat 64 (s.now / subTick)) s)
    exact ⟨hturn'.trans hturn, fun p => ⟨(htiles' p).1.trans (htiles p).1, (htiles' p).2.trans (htiles p).2⟩⟩

/-- Posts under way stay, and each tile asked has one. -/
theorem askAll_posted (m : Nat) (req : Line) (ws : List Who) (s : State) :
    (∀ p ∈ s.posts, p ∈ (askAll m req ws s).posts) ∧ ∀ w ∈ ws, Posted (askAll m req ws s) w m (fun v => v = req) := by
  induction ws generalizing s with
  | nil => exact ⟨fun _ h => h, by simp⟩
  | cons w ws ih =>
    obtain ⟨p, hposts, hsrc, hpay, hdst⟩ := controlPost_posts w m req (BitVec.ofNat 64 (s.now / subTick)) s
    obtain ⟨hkeep, hasked⟩ := ih (controlPost w m req (BitVec.ofNat 64 (s.now / subTick)) s)
    rw [hposts] at hkeep
    refine ⟨fun q hq => hkeep q (List.mem_append_left _ hq), fun v hv => ?_⟩
    rcases List.mem_cons.mp hv with rfl | hv
    · exact ⟨p, hkeep p (by simp), hsrc, hpay, hdst⟩
    · exact hasked v hv

/-- PREEMPT's act. -/
def preemptNow (s : State) : State :=
  let v := s.tl.dbg.xa
  match liveCtx s (v.extractLsb' 0 16) with
  | none => dbgFault 0x17 v s
  | some c =>
    if v.extractLsb' 17 47 != 0 then dbgFault 0x17 v s
    else dbgOk (askAll 61 (if v.getLsbD 16 then 2 else 1) (ctxTiles s c) s)

theorem exec_preempt (g : Guard) (a : BitVec 5) (s : State) : exec (.preempt g a) s = windowOnly g preemptNow s := rfl

/-- KILL's act. -/
def killNow (s : State) : State :=
  let v := s.tl.dbg.xa
  if v.extractLsb' 16 48 != 0 || (liveCtx s (v.extractLsb' 0 16)).isNone then dbgFault 0x17 v s
  else dbgOk (killCtx (v.extractLsb' 0 16) s)

theorem exec_kill (g : Guard) (a : BitVec 5) (s : State) : exec (.kill g a) s = windowOnly g killNow s := rfl

/-- A kill begins: each context of the ID is marked, and the completion is due. -/
theorem killCtx_begins {ctx : BitVec 16} {s : State} {c : Ctx} (h : liveCtx s ctx = some c) :
    (killCtx ctx s).tl = s.tl ∧ (∀ e ∈ (killCtx ctx s).ctxs, e.id = ctx → e.killing = true)
      ∧ (s.now + 200000 * subTick, Instr.killComplete ctx) ∈ (killCtx ctx s).timers := by
  have hsome : (s.ctxs.find? (fun c => c.id == ctx)).isSome = true := by
    rw [List.find?_isSome]
    have hc := List.find?_some h
    simp only [Bool.and_eq_true] at hc
    exact ⟨c, List.mem_of_find?_eq_some h, hc.1⟩
  obtain ⟨d, hd⟩ := Option.isSome_iff_exists.mp hsome
  unfold killCtx
  rw [hd]
  refine ⟨rfl, fun e he hid => ?_, List.mem_append_right _ (List.mem_singleton_self _)⟩
  obtain ⟨e0, -, rfl⟩ := List.mem_map.mp he
  by_cases h0 : e0.id = ctx
  · simp [h0]
  · refine absurd hid ?_
    simp [h0]

section
variable {s : State} {g : Guard} {c : Ctx}

theorem kill_done {a : BitVec 5} (hl : s.level = true) (hen : enabled s.tl g = true)
    (hc : liveCtx s (s.tl.dbg.xa.extractLsb' 0 16) = some c) (h0 : s.tl.dbg.xa.extractLsb' 16 48 = 0) :
    Gives (.kill g a) s (fun t => WindowDone s t
      ∧ (∀ e ∈ t.ctxs, e.id = s.tl.dbg.xa.extractLsb' 0 16 → e.killing = true)
      ∧ (s.now + 200000 * subTick, .killComplete (s.tl.dbg.xa.extractLsb' 0 16)) ∈ t.timers) := by
  obtain ⟨htl, hctxs, htimer⟩ := killCtx_begins hc
  have hact : killNow s = dbgOk (killCtx (s.tl.dbg.xa.extractLsb' 0 16) s) := by simp [killNow, h0, hc]
  rw [gives_iff, exec_kill, windowOnly_acts hl hen, hact]
  exact ⟨_, rfl, windowDone_dbgOk (by rw [htl]; exact ⟨rfl, rfl⟩), hctxs, htimer⟩

theorem preempt_done {a : BitVec 5} (hl : s.level = true) (hen : enabled s.tl g = true)
    (hc : liveCtx s (s.tl.dbg.xa.extractLsb' 0 16) = some c) (h0 : s.tl.dbg.xa.extractLsb' 17 47 = 0) :
    Gives (.preempt g a) s (fun t => WindowDone s t
      ∧ ∀ w ∈ ctxTiles s c, Posted t w 61 (fun v => v = if s.tl.dbg.xa.getLsbD 16 then 2 else 1)) := by
  have hact : preemptNow s = dbgOk (askAll 61 (if s.tl.dbg.xa.getLsbD 16 then 2 else 1) (ctxTiles s c) s) := by
    simp only [preemptNow, h0, hc]
    rfl
  rw [gives_iff, exec_preempt, windowOnly_acts hl hen, hact]
  exact ⟨_, rfl, windowDone_dbgOk (askAll_keeps ..).tl, (askAll_posted ..).2⟩

/-- An ID that names no live context. -/
theorem exec_noCtx {a : BitVec 5} (hl : s.level = true) (hen : enabled s.tl g = true)
    (hc : liveCtx s (s.tl.dbg.xa.extractLsb' 0 16) = none) : ∀ i ∈ [Instr.preempt g a, .kill g a],
      exec i s = .next (dbgFault 0x17 s.tl.dbg.xa s) := by
  simp only [List.forall_mem_cons, List.not_mem_nil, false_implies, implies_true, and_true, exec_preempt, exec_kill,
    windowOnly_acts hl hen]
  exact ⟨by simp [preemptNow, hc], by simp [killNow, hc]⟩

end

end Sys2Proof.Machine
end

section
/-! PROOFS. MAPSET, KEYSEL and MBIND through the debug window (13:R229; 25:R340, R356). -/

namespace Sys2Proof.Machine

section
variable {s : State} {g : Guard} {a b : BitVec 5}

/-! ### MAPSET (25:R340, R356) -/

/-- The physical tile that MAPSET names. -/
def mapsetTarget (s : State) : Nat := 34 * s.clusterMap.getD (s.tl.dbg.xa.toNat / 32) 0 + s.tl.dbg.xb.toNat

/-- A tile that moves to another one at its next PERIOD. -/
def asksMove (q : Nat) (t : Tile) : Tile := { t with migrateTo := some (.mapset q (isHot t.migrateTo)) }

/-- A logical tile that moves once it is bound. -/
def moveWaits (s : State) : State := { s with mapPend := tset s.mapPend s.tl.dbg.xa.toNat (mapsetTarget s) }

/-- MAPSET's act. -/
def mapsetNow (s : State) : State :=
  if 128 * liveDies s ≤ s.tl.dbg.xa.toNat then dbgFault 0x17 s.tl.dbg.xa s
  else if 33 < s.tl.dbg.xb.toNat then dbgFault 0x17 s.tl.dbg.xb s
  else
    match carrier s s.tl.dbg.xa.toNat with
    | some p => if mayTake s (s.tile p) (mapsetTarget s) then dbgOk (s.onTile p (asksMove (mapsetTarget s)))
      else dbgFault 0x17 s.tl.dbg.xb s
    | none => if (s.tile (mapsetTarget s)).state == 5 || (s.tile (mapsetTarget s)).state == 0 then dbgOk (moveWaits s)
      else dbgFault 0x17 s.tl.dbg.xb s

theorem exec_mapset : exec (.mapset g a b) s = windowOnly g mapsetNow s := rfl

/-- A tile that DBGRES is written of is otherwise as it was. -/
theorem tile_dbgOk (p : Nat) (u : State) : (dbgOk u).tile p = if p = u.turn then withRes 0 0 (u.tile p) else u.tile p := by
  rw [dbgOk_eq]
  split
  · next h =>
    rw [h]
    exact tl_onTl ..
  · next h => exact tile_onTl_other _ _ _ h

/-- A logical tile that runs: its tile moves at the next PERIOD. -/
theorem mapset_carried {p : Nat} (hl : s.level = true) (hen : enabled s.tl g = true) (ha : s.tl.dbg.xa.toNat < 128 * liveDies s)
    (hb : s.tl.dbg.xb.toNat ≤ 33) (hp : carrier s s.tl.dbg.xa.toNat = some p) (hq : mayTake s (s.tile p) (mapsetTarget s) = true) :
    Gives (.mapset g a b) s (fun t => WindowDone s t
      ∧ (t.tile p).migrateTo = some (.mapset (mapsetTarget s) (isHot (s.tile p).migrateTo))) := by
  have hact : mapsetNow s = dbgOk (s.onTile p (asksMove (mapsetTarget s))) := by
    simp only [mapsetNow, if_neg (Nat.not_le.mpr ha), if_neg (Nat.not_lt.mpr hb), hp, hq, if_true]
  have hkeep : KeepsRegs s (s.onTile p (asksMove (mapsetTarget s))) := keepsRegs_onTile s p fun _ => ⟨rfl, rfl⟩
  rw [gives_iff, exec_mapset, windowOnly_acts hl hen, hact]
  refine ⟨_, rfl, windowDone_dbgOk hkeep.tl, ?_⟩
  rw [tile_dbgOk, tile_onTile_self]
  split <;> rfl

/-- A logical tile that runs nothing: the target waits for its first PERIOD. -/
theorem mapset_waits (hl : s.level = true) (hen : enabled s.tl g = true) (ha : s.tl.dbg.xa.toNat < 128 * liveDies s)
    (hb : s.tl.dbg.xb.toNat ≤ 33) (hp : carrier s s.tl.dbg.xa.toNat = none)
    (hq : (s.tile (mapsetTarget s)).state = 5 ∨ (s.tile (mapsetTarget s)).state = 0) :
    Gives (.mapset g a b) s (fun t => WindowDone s t ∧ tfind t.mapPend s.tl.dbg.xa.toNat = some (mapsetTarget s) ∧ t.l2p = s.l2p) := by
  have hact : mapsetNow s = dbgOk (moveWaits s) := by
    simp only [mapsetNow, if_neg (Nat.not_le.mpr ha), if_neg (Nat.not_lt.mpr hb), hp]
    exact if_pos (by simpa using hq)
  rw [gives_iff, exec_mapset, windowOnly_acts hl hen, hact]
  exact ⟨_, rfl, windowDone_dbgOk ⟨rfl, rfl⟩, tfind_tset_self .., rfl⟩

/-! ### KEYSEL (15:R249, 25:R356) -/

/-- A key slot with a line's keys; the line is zero then. -/
def keyLoaded (k da : Nat) (s : State) : State :=
  let l := cipherLine s da
  { s with keys := tset s.keys k (lineBytes l 0 32, lineBytes l 32 32), mem := mwrites s.mem (lineCells da 0)
           lineKeys := tdel s.lineKeys (da / 64), badLines := s.badLines.filter (fun b => b != da / 64) }

/-- KEYSEL's act. -/
def keyselNow (s : State) : State :=
  let v := s.tl.dbg.xa
  let dpa := s.tl.dbg.xb
  let k := (v.extractLsb' 0 12).toNat
  if v.extractLsb' 12 51 != 0 || s.ctxs.any (fun c => c.key.toNat == k) then dbgFault 0x17 v s
  else if v.getLsbD 63 then dbgOk { s with keys := tdel s.keys k }
  else
    match (if dpa.toNat % 64 = 0 then hashPlace 0 s.live dpa.toNat else none) with
    | none => dbgFault 0x17 dpa s
    | some da => if failing s da then dbgFault 0x21 dpa s else dbgOk (bufferStale da 0 (keyLoaded k da s))

theorem exec_keysel : exec (.keysel g a b) s = windowOnly g keyselNow s := rfl

theorem tfind_tdel {α : Type} (t : Table α) (k : Nat) : tfind (tdel t k) k = none := by
  induction t with
  | nil => rfl
  | cons e t ih =>
    by_cases h : e.1 = k
    · rw [tdel, List.filter_cons_of_neg (by simp [h])]
      exact ih
    · rw [tdel, List.filter_cons_of_pos (by simp [h]), tfind, if_neg h]
      exact ih

/-- A slot that no context uses, of an operand without a bit that must be zero. -/
theorem keysel_free (h0 : s.tl.dbg.xa.extractLsb' 12 51 = 0) (hk : ∀ c ∈ s.ctxs, c.key ≠ s.tl.dbg.xa.extractLsb' 0 12) :
    (s.tl.dbg.xa.extractLsb' 12 51 != 0
      || s.ctxs.any (fun c => c.key.toNat == (s.tl.dbg.xa.extractLsb' 0 12).toNat)) = false := by
  simp only [h0, bne_self_eq_false, Bool.false_or, List.any_eq_false, beq_iff_eq]
  exact fun c hc he => hk c hc (BitVec.eq_of_toNat_eq he)

theorem keysel_erases (hl : s.level = true) (hen : enabled s.tl g = true) (h0 : s.tl.dbg.xa.extractLsb' 12 51 = 0)
    (hk : ∀ c ∈ s.ctxs, c.key ≠ s.tl.dbg.xa.extractLsb' 0 12) (he : s.tl.dbg.xa.getLsbD 63 = true) :
    Gives (.keysel g a b) s (fun t => WindowDone s t ∧ tfind t.keys (s.tl.dbg.xa.extractLsb' 0 12).toNat = none ∧ t.mem = s.mem) := by
  have hact : keyselNow s = dbgOk { s with keys := tdel s.keys (s.tl.dbg.xa.extractLsb' 0 12).toNat } := by
    simp only [keyselNow, keysel_free h0 hk, he, if_true, Bool.false_eq_true, if_false]
  rw [gives_iff, exec_keysel, windowOnly_acts hl hen, hact]
  exact ⟨_, rfl, windowDone_dbgOk ⟨rfl, rfl⟩, tfind_tdel .., rfl⟩

theorem MemoryOnly.keys {s t : State} (h : MemoryOnly s t) : t.keys = s.keys := by rw [h]

theorem MemoryOnly.tl {s t : State} (h : MemoryOnly s t) : t.tl = s.tl := by
  have hturn : t.turn = s.turn := by rw [h]
  rw [← tile_turn, ← tile_turn, h.tile, hturn]

theorem bufferStale_mem (da id : Nat) (s : State) : (bufferStale da id s).mem = s.mem := by
  unfold bufferStale
  split <;> rfl

/-- A slot loaded from a line, which is zero then. -/
theorem keyLoaded_spec (k da : Nat) :
    WindowDone s (dbgOk (bufferStale da 0 (keyLoaded k da s)))
      ∧ tfind (dbgOk (bufferStale da 0 (keyLoaded k da s))).keys k = some (lineBytes (cipherLine s da) 0 32, lineBytes (cipherLine s da) 32 32)
      ∧ (∀ i, i < 64 → mread (dbgOk (bufferStale da 0 (keyLoaded k da s))).mem (da + i) = 0)
      ∧ ∀ x, x < da ∨ da + 64 ≤ x → mread (dbgOk (bufferStale da 0 (keyLoaded k da s))).mem x = mread s.mem x := by
  have hstale : MemoryOnly (keyLoaded k da s) (bufferStale da 0 (keyLoaded k da s)) := bufferStale_memoryOnly ..
  have hmem : (bufferStale da 0 (keyLoaded k da s)).mem = mwrites s.mem (lineCells da 0) := by
    rw [bufferStale_mem, keyLoaded]
  have htl : (bufferStale da 0 (keyLoaded k da s)).tl = s.tl := by
    rw [hstale.tl, State.tl, keyLoaded]
    rfl
  refine ⟨windowDone_dbgOk (by rw [htl]; exact ⟨rfl, rfl⟩), ?_, fun i hi => ?_, fun x hx => ?_⟩
  · change tfind (bufferStale da 0 (keyLoaded k da s)).keys k = _
    rw [hstale.keys, keyLoaded, tfind_tset_self]
  · change mread (bufferStale da 0 (keyLoaded k da s)).mem _ = _
    rw [hmem, mread_line _ _ _ hi]
    simp
  · change mread (bufferStale da 0 (keyLoaded k da s)).mem _ = _
    rw [hmem, mread_line_other _ _ _ hx]

section
variable {da : Nat} (h0 : s.tl.dbg.xa.extractLsb' 12 51 = 0) (hk : ∀ c ∈ s.ctxs, c.key ≠ s.tl.dbg.xa.extractLsb' 0 12)
  (he : s.tl.dbg.xa.getLsbD 63 = false) (hb : s.tl.dbg.xb.toNat % 64 = 0) (hda : hashPlace 0 s.live s.tl.dbg.xb.toNat = some da)
include h0 hk he hb hda

/-- What KEYSEL does with its line. -/
theorem keyselNow_line : keyselNow s = if failing s da then dbgFault 0x21 s.tl.dbg.xb s
    else dbgOk (bufferStale da 0 (keyLoaded (s.tl.dbg.xa.extractLsb' 0 12).toNat da s)) := by
  simp only [keyselNow, keysel_free h0 hk, he, Bool.false_eq_true, if_false, if_pos hb, hda]

/-- A line that reads as failing delivers no key. -/
theorem keysel_failing (hl : s.level = true) (hen : enabled s.tl g = true) (hf : failing s da = true) :
    Gives (.keysel g a b) s (WindowRefused s 0x21 s.tl.dbg.xb) := by
  rw [gives_iff, exec_keysel, windowOnly_acts hl hen, keyselNow_line h0 hk he hb hda, if_pos hf]
  exact ⟨_, rfl, windowRefused_dbgFault ..⟩

theorem keysel_loads (hl : s.level = true) (hen : enabled s.tl g = true) (hf : failing s da = false) :
    Gives (.keysel g a b) s (fun t => WindowDone s t
      ∧ tfind t.keys (s.tl.dbg.xa.extractLsb' 0 12).toNat = some (lineBytes (cipherLine s da) 0 32, lineBytes (cipherLine s da) 32 32)
      ∧ (∀ i, i < 64 → mread t.mem (da + i) = 0) ∧ ∀ x, x < da ∨ da + 64 ≤ x → mread t.mem x = mread s.mem x) := by
  rw [gives_iff, exec_keysel, windowOnly_acts hl hen, keyselNow_line h0 hk he hb hda, hf]
  exact ⟨_, rfl, keyLoaded_spec ..⟩

end

/-! ### MBIND (12:R209, 13:R229) -/

/-- MBIND's act. -/
def mbindNow (n : BitVec 6) (s : State) : State :=
  let w := s.tl.dbg.xa
  if 60 ≤ n.toNat then dbgFault 0x17 (n.setWidth 64) s
  else if mbindBad w then dbgFault 0x17 w s
  else if bindBound w && bindPkg w == s.pkg && decide (128 * liveDies s ≤ bindTile w) then dbgFault 0x17 w s
  else dbgOk (rebind s.turn n.toNat (bindWord s s.tl w) s)

theorem exec_mbind_window {n : BitVec 6} (hl : s.level = true) (hen : enabled s.tl g = true) :
    exec (.mbind g a n) s = .next (mbindNow n s) := by
  change execMbind g a n s = _
  simp only [execMbind, hl, hen, if_true, Bool.not_true, Bool.false_eq_true, if_false]
  rfl

/-- The mirror is never-written under its new binding, and the others stay. -/
theorem rebind_spec (m : Nat) (w : X) (t : State) (ht : t = dbgOk (rebind s.turn m w s)) : WindowDone s t
    ∧ tget mirrorInit t.tl.mirs m = { seen := false, payload := 0, seq := 0, stamp := 0, arrival := 0, binding := w
                                      wrote := [], sampled := 0, writer := none }
    ∧ ∀ i, i ≠ m → tget mirrorInit t.tl.mirs i = tget mirrorInit s.tl.mirs i := by
  have htl : (rebind s.turn m w s).tl = { s.tl with mirs := tset s.tl.mirs m { mirrorInit with binding := w } } :=
    tile_onTile_self s s.turn (fun t => { t with mirs := tset t.mirs m { mirrorInit with binding := w } })
  have hdone : WindowDone s t := ht ▸ windowDone_dbgOk (by rw [htl]; exact ⟨rfl, rfl⟩)
  have hmirs : t.tl.mirs = tset s.tl.mirs m { mirrorInit with binding := w } := by
    rw [ht, dbgOk_eq, tl_onTl, htl]
    rfl
  rw [hmirs]
  exact ⟨hdone, tget_tset_self .., fun i hi => tget_tset_other _ _ _ _ _ hi⟩

end

end Sys2Proof.Machine
end

section
/-! PROOFS. MBIND, SYSR and SYSW through the debug window (05:R110; 12:R209; 13:R229; 25:R355, R356). -/

namespace Sys2Proof.Machine

section
variable {s : State} {g : Guard} {a d : BitVec 5} {n : BitVec 6} {num : BitVec 12}

/-! ### MBIND's operand (12:R209) -/

/-- The class that MBIND gives a binding. -/
def mbindScope (s : State) (w : X) : X :=
  if w.extractLsb' 45 13 ≠ s.pkg then 4 else if w.extractLsb' 32 9 = s.tl.bind.logtile then 0
    else if (w.extractLsb' 32 9).toNat / 32 = s.tl.bind.logtile.toNat / 32 then 1 else 3

theorem bindScope_eq (s : State) (w : X) : (bindScope s s.tl w).setWidth 64 = mbindScope s w := by
  have htile : bindTile w = s.tl.bind.logtile.toNat ↔ w.extractLsb' 32 9 = s.tl.bind.logtile := BitVec.toNat_inj
  unfold bindScope mbindScope
  split
  · next h => exact (if_pos (bne_iff_ne.mp h)).symm
  · next h =>
    refine .trans ?_ (if_neg (by simpa [bindPkg] using h)).symm
    split
    · next h => exact (if_pos (htile.mp h)).symm
    · next h =>
      refine .trans ?_ (if_neg (mt htile.mpr h)).symm
      split
      · next h => exact (if_pos h).symm
      · next h => exact (if_neg h).symm

theorem bindWord_bound {w : X} (h : w.getLsbD 63 = true) :
    bindWord s s.tl w = (w &&& 0x83FFE1FF0000001F) ||| (mbindScope s w <<< 60) := by
  rw [bindWord, bindScope_eq]
  exact if_pos h

theorem mbindBad_bound {w : X} (h : w.getLsbD 63 = true) : mbindBad w = (w &&& 0x7C001E00FFFFFFE0 != 0) := if_pos h

theorem bindBound_unbound {w : X} (h : w.getLsbD 63 = false) : ¬bindBound w = true := Bool.eq_false_iff.mp h

theorem mbindBad_unbound {w : X} (h : w.getLsbD 63 = false) : mbindBad w = (w != 0) := if_neg (bindBound_unbound h)

/-- The tile of a binding is on no live die of the package. -/
def mbindAway (s : State) (w : X) : Bool := bindBound w && bindPkg w == s.pkg && decide (128 * liveDies s ≤ bindTile w)

theorem mbindAway_bound {w : X} (h : w.getLsbD 63 = true) :
    mbindAway s w = true ↔ w.extractLsb' 45 13 = s.pkg ∧ 128 * liveDies s ≤ (w.extractLsb' 32 9).toNat := by
  rw [mbindAway, bindBound, h, Bool.true_and, Bool.and_eq_true, beq_iff_eq, decide_eq_true_eq]
  rfl

/-! ### MBIND (13:R229) -/

theorem mbindNow_binds (hn : n.toNat < 60) (hbad : mbindBad s.tl.dbg.xa = false) (haway : mbindAway s s.tl.dbg.xa = false) :
    mbindNow n s = dbgOk (rebind s.turn n.toNat (bindWord s s.tl s.tl.dbg.xa) s) := by
  simp only [mbindNow, if_neg (Nat.not_le.mpr hn), hbad, Bool.false_eq_true, if_false]
  exact if_neg (by rw [← mbindAway, haway]; exact Bool.false_ne_true)

theorem mbindNow_refused (hn : n.toNat < 60) (h : mbindBad s.tl.dbg.xa = true ∨ mbindAway s s.tl.dbg.xa = true) :
    mbindNow n s = dbgFault 0x17 s.tl.dbg.xa s := by
  simp only [mbindNow, if_neg (Nat.not_le.mpr hn)]
  split
  · rfl
  · next hb => exact if_pos (h.resolve_left hb)

/-- A mirror that MBIND binds: never-written, and the only one to change. -/
def MirrorBound (s : State) (m : Nat) (w : X) (t : State) : Prop := WindowDone s t
  ∧ tget mirrorInit t.tl.mirs m = { seen := false, payload := 0, seq := 0, stamp := 0, arrival := 0, binding := w
                                    wrote := [], sampled := 0, writer := none }
  ∧ ∀ i, i ≠ m → tget mirrorInit t.tl.mirs i = tget mirrorInit s.tl.mirs i

theorem mbind_binds {w : X} (hl : s.level = true) (hen : enabled s.tl g = true) (hn : n.toNat < 60)
    (hbad : mbindBad s.tl.dbg.xa = false) (haway : mbindAway s s.tl.dbg.xa = false) (hw : bindWord s s.tl s.tl.dbg.xa = w) :
    Gives (.mbind g a n) s (MirrorBound s n.toNat w) := by
  rw [gives_iff, exec_mbind_window hl hen, mbindNow_binds hn hbad haway, hw]
  exact ⟨_, rfl, rebind_spec n.toNat w _ rfl⟩

theorem mbind_refused (hl : s.level = true) (hen : enabled s.tl g = true) (hn : n.toNat < 60)
    (h : mbindBad s.tl.dbg.xa = true ∨ mbindAway s s.tl.dbg.xa = true) :
    Gives (.mbind g a n) s (WindowRefused s 0x17 s.tl.dbg.xa) := by
  rw [gives_iff, exec_mbind_window hl hen, mbindNow_refused hn h]
  exact ⟨_, rfl, windowRefused_dbgFault ..⟩

/-- Mirrors 60 to 63 are the hardware's. -/
theorem mbind_hardware (hl : s.level = true) (hen : enabled s.tl g = true) (hn : 60 ≤ n.toNat) :
    Gives (.mbind g a n) s (WindowRefused s 0x17 (n.setWidth 64)) := by
  rw [gives_iff, exec_mbind_window hl hen, mbindNow, if_pos hn]
  exact ⟨_, rfl, windowRefused_dbgFault ..⟩

/-- Unbound words, bound words, and the words refused. -/
theorem mbind_window (hl : s.level = true) (hen : enabled s.tl g = true) (hn : n.toNat < 60) :
    let xa := s.tl.dbg.xa
    (xa = 0 → Gives (.mbind g a n) s (MirrorBound s n.toNat 0))
      ∧ (xa.getLsbD 63 = true → xa &&& 0x7C001E00FFFFFFE0 = 0
          → (xa.extractLsb' 45 13 ≠ s.pkg ∨ (xa.extractLsb' 32 9).toNat < 128 * liveDies s) →
          Gives (.mbind g a n) s (MirrorBound s n.toNat ((xa &&& 0x83FFE1FF0000001F) ||| (mbindScope s xa <<< 60))))
      ∧ (xa.getLsbD 63 = true → (xa &&& 0x7C001E00FFFFFFE0 ≠ 0
            ∨ xa.extractLsb' 45 13 = s.pkg ∧ 128 * liveDies s ≤ (xa.extractLsb' 32 9).toNat) →
          Gives (.mbind g a n) s (WindowRefused s 0x17 xa))
      ∧ (xa.getLsbD 63 = false → xa ≠ 0 → Gives (.mbind g a n) s (WindowRefused s 0x17 xa)) := by
  intro xa
  refine ⟨fun h0 => ?_, fun hb hz hlive => ?_, fun hb h => ?_, fun hb h => ?_⟩
  · have hb : s.tl.dbg.xa.getLsbD 63 = false := by
      rw [show s.tl.dbg.xa = 0 from h0]
      rfl
    exact mbind_binds hl hen hn (by rw [mbindBad_unbound hb]; simpa using h0) (by rw [mbindAway, bindBound, hb]; rfl)
      (if_neg (bindBound_unbound hb))
  · refine mbind_binds hl hen hn (by rw [mbindBad_bound hb]; simpa using hz) ?_ (bindWord_bound hb)
    rw [Bool.eq_false_iff, ne_eq, mbindAway_bound hb]
    exact fun ⟨h1, h2⟩ => hlive.elim (absurd h1) (fun h => absurd h (Nat.not_lt.mpr h2))
  · refine mbind_refused hl hen hn (h.imp (fun h => ?_) (mbindAway_bound hb).mpr)
    rw [mbindBad_bound hb]
    simpa using h
  · refine mbind_refused hl hen hn (.inl ?_)
    rw [mbindBad_unbound hb]
    simpa using h

/-! ### SYSR and SYSW (05:R110, 25:R355, R356) -/

theorem sysr_window (hl : s.level = true) (hen : enabled s.tl g = true) :
    Gives (.sysr g d num) s (fun t => WindowDone s t ∧ t.tl.dbg.xd = sysValue s num) := by
  have hexec : exec (.sysr g d num) s = .next (dbgResult (sysValue s num) s) := by
    change execSysr g d num s = _
    rw [execSysr, hl, hen]
    rfl
  refine ⟨_, hexec, ?_⟩
  have htl : (dbgResult (sysValue s num) s).tl = { s.tl with dbg := { s.tl.dbg with xd := sysValue s num, res := 0, info := 0 } } :=
    tl_onTl ..
  dsimp only [WindowDone]
  rw [htl]
  exact ⟨⟨rfl, rfl, rfl, rfl⟩, rfl⟩

theorem exec_sysw_running (hl : s.level = true) (h3 : s.tl.state ≠ 3) (h0 : s.tl.state ≠ 0) :
    exec (.sysw g d num) s = .next (dbgFault 0x17 0 s) := by
  have hrun : (s.tl.state != 3 && s.tl.state != 0) = true := by
    rw [Bool.and_eq_true, bne_iff_ne, bne_iff_ne]
    exact ⟨h3, h0⟩
  change execSysw g d num s = _
  rw [execSysw, hl]
  simp only [hrun, if_true]

theorem stopped_state (hst : s.tl.state = 3 ∨ s.tl.state = 0) : (s.tl.state != 3 && s.tl.state != 0) = false := by
  rcases hst with h | h <;> simp [h]

section
variable (hl : s.level = true) (hen : enabled s.tl g = true) (hst : s.tl.state = 3 ∨ s.tl.state = 0)
include hl hen hst

theorem exec_sysw_good (hbad : sysWriteBad num s.tl.dbg.xa = none) :
    exec (.sysw g d num) s = .next (dbgOk (sysWrite num s.tl.dbg.xa s)) := by
  change execSysw g d num s = _
  rw [execSysw, hl]
  simp only [stopped_state hst, hen, hbad, if_true, Bool.false_eq_true, if_false, Bool.not_true]

theorem exec_sysw_bad {info : X} (hbad : sysWriteBad num s.tl.dbg.xa = some info) :
    exec (.sysw g d num) s = .next (dbgFault 0x17 info s) := by
  change execSysw g d num s = _
  rw [execSysw, hl]
  simp only [stopped_state hst, hen, hbad, if_true, Bool.false_eq_true, if_false, Bool.not_true]

end

/-- A register written through the window: what becomes of the tile, OCCAUSE and BOOSTEN. -/
def WindowWrote (s : State) (u : Tile) (o : X) (e : Bool) (t : State) : Prop :=
  t.tl = { u with dbg := { s.tl.dbg with res := 0, info := 0 } } ∧ t.occause = o ∧ t.boostEn = e
    ∧ ∀ p, p ≠ s.turn → t.tile p = s.tile p

theorem sysw_wrote {u : State} (hl : s.level = true) (hen : enabled s.tl g = true) (hst : s.tl.state = 3 ∨ s.tl.state = 0)
    (hbad : sysWriteBad num s.tl.dbg.xa = none) (hu : sysWrite num s.tl.dbg.xa s = u) (hdbg : u.tl.dbg = s.tl.dbg)
    (hturn : u.turn = s.turn) (hrest : ∀ p, p ≠ s.turn → u.tile p = s.tile p) :
    Gives (.sysw g d num) s (WindowWrote s u.tl u.occause u.boostEn) := by
  refine ⟨dbgOk u, hu ▸ exec_sysw_good hl hen hst hbad, ?_, rfl, rfl, fun p hp => ?_⟩
  · rw [← hdbg]
    exact tl_onTl ..
  · rw [tile_dbgOk, hturn, if_neg hp, hrest p hp]

/-- A write of the turn tile's own register. -/
theorem sysw_wrote_tile {f : Tile → Tile} (hl : s.level = true) (hen : enabled s.tl g = true) (hst : s.tl.state = 3 ∨ s.tl.state = 0)
    (hbad : sysWriteBad num s.tl.dbg.xa = none) (hf : sysWrite num s.tl.dbg.xa s = s.onTl f) (hdbg : (f s.tl).dbg = s.tl.dbg) :
    Gives (.sysw g d num) s (WindowWrote s (f s.tl) s.occause s.boostEn) := by
  have h := sysw_wrote (d := d) hl hen hst hbad hf (by rw [tl_onTl]; exact hdbg) rfl (fun p hp => tile_onTl_other _ _ _ hp)
  rwa [tl_onTl] at h

theorem sysw_refused {info : X} (hl : s.level = true) (hen : enabled s.tl g = true) (hst : s.tl.state = 3 ∨ s.tl.state = 0)
    (hbad : sysWriteBad num s.tl.dbg.xa = some info) : Gives (.sysw g d num) s (WindowRefused s 0x17 info) :=
  ⟨_, exec_sysw_bad hl hen hst hbad, windowRefused_dbgFault ..⟩

/-- Every SYSW of a tile in STATE 011 or 000. -/
theorem sysw_window (hl : s.level = true) (hen : enabled s.tl g = true) (hst : s.tl.state = 3 ∨ s.tl.state = 0) :
    let xa := s.tl.dbg.xa
    let wrote := fun (n : BitVec 12) (u : Tile) (o : X) (e : Bool) => Gives (.sysw g d n) s (WindowWrote s u o e)
    (64 ≤ xa.toNat → xa.toNat ≤ 1048576 → wrote 0x010 { s.tl with perlenNext := xa.toNat } s.occause s.boostEn)
      ∧ (xa.toNat < 64 ∨ 1048576 < xa.toNat → Gives (.sysw g d 0x010) s (WindowRefused s 0x17 xa))
      ∧ (xa.toNat % 4 = 0 → xa.toNat < 0x20000 →
          wrote 0x020 { s.tl with trap := { s.tl.trap with vec := xa } } s.occause s.boostEn)
      ∧ (xa.toNat % 4 ≠ 0 ∨ 0x20000 ≤ xa.toNat → Gives (.sysw g d 0x020) s (WindowRefused s 0x17 xa))
      ∧ wrote 0x060 { s.tl with collide := xa } s.occause s.boostEn
      ∧ wrote 0x804 s.tl (s.occause &&& ~~~(xa &&& 0xF0F)) s.boostEn
      ∧ wrote 0x805 s.tl s.occause (xa.getLsbD 0)
      ∧ ∀ n : BitVec 12, sysUser n = true ∨ sysPriv n = true → n ∉ [0x010, 0x020, 0x060, 0x804, 0x805] →
          Gives (.sysw g d n) s (WindowRefused s 0x17 (n.setWidth 64)) := by
  intro xa wrote
  refine ⟨fun h1 h2 => ?_, fun h => ?_, fun h1 h2 => ?_, fun h => ?_, ?_, ?_, ?_, fun n _ hn => ?_⟩
  · exact sysw_wrote_tile (f := fun t => { t with perlenNext := xa.toNat }) hl hen hst
      ((sysWriteBad_perlen xa).trans (if_neg (by omega))) rfl rfl
  · exact sysw_refused hl hen hst ((sysWriteBad_perlen xa).trans (if_pos h))
  · exact sysw_wrote_tile (f := fun t => { t with trap := { t.trap with vec := xa } }) hl hen hst
      ((sysWriteBad_trapvec xa).trans (if_neg (by omega))) rfl rfl
  · exact sysw_refused hl hen hst ((sysWriteBad_trapvec xa).trans (if_pos h))
  · exact sysw_wrote_tile (f := fun t => { t with collide := xa }) hl hen hst rfl rfl rfl
  · exact sysw_wrote (u := { s with occause := occWritten s.occause xa }) hl hen hst rfl rfl rfl rfl (fun _ _ => rfl)
  · exact sysw_wrote (u := { s with boostEn := xa.getLsbD 0 }) hl hen hst rfl rfl rfl rfl (fun _ _ => rfl)
  · exact sysw_refused hl hen hst (sysWriteBad_readOnly hn xa)

end

end Sys2Proof.Machine
end

section
/-! PROOFS. Writes of a tile's debug window (25:R355). -/

namespace Sys2Proof.Machine

/-! ### Numbers written to a memory -/

theorem mreadLE_congr {m m' : Memory} {a n : Nat} (h : ∀ k, k < n → mread m (a + k) = mread m' (a + k)) :
    mreadLE m a n = mreadLE m' a n := by
  induction n generalizing a with
  | zero => rfl
  | succ n ih =>
    have hrest : mreadLE m (a + 1) n = mreadLE m' (a + 1) n := ih (fun k hk => by
      rw [show a + 1 + k = a + (k + 1) by omega]
      exact h (k + 1) (by omega))
    rw [mreadLE, mreadLE, hrest, ← Nat.add_zero a, h 0 (Nat.succ_pos n)]

/-- A number written reads back. -/
theorem mreadLE_mwriteLE_self (m : Memory) (a n v : Nat) (hv : v < 256 ^ n) : mreadLE (mwriteLE m a n v) a n = v := by
  induction n generalizing m a v with
  | zero =>
    rw [Nat.pow_zero] at hv
    rw [mreadLE]
    omega
  | succ n ih =>
    have hlow : (mread (mwriteLE m a (n + 1) v) a).toNat = v % 256 := by
      have hbyte : mread (mwriteLE m a (n + 1) v) a = BitVec.ofNat 8 (v / 256 ^ 0) := mread_mwriteLE_byte m a (n + 1) v (Nat.succ_pos n)
      rw [hbyte, Nat.pow_zero, Nat.div_one, BitVec.toNat_ofNat]
    have hhigh : mreadLE (mwriteLE m a (n + 1) v) (a + 1) n = v / 256 := by
      rw [mwriteLE]
      exact ih _ _ _ (Nat.div_lt_of_lt_mul (by rwa [Nat.pow_succ, Nat.mul_comm] at hv))
    rw [mreadLE, hlow, hhigh]
    omega

/-- Another number written elsewhere leaves a number as it was. -/
theorem mreadLE_mwriteLE_other (m : Memory) {a b k n : Nat} (v : Nat) (h : a + k ≤ b ∨ b + n ≤ a) :
    mreadLE (mwriteLE m b n v) a k = mreadLE m a k :=
  mreadLE_congr fun i hi => mread_mwriteLE_other m n v (by omega)

/-! ### Where a write of the window goes (25:R355) -/

section
variable {s : State} {p : Nat} {v : X}

/-- A write of the window of tile p that acts in STATE 011 or 000 alone. -/
def windowStopped (p : Nat) (f : Tile → Tile) (s : State) : State :=
  if (s.tile p).state = 3 ∨ (s.tile p).state = 0 then s.onTile p f else s.onTile p (withRes 0x17 0)

theorem stoppedOnly_eq (p : Nat) (f : Tile → Tile) (s : State) :
    { stoppedOnly f { s with turn := p } with turn := s.turn } = windowStopped p f s := by
  have hdec : (({ s with turn := p } : State).tl.state = 3 || ({ s with turn := p } : State).tl.state = 0) = true
      ↔ (s.tile p).state = 3 ∨ (s.tile p).state = 0 := by
    rw [Bool.or_eq_true, decide_eq_true_eq, decide_eq_true_eq]
    rfl
  unfold stoppedOnly windowStopped
  by_cases h : (s.tile p).state = 3 ∨ (s.tile p).state = 0
  · rw [if_pos (hdec.mpr h), if_pos h]
    rfl
  · rw [if_neg (mt hdec.mp h), if_neg h]
    rfl

theorem windowWrite_xa : exec (.debugWindowWrite p 0x600008 v) s
    = .next (s.onTile p (fun t => { t with dbg := { t.dbg with xa := v } })) := rfl

theorem windowWrite_xb : exec (.debugWindowWrite p 0x600010 v) s
    = .next (s.onTile p (fun t => { t with dbg := { t.dbg with xb := v } })) := rfl

theorem windowWrite_insn : exec (.debugWindowWrite p 0x600000 v) s
    = .next { dbgInsn (v.extractLsb' 0 32) { s with turn := p } with turn := s.turn } := rfl

/-- Live state: the image's offsets. -/
theorem windowWrite_live {off : Nat} (h : off < 0x600000) :
    exec (.debugWindowWrite p off v) s = .next (windowStopped p (liveWrite (off / 8 * 8) v) s) := by
  rw [← stoppedOnly_eq]
  change execDebugWindowWrite p off v s = _
  simp only [execDebugWindowWrite, if_pos h]

/-- A tile with eight bytes of its instruction store written. -/
def imemWrite (a : Nat) (v : X) (t : Tile) : Tile := { t with imem := mwriteLE t.imem a 8 v.toNat }

theorem windowWrite_imem {k : Nat} (h : k < 0x4000) :
    exec (.debugWindowWrite p (0x620000 + 8 * k) v) s = .next (windowStopped p (imemWrite (8 * k) v) s) := by
  have haddr : (0x620000 + 8 * k) / 8 * 8 - 0x620000 = 8 * k := by omega
  rw [← stoppedOnly_eq]
  change execDebugWindowWrite p (0x620000 + 8 * k) v s = _
  simp only [execDebugWindowWrite, haddr, if_neg (show ¬(0x620000 + 8 * k < 0x600000) by omega),
    if_neg (show ¬(0x620000 + 8 * k = 0x600000) by omega), if_neg (show ¬(0x620000 + 8 * k = 0x600008) by omega),
    if_neg (show ¬(0x620000 + 8 * k = 0x600010) by omega),
    if_neg (show ¬(0x600200 ≤ 0x620000 + 8 * k ∧ 0x620000 + 8 * k < 0x600300) by omega),
    if_pos (show 0x620000 ≤ 0x620000 + 8 * k ∧ 0x620000 + 8 * k < 0x640000 by omega)]
  rfl

/-! ### What such a write leaves -/

/-- The image that a write of live state loads. -/
def liveImage (off : Nat) (v : X) (t : Tile) : Memory :=
  mwriteLE (mwriteLE (mwriteLE (imageOf true t) off 8 v.toNat) 0x8008 1 1) 0xA008 1 1

theorem liveWrite_regs (off : Nat) (v : X) (t : Tile) : (liveWrite off v t).regs = regsOf (liveImage off v t) := rfl

/-- A register of the image written: it reads so. -/
theorem rx_liveWrite (r : BitVec 5) (hr : r ≠ 0) (v : X) (t : Tile) : rx (liveWrite (0x1000 + 8 * r.toNat) v t) r = v := by
  rw [rx_of_image (q := mreadLE _) (fun _ _ _ => rfl) (liveWrite_regs ..) r, if_neg hr, liveImage,
    mreadLE_mwriteLE_other _ _ (.inl (by omega)), mreadLE_mwriteLE_other _ _ (.inl (by omega)),
    mreadLE_mwriteLE_self _ _ _ _ (by simpa using v.isLt), BitVec.ofNat_toNat, BitVec.setWidth_eq]

theorem windowWrite_x (r : BitVec 5) (hr : r ≠ 0) (hl : s.level = false) (hst : (s.tile p).state = 3 ∨ (s.tile p).state = 0) :
    Gives (.debugWindowWrite p (0x1000 + 8 * r.toNat) v) s (fun t => rx (t.tile p) r = v ∧ t.level = false) := by
  have haddr : (0x1000 + 8 * r.toNat) / 8 * 8 = 0x1000 + 8 * r.toNat := by omega
  refine ⟨_, windowWrite_live (by omega), ?_⟩
  dsimp only
  rw [windowStopped, if_pos hst, haddr, tile_onTile_self]
  exact ⟨rx_liveWrite r hr v _, hl⟩

theorem windowWrite_store {k : Nat} (hk : k < 0x4000) (hst : (s.tile p).state = 3 ∨ (s.tile p).state = 0) :
    Gives (.debugWindowWrite p (0x620000 + 8 * k) v) s (fun t => mreadLE (t.tile p).imem (8 * k) 8 = v.toNat
      ∧ (t.tile p).regs = (s.tile p).regs ∧ ∀ a, a < 8 * k ∨ 8 * k + 8 ≤ a → mread (t.tile p).imem a = mread (s.tile p).imem a) := by
  refine ⟨_, windowWrite_imem hk, ?_⟩
  dsimp only
  rw [windowStopped, if_pos hst, tile_onTile_self]
  exact ⟨mreadLE_mwriteLE_self _ _ _ _ (by simpa using v.isLt), rfl, fun a ha => mread_mwriteLE_other _ _ _ ha⟩

/-- A tile that runs. -/
theorem windowWrite_refused {off : Nat} (h3 : (s.tile p).state ≠ 3) (h0 : (s.tile p).state ≠ 0) (h : off < 0x600000) :
    Gives (.debugWindowWrite p off v) s (fun t => (t.tile p).dbg.res = 0x17 ∧ (t.tile p).regs = (s.tile p).regs
      ∧ (t.tile p).mem = (s.tile p).mem ∧ ∀ q, q ≠ p → t.tile q = s.tile q) := by
  refine ⟨_, windowWrite_live h, ?_⟩
  dsimp only
  rw [windowStopped, if_neg (not_or.mpr ⟨h3, h0⟩), tile_onTile_self]
  exact ⟨rfl, rfl, rfl, fun q hq => tile_onTile_other _ _ _ _ hq⟩

/-! ### DBGINSN (25:R355, R356) -/

/-- A word that is none of the window's forms. -/
theorem dbgInsn_other {w : W32} (h : windowWord w = false) : { dbgInsn w { s with turn := p } with turn := s.turn }
    = { s.onTile p (withRes 0x01 (w.setWidth 64)) with level := false } := by
  rw [dbgInsn, h]
  rfl

/-- A word of one of the window's forms, which decodes. -/
theorem dbgInsn_form {w : W32} {i : Instr} (h : windowWord w = true) (hd : decodeWords true [w] = .ok i) :
    dbgInsn w s = { windowInstr i { s with level := true } with level := false } := by
  rw [dbgInsn, h, hd]
  rfl

/-- It runs as the instruction does at privileged level. -/
theorem windowWrite_form {i : Instr} {u : State} (h : windowWord (v.extractLsb' 0 32) = true)
    (hd : decodeWords true [v.extractLsb' 0 32] = .ok i)
    (hi : ∀ s', windowInstr i s' = outState (exec i s') s')
    (hu : exec i { s with turn := p, level := true } = .next u) :
    exec (.debugWindowWrite p 0x600000 v) s = .next { u with turn := s.turn, level := false } := by
  rw [windowWrite_insn, dbgInsn_form h hd, hi, hu]
  rfl

end

/-! ### Every privileged form -/

/-- In a routine. -/
theorem privileged_slips {s : State} {g : Guard} {a b : BitVec 5} {n : BitVec 6} (hq : quiet s = true) (hl : s.level = false) :
    ∀ i ∈ [Instr.preempt g a, .kill g a, .mapset g a b, .keysel g a b, .mbind g a n],
      Gives i s (fun t => Slips s t 0x03 (wordInfo s.tl 0)) := by
  have slips : ∀ i, exec i s = issue { priv := true, unit := none } 4 (fun s => s) s →
      Gives i s (fun t => Slips s t 0x03 (wordInfo s.tl 0)) := fun i hi => by
    rw [gives_iff, hi]
    exact answers_slip (slotCause_priv hq rfl rfl rfl rfl rfl rfl rfl)
  simp only [List.forall_mem_cons, List.not_mem_nil, false_implies, implies_true, and_true]
  refine ⟨slips _ ((exec_preempt ..).trans (windowOnly_routine hl _)), slips _ ((exec_kill ..).trans (windowOnly_routine hl _)),
    slips _ (exec_mapset.trans (windowOnly_routine hl _)), slips _ (exec_keysel.trans (windowOnly_routine hl _)), slips _ ?_⟩
  change execMbind g a n s = _
  rw [execMbind, hl]
  rfl

/-- A form of the window runs as the instruction does. -/
theorem windowInstr_exec {g : Guard} {a b d : BitVec 5} {n : BitVec 6} {num : BitVec 12} :
    ∀ i ∈ [Instr.sysr g d num, .sysw g d num, .mbind g a n, .preempt g a, .kill g a, .mapset g a b, .keysel g a b],
      ∀ s, windowInstr i s = outState (exec i s) s := by
  simp only [List.forall_mem_cons, List.not_mem_nil, false_implies, implies_true, and_true]
  exact ⟨fun _ => rfl, fun _ => rfl, fun _ => rfl, fun _ => rfl, fun _ => rfl, fun _ => rfl, fun _ => rfl⟩

/-- Settles O52: each form through the window by its act, and a write of the window by its offset. -/
theorem privilegedForms : Obligations.PrivilegedForms := by
  refine ⟨fun s g a b n hq hl => privileged_slips hq hl, ?_, ?_⟩
  · intro s g a b d n num hl hen xa xb done refused
    refine ⟨fun c hc => ⟨kill_done hl hen hc, preempt_done hl hen hc⟩, fun hc i hi => ?_, fun ha hb => ?_, fun h0 hk => ?_, ?_,
      mbind_hardware hl hen, sysr_window hl hen, ?_⟩
    · obtain ⟨htl, -⟩ := windowRefused_dbgFault (s := s) 0x17 xa
      refine ⟨_, exec_noCtx hl hen hc i hi, ?_⟩
      dsimp only
      rw [htl]
      exact ⟨rfl, rfl, rfl, rfl⟩
    · intro q
      exact ⟨fun p hp hq => mapset_carried hl hen ha hb hp hq, fun hp hq => mapset_waits hl hen ha hb hp hq⟩
    · intro k
      refine ⟨keysel_erases hl hen h0 hk, fun da he hb hda _ => ?_⟩
      exact ⟨keysel_failing h0 hk he hb hda hl hen, keysel_loads h0 hk he hb hda hl hen⟩
    · intro bound pkg tile scope hn
      exact mbind_window hl hen hn
    · intro wrote
      refine ⟨sysw_window hl hen, fun h3 h0 n => ⟨_, exec_sysw_running hl h3 h0, windowRefused_dbgFault ..⟩⟩
  · intro s p v hl o
    refine ⟨⟨_, windowWrite_xa, ?_⟩, ⟨_, windowWrite_xb, ?_⟩, fun hst r hr => windowWrite_x r hr hl hst,
      fun hst k hk => windowWrite_store hk hst, fun h3 h0 off h => windowWrite_refused h3 h0 h, fun hw => ?_, ?_⟩
    · dsimp only
      rw [tile_onTile_self]
      exact ⟨rfl, rfl, hl⟩
    · dsimp only
      rw [tile_onTile_self]
      exact ⟨rfl, rfl, hl⟩
    · refine ⟨_, windowWrite_insn, ?_⟩
      rw [dbgInsn_other hw]
      exact ⟨rfl, tile_onTile_self .., fun q hq => tile_onTile_other _ _ _ _ hq⟩
    · intro g a b d n num hw i hi hd u hu
      exact windowWrite_form hw hd (windowInstr_exec i hi) hu

end Sys2Proof.Machine
end

section
/-! PROOFS. The end of a slip's drain, at the tile's handler or at the management core, and the restart of a frozen tile
(06:R117-R126). -/

namespace Sys2Proof.Machine

/-! ### The end of a drain (06:R118, R121, R125) -/

theorem isEscalated_iff (c : BitVec 8) : isEscalated c = true ↔ c ∈ [0x20#8, 0x21, 0x22, 0x23] := by
  simp [isEscalated, or_assoc]

/-- Where a slip goes is decided at its beginning (06:R118). -/
theorem beginSlip_slip (c : BitVec 8) (info : X) (t : Tile) : ∃ sl, (beginSlip c info t).slip = some sl ∧ sl.nested = t.trap.mode
    ∧ (sl.escal = true ↔ c ∈ [0x20#8, 0x21, 0x22, 0x23] ∨ t.trap.vec = 0 ∨ t.trap.mode = true) := by
  refine ⟨_, rfl, rfl, ?_⟩
  rw [← isEscalated_iff]
  simp [or_assoc]

theorem takenAgain_iff (c : BitVec 8) : takenAgain c = true ↔ c = 0x01 ∨ c = 0x16 := by
  simp [takenAgain]

/-- The registers and words that a slip leaves for its re-issue (06:R123). -/
theorem saveTrap_seen (sl : Slip) (t : Tile) : (saveTrap sl t).seen
    = if sl.cause = 0x01 ∨ sl.cause = 0x16 then some (t.regs, fetchWords t sl.pc.toNat) else none := by
  simp only [← takenAgain_iff]
  rfl

section
variable {s : State} {sl : Slip} (hs : s.tl.slip = some sl) (hp : s.tl.phase = .drain) (hd : drained s.tl = true)
include hs hp hd

theorem exec_trapEntry (he : sl.escal = false) : exec .trapEntry s = .next (s.onTl (enterTrap sl)) := by
  change execTrapEntry s = _
  simp [execTrapEntry, hs, hp, hd, he]

theorem exec_escalation (he : sl.escal = true) : exec .escalation s = .next (s.onTl (escalate sl)) := by
  change execEscalation s = _
  simp [execEscalation, hs, hp, hd, he]

end

/-- Settles O21: the slip's beginning decides its end; either end is one change of the turn tile. -/
theorem causesEnterHandlerOrFreeze : Obligations.CausesEnterHandlerOrFreeze := by
  refine ⟨fun s c info => beginSlip_slip c info s.tl, fun s sl hs hp hd => ⟨fun he => ?_, fun he => ?_⟩⟩
  · refine ⟨_, exec_trapEntry hs hp hd he, onlyTile_onTl _ _, ?_⟩
    rw [tl_onTl, ← saveTrap_seen]
    rfl
  · refine ⟨_, exec_escalation hs hp hd he, onlyTile_onTl _ _, ?_⟩
    rw [tl_onTl, ← saveTrap_seen]
    cases hn : sl.nested <;> simp [escalate, saveTrap, hn]

/-! ### The restart of a frozen tile (06:R126) -/

/-- A tile whose next instruction is its handler's first. -/
def atHandler (t : Tile) : Tile :=
  { t with trap := { t.trap with mode := true, entered := true }, loops := [], redirect := none, pc := t.trap.vec }

section
variable {s : State} {p : Nat} (h : mayThaw s (s.tile p) = true)
include h

theorem exec_frozenResume :
    exec (.frozenResume p) s = .next (s.onTile p (fun t => thaw s (returnFromTrap t.abs t))) := if_pos h

theorem exec_frozenHandlerEntry (hn : (s.tile p).esc.nested = false) (hv : (s.tile p).trap.vec ≠ 0) :
    exec (.frozenHandlerEntry p) s = .next (s.onTile p (fun t => thaw s (atHandler t))) :=
  if_pos (by simpa [h, hn] using hv)

end

/-- A nested fault, or a tile without a handler, is left frozen. -/
theorem exec_frozenHandlerEntry_refused {s : State} {p : Nat} (h : (s.tile p).esc.nested = true ∨ (s.tile p).trap.vec = 0) :
    exec (.frozenHandlerEntry p) s = .next s := if_neg (by rcases h with h | h <;> simp [h])

/-- Where a tile goes on that returns from its trap as it thaws: after a TRAP, after the cycles of a NOPN, or at the instruction
that slipped. -/
theorem thaw_returnFromTrap (s : State) (n : Nat) (t : Tile) :
    let u := thaw s (returnFromTrap n t)
    (t.trap.cause = 0x30 → u.pc = t.trap.pc + 4 ∧ u.cyc = t.trap.slot.toNat + 1)
      ∧ (t.trap.cause ≠ 0x30 → u.cyc = t.trap.slot.toNat ∧ u.pc = if t.resumeNopn = 0 then t.trap.pc else t.trap.pc + 4) := by
  refine ⟨fun h => ?_, fun h => ?_⟩
  · rw [returnFromTrap_trap h]
    exact ⟨rfl, rfl⟩
  · by_cases hn : t.resumeNopn = 0
    · rw [returnFromTrap_slip h hn, if_pos hn]
      exact ⟨rfl, rfl⟩
    · rw [returnFromTrap_nopn h hn, if_neg hn]
      exact ⟨rfl, rfl⟩

/-- Settles O25: both restarts change the one tile, where its freeze permits them. -/
theorem frozenTileRestarts : Obligations.FrozenTileRestarts := by
  refine fun s p h => ⟨⟨_, exec_frozenResume h, ?_⟩, fun hn hv => ⟨_, exec_frozenHandlerEntry h hn hv, ?_⟩,
    exec_frozenHandlerEntry_refused⟩
  · obtain ⟨htrap, hslip⟩ := thaw_returnFromTrap s (s.tile p).abs (s.tile p)
    obtain ⟨us, pc, c, q, hframe⟩ := returnFromTrap_frame (s.tile p).abs (s.tile p)
    dsimp only
    rw [tile_onTile_self]
    refine ⟨rfl, rfl, ?_, ?_, ?_, ?_, htrap, hslip, fun q hq => tile_onTile_other _ _ _ _ hq⟩
    all_goals
      rw [hframe]
      rfl
  · dsimp only
    rw [tile_onTile_self]
    exact ⟨rfl, rfl, rfl, rfl, rfl, rfl, rfl, rfl, fun q hq => tile_onTile_other _ _ _ _ hq⟩

end Sys2Proof.Machine
end

section
/-! PROOFS. Byte stores laid out in parts, and the numbers that their cells hold (06:R130). -/

namespace Sys2Proof.Machine

/-! ### The cells of numbers -/

/-- Bytes that are a number's, from its byte o on, read as that part of it. -/
theorem mreadLE_of_bytes {m : Memory} {a n o v : Nat} (h : ∀ k, k < n → mread m (a + k) = BitVec.ofNat 8 (v / 2 ^ (8 * (o + k)))) :
    mreadLE m a n = v / 2 ^ (8 * o) % 2 ^ (8 * n) := by
  induction n generalizing a o with
  | zero => simp [mreadLE, Nat.mod_one]
  | succ n ih =>
    have hfirst := h 0 (Nat.succ_pos n)
    have hrest : mreadLE m (a + 1) n = v / 2 ^ (8 * (o + 1)) % 2 ^ (8 * n) := ih fun k hk => by
      rw [show a + 1 + k = a + (k + 1) by omega, show o + 1 + k = o + (k + 1) by omega]
      exact h (k + 1) (by omega)
    rw [Nat.add_zero, Nat.add_zero] at hfirst
    rw [mreadLE, hrest, hfirst, BitVec.toNat_ofNat, show 8 * (o + 1) = 8 * o + 8 by omega, Nat.pow_add, ← Nat.div_div_eq_div_mul,
      show 8 * (n + 1) = 8 + 8 * n by omega, Nat.pow_add, Nat.mod_mul]

theorem mreadLE_zero {m : Memory} {a n : Nat} (h : ∀ k, k < n → mread m (a + k) = 0) : mreadLE m a n = 0 := by
  have := mreadLE_of_bytes (o := 0) (v := 0) (m := m) (a := a) (n := n) (fun k hk => by rw [h k hk, Nat.zero_div]; rfl)
  rw [this, Nat.zero_div, Nat.zero_mod]

/-- A byte of a number's nonzero cells. -/
theorem mread_nzCells (a v : Nat) {n k : Nat} (h : k < n) : mread (nzCells a n v) (a + k) = BitVec.ofNat 8 (v / 2 ^ (8 * k)) := by
  induction n generalizing a v k with
  | zero => omega
  | succ n ih =>
    have hcons : nzCells a (n + 1) v = if BitVec.ofNat 8 v = 0 then nzCells (a + 1) n (v / 256)
        else (a, BitVec.ofNat 8 v) :: nzCells (a + 1) n (v / 256) := by
      simp only [nzCells, cellsLE, List.filter_cons, bne_iff_ne, ne_eq, ite_not]
    rw [hcons]
    cases k with
    | zero =>
      rw [Nat.mul_zero, Nat.pow_zero, Nat.div_one]
      split
      · next hv => rw [hv, mread_not_mem fun c hc => by have := (wfIn_nzCells (a + 1) n (v / 256)).2 c hc; omega]
      · rw [mread, if_pos (Nat.add_zero a).symm]
    | succ k =>
      have hrest := ih (a + 1) (v / 256) (Nat.lt_of_succ_lt_succ h)
      rw [Nat.div_div_eq_div_mul, show 256 * 2 ^ (8 * k) = 2 ^ (8 * (k + 1)) by rw [Nat.mul_succ, Nat.pow_add, Nat.mul_comm],
        show a + 1 + k = a + (k + 1) by omega] at hrest
      split
      · exact hrest
      · rwa [mread, if_neg (by omega)]

theorem listCells_cons (a n v : Nat) (l : List Nat) : listCells a n (v :: l) = nzCells a n v ++ listCells (a + n) n l := by
  simp only [listCells, List.zipIdx_cons, List.zipIdx_succ, List.map_cons, List.map_map, List.flatten_cons, Nat.mul_zero, Nat.add_zero,
    Nat.zero_add]
  congr 3
  funext ⟨w, i⟩
  simp only [Function.comp_apply]
  rw [Nat.mul_succ, Nat.add_comm (n * i), Nat.add_assoc]

/-- A byte of an entry of a list's cells; an entry that the list does not have reads 0. -/
theorem mread_listCells (a : Nat) {n k : Nat} (l : List Nat) (i : Nat) (h : k < n) :
    mread (listCells a n l) (a + n * i + k) = BitVec.ofNat 8 (l.getD i 0 / 2 ^ (8 * k)) := by
  induction l generalizing a i with
  | nil => simp [listCells, mread]
  | cons v r ih =>
    rw [listCells_cons]
    cases i with
    | zero =>
      rw [mread_append_left _ fun c hc => by have := (wfIn_listCells (a + n) n r).2 c hc; omega]
      exact mread_nzCells a v h
    | succ i =>
      rw [Nat.mul_succ, mread_append_right _ fun c hc => by have := (wfIn_nzCells a n v).2 c hc; omega,
        show a + (n * i + n) + k = a + n + n * i + k by omega]
      exact ih (a + n) i

/-! ### Parts laid one after another -/

/-- A part of a byte store: the addresses that are its own, and its cells, which lie there. -/
structure StorePart where
  lo : Nat
  hi : Nat
  cells : Memory
  within : ∀ c ∈ cells, lo ≤ c.1 ∧ c.1 < hi

/-- The cells of parts one after another. -/
def layout (ps : List StorePart) : Memory := ps.flatMap StorePart.cells

/-- Parts by rising addresses, all from one on. -/
def Rising : Nat → List StorePart → Prop
  | _, [] => True
  | b, p :: r => b ≤ p.lo ∧ p.lo ≤ p.hi ∧ Rising p.hi r

theorem Rising.mem {b : Nat} {ps : List StorePart} (h : Rising b ps) : ∀ p ∈ ps, b ≤ p.lo ∧ p.lo ≤ p.hi := by
  induction ps generalizing b with
  | nil => simp
  | cons q r ih =>
    obtain ⟨hb, hq, hr⟩ := h
    intro p hp
    rcases List.mem_cons.mp hp with rfl | hp
    · exact ⟨hb, hq⟩
    · have := ih hr p hp
      omega

theorem Rising.cells_ne {b x : Nat} {ps : List StorePart} (h : Rising b ps) (hx : x < b) : ∀ c ∈ layout ps, c.1 ≠ x := by
  intro c hc
  obtain ⟨p, hp, hcp⟩ := List.mem_flatMap.mp hc
  have hlo := h.mem p hp
  have hin := p.within c hcp
  omega

/-- A part's own addresses read what its cells hold. -/
theorem mread_layout {b x : Nat} {ps : List StorePart} {p : StorePart} (h : Rising b ps) (hp : p ∈ ps) (hx : p.lo ≤ x ∧ x < p.hi) :
    mread (layout ps) x = mread p.cells x := by
  induction ps generalizing b with
  | nil => simp at hp
  | cons q r ih =>
    obtain ⟨hb, hq, hr⟩ := h
    rw [layout, List.flatMap_cons]
    rcases List.mem_cons.mp hp with rfl | hp
    · exact mread_append_left _ (hr.cells_ne hx.2)
    · rw [mread_append_right _ fun c hc => by have := q.within c hc; have := hr.mem p hp; omega]
      exact ih hr hp

/-- An address after a part and before all later ones reads 0. -/
theorem mread_layout_gap {b x i : Nat} {ps : List StorePart} {p : StorePart} (h : Rising b ps) (hp : ps[i]? = some p) (hx : p.hi ≤ x)
    (hlater : ∀ q, ps[i + 1]? = some q → x < q.lo) : mread (layout ps) x = 0 := by
  induction ps generalizing b i with
  | nil => simp at hp
  | cons q r ih =>
    obtain ⟨hb, hq, hr⟩ := h
    rw [layout, List.flatMap_cons]
    cases i with
    | zero =>
      obtain rfl : q = p := by simpa using hp
      rw [mread_append_right _ fun c hc => by have := q.within c hc; omega]
      cases r with
      | nil => rfl
      | cons q' r =>
        refine mread_not_mem (Rising.cells_ne (b := q'.lo) ⟨Nat.le_refl _, hr.2⟩ (hlater q' (by simp)))
    | succ i =>
      rw [List.getElem?_cons_succ] at hp
      have hmem := List.mem_of_getElem? hp
      rw [mread_append_right _ fun c hc => by
        have := q.within c hc
        have := hr.mem p hmem
        omega]
      exact ih hr hp (fun q' hq' => hlater q' (by simpa using hq'))

/-- A number within a part's own addresses. -/
theorem mreadLE_layout {b x n : Nat} {ps : List StorePart} {p : StorePart} (h : Rising b ps) (hp : p ∈ ps) (hx : p.lo ≤ x ∧ x + n ≤ p.hi) :
    mreadLE (layout ps) x n = mreadLE p.cells x n :=
  mreadLE_congr fun k hk => mread_layout h hp (by omega)

/-! ### Kinds of parts -/

/-- A number of n bytes. -/
def StorePart.num (a n v : Nat) : StorePart := ⟨a, a + n, nzCells a n v, (wfIn_nzCells a n v).2⟩

/-- At most k numbers of n bytes each. -/
def StorePart.list (a n k : Nat) (l : List Nat) (h : l.length ≤ k) : StorePart := ⟨a, a + n * k, listCells a n l, (wfIn_listCells_le h).2⟩

/-- n bytes of a memory from lo on, where b holds. -/
def StorePart.bytes (a n lo : Nat) (m : Memory) (b : Bool) : StorePart :=
  ⟨a, a + n, if b then slice m lo n a else [], fun c hc => by
    cases b with
    | true => exact mem_slice hc
    | false => simp at hc⟩

theorem mreadLE_num {b a n v : Nat} {ps : List StorePart} (h : Rising b ps) (hp : StorePart.num a n v ∈ ps) :
    mreadLE (layout ps) a n = v % 2 ^ (8 * n) := by
  refine (mreadLE_layout h hp ⟨Nat.le_refl _, Nat.le_refl _⟩).trans ?_
  have hbytes := mreadLE_of_bytes (o := 0) (v := v) (m := nzCells a n v) (a := a) (n := n) fun k hk => by
    rw [Nat.zero_add]
    exact mread_nzCells a v hk
  rw [Nat.mul_zero, Nat.pow_zero, Nat.div_one] at hbytes
  exact hbytes

/-- Bytes o to o + j of the i-th of a list of numbers. -/
theorem mreadLE_list {b a n k : Nat} {l : List Nat} {hl : l.length ≤ k} {ps : List StorePart} (h : Rising b ps)
    (hp : StorePart.list a n k l hl ∈ ps) {i o j : Nat} (hi : i < k) (ho : o + j ≤ n) :
    mreadLE (layout ps) (a + n * i + o) j = l.getD i 0 / 2 ^ (8 * o) % 2 ^ (8 * j) := by
  have hle : n * (i + 1) ≤ n * k := Nat.mul_le_mul_left n hi
  rw [Nat.mul_succ] at hle
  rw [mreadLE_layout h hp ⟨by simp only [StorePart.list]; omega, by simp only [StorePart.list]; omega⟩]
  refine mreadLE_of_bytes fun x hx => ?_
  rw [Nat.add_assoc]
  exact mread_listCells a l i (by omega)

theorem mread_bytes {b a n lo : Nat} {m : Memory} {c : Bool} {ps : List StorePart} (h : Rising b ps) (hp : StorePart.bytes a n lo m c ∈ ps)
    {i : Nat} (hi : i < n) : mread (layout ps) (a + i) = if c then mread m (lo + i) else 0 := by
  rw [mread_layout h hp ⟨by simp only [StorePart.bytes]; omega, by simp only [StorePart.bytes]; omega⟩]
  cases c with
  | true => exact mread_slice m lo a hi
  | false => rfl

end Sys2Proof.Machine
end

section
/-! PROOFS. The bytes of a tile's image (06:R130-R133). -/

namespace Sys2Proof.Machine

/-! ### Numbers packed one after another -/

/-- Numbers of so many bytes each, packed from the lowest byte on. -/
def fieldsNat : List (Nat × Nat) → Nat
  | [] => 0
  | (n, v) :: r => v + 2 ^ (8 * n) * fieldsNat r

/-- Each number fits into its bytes. -/
def FieldsFit : List (Nat × Nat) → Prop
  | [] => True
  | (n, v) :: r => v < 2 ^ (8 * n) ∧ FieldsFit r

theorem fieldsNat_field (l r : List (Nat × Nat)) {n v : Nat} (hl : FieldsFit l) (hv : v < 2 ^ (8 * n)) :
    fieldsNat (l ++ (n, v) :: r) / 2 ^ (8 * (l.map Prod.fst).sum) % 2 ^ (8 * n) = v := by
  induction l with
  | nil => simp [fieldsNat, Nat.mod_eq_of_lt hv]
  | cons f l ih =>
    obtain ⟨k, x⟩ := f
    obtain ⟨hx, hrest⟩ := hl
    have hdiv : (x + 2 ^ (8 * k) * fieldsNat (l ++ (n, v) :: r)) / 2 ^ (8 * k) = fieldsNat (l ++ (n, v) :: r) := by
      rw [Nat.add_mul_div_left _ _ (Nat.two_pow_pos _), Nat.div_eq_of_lt hx, Nat.zero_add]
    rw [List.cons_append, fieldsNat, List.map_cons, List.sum_cons, Nat.mul_add, Nat.pow_add, ← Nat.div_div_eq_div_mul, hdiv]
    exact ih hrest

/-- A word fits into the bytes of its bits. -/
theorem toNat_lt_bytes {w n : Nat} (x : BitVec w) (h : w ≤ 8 * n) : x.toNat < 2 ^ (8 * n) := BitVec.toNat_lt_twoPow_of_le h

/-- A power of two, split without its value. -/
theorem two_pow_split {m n k : Nat} (h : m = n + k) : 2 ^ m = 2 ^ n * 2 ^ k := by rw [h, Nat.pow_add]

theorem outNat_fields (o : OutSlot) :
    outNat o = fieldsNat [(64, o.payload.toNat), (4, o.seq.toNat), (4, 0), (8, o.stamp.toNat), (48, 0)] := by
  have h576 : (2 : Nat) ^ 576 = 2 ^ 512 * 2 ^ 64 := two_pow_split rfl
  simp only [outNat, fieldsNat, h576, show 8 * 64 = 512 by rfl, show 8 * 4 = 32 by rfl, show 8 * 8 = 64 by rfl, Nat.mul_zero, Nat.add_zero]
  generalize (2 : Nat) ^ 512 = k
  ring

theorem mirNat_fields (x : Mirror) : mirNat x = fieldsNat [(64, x.payload.toNat), (4, x.seq.toNat), (4, 0), (8, x.stamp.toNat)
    , (8, x.arrival.toNat), (8, x.binding.toNat), (32, 0)] := by
  have h576 : (2 : Nat) ^ 576 = 2 ^ 512 * 2 ^ 64 := two_pow_split rfl
  have h640 : (2 : Nat) ^ 640 = 2 ^ 512 * 2 ^ 128 := two_pow_split rfl
  have h704 : (2 : Nat) ^ 704 = 2 ^ 512 * 2 ^ 192 := two_pow_split rfl
  simp only [mirNat, fieldsNat, h576, h640, h704, show 8 * 64 = 512 by rfl, show 8 * 4 = 32 by rfl, show 8 * 8 = 64 by rfl, Nat.mul_zero,
    Nat.add_zero]
  generalize (2 : Nat) ^ 512 = k
  ring

/-! ### Lists of words in a layout -/

section
variable {b a n k : Nat} {ps : List StorePart} (h : Rising b ps)
include h

/-- A number of a word's bits reads as the word. -/
theorem mreadLE_word {w : Nat} {x : BitVec w} (hp : StorePart.num a n x.toNat ∈ ps) (hw : w ≤ 8 * n) :
    mreadLE (layout ps) a n = x.toNat := by
  rw [mreadLE_num h hp, Nat.mod_eq_of_lt (toNat_lt_bytes x hw)]

/-- The first words of a list, each as a number. -/
theorem mreadLE_words {w : Nat} {l : List (BitVec w)} {hl : ((l.take k).map BitVec.toNat).length ≤ k}
    (hp : StorePart.list a n k ((l.take k).map BitVec.toNat) hl ∈ ps) (hw : w ≤ 8 * n) {i : Nat} (hi : i < k) :
    mreadLE (layout ps) (a + n * i) n = (l.getD i 0).toNat := by
  have hget : ((l.take k).map BitVec.toNat).getD i 0 = (l.getD i 0).toNat := by
    simp only [List.getD_eq_getElem?_getD, List.getElem?_map, List.getElem?_take, if_pos hi]
    cases l[i]? <;> rfl
  have hfield := mreadLE_list h hp (o := 0) (j := n) hi (by omega)
  rw [hget, Nat.mul_zero, Nat.pow_zero, Nat.div_one, Nat.mod_eq_of_lt (toNat_lt_bytes _ hw)] at hfield
  exact hfield

/-- The values of a function, each as a number. -/
theorem mreadLE_values {f : Nat → Nat} {hl : ((List.range k).map f).length ≤ k}
    (hp : StorePart.list a n k ((List.range k).map f) hl ∈ ps) {i : Nat} (hi : i < k) (hv : f i < 2 ^ (8 * n)) :
    mreadLE (layout ps) (a + n * i) n = f i := by
  have hfield := mreadLE_list h hp (o := 0) (j := n) hi (by omega)
  rw [Nat.mul_zero, Nat.pow_zero, Nat.div_one] at hfield
  simp only [List.getD_eq_getElem?_getD, List.getElem?_map, List.getElem?_range hi, Option.map_some, Option.getD_some,
    Nat.mod_eq_of_lt hv] at hfield
  exact hfield

/-- A field of a function's packed values. -/
theorem mreadLE_fields {f : Nat → Nat} {hl : ((List.range k).map f).length ≤ k}
    (hp : StorePart.list a n k ((List.range k).map f) hl ∈ ps) {i : Nat} (hi : i < k) (l r : List (Nat × Nat)) {j v : Nat}
    (hf : f i = fieldsNat (l ++ (j, v) :: r)) (hn : (l.map Prod.fst).sum + j ≤ n) (hlt : FieldsFit l)
    (hv : v < 2 ^ (8 * j)) : mreadLE (layout ps) (a + n * i + (l.map Prod.fst).sum) j = v := by
  rw [mreadLE_list h hp hi hn]
  simp only [List.getD_eq_getElem?_getD, List.getElem?_map, List.getElem?_range hi, Option.map_some, Option.getD_some, hf]
  exact fieldsNat_field l r hlt hv

end

/-! ### Planes (06:R133) -/

/-- The parts of a plane's descriptor. -/
def planeParts (a : Nat) (p : Plane) : List StorePart :=
  [.num a 4 p.woff, .num (a + 4) 1 p.fmt.code.toNat, .num (a + 5) 1 p.loaded.toNat, .num (a + 6) 2 p.outl.length
   , .num (a + 8) 1 (if p.stale then 1 else 0), .list (a + 0x20) 2 16 ((p.codes.take 16).map BitVec.toNat) (by simp)
   , .list (a + 0x40) 8 512 ((p.outl.take 512).map BitVec.toNat) (by simp)]

theorem planeCells_eq (a : Nat) (p : Plane) : planeCells false a p = layout (planeParts a p) := by
  simp [planeCells, layout, planeParts, StorePart.num, StorePart.list]

theorem planeParts_rising (a : Nat) (p : Plane) : Rising a (planeParts a p) := by
  simp [planeParts, Rising, StorePart.num, StorePart.list]

/-- The descriptor's place in an image, its reserved bytes included. -/
def StorePart.plane (a : Nat) (p : Plane) : StorePart :=
  ⟨a, a + 0x2000, planeCells false a p, fun c hc => by have := (wfIn_planeCells false a p).2 c hc; omega⟩

section
variable {b a : Nat} {ps : List StorePart} {p : Plane} (h : Rising b ps) (hp : StorePart.plane a p ∈ ps)
include h hp

theorem mread_plane {x : Nat} (hx : a ≤ x ∧ x < a + 0x2000) : mread (layout ps) x = mread (layout (planeParts a p)) x := by
  rw [← planeCells_eq]
  exact mread_layout h hp hx

/-- What a layout holds of a plane's descriptor. -/
theorem plane_fields : let q := fun off n : Nat => mreadLE (layout ps) off n
    q a 4 = p.woff % 2 ^ 32 ∧ q (a + 4) 1 = p.fmt.code.toNat ∧ q (a + 5) 1 = p.loaded.toNat
      ∧ q (a + 6) 2 = p.outl.length % 2 ^ 16 ∧ q (a + 8) 1 = (if p.stale then 1 else 0) ∧ q (a + 9) 23 = 0
      ∧ (∀ i, i < 16 → q (a + 0x20 + 2 * i) 2 = (p.codes.getD i 0).toNat)
      ∧ (∀ j, j < 512 → q (a + 0x40 + 8 * j) 8 = (p.outl.getD j 0).toNat)
      ∧ ∀ i, 0x1040 ≤ i → i < 0x2000 → mread (layout ps) (a + i) = 0 := by
  have hr := planeParts_rising a p
  have hin : ∀ x n, a ≤ x → x + n ≤ a + 0x2000 → mreadLE (layout ps) x n = mreadLE (layout (planeParts a p)) x n :=
    fun x n h1 h2 => mreadLE_congr fun k hk => mread_plane h hp (by omega)
  dsimp only
  refine ⟨?_, ?_, ?_, ?_, ?_, ?_, fun i hi => ?_, fun j hj => ?_, fun i h1 h2 => ?_⟩
  · rw [hin _ _ (by omega) (by omega)]
    exact mreadLE_num hr (List.mem_of_getElem? (i := 0) rfl)
  · rw [hin _ _ (by omega) (by omega)]
    exact mreadLE_word hr (List.mem_of_getElem? (i := 1) rfl) (by decide)
  · rw [hin _ _ (by omega) (by omega)]
    exact mreadLE_word hr (List.mem_of_getElem? (i := 2) rfl) (by decide)
  · rw [hin _ _ (by omega) (by omega)]
    exact mreadLE_num hr (List.mem_of_getElem? (i := 3) rfl)
  · rw [hin _ _ (by omega) (by omega), mreadLE_num hr (v := if p.stale then 1 else 0) (List.mem_of_getElem? (i := 4) rfl)]
    split <;> rfl
  · rw [hin _ _ (by omega) (by omega)]
    refine mreadLE_zero fun k hk => mread_layout_gap hr (i := 4) rfl (Nat.le_add_right _ _) fun q hq => ?_
    obtain rfl : StorePart.list (a + 0x20) 2 16 ((p.codes.take 16).map BitVec.toNat) (by simp) = q := Option.some.inj hq
    simp only [StorePart.list]
    omega
  · rw [hin _ _ (by omega) (by omega)]
    exact mreadLE_words hr (List.mem_of_getElem? (i := 5) rfl) (by decide) hi
  · rw [hin _ _ (by omega) (by omega)]
    exact mreadLE_words hr (List.mem_of_getElem? (i := 6) rfl) (by decide) hj
  · rw [mread_plane h hp (by omega)]
    exact mread_layout_gap hr (i := 6) rfl (by simp only [StorePart.list]; omega) fun q hq => by simp [planeParts] at hq

end

end Sys2Proof.Machine
end

section
/-! PROOFS. The image of a tile, part by part (06:R130-R133). -/

namespace Sys2Proof.Machine

/-! ### The image's parts -/

/-- The active plane, whose descriptor an image holds first. -/
def ArraySt.active (a : ArraySt) : Plane := if a.active1 then a.plane1 else a.plane0

/-- The shadow plane. -/
def ArraySt.shadow (a : ArraySt) : Plane := if a.active1 then a.plane0 else a.plane1

/-- The parts of the image that a save writes. -/
def imageParts (t : Tile) : List StorePart :=
  [.num 0 4 0x4C485331, .num 4 2 1, .num 6 2 (imageFlags false t), .num 0x10 8 t.bind.routine.toNat
   , .num 0x18 4 t.bind.routlen.toNat, .num 0x1C 4 t.perlenNext, .num 0x20 8 t.pc.toNat, .num 0x28 8 t.clk.perstamp.toNat
   , .num 0x30 8 t.clk.stretch.toNat, .num 0x38 8 t.clk.holds.toNat, .list 0x40 8 10 (headRegs t) (by simp [headRegs])
   , .list 0x90 2 16 ((t.arr.stage.take 16).map BitVec.toNat) (by simp), .num 0xB0 4 t.pcseq.toNat
   , .list 0x1000 8 32 ((List.range 32).map (fun r => (rx t (BitVec.ofNat 5 r)).toNat)) (by simp)
   , .list 0x1100 8 8 ((List.range 8).map (fun r => (rg t (BitVec.ofNat 3 r)).toNat)) (by simp)
   , .list 0x1140 8 4 ((List.range 4).map (fun r => (rb t (BitVec.ofNat 2 r)).toNat)) (by simp)
   , .list 0x2000 256 32 ((List.range 32).map (fun r => (rv t (BitVec.ofNat 5 r)).toNat)) (by simp)
   , .list 0x4000 8 256 ((List.range 256).map (fun i => (tget 0 t.tags i).toNat)) (by simp)
   , .list 0x4800 128 32 ((List.range 32).map (fun i => outNat (tget outInit t.outs i))) (by simp)
   , .list 0x5800 128 64 ((List.range 64).map (fun i => mirNat (tget mirrorInit t.mirs i))) (by simp)
   , .plane 0x8000 t.arr.active, .plane 0xA000 t.arr.shadow, .bytes 0x20000 0x20000 0 t.arr.acc true
   , .bytes 0x40000 0x10000 0x100000 t.mem true, .bytes 0x60000 0x10000 0 t.arr.active.weights t.arr.active.stale
   , .bytes 0x70000 0x10000 0 t.arr.shadow.weights t.arr.shadow.stale, .bytes 0x100000 0x100000 0 t.mem true
   , .bytes 0x200000 0x400000 0 t.arr.wsram t.arr.wsramDirty]

theorem imageOf_eq (t : Tile) : imageOf false t = layout (imageParts t) := by
  rw [layout, List.flatMap_eq_foldl]
  simp only [imageParts, List.foldl_cons, List.foldl_nil, List.nil_append, StorePart.num, StorePart.list, StorePart.plane, StorePart.bytes,
    if_true]
  unfold imageOf
  simp only [Bool.false_or]
  rfl

theorem imageParts_rising (t : Tile) : Rising 0 (imageParts t) := by
  simp [imageParts, Rising, StorePart.num, StorePart.list, StorePart.plane, StorePart.bytes]

section
variable (t : Tile)

/-- The image reads 0 between two parts. -/
theorem image_gap (i : Nat) {p q : StorePart} (hp : (imageParts t)[i]? = some p) (hq : (imageParts t)[i + 1]? = some q) {x : Nat}
    (h1 : p.hi ≤ x) (h2 : x < q.lo) : mread (imageOf false t) x = 0 := by
  rw [imageOf_eq]
  refine mread_layout_gap (imageParts_rising t) hp h1 fun r hr => ?_
  obtain rfl : q = r := Option.some.inj (hq.symm.trans hr)
  exact h2

theorem image_num (i : Nat) {a n v : Nat} (hp : (imageParts t)[i]? = some (.num a n v)) :
    mreadLE (imageOf false t) a n = v % 2 ^ (8 * n) := by
  rw [imageOf_eq]
  exact mreadLE_num (imageParts_rising t) (List.mem_of_getElem? hp)

theorem image_word (i : Nat) {a n w : Nat} {x : BitVec w} (hp : (imageParts t)[i]? = some (.num a n x.toNat)) (hw : w ≤ 8 * n) :
    mreadLE (imageOf false t) a n = x.toNat := by
  rw [imageOf_eq]
  exact mreadLE_word (imageParts_rising t) (List.mem_of_getElem? hp) hw

/-- One of the words from 0x40 on (06:R131). -/
theorem image_head (i : Nat) {w : Nat} {x : BitVec w} (hx : (headRegs t).getD i 0 = x.toNat) (hi : i < 10) (hw : w ≤ 8 * 8) :
    mreadLE (imageOf false t) (0x40 + 8 * i) 8 = x.toNat := by
  have hfield := mreadLE_list (imageParts_rising t) (List.mem_of_getElem? (i := 10) rfl) (o := 0) (j := 8) hi (Nat.le_refl _)
  rw [hx, Nat.mul_zero, Nat.pow_zero, Nat.div_one, Nat.mod_eq_of_lt (toNat_lt_bytes x hw), ← imageOf_eq] at hfield
  exact hfield

section
variable (i : Nat) {a n k w : Nat}

/-- The words of a list. -/
theorem image_words {l : List (BitVec w)} {hl : ((l.take k).map BitVec.toNat).length ≤ k}
    (hp : (imageParts t)[i]? = some (.list a n k ((l.take k).map BitVec.toNat) hl)) (hw : w ≤ 8 * n) {j : Nat} (hj : j < k) :
    mreadLE (imageOf false t) (a + n * j) n = (l.getD j 0).toNat := by
  rw [imageOf_eq]
  exact mreadLE_words (imageParts_rising t) (List.mem_of_getElem? hp) hw hj

/-- The words that a function gives. -/
theorem image_values {f : Nat → BitVec w} {hl : ((List.range k).map (fun j => (f j).toNat)).length ≤ k}
    (hp : (imageParts t)[i]? = some (.list a n k ((List.range k).map (fun j => (f j).toNat)) hl)) (hw : w ≤ 8 * n) {j : Nat} (hj : j < k) :
    mreadLE (imageOf false t) (a + n * j) n = (f j).toNat := by
  rw [imageOf_eq]
  exact mreadLE_values (imageParts_rising t) (List.mem_of_getElem? hp) hj (toNat_lt_bytes _ hw)

/-- The values of the registers of a file. -/
theorem image_registers {z : Nat} {f : BitVec z → BitVec w} {hl : ((List.range k).map (fun r => (f (BitVec.ofNat z r)).toNat)).length ≤ k}
    (hp : (imageParts t)[i]? = some (.list a n k ((List.range k).map (fun r => (f (BitVec.ofNat z r)).toNat)) hl)) (hw : w ≤ 8 * n)
    (hk : 2 ^ z ≤ k) (r : BitVec z) : mreadLE (imageOf false t) (a + n * r.toNat) n = (f r).toNat := by
  have hr := image_values t i (f := fun r => f (BitVec.ofNat z r)) hp hw (Nat.lt_of_lt_of_le r.isLt hk)
  rwa [BitVec.ofNat_toNat, BitVec.setWidth_eq] at hr

end

/-! ### The header (06:R131) -/

theorem imageFlags_eq : imageFlags false t
    = (if t.arr.wsramDirty then 1 else 0) + (if t.arr.active.stale then 2 else 0) + (if t.arr.shadow.stale then 4 else 0) := by
  simp only [imageFlags, Bool.false_or]
  rfl

/-- SVALID's place, which the image leaves at 0. -/
theorem image_svalid : mreadLE (imageOf false t) 8 8 = 0 :=
  mreadLE_zero fun k hk => image_gap t 2 rfl rfl (Nat.le_add_right 8 k) (Nat.add_lt_add_left hk 8)

theorem image_flags : mreadLE (imageOf false t) 6 2
    = (if t.arr.wsramDirty then 1 else 0) + (if t.arr.active.stale then 2 else 0) + (if t.arr.shadow.stale then 4 else 0) := by
  rw [image_num t 2 (v := imageFlags false t) rfl, imageFlags_eq]
  refine Nat.mod_eq_of_lt ?_
  split <;> split <;> split <;> decide

/-- The bits of a predicate, summed from the lowest on. -/
theorem sum_bits (p : Nat → Prop) [DecidablePred p] (n : Nat) :
    let v := (List.range n).foldl (fun m k => if p k then m + 2 ^ k else m) 0
    v < 2 ^ n ∧ ∀ k, k < n → (v.testBit k = true ↔ p k) := by
  induction n with
  | zero => simp
  | succ n ih =>
    obtain ⟨hlt, hbit⟩ := ih
    dsimp only at hlt hbit ⊢
    rw [List.range_succ, List.foldl_append, List.foldl_cons, List.foldl_nil]
    generalize (List.range n).foldl (fun m k => if p k then m + 2 ^ k else m) 0 = v at hlt hbit
    have hpow : 2 ^ (n + 1) = 2 ^ n + 2 ^ n := by rw [Nat.pow_succ, Nat.mul_two]
    split
    · next hn =>
      refine ⟨by omega, fun k hk => ?_⟩
      rw [Nat.add_comm v]
      rcases Nat.lt_or_eq_of_le (Nat.le_of_lt_succ hk) with hlow | rfl
      · rw [Nat.testBit_two_pow_add_gt hlow, hbit k hlow]
      · simp [Nat.testBit_two_pow_add_eq, Nat.testBit_lt_two_pow hlt, hn]
    · next hn =>
      refine ⟨by omega, fun k hk => ?_⟩
      rcases Nat.lt_or_eq_of_le (Nat.le_of_lt_succ hk) with hlow | rfl
      · exact hbit k hlow
      · simp [Nat.testBit_lt_two_pow hlt, hn]

/-- BANDAWAKE, a bit for each band that is awake. -/
def bandMask (t : Tile) : Nat := (List.range 4).foldl (fun m k => if t.arr.band.toList.getD k .asleep = .awake then m + 2 ^ k else m) 0

theorem bandMask_spec : bandMask t < 2 ^ 4 ∧ ∀ k : Fin 4, (bandMask t).testBit k = true ↔ t.arr.band[k] = .awake := by
  obtain ⟨hlt, hbit⟩ := sum_bits (fun k => t.arr.band.toList.getD k .asleep = .awake) 4
  refine ⟨hlt, fun k => ?_⟩
  rw [bandMask, hbit k k.isLt]
  simp [List.getD_eq_getElem?_getD]

theorem image_bands : mreadLE (imageOf false t) 0x80 8 < 16
    ∧ ∀ k : Fin 4, (mreadLE (imageOf false t) 0x80 8).testBit k = true ↔ t.arr.band[k] = .awake := by
  have hfield := mreadLE_list (imageParts_rising t) (List.mem_of_getElem? (i := 10) rfl) (i := 8) (o := 0) (j := 8)
    (by decide) (Nat.le_refl _)
  obtain ⟨hlt, hbit⟩ := bandMask_spec t
  rw [show (headRegs t).getD 8 0 = bandMask t from rfl, Nat.mul_zero, Nat.pow_zero, Nat.div_one,
    Nat.mod_eq_of_lt (Nat.lt_trans hlt (by decide)), ← imageOf_eq] at hfield
  rw [show 0x80 = 0x40 + 8 * 8 + 0 by rfl, hfield]
  exact ⟨hlt, hbit⟩

/-! ### Out-slots and mirrors (06:R130) -/

theorem image_out {i : Nat} (hi : i < 32) : let q := fun off n : Nat => mreadLE (imageOf false t) off n
    let a := 0x4800 + 128 * i
    let x := tget outInit t.outs i
    q a 64 = x.payload.toNat ∧ q (a + 64) 4 = x.seq.toNat ∧ q (a + 68) 4 = 0 ∧ q (a + 72) 8 = x.stamp.toNat ∧ q (a + 80) 48 = 0 := by
  intro q a x
  have hpay := toNat_lt_bytes (n := 64) x.payload (by decide)
  have hseq := toNat_lt_bytes (n := 4) x.seq (by decide)
  have hstamp := toNat_lt_bytes (n := 8) x.stamp (by decide)
  have hpad : 0 < 2 ^ (8 * 48) := pow_pos Nat.two_pos _
  have field := fun l r {j v} hf => mreadLE_fields (imageParts_rising t) (List.mem_of_getElem? (i := 18) rfl) hi l r (j := j) (v := v)
    ((outNat_fields x).trans hf)
  rw [← imageOf_eq] at field
  refine ⟨field [] _ rfl (by simp) trivial hpay, field [(64, _)] _ rfl (by simp) ⟨hpay, trivial⟩ hseq, ?_, ?_, ?_⟩
  · exact field [(64, _), (4, _)] _ rfl (by simp) ⟨hpay, hseq, trivial⟩ (Nat.two_pow_pos _)
  · exact field [(64, _), (4, _), (4, 0)] _ rfl (by simp) ⟨hpay, hseq, Nat.two_pow_pos _, trivial⟩ hstamp
  · exact field [(64, _), (4, _), (4, 0), (8, _)] [] rfl (by simp) ⟨hpay, hseq, Nat.two_pow_pos _, hstamp, trivial⟩ hpad

theorem image_mirror {i : Nat} (hi : i < 64) : let q := fun off n : Nat => mreadLE (imageOf false t) off n
    let a := 0x5800 + 128 * i
    let x := tget mirrorInit t.mirs i
    q a 64 = x.payload.toNat ∧ q (a + 64) 4 = x.seq.toNat ∧ q (a + 68) 4 = 0 ∧ q (a + 72) 8 = x.stamp.toNat
      ∧ q (a + 80) 8 = x.arrival.toNat ∧ q (a + 88) 8 = x.binding.toNat ∧ q (a + 96) 32 = 0 := by
  intro q a x
  have hpay := toNat_lt_bytes (n := 64) x.payload (by decide)
  have hseq := toNat_lt_bytes (n := 4) x.seq (by decide)
  have hzero := Nat.two_pow_pos (8 * 4)
  have hstamp := toNat_lt_bytes (n := 8) x.stamp (by decide)
  have harr := toNat_lt_bytes (n := 8) x.arrival (by decide)
  have hbind := toNat_lt_bytes (n := 8) x.binding (by decide)
  have field := fun l r {j v} hf => mreadLE_fields (imageParts_rising t) (List.mem_of_getElem? (i := 19) rfl) hi l r (j := j) (v := v)
    ((mirNat_fields x).trans hf)
  rw [← imageOf_eq] at field
  refine ⟨field [] _ rfl (by simp) trivial hpay, field [(64, _)] _ rfl (by simp) ⟨hpay, trivial⟩ hseq, ?_, ?_, ?_, ?_, ?_⟩
  · exact field [(64, _), (4, _)] _ rfl (by simp) ⟨hpay, hseq, trivial⟩ hzero
  · exact field [(64, _), (4, _), (4, 0)] _ rfl (by simp) ⟨hpay, hseq, hzero, trivial⟩ hstamp
  · exact field [(64, _), (4, _), (4, 0), (8, _)] _ rfl (by simp) ⟨hpay, hseq, hzero, hstamp, trivial⟩ harr
  · exact field [(64, _), (4, _), (4, 0), (8, _), (8, _)] _ rfl (by simp) ⟨hpay, hseq, hzero, hstamp, harr, trivial⟩ hbind
  · exact field [(64, _), (4, _), (4, 0), (8, _), (8, _), (8, _)] [] rfl (by simp) ⟨hpay, hseq, hzero, hstamp, harr, hbind, trivial⟩
      (Nat.two_pow_pos _)

/-! ### Planes, stores, and what is reserved (06:R132, R133) -/

/-- The descriptor and the weights of a plane of an image. -/
theorem image_plane (i k : Nat) {a w : Nat} {pl : Plane} (hp : (imageParts t)[i]? = some (.plane a pl))
    (hw : (imageParts t)[k]? = some (.bytes w 0x10000 0 pl.weights pl.stale)) :
    let q := fun off n : Nat => mreadLE (imageOf false t) off n
    q a 4 = pl.woff % 2 ^ 32 ∧ q (a + 4) 1 = pl.fmt.code.toNat ∧ q (a + 5) 1 = pl.loaded.toNat
      ∧ q (a + 6) 2 = pl.outl.length % 2 ^ 16 ∧ q (a + 8) 1 = (if pl.stale then 1 else 0) ∧ q (a + 9) 23 = 0
      ∧ (∀ i, i < 16 → q (a + 0x20 + 2 * i) 2 = (pl.codes.getD i 0).toNat)
      ∧ (∀ j, j < 512 → q (a + 0x40 + 8 * j) 8 = (pl.outl.getD j 0).toNat)
      ∧ (∀ i, 0x1040 ≤ i → i < 0x2000 → mread (imageOf false t) (a + i) = 0)
      ∧ ∀ i, i < 0x10000 → mread (imageOf false t) (w + i) = if pl.stale then mread pl.weights i else 0 := by
  have hr := imageParts_rising t
  obtain ⟨h1, h2, h3, h4, h5, h6, h7, h8, h9⟩ := plane_fields hr (List.mem_of_getElem? hp)
  rw [imageOf_eq]
  refine ⟨h1, h2, h3, h4, h5, h6, h7, h8, h9, fun i hi => ?_⟩
  rw [mread_bytes hr (List.mem_of_getElem? hw) hi, Nat.zero_add]

/-- The bytes of one of the tile's stores. -/
theorem image_store (i : Nat) {a n lo : Nat} {m : Memory} {c : Bool} (hp : (imageParts t)[i]? = some (.bytes a n lo m c)) :
    ∀ x, x < n → mread (imageOf false t) (a + x) = if c then mread m (lo + x) else 0 := by
  rw [imageOf_eq]
  exact fun x hx => mread_bytes (imageParts_rising t) (List.mem_of_getElem? hp) hx

/-- What lies between the parts reads 0. -/
theorem image_reserved :
    ∀ e ∈ [(0xB4, 0x1000), (0x1160, 0x2000), (0x7800, 0x8000), (0xC000, 0x20000), (0x50000, 0x60000), (0x80000, 0x100000)], ∀ a, e.1 ≤ a → a < e.2 → mread (imageOf false t) a = 0 := by
  simp only [List.forall_mem_cons, List.not_mem_nil, false_implies, implies_true, and_true]
  exact ⟨fun a => image_gap t 12 rfl rfl, fun a => image_gap t 15 rfl rfl, fun a => image_gap t 19 rfl rfl, fun a => image_gap t 21 rfl rfl,
    fun a => image_gap t 23 rfl rfl, fun a => image_gap t 25 rfl rfl⟩

end

end Sys2Proof.Machine
end

section
/-! PROOFS. Holds and stretched cycles (01:R28). -/

namespace Sys2Proof.Machine

/-- The present cycle is stretched. -/
def stretchNow (t : Tile) : Tile := { t with clk := { t.clk with stretched := true } }

/-- The next cycle is to be stretched. -/
def stretchNext (t : Tile) : Tile := { t with clk := { t.clk with droop := true } }

/-- A change of one tile. -/
theorem onTile_leaves (s : State) (p : Nat) (f : Tile → Tile) : let t := s.onTile p f
    t.tile p = f (s.tile p) ∧ t.occause = s.occause ∧ ∀ q, q ≠ p → t.tile q = s.tile q :=
  ⟨tile_onTile_self .., rfl, fun q hq => tile_onTile_other s p q f hq⟩

section
variable {s : State} {p : Nat}

/-- No sample waits for the end of the hold. -/
theorem takeLate_none (h : ∀ j ∈ (s.tile p).jobs, (s.tile p).abs ≤ j.cyc) : takeLate p s = s := by
  have hlate : (s.tile p).jobs.filter (fun j => decide (j.cyc < (s.tile p).abs)) = [] := by
    rw [List.filter_eq_nil_iff]
    intro j hj
    simpa using h j hj
  simp [takeLate, hlate]

/-- A hold ends. -/
theorem exec_holdEnd (hp : (s.tile p).phase = .held) (hs : (s.tile p).state = 2) : exec (.holdEnd p) s = .next ((takeLate p s).onTile p
    (fun t => { t with phase := .run, clk := { t.clk with start := s.now, stretched := false } })) := by
  change execHoldEnd p s = _
  simp [execHoldEnd, hp, hs]

/-- The tile goes on with its next cycle, unless samples wait. -/
theorem holdEnd_leaves (hp : (s.tile p).phase = .held) (hs : (s.tile p).state = 2) (hj : ∀ j ∈ (s.tile p).jobs, (s.tile p).abs ≤ j.cyc) :
    Gives (.holdEnd p) s (fun t => (t.tile p).phase = .run ∧ (t.tile p).clk.start = s.now ∧ (t.tile p).regs = (s.tile p).regs
      ∧ (t.tile p).cyc = (s.tile p).cyc ∧ (t.tile p).clk.stretched = false ∧ ∀ q, q ≠ p → t.tile q = s.tile q) := by
  refine ⟨_, exec_holdEnd hp hs, ?_⟩
  rw [takeLate_none hj]
  dsimp only
  rw [tile_onTile_self]
  exact ⟨rfl, rfl, rfl, rfl, rfl, fun q hq => tile_onTile_other _ _ _ _ hq⟩

/-- A droop before the issue of the cycle, which is not stretched yet. -/
theorem exec_droopStretch_before (hi : issuing (s.tile p) = true) (h : (s.tile p).issued = false)
    (hs : (s.tile p).clk.stretched = false) : exec (.droopStretch p) s = .next (if (s.tile p).clk.since < 16
      then { s with occause := s.occause ||| 8 } else s.onTile p stretchNow) := by
  change execDroopStretch p s = _
  simp only [execDroopStretch, hi, h, hs]
  exact (apply_ite Host.Outcome.next ..).symm

/-- A droop after it: the next cycle's. -/
theorem exec_droopStretch_after (hi : issuing (s.tile p) = true) (h : (s.tile p).issued = true)
    (hd : (s.tile p).clk.droop = false) : exec (.droopStretch p) s = .next (if sinceNext (s.tile p).clk < 16
      then { s with occause := s.occause ||| 8 } else s.onTile p stretchNext) := by
  change execDroopStretch p s = _
  simp only [execDroopStretch, hi, h, hd]
  exact (apply_ite Host.Outcome.next ..).symm

end

end Sys2Proof.Machine
end

section
/-! PROOFS. A save's end: what it writes, and what it leaves of the tiles and of its context (06:R129). -/

namespace Sys2Proof.Machine

theorem dvaLines_memoryOnly (ctx : BitVec 16) (dva : X) (f : Nat → Line) (j n : Nat) (s : State) :
    MemoryOnly s (dvaLines ctx dva f j n s) := by
  induction n generalizing j s with
  | zero => exact .refl s
  | succ n ih =>
    unfold dvaLines
    refine .trans ?_ (ih _ _)
    split
    · next da tag _ =>
      have hstore : MemoryOnly s (devStore s tag da (f j)) := rfl
      exact hstore.trans (bufferStale_memoryOnly ..)
    · exact .refl s
    · exact .refl s

/-- Another tile of the pack left the device: a tile's mirrors may name it as their writer. -/
def WriterNoted (t u : Tile) : Prop :=
  u = { t with mirs := u.mirs } ∧ ∀ m, let x := tget mirrorInit u.mirs m
    x = { tget mirrorInit t.mirs m with writer := x.writer }

theorem WriterNoted.refl (t : Tile) : WriterNoted t t := ⟨rfl, fun _ => rfl⟩

/-- Mirror m with its writer, where it is bound to a logical tile of the package. -/
def markedMirror (pkg : BitVec 13) (idx lt m : Nat) (x : Mirror) : Mirror :=
  if decide (m < 60) && bindBound x.binding && bindKind x.binding == 0 && bindPkg x.binding == pkg && bindTile x.binding == lt
  then { x with writer := some idx } else x

/-- A tile with the writers of those of its mirrors. -/
def markWriter (pkg : BitVec 13) (idx lt : Nat) (t : Tile) : Tile :=
  { t with mirs := t.mirs.map (fun (m, x) =>
    if decide (m < 60) && bindBound x.binding && bindKind x.binding == 0 && bindPkg x.binding == pkg && bindTile x.binding == lt
    then (m, { x with writer := some idx }) else (m, x)) }

theorem markWriter_mirror (pkg : BitVec 13) (idx lt : Nat) (t : Tile) (m : Nat) :
    tget mirrorInit (markWriter pkg idx lt t).mirs m = markedMirror pkg idx lt m (tget mirrorInit t.mirs m) := by
  refine tget_map (markedMirror pkg idx lt) (fun j x => ?_) mirrorInit t.mirs m (if_neg (by simp [mirrorInit, bindBound]))
  unfold markedMirror
  dsimp only
  split <;> rfl

theorem markWriter_noted (pkg : BitVec 13) (idx lt : Nat) (t : Tile) : WriterNoted t (markWriter pkg idx lt t) := by
  refine ⟨rfl, fun m => ?_⟩
  rw [markWriter_mirror]
  unfold markedMirror
  split <;> rfl

theorem noteWriter_tile (c : Ctx) (idx lt : Nat) (s : State) (q : Nat) : WriterNoted (s.tile q) ((noteWriter c idx lt s).tile q) := by
  have hq : (noteWriter c idx lt s).tile q = if ofCtx c (s.tile q) then markWriter s.pkg idx lt (s.tile q) else s.tile q := by
    refine tget_map (fun _ t => if ofCtx c t then markWriter s.pkg idx lt t else t) (fun j t => ?_) tileInit s.tiles q ?_
    · dsimp only
      split <;> rfl
    · split <;> rfl
  rw [hq]
  split
  · exact markWriter_noted ..
  · exact .refl _

/-- The tile is noted as saved in its context. -/
theorem noteSaved_spec (p : Nat) (s : State) : (noteSaved p s).mem = s.mem ∧ (∀ q, WriterNoted (s.tile q) ((noteSaved p s).tile q))
    ∧ ((∃ c ∈ s.ctxs, ofCtx c (s.tile p) = true) → ∀ c ∈ (noteSaved p s).ctxs, c.id = (s.tile p).bind.ctx →
        (s.tile p).packIdx.toNat ∈ c.saved) := by
  unfold noteSaved
  split
  · next hnone =>
    refine ⟨rfl, fun q => .refl _, fun ⟨c, hc, hof⟩ => ?_⟩
    exact absurd hof (by simpa using List.find?_eq_none.mp hnone c hc)
  · next c hc =>
    have hid : c.id = (s.tile p).bind.ctx := by
      have hof := List.find?_some hc
      simp only [ofCtx, Bool.and_eq_true, beq_iff_eq] at hof
      exact hof.1.symm
    refine ⟨rfl, fun q => noteWriter_tile .., fun _ d hd hdid => ?_⟩
    obtain ⟨e, -, rfl⟩ := List.mem_map.mp hd
    by_cases he : e.id = c.id
    · simp [he]
    · refine absurd hdid ?_
      simp [he, ← hid]

/-- What the end of a save does: the lines of the image, then SVALID, then the notes in the context, then the tile. -/
def savedLines (p : Nat) (s : State) : State :=
  let o := s.tile p
  let m := imageOf false o
  dvaWrite o.bind.ctx (o.bind.savearea + 8) 8 (2 ^ 63 + o.bind.ctx.toNat)
    (dvaLines o.bind.ctx o.bind.savearea (fun j => mreadLine m (64 * j)) 0 (if o.arr.wsramDirty then 0x18000 else 0x8000) s)

/-- A tile off the device. -/
def savedTile (t : Tile) : Tile :=
  { t with state := 0, phase := .off, bind := { t.bind with ctx := 0 }, tickets := [], arr := { t.arr with wsramDirty := false } }

theorem savedLines_memoryOnly (p : Nat) (s : State) : MemoryOnly s (savedLines p s) :=
  (dvaLines_memoryOnly ..).trans (dvaWrite_memoryOnly ..)

theorem exec_saveComplete {s : State} {p : Nat} (hs : (s.tile p).state = 4) (ho : outstanding s (whoOf (s.tile p)) = false)
    (hq : (s.tile p).port.queue = []) :
    exec (.saveComplete p) s = .next ((noteSaved p (savedLines p s)).onTile p savedTile) := by
  change execSaveComplete p s = _
  simp only [execSaveComplete, saveWaits, hs, ho, hq]
  rfl

theorem exec_saveComplete_waits {s : State} {p : Nat} (h : outstanding s (whoOf (s.tile p)) = true ∨ (s.tile p).port.queue ≠ []) :
    exec (.saveComplete p) s = .next s := by
  refine if_pos ?_
  rcases h with h | h <;> simp [saveWaits, h]

/-- What the end of a save leaves. -/
theorem saved_leaves (s : State) (p : Nat) : let o := s.tile p
    let t := (noteSaved p (savedLines p s)).onTile p savedTile
    (t.tile p).state = 0 ∧ (t.tile p).phase = .off ∧ (t.tile p).bind.ctx = 0 ∧ (t.tile p).regs = o.regs
      ∧ ((∃ c ∈ s.ctxs, ofCtx c o = true) → ∀ c ∈ t.ctxs, c.id = o.bind.ctx → o.packIdx.toNat ∈ c.saved)
      ∧ t.mem = (savedLines p s).mem ∧ ∀ q, q ≠ p → WriterNoted (s.tile q) (t.tile q) := by
  intro o t
  have hm := savedLines_memoryOnly p s
  obtain ⟨hmem, htiles, hctxs⟩ := noteSaved_spec p (savedLines p s)
  rw [hm.tile p, hm.ctxs] at hctxs
  have hp : t.tile p = savedTile ((noteSaved p (savedLines p s)).tile p) := tile_onTile_self ..
  have hregs : ((noteSaved p (savedLines p s)).tile p).regs = o.regs := by
    rw [(htiles p).1, hm.tile p]
  refine ⟨by rw [hp]; rfl, by rw [hp]; rfl, by rw [hp]; rfl, by rw [hp]; exact hregs, hctxs, hmem, fun q hq => ?_⟩
  rw [show t.tile q = _ from tile_onTile_other _ _ _ _ hq, ← hm.tile q]
  exact htiles q

end Sys2Proof.Machine
end

section
/-! PROOFS. A kill: how it stops a tile, and how it completes (06:R136). -/

namespace Sys2Proof.Machine

/-! ### Held operations are discarded -/

/-- An operation of a tile whose held lines are discarded. -/
def droppedOp (sel : Who → Bool) (o : MemOp) : MemOp :=
  if sel o.who && (o.held || o.lines.any (fun l => !l.ready)) then
    { o with lines := o.lines.map (fun l => if lineDone l then l else { l with dropped := true }), reported := true }
  else o

/-- Nothing of a held operation is left to do. -/
theorem droppedOp_done {sel : Who → Bool} {o : MemOp} (hs : sel (droppedOp sel o).who = true) (hh : (droppedOp sel o).held = true) :
    ∀ l ∈ (droppedOp sel o).lines, l.performed = true ∨ l.dropped = true := by
  have hwho : (droppedOp sel o).who = o.who ∧ (droppedOp sel o).held = o.held := by
    unfold droppedOp
    split <;> exact ⟨rfl, rfl⟩
  rw [hwho.1] at hs
  rw [hwho.2] at hh
  have hdrop : droppedOp sel o
      = { o with lines := o.lines.map (fun l => if lineDone l then l else { l with dropped := true }), reported := true } :=
    if_pos (by simp [hs, hh])
  rw [hdrop]
  intro l hl
  obtain ⟨l0, -, rfl⟩ := List.mem_map.mp hl
  split
  · next h => simpa [lineDone] using h
  · exact .inr rfl

/-- An operation of another tile is kept as long as something of it is to come. -/
theorem mem_dropHeld {sel : Who → Bool} {s : State} {o : MemOp} (h : o ∈ s.ops) (hs : sel o.who = false) (ha : opAlive s o = true) :
    o ∈ (dropHeld sel s).ops := by
  have hsame : droppedOp sel o = o := if_neg (by simp [hs])
  exact List.mem_filter.mpr ⟨List.mem_map.mpr ⟨o, h, hsame⟩, ha⟩

/-- Of one tile everything held is discarded; of the others nothing that is still to come. -/
theorem dropHeld_leaves (w : Who) (s : State) : let t := dropHeld (fun v => v == w) s
    t = { s with ops := t.ops } ∧ (∀ q ∈ t.ops, q.who = w → q.held = true → ∀ l ∈ q.lines, l.performed = true ∨ l.dropped = true)
      ∧ ∀ q ∈ s.ops, q.who ≠ w → opAlive s q = true → q ∈ t.ops := by
  refine ⟨rfl, fun q hq hw hh => ?_, fun q hq hw ha => mem_dropHeld hq (beq_eq_false_iff_ne.mpr hw) ha⟩
  obtain ⟨o, -, rfl⟩ := List.mem_map.mp (List.mem_filter.mp hq).1
  exact droppedOp_done (sel := fun v => v == w) (o := o) (beq_iff_eq.mpr hw) hh

/-! ### A kill stops a tile -/

theorem sendPost_tiles (id slot : Nat) (payload : Line) (seq : BitVec 32) (stamp : X) (stamped : Nat) (s : State) :
    (sendPost id slot payload seq stamp stamped s).tiles = s.tiles ∧ (sendPost id slot payload seq stamp stamped s).turn = s.turn := by
  unfold sendPost
  split
  · exact ⟨rfl, rfl⟩
  · dsimp only
    split <;> exact ⟨rfl, rfl⟩

theorem onTl_eq_onTile (s : State) (f : Tile → Tile) : s.onTl f = s.onTile s.turn f := rfl

theorem postOut_keeps (id slot : Nat) (payload : Line) (stamp : X) (stamped : Nat) (s : State) :
    KeepsRegs s (postOut id slot payload stamp stamped s) := by
  unfold postOut
  extract_lets o
  set v := s.onTl (fun t => { t with outs := tset t.outs slot o }) with hv
  have hkeep : KeepsRegs s v := by
    rw [hv, onTl_eq_onTile]
    refine keepsRegs_onTile s s.turn fun _ => ?_
    exact ⟨rfl, rfl⟩
  obtain ⟨htiles, hturn⟩ := sendPost_tiles id slot payload o.seq stamp stamped v
  refine ⟨hturn, fun p => ?_⟩
  rw [State.tile, htiles]
  exact hkeep.2 p

theorem sendIssued_keeps (s : State) (j : Job) : KeepsRegs s (sendIssued j s) := by
  unfold sendIssued
  split
  · exact postOut_keeps ..
  · exact postOut_keeps ..
  · exact ⟨rfl, fun _ => ⟨rfl, rfl⟩⟩

theorem sendPosts_keeps (s : State) : KeepsRegs s (sendPosts s) := by
  unfold sendPosts
  generalize s.tl.jobs = l
  induction l generalizing s with
  | nil => exact ⟨rfl, fun _ => ⟨rfl, rfl⟩⟩
  | cons j l ih =>
    obtain ⟨hturn, htiles⟩ := sendIssued_keeps s j
    obtain ⟨hturn', htiles'⟩ := ih (sendIssued j s)
    exact ⟨hturn'.trans hturn, fun p => ⟨(htiles' p).1.trans (htiles p).1, (htiles' p).2.trans (htiles p).2⟩⟩

section
variable {s : State} {p : Nat} (hk : beingKilled s (s.tile p).bind.ctx = true)
include hk

theorem exec_killTileStop_halted (ht : takesPosts (s.tile p) = false) :
    exec (.killTileStop p) s = .next (dropHeld (fun w => w == whoOf (s.tile p)) s) := by
  change execKillTileStop p s = _
  simp [execKillTileStop, hk, ht]

theorem exec_killTileStop (ht : takesPosts (s.tile p) = true) :
    exec (.killTileStop p) s = .next (freeLeases (whoOf (s.tile p)) (dropHeld (fun w => w == whoOf (s.tile p))
      (({ sendPosts { s with turn := p } with turn := s.turn } : State).onTile p stopTile))) := by
  change execKillTileStop p s = _
  simp [execKillTileStop, hk, ht]

end

/-- The tile that a kill leaves. -/
theorem stopped_tile (s : State) (p : Nat) (w : Who) (sel : Who → Bool) :
    let u := (freeLeases w (dropHeld sel (({ sendPosts { s with turn := p } with turn := s.turn } : State).onTile p stopTile))).tile p
    u.state = 3 ∧ u.phase = .off ∧ u.pend = [] ∧ u.jobs = [] ∧ u.loops = [] ∧ u.slip = none ∧ u.regs = (s.tile p).regs
      ∧ u.mem = (s.tile p).mem := by
  set v : State := { sendPosts { s with turn := p } with turn := s.turn }
  intro u
  obtain ⟨-, hkeep⟩ := sendPosts_keeps { s with turn := p }
  obtain ⟨hregs, hmem⟩ : (v.tile p).regs = (s.tile p).regs ∧ (v.tile p).mem = (s.tile p).mem := hkeep p
  obtain ⟨-, hlease⟩ := LeaseTraffic.freeLeases (s := dropHeld sel (v.onTile p stopTile)) (w := w)
  have hu := hlease p
  rw [show (dropHeld sel (v.onTile p stopTile)).tile p = stopTile (v.tile p) from tile_onTile_self ..] at hu
  change u = _ at hu
  rw [hu]
  exact ⟨rfl, rfl, rfl, rfl, rfl, rfl, hregs, hmem⟩

/-! ### A kill completes -/

/-- A place that is empty: nothing is bound, and registers and scratchpad are zero. -/
def Vacated (t : Tile) : Prop := t.state = 0 ∧ t.bind.ctx = 0 ∧ (∀ r : BitVec 5, rx t r = 0) ∧ t.mem = []

theorem rx_clearTile (t : Tile) (r : BitVec 5) : rx (clearTile t) r = 0 := by
  unfold rx
  split
  · rfl
  · exact Vector.getElem_replicate _

theorem vacated_clearTile (t : Tile) : Vacated { clearTile t with state := 0 } := ⟨rfl, rfl, rx_clearTile t, rfl⟩

/-- A tile of a killed context gives its place back. -/
def vacate (s : State) (e : Nat × Tile) : State := (freeLeases (whoOf e.2) s).onTile e.1 (fun t => { clearTile t with state := 0 })

theorem vacate_self (s : State) (e : Nat × Tile) : Vacated ((vacate s e).tile e.1) := by
  rw [vacate, tile_onTile_self]
  exact vacated_clearTile _

theorem vacate_keeps {s : State} {p : Nat} (e : Nat × Tile) (h : Vacated (s.tile p)) : Vacated ((vacate s e).tile p) := by
  by_cases hp : p = e.1
  · rw [hp]
    exact vacate_self s e
  · obtain ⟨-, hlease⟩ := LeaseTraffic.freeLeases (s := s) (w := whoOf e.2)
    rw [vacate, tile_onTile_other _ _ _ _ hp, hlease p]
    exact h

theorem foldl_vacate {s : State} {p : Nat} {l : List (Nat × Tile)} (h : Vacated (s.tile p) ∨ ∃ e ∈ l, e.1 = p) :
    Vacated ((l.foldl vacate s).tile p) := by
  induction l generalizing s with
  | nil => simpa using h
  | cons e l ih =>
    refine ih ?_
    rcases h with h | ⟨e', he', rfl⟩
    · exact .inl (vacate_keeps e h)
    · rcases List.mem_cons.mp he' with rfl | he'
      · exact .inl (vacate_self s e')
      · exact .inr ⟨e', he', rfl⟩

theorem mem_of_tfind {α : Type} {t : Table α} {k : Nat} {v : α} (h : tfind t k = some v) : (k, v) ∈ t := by
  induction t with
  | nil => simp [tfind] at h
  | cons e r ih =>
    obtain ⟨j, w⟩ := e
    simp only [tfind] at h
    split at h
    · next hj =>
      cases h
      exact hj ▸ List.mem_cons_self ..
    · exact List.mem_cons_of_mem _ (ih h)

/-- A tile that a context has is listed. -/
theorem mem_tiles_of_ofCtx {s : State} {c : Ctx} {p : Nat} (hc : c.id ≠ 0) (h : ofCtx c (s.tile p) = true) : (p, s.tile p) ∈ s.tiles := by
  cases hf : tfind s.tiles p with
  | none =>
    have hinit : s.tile p = tileInit := by simp [State.tile, tget, hf]
    rw [hinit] at h
    simp only [ofCtx, Bool.and_eq_true, beq_iff_eq] at h
    exact absurd h.1.symm hc
  | some t =>
    have ht : s.tile p = t := by simp [State.tile, tget, hf]
    exact ht ▸ mem_of_tfind hf

theorem ctxLstat_ctxs (c : Ctx) (v : Nat) (s : State) : (ctxLstat c v s).ctxs = s.ctxs := by
  unfold ctxLstat
  split
  · exact writeLstat_ctxs ..
  · rfl

theorem ctxLstat_tiles (c : Ctx) (v : Nat) (s : State) : (ctxLstat c v s).tiles = s.tiles := by
  unfold ctxLstat
  split
  · exact writeLstat_tiles ..
  · rfl

/-- The state after the tiles of a context have given their places back. -/
def vacateAll (c : Ctx) (s : State) : State := (s.tiles.filter (fun e => ofCtx c e.2)).foldl vacate s

theorem exec_killComplete {s : State} {ctx : BitVec 16} {c : Ctx} (hc : s.ctxs.find? (fun d => d.id == ctx && d.killing) = some c)
    (ht : ∀ e ∈ s.tiles, ofCtx c e.2 = true → e.2.phase = .off ∧ e.2.state ≠ 1 ∧ e.2.state ≠ 2 ∧ e.2.state ≠ 4)
    (ho : ∀ o ∈ s.ops, o.who.ctx = ctx → o.who.life = c.life → o.lines.all lineDone = true) :
    exec (.killComplete ctx) s
      = .next (ctxLstat c 4 { vacateAll c s with ctxs := (vacateAll c s).ctxs.filter (fun d => d.id != ctx) }) := by
  have htiles : s.tiles.any (fun (_, t) => ofCtx c t && (t.phase != .off || t.state == 1 || t.state == 2 || t.state == 4)) = false := by
    rw [List.any_eq_false]
    intro e he
    cases hof : ofCtx c e.2 with
    | false => simp [hof]
    | true =>
      obtain ⟨hp, h1, h2, h4⟩ := ht e he hof
      simpa [hof, hp] using ⟨⟨h1, h2⟩, h4⟩
  have hops : s.ops.any (fun o => o.who.ctx == ctx && o.who.life == c.life && !o.lines.all lineDone) = false := by
    rw [List.any_eq_false]
    intro o hmem
    by_cases hw : o.who.ctx = ctx ∧ o.who.life = c.life
    · simp [ho o hmem hw.1 hw.2]
    · simp only [Bool.and_eq_true, beq_iff_eq]
      exact fun h => hw h.1
  change execKillComplete ctx s = _
  unfold execKillComplete
  rw [hc]
  dsimp only
  rw [htiles, hops]
  rfl

/-- The places of a killed context are empty, and the context is gone. -/
theorem killed_leaves {s : State} {ctx : BitVec 16} {c : Ctx} (hc : c.id ≠ 0) :
    let t := ctxLstat c 4 { vacateAll c s with ctxs := (vacateAll c s).ctxs.filter (fun d => d.id != ctx) }
    (∀ d ∈ t.ctxs, d.id ≠ ctx) ∧ ∀ p, ofCtx c (s.tile p) = true → Vacated (t.tile p) := by
  intro t
  refine ⟨fun d hd => ?_, fun p hp => ?_⟩
  · rw [ctxLstat_ctxs] at hd
    simpa using (List.mem_filter.mp hd).2
  · rw [State.tile, ctxLstat_tiles]
    exact foldl_vacate (.inr ⟨_, List.mem_filter.mpr ⟨mem_tiles_of_ofCtx hc hp, hp⟩, rfl⟩)

end Sys2Proof.Machine
end

section
/-! PROOFS. What the end of a PERIOD takes: a save begins, or the tile moves (06:R128, R135; 25:R339, R340). -/

namespace Sys2Proof.Machine

/-! ### A save begins -/

/-- The state at the end of a PERIOD that takes a pre-emption. -/
def savingNow (s : State) : State :=
  (s.onTl (fun t => { t with saveDue := false, migrateTo := none })).onTile s.turn (fun t => { t with state := 4, phase := .saving })

theorem afterPeriod_saves {s : State} (h : s.tl.saveDue = true) : afterPeriod s
    = (freeLeases (whoOf ((savingNow s).tile s.turn)) (savingNow s)).timer (s.now + 500000 * subTick) (.saveComplete s.turn) := by
  rw [afterPeriod, if_pos h]
  rfl

theorem save_begins {s : State} (h : s.tl.saveDue = true) : let t := afterPeriod s
    t.tl.state = 4 ∧ t.tl.phase = .saving ∧ t.tl.regs = s.tl.regs ∧ t.tl.mem = s.tl.mem
      ∧ (s.now + 500000 * subTick, .saveComplete s.turn) ∈ t.timers := by
  intro t
  set w := whoOf ((savingNow s).tile s.turn)
  have ht : t = (freeLeases w (savingNow s)).timer (s.now + 500000 * subTick) (.saveComplete s.turn) := afterPeriod_saves h
  obtain ⟨hturn, hlease⟩ := LeaseTraffic.freeLeases (s := savingNow s) (w := w)
  have hsaving : (savingNow s).tile s.turn = { s.tl with saveDue := false, migrateTo := none, state := 4, phase := .saving } := by
    rw [savingNow, tile_onTile_self]
    change (fun t : Tile => { t with state := 4, phase := .saving })
      (s.onTl (fun t => { t with saveDue := false, migrateTo := none })).tl = _
    rw [tl_onTl]
  have htl : t.tl = (freeLeases w (savingNow s)).tile s.turn := by
    rw [ht]
    change (freeLeases w (savingNow s)).tile (freeLeases w (savingNow s)).turn = _
    rw [hturn]
    rfl
  rw [htl, hlease s.turn, hsaving]
  exact ⟨rfl, rfl, rfl, rfl, by rw [ht]; exact List.mem_append_right _ (List.mem_singleton_self _)⟩

/-! ### A tile moves -/

theorem mayTake_iff (s : State) (t : Tile) (q : Nat) : mayTake s t q = true
    ↔ ((s.tile q).state = 5 ∨ (s.tile q).state = 0) ∧ t.arr.ashape &&& ~~~(s.tile q).arr.bandOk = 0 := by
  simp [mayTake]

/-- Where a migration goes may take the tile. -/
theorem migrationTarget_mayTake {s : State} {q : Nat} (h : migrationTarget s = some q) : mayTake s s.tl q = true := by
  have thermal : thermalTarget s s.turn = some q → mayTake s s.tl q = true := fun hq => by
    have hfound := List.find?_some hq
    simp only [Bool.and_eq_true] at hfound
    exact hfound.1.2
  unfold migrationTarget at h
  split at h
  · simp at h
  · exact thermal h
  · split at h
    · next hm =>
      cases h
      exact hm
    · split at h
      · exact thermal h
      · simp at h

theorem migrationTarget_mapset {s : State} {q : Nat} {hot : Bool} (h : s.tl.migrateTo = some (.mapset q hot))
    (hq : mayTake s s.tl q = true) : migrationTarget s = some q := by
  simp [migrationTarget, h, hq]

theorem migrationTarget_none {s : State} (h : s.tl.migrateTo = none) : migrationTarget s = none := by
  simp [migrationTarget, h]

/-- What the tile holds at its new place. -/
def movedTile (t d : Tile) : Tile :=
  { t with arr := { t.arr with bandOk := d.arr.bandOk, band := t.arr.band.map movedBand }, rail := d.rail, dbg := d.dbg, migrateTo := none }

/-- Without a changeover under way only the move holds the tile. -/
theorem afterPeriod_moves {s : State} {q : Nat} (hs : s.tl.saveDue = false) (hq : migrationTarget s = some q) (hf : s.freq.phase ≠ 2) :
    afterPeriod s = holdTile 30000 (moveTile q s) := by
  have hmust : mustSwitch (moveTile q s) = false := by
    have hphase : (s.freq.phase == 2) = false := by simpa using hf
    change (s.freq.phase == 2 && _) = false
    rw [hphase, Bool.false_and]
  unfold afterPeriod
  rw [if_neg (by simp [hs]), hq]
  simp only [hmust]
  rfl

theorem holdTile_tl (n : Nat) (s : State) : (holdTile n s).tl = { s.tl with phase := .held } :=
  tl_onTl s (fun t => { t with phase := .held })

theorem holdTile_other (n : Nat) {s : State} {p : Nat} (h : p ≠ s.turn) : (holdTile n s).tile p = s.tile p :=
  tile_onTl_other s (fun t => { t with phase := .held }) p h

/-- The tiles of a move: what moved is held at its new place, and the old one is a spare. -/
theorem moveTile_tiles (s : State) {q : Nat} (hne : q ≠ s.turn) :
    (moveTile q s).tl = movedTile s.tl (s.tile q) ∧ (moveTile q s).tile s.turn = { clearTile s.tl with state := 5 }
      ∧ ∀ p, p ≠ q → p ≠ s.turn → (moveTile q s).tile p = s.tile p := by
  have htiles : ∀ p, (moveTile q s).tile p = tget tileInit
      (tset (tset s.tiles s.turn { clearTile s.tl with state := 5 }) q (movedTile s.tl (s.tile q))) p := fun _ => rfl
  refine ⟨(htiles q).trans (tget_tset_self ..), ?_, fun p hp hpt => ?_⟩
  · rw [htiles, tget_tset_other _ _ _ _ _ (Ne.symm hne), tget_tset_self]
  · rw [htiles, tget_tset_other _ _ _ _ _ hp, tget_tset_other _ _ _ _ _ hpt]
    rfl

/-- The place that a tile leaves is a spare, its stores cleared, and has its bands still. -/
theorem spare_cleared (t : Tile) : let u : Tile := { clearTile t with state := 5 }
    u.state = 5 ∧ u.phase = .off ∧ u.bind.ctx = 0 ∧ u.mem = [] ∧ u.imem = [] ∧ u.arr.wsram = [] ∧ u.arr.bandOk = t.arr.bandOk
      ∧ (∀ r : BitVec 5, rx u r = 0) ∧ ∀ r, rv u r = 0 :=
  ⟨rfl, rfl, rfl, rfl, rfl, rfl, rfl, rx_clearTile t, fun _ => Vector.getElem_replicate _⟩

/-- A tile's move at the end of its PERIOD. -/
theorem tile_moves {s : State} {q : Nat} (hs : s.tl.saveDue = false) (hq : migrationTarget s = some q) (hne : q ≠ s.turn)
    (hf : s.freq.phase ≠ 2) : let t := afterPeriod s
    t.turn = q ∧ t.mem = s.mem ∧ (s.now + 30000 * subTick, .holdEnd q) ∈ t.timers
      ∧ t.tile q = { movedTile s.tl (s.tile q) with phase := .held }
      ∧ t.tile s.turn = { clearTile s.tl with state := 5 }
      ∧ tget 0 t.l2p s.tl.bind.logtile.toNat = BitVec.ofNat 8 (0x80 + q % 34) ∧ ∀ p, p ≠ q → p ≠ s.turn → t.tile p = s.tile p := by
  intro t
  have ht : t = holdTile 30000 (moveTile q s) := afterPeriod_moves hs hq hf
  obtain ⟨hmoved, hleft, hothers⟩ := moveTile_tiles s hne
  have hother : ∀ p, p ≠ q → t.tile p = (moveTile q s).tile p := fun p hp => by
    rw [ht]
    exact holdTile_other 30000 hp
  refine ⟨by rw [ht]; rfl, by rw [ht]; rfl, by rw [ht]; exact List.mem_append_right _ (List.mem_singleton_self _), ?_, ?_, ?_, ?_⟩
  · rw [ht, ← hmoved]
    exact holdTile_tl 30000 (moveTile q s)
  · rw [hother _ (Ne.symm hne), hleft]
  · rw [ht]
    exact tget_tset_self ..
  · exact fun p hp hpt => (hother p hp).trans (hothers p hp hpt)

end Sys2Proof.Machine
end

section
/-! PROOFS. Saves, kills, holds and moves (01:R28; 06:R129-R136). -/

namespace Sys2Proof.Machine

/-- Settles O54: each event by what it leaves, the image by its parts, and the end of a PERIOD by what it takes. -/
theorem savesKillsAndHolds : Obligations.SavesKillsAndHolds := by
  refine ⟨fun s p => ?_, fun s ctx c hctx hc ht ho => ?_, fun t => ?_, fun s => ?_⟩
  · refine ⟨fun hs ho hq => ⟨_, exec_saveComplete hs ho hq, saved_leaves s p⟩, fun _ h => exec_saveComplete_waits h,
      fun hk ht => ⟨_, exec_killTileStop hk ht, stopped_tile ..⟩, fun hk ht => ⟨_, exec_killTileStop_halted hk ht, dropHeld_leaves ..⟩,
      holdEnd_leaves, fun hi h hs => ⟨fun hge => ⟨_, ?_, onTile_leaves s p stretchNow⟩, fun hlt => ?_⟩,
      fun hi h hd => ⟨fun hge => ⟨_, ?_, onTile_leaves s p stretchNext⟩, fun hlt => ?_⟩, rfl, rfl, rfl, rfl⟩
    · exact (exec_droopStretch_before hi h hs).trans (congrArg _ (if_neg (Nat.not_lt.mpr hge)))
    · exact (exec_droopStretch_before hi h hs).trans (congrArg _ (if_pos hlt))
    · exact (exec_droopStretch_after hi h hd).trans (congrArg _ (if_neg (Nat.not_lt.mpr hge)))
    · exact (exec_droopStretch_after hi h hd).trans (congrArg _ (if_pos hlt))
  · have hid : c.id ≠ 0 := by
      have hfound := List.find?_some hc
      simp only [Bool.and_eq_true, beq_iff_eq] at hfound
      exact hfound.1 ▸ hctx
    exact ⟨_, exec_killComplete hc ht ho, killed_leaves hid⟩
  · intro m q active shadow
    obtain ⟨hmask, hbands⟩ := image_bands t
    refine ⟨image_num t 0 rfl, image_num t 1 rfl, image_svalid t, image_flags t, image_word t 3 rfl (by decide), image_word t 4 rfl (by decide),
      image_num t 5 rfl, image_word t 6 rfl (by decide), image_word t 7 rfl (by decide), image_word t 8 rfl (by decide),
      image_word t 9 rfl (by decide), image_head t 0 rfl (by decide) (by decide), image_head t 1 rfl (by decide) (by decide),
      image_head t 2 rfl (by decide) (by decide), image_head t 3 rfl (by decide) (by decide), image_head t 4 rfl (by decide) (by decide),
      image_head t 5 rfl (by decide) (by decide), image_head t 6 rfl (by decide) (by decide), image_head t 7 rfl (by decide) (by decide),
      hmask, hbands, image_head t 9 rfl (by decide) (by decide), fun i hi => image_words t 11 rfl (by decide) hi,
      image_word t 12 rfl (by decide), image_registers t 13 rfl (by decide) (by decide), image_registers t 14 rfl (by decide) (by decide),
      image_registers t 15 rfl (by decide) (by decide), image_registers t 16 rfl (by decide) (by decide),
      fun i hi => image_values t 17 rfl (by decide) hi, fun i hi => image_out t hi, fun i hi => image_mirror t hi, ?_, ?_, ?_, ?_, ?_,
      image_reserved t⟩
    · exact List.forall_mem_cons.mpr ⟨image_plane t 20 24 rfl rfl, List.forall_mem_cons.mpr ⟨image_plane t 21 25 rfl rfl, by simp⟩⟩
    · exact fun x hx => by simpa using image_store t 22 rfl x hx
    · exact fun x hx => by simpa using image_store t 23 rfl x hx
    · exact fun x hx => by simpa using image_store t 26 rfl x hx
    · exact fun x hx => by simpa using image_store t 27 rfl x hx
  · refine ⟨save_begins, fun q hs hq hne hf => ?_, fun q hot hm hst hb => migrationTarget_mapset hm ((mayTake_iff ..).mpr ⟨hst, hb⟩),
      fun q hq => (mayTake_iff ..).mp (migrationTarget_mayTake hq), migrationTarget_none⟩
    obtain ⟨hturn, hmem, htimer, hmoved, hleft, hmap, hothers⟩ := tile_moves hs hq hne hf
    have hband : movedBand = fun b => match b with | .waking _ => .waking 2000 | b => b := by
      funext b
      cases b <;> rfl
    rw [movedTile, hband] at hmoved
    refine ⟨hturn, hmem, htimer, hmoved, ?_, hmap, hothers⟩
    dsimp only
    rw [hleft]
    exact spare_cleared s.tl

end Sys2Proof.Machine
end

section
/-! PROOFS. Integer lanes, moves and permutes (07:R141, R146, R153). -/

namespace Sys2Proof.Machine

/-! ### Lane values as integers (07:R139) -/

theorem laneInt_eq (ty : IntTy) (v : W32) : laneInt ty v = laneZ ty v := by cases ty <;> rfl

theorem satInt_eq (ty : IntTy) (z : Int) : satInt ty z = clampLane ty z := by cases ty <;> rfl

/-- With SAT an exact result is clamped. -/
theorem wrapOrSat_clamp (ty : IntTy) (z : Int) : wrapOrSat ty true z = clampLane ty z := satInt_eq ty z

/-- A lane is its integer, wrapped. -/
theorem ofInt_laneInt (ty : IntTy) (v : W32) : BitVec.ofInt 32 (laneInt ty v) = v := by
  cases ty with
  | i32 => exact BitVec.ofInt_toInt
  | n32 =>
    change BitVec.ofInt 32 (v.toNat : Int) = v
    rw [BitVec.ofInt_natCast, BitVec.ofNat_toNat, BitVec.setWidth_eq]

/-! ### VALU's lane functions (07:R141) -/

theorem wrap_add (ty : IntTy) : (fun x y => wrapOrSat ty false (laneInt ty x + laneInt ty y)) = fun x y => x + y := by
  funext x y
  change BitVec.ofInt 32 _ = _
  rw [BitVec.ofInt_add, ofInt_laneInt, ofInt_laneInt]

theorem wrap_sub (ty : IntTy) : (fun x y => wrapOrSat ty false (laneInt ty x - laneInt ty y)) = fun x y => x - y := by
  funext x y
  change BitVec.ofInt 32 _ = _
  rw [sub_eq_add_neg, BitVec.ofInt_add, BitVec.ofInt_neg, ofInt_laneInt, ofInt_laneInt, ← BitVec.sub_eq_add_neg]

theorem wrap_mul (ty : IntTy) : (fun x y => wrapOrSat ty false (laneInt ty x * laneInt ty y)) = fun x y => x * y := by
  funext x y
  change BitVec.ofInt 32 _ = _
  rw [BitVec.ofInt_mul, ofInt_laneInt, ofInt_laneInt]

theorem wrap_neg (ty : IntTy) : (fun x _ : W32 => wrapOrSat ty false (0 - laneInt ty x)) = fun x _ => -x := by
  funext x _
  change BitVec.ofInt 32 _ = _
  rw [zero_sub, BitVec.ofInt_neg, ofInt_laneInt]

theorem wrap_abs (ty : IntTy) : (fun x _ : W32 => wrapOrSat ty false (laneInt ty x).natAbs)
    = fun x _ => if laneZ ty x < 0 then -x else x := by
  funext x _
  change BitVec.ofInt 32 _ = _
  rw [← laneInt_eq]
  split
  next h => rw [Int.ofNat_natAbs_of_nonpos (Int.le_of_lt h), BitVec.ofInt_neg, ofInt_laneInt]
  next h => rw [Int.natAbs_of_nonneg (Int.not_lt.mp h), ofInt_laneInt]

/-- With SAT the exact result of two lanes is clamped. -/
theorem sat_clamp (ty : IntTy) (op : Int → Int → Int) :
    (fun x y => wrapOrSat ty true (op (laneInt ty x) (laneInt ty y))) = fun x y => clampLane ty (op (laneZ ty x) (laneZ ty y)) := by
  funext x y
  rw [wrapOrSat_clamp, laneInt_eq, laneInt_eq]

theorem sat_neg (ty : IntTy) : (fun x _ : W32 => wrapOrSat ty true (0 - laneInt ty x)) = fun x _ => clampLane ty (-laneZ ty x) := by
  funext x _
  rw [wrapOrSat_clamp, zero_sub, laneInt_eq]

theorem ltBy_lane (ty : IntTy) (x y : W32) : ltBy (intSigned ty) x y = decide (laneZ ty x < laneZ ty y) := by
  cases ty with
  | i32 => exact BitVec.slt_eq_decide
  | n32 => simp [ltBy, intSigned, laneZ, BitVec.ult_eq_decide]

theorem minBy_lane (ty : IntTy) : minBy (intSigned ty) = fun x y => if laneZ ty x < laneZ ty y then x else y := by
  funext x y
  simp [minBy_eq, ltBy_lane]

theorem maxBy_lane (ty : IntTy) : maxBy (intSigned ty) = fun x y => if laneZ ty x < laneZ ty y then y else x := by
  funext x y
  simp [maxBy, ltBy_lane]

/-- A lane in twice its width, by its type. -/
def wideLane (ty : IntTy) (v : W32) : BitVec 64 := match ty with | .i32 => v.signExtend 64 | .n32 => v.setWidth 64

/-- The exact product of two lanes is the product of them in twice their width. -/
theorem ofInt_mul_laneInt (ty : IntTy) (x y : W32) :
    BitVec.ofInt 64 (laneInt ty x * laneInt ty y) = wideLane ty x * wideLane ty y := by
  have hwide (v : W32) : BitVec.ofInt 64 (laneInt ty v) = wideLane ty v := by
    cases ty with
    | i32 => rfl
    | n32 => exact (BitVec.ofInt_natCast 64 v.toNat).trans (BitVec.ofNat_toNat 64 v)
  rw [BitVec.ofInt_mul, hwide, hwide]

/-- Bits 63:32 of an integer. -/
theorem ofInt_high (z : Int) : BitVec.ofInt 32 (z / 2 ^ 32) = (BitVec.ofInt 64 z).extractLsb' 32 32 := by
  refine BitVec.eq_of_toNat_eq ?_
  rw [BitVec.extractLsb'_toNat, BitVec.toNat_ofInt, BitVec.toNat_ofInt, Nat.shiftRight_eq_div_pow]
  omega

theorem mulh_lane (ty : IntTy) : (fun x y => BitVec.ofInt 32 (laneInt ty x * laneInt ty y / 2 ^ 32))
    = fun x y => (wideLane ty x * wideLane ty y).extractLsb' 32 32 := by
  funext x y
  rw [ofInt_high, ofInt_mul_laneInt]

/-! ### The instructions -/

/-- VALU's two-source form, its lane function written as the statement writes it. -/
theorem valu_sends {g : Guard} {d a b : BitVec 5} {f q : W32 → W32 → W32} {s : State} (hq : quiet s = true)
    (hu : unitFree s 5 = true) (h : f = q) : ∃ t, valu g d a b f s = .next t
      ∧ Sends s t 2 5 (.v d (effGuard s.tl g)) (ofLanes (fun i => q (lane (rv s.tl a) i) (lane (rv s.tl b) i))) :=
  h ▸ valu_runs g d a b f s hq hu

/-- A lane-wise form whose lane function reads registers only. -/
theorem lanewise_sends {unit l occ : Nat} {g : Guard} {d : BitVec 5} {f : Tile → Nat → W32} {q : Nat → W32} {s : State} (hq : quiet s = true)
    (hu : unitFree s unit = true) (hf : f (holdUnit (some unit) occ s.tl) = f s.tl) (h : f s.tl = q) :
    ∃ t, lanewise unit l occ g d f s = .next t ∧ Sends s t l unit (.v d (effGuard s.tl g)) (ofLanes q) := by
  obtain ⟨t, hnext, hsends, -⟩ := lanewise_runs unit l occ g d f s hq hu hf
  exact ⟨t, hnext, h ▸ hsends⟩

/-- VSEL, by the guard as its selector. -/
theorem vsel_sends (g : Guard) (d a b : BitVec 5) {s : State} (hq : quiet s = true) (hu : unitFree s 5 = true) :
    ∃ t, execVsel g d a b s = .next t ∧ Sends s t 2 5 (.v d (BitVec.allOnes 64))
      (ofLanes (fun i => if (effGuard s.tl g).getLsbD i then lane (rv s.tl a) i else lane (rv s.tl b) i)) := by
  have hall : effGuard s.tl { neg := false, reg := 0 } = BitVec.allOnes 64 := rfl
  rw [← hall]
  exact lanewise_sends hq hu (by simp only [vl, holdUnit_rv, holdUnit_effGuard]) rfl

/-- VBCAST of a literal whose high half is zero. -/
theorem vbcastLit_sends (g : Guard) (d : BitVec 5) {lit : X} {s : State} (hq : quiet s = true) (hu : unitFree s 5 = true)
    (hlit : lit.extractLsb' 32 32 = 0) : ∃ t, execVbcastLit g d lit s = .next t
      ∧ Sends s t 2 5 (.v d (effGuard s.tl g)) (ofLanes (fun _ => lit.extractLsb' 0 32)) := by
  obtain ⟨t, hnext, hsends, -⟩ := send_runs { unit := some 5, c17 := if lit.extractLsb' 32 32 != 0 then some lit else none } 20 2 5
    (fun t => .v d (effGuard t g)) (fun _ => ofLanes (fun _ => lit.extractLsb' 0 32)) s hq (by simp [Plan.clear, hlit]) rfl
    (by simpa using hu) (by simp) rfl
  exact ⟨t, hnext, hsends⟩

theorem vbcastLit_slips (g : Guard) (d : BitVec 5) {lit : X} {s : State} (hq : quiet s = true)
    (hlit : lit.extractLsb' 32 32 ≠ 0) : ∃ t, execVbcastLit g d lit s = .next t ∧ Slips s t 0x17 lit :=
  issue_slips _ 20 _ s _ _ (slotCause_c17 _ s lit hq rfl rfl rfl rfl (fun h => absurd h Bool.false_ne_true) rfl rfl
    (if_pos (bne_iff_ne.mpr hlit)))

/-- An issue that sends a result of the registers at the issue where a bit of the effective guard is set. -/
theorem sendAt_runs {unit l : Nat} {g : Guard} {n : Nat} {D : Dest} {V : Tile → VReg} {s : State} (hq : quiet s = true)
    (hu : unitFree s unit = true) (hV : V (holdUnit (some unit) 1 s.tl) = V s.tl) :
    ∃ t, issue { unit := some unit } 12
        (fun s => s.onTl (fun t => if (effGuard t g).getLsbD n then writeL l unit D (V t) t else t)) s = .next t
      ∧ if (effGuard s.tl g).getLsbD n then Sends s t l unit D (V s.tl) else WritesNothing s t := by
  cases hn : (effGuard s.tl g).getLsbD n with
  | true =>
    refine ⟨_, issue_runs _ 12 (writeL l unit D (V s.tl)) _ s hq (clear_unit _ _ s) rfl (by simpa using hu) ?_, ?_⟩
    · rw [onTl_onTl]
      simp only [State.onTl, holdUnit_effGuard, hn, if_true, hV]
    · rw [if_pos rfl]
      exact sends_of s _ _ _ _ _ _ _ _
  | false =>
    refine ⟨_, issue_runs _ 12 (fun t => t) _ s hq (clear_unit _ _ s) rfl (by simpa using hu) ?_, ?_⟩
    · rw [onTl_onTl]
      simp only [State.onTl, holdUnit_effGuard, hn, Bool.false_eq_true, if_false]
    · rw [if_neg Bool.false_ne_true]
      exact writesNothing_of s _ _ _ _

/-- VLANEGET, enabled by its lane's bit. -/
theorem vlaneget_sends (g : Guard) (d a : BitVec 5) (n : BitVec 6) {s : State} (hq : quiet s = true) (hu : unitFree s 5 = true) :
    ∃ t, execVlaneget g d a n s = .next t ∧ if (effGuard s.tl g).getLsbD n.toNat
      then Sends s t 2 5 (.x d) (val64 ((lane (rv s.tl a) n.toNat).setWidth 64)) else WritesNothing s t := by
  have hval : val64 ((lane (rv s.tl a) n.toNat).setWidth 64) = (vl s.tl a n.toNat).setWidth 2048 :=
    BitVec.eq_of_toNat_eq rfl
  rw [hval]
  exact sendAt_runs (V := fun t => (vl t a n.toNat).setWidth 2048) hq hu (by simp only [vl, holdUnit_rv])

/-- VLANESET, enabled by its lane's bit. -/
theorem vlaneset_sends (g : Guard) (d a : BitVec 5) (n : BitVec 6) {s : State} (hq : quiet s = true) (hu : unitFree s 5 = true) :
    ∃ t, execVlaneset g d a n s = .next t ∧ if (effGuard s.tl g).getLsbD n.toNat
      then Sends s t 2 5 (.v d (1 <<< n.toNat)) (ofLanes (fun _ => (rx s.tl a).extractLsb' 0 32)) else WritesNothing s t :=
  sendAt_runs (V := fun t => ofLanes (fun _ => (rx t a).extractLsb' 0 32)) hq hu (by simp only [holdUnit_rx])

/-- Settles O30: each instruction is its unit's lane-wise form, and its lane function is the statement's. -/
theorem vectorIntegerLanes : Obligations.VectorIntegerLanes := by
  intro s g ty d a b n lit hq hu5 hu7 x y wide
  have valu := fun (f : W32 → W32 → W32) => valu_runs g d a b f s hq hu5
  simp only [List.forall_mem_cons, List.not_mem_nil, false_implies, implies_true, and_true]
  refine ⟨⟨(valu_sends hq hu5 (wrap_add ty) :), (valu_sends hq hu5 (wrap_sub ty) :), (valu_sends hq hu5 (wrap_mul ty) :),
      (valu_sends hq hu5 (sat_clamp ty (· + ·)) :), (valu_sends hq hu5 (sat_clamp ty (· - ·)) :),
      (valu_sends hq hu5 (sat_clamp ty (· * ·)) :), (valu_sends hq hu5 (mulh_lane ty) :), (valu_sends (b := a) hq hu5 (wrap_abs ty) :),
      (valu_sends (b := a) hq hu5 (wrap_neg ty) :), (valu_sends (b := a) hq hu5 (sat_clamp ty (fun x _ => x.natAbs)) :),
      (valu_sends (b := a) hq hu5 (sat_neg ty) :), valu (· &&& ·), valu (· ||| ·), valu (· ^^^ ·), valu (fun x y => x &&& ~~~y),
      valu (fun x y => x <<< vsh y), valu (fun x y => x >>> vsh y), valu (fun x y => x.sshiftRight (vsh y)),
      (valu_sends hq hu5 (minBy_lane ty) :), (valu_sends hq hu5 (maxBy_lane ty) :),
      lanewise_sends (f := fun t i => vl t a i) hq hu5 (by simp only [vl, holdUnit_rv]) rfl,
      lanewise_sends (f := fun t _ => (rx t a).extractLsb' 0 32) hq hu5 (by simp only [holdUnit_rx]) rfl⟩,
    ⟨lanewise_sends (f := fun t i => vl t a ((vl t b i).toNat % 64)) hq hu7 (by simp only [vl, holdUnit_rv]) rfl,
      lanewise_sends (f := fun t i => vl t a ((i + n.toNat) % 64)) hq hu7 (by simp only [vl, holdUnit_rv]) rfl⟩,
    vsel_sends g d a b hq hu5, vbcastLit_sends g d hq hu5, vbcastLit_slips g d hq, vlaneget_sends g d a n hq hu5,
    vlaneset_sends g d a n hq hu5⟩

end Sys2Proof.Machine
end

section
/-! PROOFS. The values of magnitudes in their order, and the order of FP32 codes (03:R57, R59; 07:R144). -/

namespace Sys2Proof.Machine

/-! ### The value of a magnitude (03:R57) -/

/-- The value of a magnitude that is no NaN and no infinity. -/
def FloatFmt.magVal (f : FloatFmt) (mag : Nat) : ℚ := (f.significand mag : ℚ) * 2 ^ f.exponent mag

/-- A magnitude and the next one lie apart by the unit of the lower one's last place. -/
theorem magVal_succ (f : FloatFmt) (mag : Nat) : f.magVal (mag + 1) = f.magVal mag + 2 ^ f.exponent mag := by
  have hpos := Nat.two_pow_pos f.mbits
  have hmag := mod_add_div_mul mag f.mbits
  have hlt := Nat.mod_lt mag hpos
  obtain ⟨r, hr⟩ : ∃ r, mag % 2 ^ f.mbits = r := ⟨_, rfl⟩
  obtain ⟨e, he⟩ : ∃ e, mag / 2 ^ f.mbits = e := ⟨_, rfl⟩
  rw [hr, he] at hmag
  rw [hr] at hlt
  unfold FloatFmt.magVal
  by_cases hcarry : r + 1 < 2 ^ f.mbits
  · have hdiv : (mag + 1) / 2 ^ f.mbits = e := Nat.div_eq_of_lt_le (by omega) (by rw [Nat.add_mul]; omega)
    have hmod : (mag + 1) % 2 ^ f.mbits = r + 1 := by
      have := mod_add_div_mul (mag + 1) f.mbits
      rw [hdiv] at this
      omega
    have hexp : f.exponent (mag + 1) = f.exponent mag := by rw [FloatFmt.exponent, FloatFmt.exponent, hdiv, he]
    have hsig : f.significand (mag + 1) = f.significand mag + 1 := by
      rw [FloatFmt.significand, FloatFmt.significand, hdiv, hmod, he, hr]
      split <;> omega
    rw [hexp, hsig, Nat.cast_add_one]
    ring
  · have hdiv : (mag + 1) / 2 ^ f.mbits = e + 1 :=
      Nat.div_eq_of_lt_le (by rw [Nat.add_mul]; omega) (by rw [Nat.add_mul, Nat.add_mul]; omega)
    have hmod : (mag + 1) % 2 ^ f.mbits = 0 := by
      have := mod_add_div_mul (mag + 1) f.mbits
      rw [hdiv, Nat.add_mul] at this
      omega
    have hr' : (r : ℚ) + 1 = 2 ^ f.mbits := by exact_mod_cast (by omega : r + 1 = 2 ^ f.mbits)
    have hsig : f.significand (mag + 1) = 2 ^ f.mbits := by
      rw [significand_normal (by rw [hdiv]; omega), hmod, Nat.add_zero]
    rw [hsig, Nat.cast_pow, Nat.cast_ofNat, exponent_normal (by rw [hdiv]; omega), hdiv]
    rcases Nat.eq_zero_or_pos e with rfl | hpos'
    · rw [significand_subnormal he, exponent_subnormal he, hr, ← hr']
      push_cast
      ring
    · rw [significand_normal (by omega), exponent_normal (by omega), he, hr, ← hr',
        show ((e + 1 : Nat) : Int) - f.bias - f.mbits = (e : Int) - f.bias - f.mbits + 1 by push_cast; ring, zpow_add_one₀ two_ne_zero]
      push_cast
      rw [← hr']
      ring

theorem magVal_strictMono (f : FloatFmt) : StrictMono f.magVal :=
  strictMono_nat_of_lt_succ fun mag => by
    rw [magVal_succ]
    exact lt_add_of_pos_right _ (by positivity)

theorem magVal_zero (f : FloatFmt) : f.magVal 0 = 0 := by
  simp [FloatFmt.magVal, FloatFmt.significand]

theorem magVal_nonneg (f : FloatFmt) (mag : Nat) : 0 ≤ f.magVal mag := by
  rw [← magVal_zero f]
  exact (magVal_strictMono f).monotone (Nat.zero_le mag)

theorem top_pos : ∀ f ∈ floatFormats, 0 < f.top := by decide

/-- The codes that are numbers are those whose magnitude is at most the largest finite one's (03:R58). -/
theorem le_maxFin_iff {f : FloatFmt} (hf : f ∈ floatFormats) (c : Nat) : f.magnitude c ≤ f.maxFin
    ↔ ¬f.top < f.magnitude c ∧ ¬(f.hasInf = true ∧ f.magnitude c = f.top) := by
  obtain ⟨hmax, -⟩ := limits_formats f hf
  have htop := top_pos f hf
  rw [hmax]
  cases f.hasInf with
  | false => simp
  | true =>
    simp
    omega

/-- The value of a code that is a number, by its sign and magnitude. -/
theorem isNumber_decodeFloat_iff {f : FloatFmt} (hf : f ∈ floatFormats) (c : Nat) (q : ℚ) : IsNumber (decodeFloat f c) q
    ↔ f.magnitude c ≤ f.maxFin ∧ q = (if f.signBit c then -1 else 1) * f.magVal (f.magnitude c) := by
  rw [le_maxFin_iff hf]
  by_cases hnan : f.top < f.magnitude c
  · simp [decodeFloat_nan hnan, hnan, IsNumber]
  by_cases hinf : f.hasInf = true ∧ f.magnitude c = f.top
  · simp [decodeFloat_inf hinf.1 hinf.2, hinf, IsNumber]
  rw [decodeFloat_number hnan hinf, FloatFmt.magVal, ← mul_assoc]
  refine ⟨?_, fun h => ⟨_, _, _, rfl, h.2⟩⟩
  rintro ⟨neg, m, e, h, rfl⟩
  obtain ⟨rfl, rfl, rfl⟩ := Ext.fin.inj h
  exact ⟨⟨hnan, hinf⟩, rfl⟩

/-! ### The order of FP32 codes (07:R144) -/

/-- The bits of an FP32 lane below its sign. -/
def laneMag (v : W32) : Nat := v.toNat % 2 ^ 31

/-- A lane's magnitude with its sign; the zeros have one key. -/
def signedKey (v : W32) : Int := if v.getLsbD 31 then -(laneMag v : Int) else laneMag v

theorem sign_lane (v : W32) : v.getLsbD 31 = decide (2 ^ 31 ≤ v.toNat) := by
  have h := v.isLt
  rw [BitVec.getLsbD, Nat.testBit_eq_decide_div_mod_eq]
  by_cases hle : 2 ^ 31 ≤ v.toNat
  · simp only [hle, decide_true, decide_eq_true_eq]
    omega
  · simp only [hle, decide_false, decide_eq_false_iff_not]
    omega

theorem isNan_iff (v : W32) : isNan v = true ↔ 0x7F800000 < laneMag v := by simp [isNan, laneMag]

/-- The two parts of a lane determine it. -/
theorem lane_ext {x y : W32} (hs : x.getLsbD 31 = y.getLsbD 31) (hm : laneMag x = laneMag y) : x = y := by
  have hx := x.isLt
  have hy := y.isLt
  rw [sign_lane, sign_lane, decide_eq_decide] at hs
  unfold laneMag at hm
  exact BitVec.eq_of_toNat_eq (by omega)

theorem fpKey_eq (v : W32) : fpKey v = if v.getLsbD 31 then -1 - (laneMag v : Int) else laneMag v := by
  have h := v.isLt
  rw [fpKey]
  split
  next => rfl
  next hs =>
    rw [sign_lane, decide_eq_true_iff] at hs
    rw [laneMag, Nat.mod_eq_of_lt (by omega)]

theorem fpKey_injective : Function.Injective fpKey := by
  intro x y h
  rw [fpKey_eq, fpKey_eq] at h
  cases hx : x.getLsbD 31 <;> cases hy : y.getLsbD 31 <;>
    simp only [hx, hy, if_true, if_false, Bool.false_eq_true] at h
  · exact lane_ext (hx.trans hy.symm) (by omega)
  · omega
  · omega
  · exact lane_ext (hx.trans hy.symm) (by omega)

/-- Two lanes have no bit below the sign: both are zeros. -/
theorem or_and_magnitude (x y : W32) : (((x ||| y) &&& 0x7FFFFFFF == 0) = true) ↔ laneMag x = 0 ∧ laneMag y = 0 := by
  have hmag (v : W32) : v &&& 0x7FFFFFFF = 0 ↔ laneMag v = 0 := by
    rw [← BitVec.toNat_inj, BitVec.toNat_and]
    exact Eq.congr_left (Nat.and_two_pow_sub_one_eq_mod v.toNat 31)
  rw [beq_iff_eq, BitVec.and_or_distrib_right]
  exact BitVec.or_eq_zero_iff.trans (and_congr (hmag x) (hmag y))

theorem laneEq_f32_iff {x y : W32} (hx : isNan x = false) (hy : isNan y = false) :
    laneEq .f32 x y = true ↔ signedKey x = signedKey y := by
  have heq : laneEq .f32 x y = true ↔ x = y ∨ laneMag x = 0 ∧ laneMag y = 0 := by
    rw [← or_and_magnitude]
    simp [laneEq, hx, hy]
  rw [heq]
  constructor
  · rintro (rfl | ⟨h1, h2⟩)
    · rfl
    · simp [signedKey, h1, h2]
  · intro h
    unfold signedKey at h
    by_cases hs : x.getLsbD 31 = y.getLsbD 31
    · rw [hs] at h
      exact .inl (lane_ext hs (by split at h <;> omega))
    · right
      cases hx : x.getLsbD 31 <;> cases hy : y.getLsbD 31 <;> simp_all

theorem laneLt_f32_iff {x y : W32} (hx : isNan x = false) (hy : isNan y = false) :
    laneLt .f32 x y = true ↔ signedKey x < signedKey y := by
  have hlt : laneLt .f32 x y = true ↔ fpKey x < fpKey y ∧ ¬signedKey x = signedKey y := by
    rw [← laneEq_f32_iff hx hy]
    simp [laneLt, hx, hy]
  rw [hlt, fpKey_eq, fpKey_eq]
  unfold signedKey
  cases x.getLsbD 31 <;> cases y.getLsbD 31 <;> simp only [if_true, if_false, Bool.false_eq_true] <;> omega

theorem laneLt_f32_nan {x y : W32} (h : isNan x = true ∨ isNan y = true) : laneEq .f32 x y = false ∧ laneLt .f32 x y = false := by
  rcases h with h | h <;> simp [laneEq, laneLt, h]

/-- The value of a key. -/
def keyVal (k : Int) : ℚ := (if k < 0 then -1 else 1) * f32.magVal k.natAbs

theorem keyVal_strictMono : StrictMono keyVal := by
  intro j k h
  have hmono := magVal_strictMono f32
  have hnonneg := magVal_nonneg f32
  unfold keyVal
  by_cases hj : j < 0 <;> by_cases hk : k < 0 <;> simp only [hj, hk, if_true, if_false, neg_one_mul, one_mul]
  · exact neg_lt_neg (hmono (by omega))
  · have hpos : 0 < f32.magVal j.natAbs := by
      rw [← magVal_zero f32]
      exact hmono (by omega)
    exact lt_of_lt_of_le (neg_neg_of_pos hpos) (hnonneg _)
  · omega
  · exact hmono (by omega)

/-- A lane that is a number is no NaN, and has the value of its key. -/
theorem isNumber_lane {x : W32} {p : ℚ} (h : IsNumber (valF32 x) p) : isNan x = false ∧ p = keyVal (signedKey x) := by
  obtain ⟨hle, rfl⟩ := (isNumber_decodeFloat_iff (by decide) _ _).mp h
  have hmag : f32.magnitude x.toNat = laneMag x := rfl
  have hsign : f32.signBit x.toNat = x.getLsbD 31 := by rw [signBit_eq x.isLt, sign_lane]; rfl
  rw [hmag] at hle
  rw [hmag, hsign]
  constructor
  · rw [← Bool.not_eq_true, isNan_iff]
    exact not_lt.mpr (hle.trans (by decide))
  · unfold keyVal signedKey
    cases x.getLsbD 31 with
    | false => simp
    | true =>
      rcases Nat.eq_zero_or_pos (laneMag x) with h0 | h0
      · simp [h0, magVal_zero]
      · simp [h0]

end Sys2Proof.Machine
end

section
/-! PROOFS. Compares, and the one bits of a mask (07:R145, R159). -/

namespace Sys2Proof.Machine

/-! ### Compares (07:R145) -/

/-- Of two lanes that are no NaN, exactly one relation holds. -/
theorem laneOrder_f32 {x y : W32} (hx : isNan x = false) (hy : isNan y = false) :
    (laneEq .f32 x y = true ∨ laneLt .f32 x y = true ∨ laneLt .f32 y x = true)
      ∧ ¬(laneLt .f32 x y = true ∧ laneLt .f32 y x = true) ∧ ¬(laneEq .f32 x y = true ∧ laneLt .f32 x y = true) := by
  rw [laneEq_f32_iff hx hy, laneLt_f32_iff hx hy, laneLt_f32_iff hy hx]
  omega

/-- The order of lanes that are numbers is that of their values. -/
theorem laneOrder_numbers {x y : W32} {p q : ℚ} (hx : IsNumber (valF32 x) p) (hy : IsNumber (valF32 y) q) :
    (laneLt .f32 x y = true ↔ p < q) ∧ (laneEq .f32 x y = true ↔ p = q) := by
  obtain ⟨hx', rfl⟩ := isNumber_lane hx
  obtain ⟨hy', rfl⟩ := isNumber_lane hy
  rw [laneLt_f32_iff hx' hy', laneEq_f32_iff hx' hy', keyVal_strictMono.lt_iff_lt, keyVal_strictMono.injective.eq_iff]
  exact ⟨Iff.rfl, Iff.rfl⟩

/-- −∞ lies below every other lane that is no NaN, and +∞ above. -/
theorem laneOrder_infinities {x : W32} (hx : isNan x = false) : laneEq .f32 x x = true
    ∧ (x ≠ 0xFF800000 → laneLt .f32 0xFF800000 x = true) ∧ (x ≠ 0x7F800000 → laneLt .f32 x 0x7F800000 = true) := by
  have hle : laneMag x ≤ 0x7F800000 := by
    rw [← Bool.not_eq_true, isNan_iff] at hx
    exact not_lt.mp hx
  have hext (s : Bool) (y : W32) (hs : y.getLsbD 31 = s) (hm : laneMag y = 0x7F800000) (hne : x ≠ y) :
      ¬(x.getLsbD 31 = s ∧ laneMag x = 0x7F800000) :=
    fun h => hne (lane_ext (h.1.trans hs.symm) (h.2.trans hm.symm))
  rw [laneEq_f32_iff hx hx, laneLt_f32_iff (by decide) hx, laneLt_f32_iff hx (by decide),
    show signedKey 0xFF800000 = -0x7F800000 by decide, show signedKey 0x7F800000 = 0x7F800000 by decide]
  refine ⟨rfl, fun h => ?_, fun h => ?_⟩
  · have := hext true _ rfl rfl h
    unfold signedKey
    cases hs : x.getLsbD 31 <;> simp only [hs, true_and, if_true, if_false, Bool.false_eq_true] at this ⊢ <;> omega
  · have := hext false _ rfl rfl h
    unfold signedKey
    cases hs : x.getLsbD 31 <;> simp only [hs, true_and, if_true, if_false, Bool.false_eq_true] at this ⊢ <;> omega

/-! ### The one bits of a mask (07:R159) -/

theorem popFrom_onLanes (m : X) : popFrom m 64 = (onLanes m).length := by
  rw [popFrom_eq_countP, onLanes, List.countP_eq_length_filter]

/-- The lowest one bit from bit k on. -/
theorem firstFrom_eq_headD (m : X) (k n : Nat) : firstFrom m k n = ((List.range' k n).filter (fun i => m.getLsbD i)).headD (k + n) := by
  induction n generalizing k with
  | zero => rfl
  | succ n ih =>
    rw [firstFrom, List.range'_succ, List.filter_cons]
    split
    · rfl
    · rw [ih, Nat.add_right_comm, Nat.add_assoc]

theorem firstFrom_onLanes (m : X) : firstFrom m 0 64 = (onLanes m).headD 64 := by
  rw [firstFrom_eq_headD, onLanes, List.range_eq_range']

/-- A number of a mask sent to x[D] where the guard holds. -/
theorem maskNumber_runs (g : Guard) (d : BitVec 5) (p : BitVec 3) (f : X → Nat) {n : Nat} {s : State} (hq : quiet s = true)
    (hu : unitFree s 5 = true) (hf : f (rg s.tl p) = n) (hn : n ≤ 64) :
    ∃ t, issue { unit := some 5 } 12 (fun s => if enabled s.tl g then
        s.onTl (fun t => writeL 2 5 (.x d) (BitVec.ofNat 2048 (f (rg t p))) t) else s) s = .next t
      ∧ IfEnabled s g (fun t => Sends s t 2 5 (.x d) (val64 (BitVec.ofNat 64 n))) (fun t => WritesNothing s t) t := by
  have hval : val64 (BitVec.ofNat 64 n) = BitVec.ofNat 2048 n := by
    refine BitVec.eq_of_toNat_eq ?_
    rw [val64, BitVec.toNat_setWidth, BitVec.toNat_ofNat, BitVec.toNat_ofNat, Nat.mod_eq_of_lt (by omega : n < 2 ^ 64)]
  rw [hval]
  refine sendIf_runs 12 hq (clear_unit _ _ s) rfl (by simpa using hu) ?_
  rw [tl_onTl, holdUnit_enabled, onTl_onTl]
  simp only [State.onTl, holdUnit_rg, hf]

theorem length_onLanes_le (m : X) : (onLanes m).length ≤ 64 := (List.length_filter_le _ _).trans (by simp)

theorem headD_onLanes_le (m : X) : (onLanes m).headD 64 ≤ 64 := by
  cases h : onLanes m with
  | nil => exact Nat.le_refl 64
  | cons i l =>
    have hi : i ∈ onLanes m := h ▸ List.mem_cons_self
    simp only [onLanes, List.mem_filter, List.mem_range] at hi
    exact hi.1.le

/-- Settles O33: the relations by the lanes' signed magnitudes (`laneEq_f32_iff`, `laneLt_f32_iff`), whose order is that of
their values (`keyVal_strictMono`); the masks' bits as a list. -/
theorem vectorCompares : Obligations.VectorCompares := by
  refine ⟨⟨fun s g ty gd a b hq hu => ?_, fun x y => ?_, fun x y p q hx hy => laneOrder_numbers hx hy,
    fun x hx => laneOrder_infinities hx, by decide, by decide, by decide⟩, fun s g d p hq hu => ?_⟩
  · have compare := fun f => vcmp_runs g gd a b f s hq hu
    simp only [List.forall_mem_cons, List.not_mem_nil, false_implies, implies_true, and_true]
    exact ⟨compare (laneEq ty), compare (fun x y => !laneEq ty x y), compare (laneLt ty), compare (fun x y => laneLt ty x y || laneEq ty x y)⟩
  · refine ⟨?_, ?_, ?_, ?_, laneLt_f32_nan, laneOrder_f32⟩
    · rfl
    · rfl
    · exact BitVec.slt_eq_decide
    · exact BitVec.ult_eq_decide
  · exact ⟨maskNumber_runs g d p (fun m => popFrom m 64) hq hu (popFrom_onLanes _) (length_onLanes_le _),
      maskNumber_runs g d p (fun m => firstFrom m 0 64) hq hu (firstFrom_onLanes _) (headD_onLanes_le _)⟩

end Sys2Proof.Machine
end

section
/-! PROOFS. Folds and trees over the enabled lanes (07:R149-R152). -/

namespace Sys2Proof.Machine

/-! ### The least by a key, the earlier of two (07:R144, R151) -/

/-- The one with the lesser key, the first where they tie. -/
def pick {α : Type} (key : α → Int) (a b : α) : α := if key b < key a then b else a

theorem pick_neg {α : Type} (key : α → Int) : pick (fun v => -key v) = fun u v => if key u < key v then v else u := by
  funext u v
  simp only [pick, neg_lt_neg_iff]

theorem pick_assoc {α : Type} (key : α → Int) (a b c : α) : pick key (pick key a b) c = pick key a (pick key b c) := by
  unfold pick
  by_cases hab : key b < key a <;> by_cases hbc : key c < key b <;> by_cases hac : key c < key a <;>
    simp only [hab, hbc, hac, if_true, if_false] <;> omega

/-- A fold by `pick` gives an element whose key is below those before it and at most those after it. -/
theorem foldl_pick_split {α : Type} (key : α → Int) (a : α) (l : List α) : ∃ l1 l2, a :: l = l1 ++ l.foldl (pick key) a :: l2
    ∧ (∀ y ∈ l1, key (l.foldl (pick key) a) < key y) ∧ ∀ y ∈ l2, key (l.foldl (pick key) a) ≤ key y := by
  induction l using List.reverseRecOn with
  | nil => exact ⟨[], [], rfl, by simp, by simp⟩
  | append_singleton l b ih =>
    obtain ⟨l1, l2, heq, h1, h2⟩ := ih
    rw [List.foldl_append, List.foldl_cons, List.foldl_nil]
    set x := l.foldl (pick key) a
    by_cases hb : key b < key x
    · have hpick : pick key x b = b := if_pos hb
      rw [hpick]
      refine ⟨a :: l, [], rfl, fun y hy => ?_, by simp⟩
      rw [heq, List.mem_append, List.mem_cons] at hy
      rcases hy with hy | rfl | hy
      · exact hb.trans (h1 y hy)
      · exact hb
      · exact lt_of_lt_of_le hb (h2 y hy)
    · have hpick : pick key x b = x := if_neg hb
      rw [hpick]
      refine ⟨l1, l2 ++ [b], ?_, h1, fun y hy => ?_⟩
      · rw [← List.cons_append, heq, List.append_assoc, List.cons_append]
      · rcases List.mem_append.mp hy with hy | hy
        · exact h2 y hy
        · rw [List.mem_singleton.mp hy]
          exact Int.not_lt.mp hb

/-- The fold by `pick` is in the list, its key at most every key there. -/
theorem foldl_pick_least {α : Type} (key : α → Int) (a : α) (l : List α) :
    l.foldl (pick key) a ∈ a :: l ∧ ∀ y ∈ a :: l, key (l.foldl (pick key) a) ≤ key y := by
  obtain ⟨l1, l2, heq, h1, h2⟩ := foldl_pick_split key a l
  rw [heq]
  refine ⟨by simp, fun y hy => ?_⟩
  rcases List.mem_append.mp hy with hy | hy
  · exact (h1 y hy).le
  · rcases List.mem_cons.mp hy with rfl | hy
    · exact le_rfl
    · exact h2 y hy

/-! ### The tree as a fold (07:R149) -/

/-- The fold of a list that begins with its first element; none for no element. -/
def fold1 {α : Type} (op : α → α → α) : List α → Option α
  | [] => none
  | a :: l => some (l.foldl op a)

theorem fold1_pairUp {α : Type} {op : α → α → α} (ha : ∀ a b c, op (op a b) c = op a (op b c)) (l : List (Option α)) :
    fold1 op (pairUp op l).reduceOption = fold1 op l.reduceOption := by
  have hfold := fun e (l : List (Option α)) => pairUp_fold op ha e l
  induction l using pairUp.induct with
  | case1 a b r ih => simp only [pairUp, List.reduceOption_cons_of_some, fold1, List.foldl_cons, hfold]
  | case2 a r ih => simp only [pairUp, List.reduceOption_cons_of_some, List.reduceOption_cons_of_none, fold1, hfold]
  | case3 b r ih =>
    cases b with
    | none => simp only [pairUp, List.reduceOption_cons_of_none, ih]
    | some b => simp only [pairUp, List.reduceOption_cons_of_some, List.reduceOption_cons_of_none, fold1, hfold]
  | case4 a => simp only [pairUp]
  | case5 => rfl

/-- A tree over 64 lanes with an associative operation is the fold of the enabled lanes in rising order. -/
theorem redTree_fold1 {α : Type} {op : α → α → α} (ha : ∀ a b c, op (op a b) c = op a (op b c)) {l : List (Option α)}
    (hl : l.length = 64) : redTree op l = fold1 op l.reduceOption := by
  have hf := fun l => fold1_pairUp ha l
  unfold redTree
  rw [← hf l, ← hf (pairUp op l), ← hf (pairUp op (pairUp op l)), ← hf (pairUp op (pairUp op (pairUp op l))),
    ← hf (pairUp op (pairUp op (pairUp op (pairUp op l)))),
    ← hf (pairUp op (pairUp op (pairUp op (pairUp op (pairUp op l)))))]
  generalize hr : pairUp op (pairUp op (pairUp op (pairUp op (pairUp op (pairUp op l))))) = r
  have hlen : r.length = 1 := by
    subst hr
    simp [pairUp_length, hl]
  match r, hlen with
  | [none], _ => rfl
  | [some a], _ => rfl

/-! ### The levels of the tree (07:R149) -/

/-- Two neighbours of a level, either of which may be absent. -/
def combine {α : Type} (op : α → α → α) : Option α → Option α → Option α
  | some x, some y => some (op x y)
  | some x, none => some x
  | none, w => w

/-- The next level of the tree. -/
def treeLevel {α : Type} (op : α → α → α) (p : Nat → Option α) (j : Nat) : Option α := combine op (p (2 * j)) (p (2 * j + 1))

theorem pairUp_cons_cons {α : Type} (op : α → α → α) (a b : Option α) (l : List (Option α)) :
    pairUp op (a :: b :: l) = combine op a b :: pairUp op l := by
  cases a <;> cases b <;> rfl

theorem pairUp_range {α : Type} (op : α → α → α) (p : Nat → Option α) (n : Nat) :
    pairUp op ((List.range (2 * n)).map p) = (List.range n).map (treeLevel op p) := by
  induction n generalizing p with
  | zero => rfl
  | succ n ih =>
    rw [Nat.mul_succ, List.range_succ_eq_map, List.range_succ_eq_map, List.range_succ_eq_map]
    simp only [List.map_cons, List.map_map, pairUp_cons_cons]
    exact congrArg _ (ih (fun i => p (i + 2)))

/-- The tree over 64 lanes, level by level. -/
theorem redTree_levels {α : Type} (op : α → α → α) (p : Nat → Option α) : redTree op ((List.range 64).map p)
    = treeLevel op (treeLevel op (treeLevel op (treeLevel op (treeLevel op (treeLevel op p))))) 0 := by
  unfold redTree
  rw [pairUp_range op p 32, pairUp_range op _ 16, pairUp_range op _ 8, pairUp_range op _ 4, pairUp_range op _ 2, pairUp_range op _ 1]
  rfl

end Sys2Proof.Machine
end

section
/-! PROOFS. Codes that rounding gives (03:R59, R61). -/

namespace Sys2Proof.Machine

theorem maxFin_le_top : ∀ f ∈ floatFormats, f.maxFin ≤ f.top := by decide

/-- Rounding a finite value gives its sign and a magnitude that is no NaN's. -/
theorem roundFin_signed {f : FloatFmt} (hf : f ∈ floatFormats) (rnd : Rnd) (neg : Bool) (m : Nat) (e : Int) :
    ∃ mag, mag ≤ f.top ∧ roundFin f rnd neg m e = signed f neg mag := by
  have hmax := maxFin_le_top f hf
  unfold roundFin
  split
  next => exact ⟨0, Nat.zero_le _, rfl⟩
  next =>
    dsimp only
    split
    next =>
      unfold overflowCode
      split
      next => exact ⟨_, hmax, rfl⟩
      next => cases rnd <;> cases neg <;> first | exact ⟨_, hmax, rfl⟩ | exact ⟨_, le_rfl, rfl⟩
    next h => exact ⟨_, (not_lt.mp h).trans hmax, rfl⟩

/-- An FP32 code of a sign and a magnitude has that sign and that magnitude. -/
theorem lane_signed (neg : Bool) {mag : Nat} (h : mag < 2 ^ 31) :
    (BitVec.ofNat 32 (signed f32 neg mag)).getLsbD 31 = neg ∧ laneMag (BitVec.ofNat 32 (signed f32 neg mag)) = mag := by
  have hsigned : signed f32 neg mag = mag + if neg then 2 ^ 31 else 0 := rfl
  have hlt : signed f32 neg mag < 2 ^ 32 := by rw [hsigned]; split <;> omega
  rw [sign_lane, laneMag, BitVec.toNat_ofNat, Nat.mod_eq_of_lt hlt, hsigned]
  cases neg with
  | false => simp; omega
  | true => simp; omega

/-- Only NaN is rounded to a NaN. -/
theorem isNan_rneF32_iff {x : Ext} : isNan (rneF32 x) = true ↔ x = .nan := by
  have hcode (neg : Bool) {mag : Nat} (h : mag ≤ 0x7F800000) : isNan (BitVec.ofNat 32 (signed f32 neg mag)) ≠ true := by
    rw [Ne, isNan_iff, (lane_signed neg (by omega)).2]
    exact not_lt.mpr h
  cases x with
  | nan => exact iff_of_true rfl rfl
  | inf neg => exact iff_of_false (hcode neg le_rfl) (by simp)
  | fin neg m e =>
    obtain ⟨mag, hmag, h⟩ := roundFin_signed (f := f32) (by decide) .ne neg m e
    refine iff_of_false ?_ (by simp)
    rw [rneF32, roundFloat, h]
    exact hcode neg hmag

end Sys2Proof.Machine
end

section
/-! PROOFS. Reductions (07:R149-R151). -/

namespace Sys2Proof.Machine

/-! ### The lanes that a reduction takes -/

/-- What is there of a list of lanes, each there where a predicate holds. -/
theorem reduceOption_map_if {α : Type} (p : Nat → Bool) (f : Nat → α) (l : List Nat) :
    (l.map (fun i => if p i then some (f i) else none)).reduceOption = (l.filter p).map f := by
  induction l with
  | nil => rfl
  | cons a l ih =>
    rw [List.map_cons, List.filter_cons]
    split
    · rw [List.reduceOption_cons_of_some, ih, List.map_cons]
    · rw [List.reduceOption_cons_of_none, ih]

/-- The lanes with their numbers (07:R151). -/
theorem zipIdx_laneOpts (m : X) (v : VReg) : ((laneOpts m v).zipIdx.map (fun (o, i) => o.map (fun v => (v, i))))
    = (List.range 64).map (fun i => if m.getLsbD i then some (lane v i, i) else none) := by
  refine List.ext_getElem (by simp [laneOpts]) fun i h1 h2 => ?_
  simp only [laneOpts, List.getElem_map, List.getElem_zipIdx, List.getElem_range, Nat.zero_add]
  split <;> rfl

/-- XSUM's terms are the enabled lanes' values. -/
theorem filterMap_laneOpts {α : Type} (m : X) (v : VReg) (f : W32 → α) :
    (laneOpts m v).filterMap (fun o => o.map f) = (enabledLanes m v).map f := by
  rw [← laneOpts_some, List.reduceOption, List.map_filterMap]
  rfl

theorem onLanes_sorted (m : X) : (onLanes m).Pairwise (· < ·) := List.pairwise_lt_range.filter _

theorem mem_onLanes {m : X} {i : Nat} : i ∈ onLanes m ↔ i < 64 ∧ m.getLsbD i = true := by
  simp [onLanes]

theorem onLanes_eq_nil {m : X} : onLanes m = [] ↔ m = 0 := by
  rw [List.eq_nil_iff_forall_not_mem]
  simp only [mem_onLanes, not_and, Bool.not_eq_true]
  refine ⟨fun h => BitVec.eq_of_getLsbD_eq fun i hi => ?_, fun h i _ => by rw [h]; simp⟩
  rw [h i hi]
  simp

/-! ### Integer reductions (07:R150) -/

/-- The lane type of an integer type. -/
def laneTyOf (ty : IntTy) : LaneTy := match ty with | .i32 => .i32 | .n32 => .n32

/-- The least lane of a type and the greatest. -/
def leastLane (ty : IntTy) : W32 := match ty with | .i32 => 0x80000000 | .n32 => 0
def mostLane (ty : IntTy) : W32 := match ty with | .i32 => 0x7FFFFFFF | .n32 => 0xFFFFFFFF

theorem redResult_int (ty : IntTy) (v : W32) : redResult (laneTyOf ty) v = wideLane ty v := by cases ty <;> rfl

theorem minOp_int (ty : IntTy) : minOp (laneTyOf ty) = pick (laneZ ty) := by
  funext a b
  have hmin : minOp (laneTyOf ty) a b = minBy (intSigned ty) a b := by cases ty <;> rfl
  simp only [hmin, minBy, ltBy_lane, decide_eq_true_eq, pick]

theorem maxOp_int (ty : IntTy) : maxOp (laneTyOf ty) = pick (fun v => -laneZ ty v) := by
  funext a b
  have hmax : maxOp (laneTyOf ty) a b = maxBy (intSigned ty) a b := by cases ty <;> rfl
  simp only [hmax, maxBy, ltBy_lane, decide_eq_true_eq, pick, neg_lt_neg_iff]

theorem laneZ_injective (ty : IntTy) : Function.Injective (laneZ ty) := by
  cases ty with
  | i32 => exact fun a b h => BitVec.eq_of_toInt_eq h
  | n32 => exact fun a b h => BitVec.eq_of_toNat_eq (Int.ofNat_inj.mp h)

/-- A lane lies between the least and the greatest. -/
theorem laneZ_bounds (ty : IntTy) (v : W32) : laneZ ty (leastLane ty) ≤ laneZ ty v ∧ laneZ ty v ≤ laneZ ty (mostLane ty) := by
  cases ty with
  | i32 =>
    have h1 := BitVec.le_toInt v
    have h2 := BitVec.toInt_lt (x := v)
    exact ⟨h1, Int.le_sub_one_of_lt h2⟩
  | n32 =>
    have h := v.isLt
    exact ⟨Int.natCast_nonneg _, Int.ofNat_le.mpr (Nat.le_sub_one_of_lt h)⟩

/-- An element whose key is the greatest of all yields to any other. -/
theorem pick_neutral {α : Type} {key : α → Int} (hinj : Function.Injective key) {e : α} (he : ∀ a, key a ≤ key e) (a : α) :
    pick key e a = a := by
  unfold pick
  split
  next => rfl
  next h => exact hinj (le_antisymm (not_lt.mp h) (he a))

theorem laneSum_eq (ty : IntTy) (l : List (Option W32)) : laneSum (laneTyOf ty) l = (l.reduceOption.map (laneZ ty)).sum := by
  have hlane (v : W32) : laneInt (laneIntTy (laneTyOf ty)) v = laneZ ty v := by cases ty <;> rfl
  induction l using List.reverseRecOn with
  | nil => rfl
  | append_singleton l o ih =>
    rw [laneSum, List.foldl_append, ← laneSum, ih, List.reduceOption_append]
    cases o with
    | none => simp
    | some v => simp [hlane]

/-! ### The least and the greatest FP32 lane (07:R144, R150) -/

/-- The one with the lesser key, or the canonical NaN where either is a NaN. -/
def nanPick (key : W32 → Int) (a b : W32) : W32 := if isNan a || isNan b then canonNan else pick key a b

theorem fMax_eq : fMax = nanPick (fun v => -fpKey v) := by
  funext a b
  simp only [fMax, nanPick, pick, neg_lt_neg_iff]

theorem isNan_nanPick (key : W32 → Int) (a b : W32) : isNan (nanPick key a b) = (isNan a || isNan b) := by
  unfold nanPick pick
  cases ha : isNan a <;> cases hb : isNan b <;> simp only [Bool.or_false, Bool.or_true, Bool.false_eq_true, if_false, if_true]
  · split
    · exact hb
    · exact ha
  all_goals decide

theorem nanPick_assoc (key : W32 → Int) (a b c : W32) : nanPick key (nanPick key a b) c = nanPick key a (nanPick key b c) := by
  have hnan (u v : W32) : nanPick key u v = if isNan u || isNan v then canonNan else pick key u v := rfl
  rw [hnan, hnan a (nanPick key b c), isNan_nanPick, isNan_nanPick, Bool.or_assoc]
  cases ha : isNan a <;> cases hb : isNan b <;> cases hc : isNan c <;> simp [nanPick, ha, hb, hc, pick_assoc]

theorem isNan_foldl_nanPick (key : W32 → Int) (a : W32) (l : List W32) :
    isNan (l.foldl (nanPick key) a) = (a :: l).any isNan := by
  induction l generalizing a with
  | nil => simp
  | cons b l ih => rw [List.foldl_cons, ih, List.any_cons, isNan_nanPick, List.any_cons, List.any_cons, Bool.or_assoc]

theorem foldl_nanPick (key : W32 → Int) (a : W32) (l : List W32) (h : ∀ v ∈ a :: l, isNan v = false) :
    l.foldl (nanPick key) a = l.foldl (pick key) a := by
  induction l generalizing a with
  | nil => rfl
  | cons b l ih =>
    obtain ⟨ha, hb, hl⟩ : isNan a = false ∧ isNan b = false ∧ ∀ v ∈ l, isNan v = false := by simpa using h
    have hab : nanPick key a b = pick key a b := by simp [nanPick, ha, hb]
    have hpick : isNan (pick key a b) = false := by rw [← hab, isNan_nanPick, ha, hb, Bool.or_false]
    rw [List.foldl_cons, List.foldl_cons, hab]
    exact ih _ (List.forall_mem_cons.mpr ⟨hpick, hl⟩)

theorem canonLane_eq (t : LaneTy) (v : W32) : canonLane t v = if t = .f32 ∧ isNan v = true then 0x7FC00000 else v := by
  simp [canonLane, canonNan]

/-- The least of the lanes by a key: `e` of none, the canonical NaN where one is a NaN. -/
theorem fold1_nanPick (key : W32 → Int) {e : W32} (he : isNan e = false) (l : List W32) :
    let r := canonLane .f32 ((fold1 (nanPick key) l).getD e)
    (l = [] → r = e) ∧ ((∃ v ∈ l, isNan v = true) → r = 0x7FC00000)
      ∧ (l ≠ [] → (∀ v ∈ l, isNan v = false) → r ∈ l ∧ ∀ v ∈ l, key r ≤ key v) := by
  intro r
  have hcanon (v : W32) := canonLane_eq .f32 v
  cases l with
  | nil => simpa [r, fold1, hcanon] using fun h => absurd h (by simp [he])
  | cons a l =>
    have hr : r = canonLane .f32 (l.foldl (nanPick key) a) := rfl
    have hany := isNan_foldl_nanPick key a l
    refine ⟨by simp, fun h => ?_, fun _ h => ?_⟩
    · rw [List.any_eq_true.mpr h] at hany
      rw [hr, hcanon, if_pos ⟨rfl, hany⟩]
    · have hno : (a :: l).any isNan = false := List.any_eq_false.mpr fun v hv => by simp [h v hv]
      rw [hr, hcanon, if_neg (by simp [hany, hno]), foldl_nanPick key a l h]
      exact foldl_pick_least key a l

/-! ### The winning pair (07:R151) -/

/-- The first enabled lane whose key is the least. -/
theorem redTree_pair (key : W32 → Int) {m : X} (hm : m ≠ 0) (v : VReg) : ∃ i, i < 64 ∧ m.getLsbD i = true
    ∧ redTree (pick (fun p : W32 × Nat => key p.1)) ((List.range 64).map (fun i => if m.getLsbD i then some (lane v i, i) else none))
      = some (lane v i, i)
    ∧ ∀ k, k < 64 → m.getLsbD k = true →
      key (lane v i) ≤ key (lane v k) ∧ (k < i → key (lane v i) < key (lane v k)) := by
  rw [redTree_fold1 (pick_assoc _) (by simp), reduceOption_map_if, ← onLanes]
  obtain ⟨i0, l, hl⟩ := List.exists_cons_of_ne_nil (mt onLanes_eq_nil.mp hm)
  obtain ⟨l1, l2, heq, h1, h2⟩ := foldl_pick_split (fun p : W32 × Nat => key p.1) (lane v i0, i0) (l.map (fun i => (lane v i, i)))
  rw [hl, List.map_cons, fold1]
  have hall : (onLanes m).map (fun i => (lane v i, i)) = (lane v i0, i0) :: l.map (fun i => (lane v i, i)) := by rw [hl]; rfl
  generalize (l.map (fun i => (lane v i, i))).foldl (pick (fun p : W32 × Nat => key p.1)) (lane v i0, i0) = x at heq h1 h2 ⊢
  rw [heq] at hall
  have hsorted : (l1 ++ x :: l2).Pairwise (fun p q => p.2 < q.2) := by
    rw [← hall, List.pairwise_map]
    exact onLanes_sorted m
  have hx : x ∈ (onLanes m).map (fun i => (lane v i, i)) := by rw [hall]; simp
  obtain ⟨i, hi, rfl⟩ := List.mem_map.mp hx
  obtain ⟨hlt, hbit⟩ := mem_onLanes.mp hi
  refine ⟨i, hlt, hbit, rfl, fun k hk hkbit => ?_⟩
  have hmem : (lane v k, k) ∈ l1 ++ (lane v i, i) :: l2 := by
    rw [← hall]
    exact List.mem_map_of_mem (mem_onLanes.mpr ⟨hk, hkbit⟩)
  rcases List.mem_append.mp hmem with h | h
  · exact ⟨(h1 _ h).le, fun _ => h1 _ h⟩
  · rcases List.mem_cons.mp h with h | h
    · obtain ⟨-, rfl⟩ := Prod.mk.inj h
      exact ⟨le_rfl, fun hki => absurd hki (lt_irrefl _)⟩
    · have hafter := List.rel_of_pairwise_cons (List.pairwise_append.mp hsorted).2.1 h
      exact ⟨h2 _ h, fun hki => absurd hki (Nat.not_lt.mpr (Nat.le_of_lt hafter))⟩

theorem argResult_spec (t : LaneTy) (nan : Int) {beyond : Int → Int → Bool} {key : W32 → Int}
    (hkey : ∀ u v, beyond (rankKey t nan v) (rankKey t nan u) = decide (key v < key u)) (m : X) (v : VReg) :
    let r := argResult t nan beyond (laneOpts m v)
    (m = 0 → r = 0xFFFFFFFF) ∧ (m ≠ 0 → ∃ i, i < 64 ∧ m.getLsbD i = true ∧ r = canonLane t (lane v i) ++ BitVec.ofNat 32 i
      ∧ ∀ k, k < 64 → m.getLsbD k = true → key (lane v i) ≤ key (lane v k) ∧ (k < i → key (lane v i) < key (lane v k))) := by
  intro r
  have hop : (fun a b : W32 × Nat => if beyond (rankKey t nan b.1) (rankKey t nan a.1) then b else a)
      = pick (fun p => key p.1) := by
    funext a b
    simp only [hkey, decide_eq_true_eq, pick]
  have hr : r = match redTree (pick (fun p : W32 × Nat => key p.1))
      ((List.range 64).map (fun i => if m.getLsbD i then some (lane v i, i) else none)) with
    | none => 0xFFFFFFFF
    | some (w, i) => canonLane t w ++ BitVec.ofNat 32 i := by
    rw [← hop, ← zipIdx_laneOpts]
    rfl
  refine ⟨fun hm => ?_, fun hm => ?_⟩
  · rw [hr, redTree_fold1 (pick_assoc _) (by simp), reduceOption_map_if, ← onLanes, onLanes_eq_nil.mpr hm]
    rfl
  · obtain ⟨i, hi, hbit, htree, hleast⟩ := redTree_pair key hm v
    rw [htree] at hr
    exact ⟨i, hi, hbit, hr, hleast⟩

/-- A rounded result that is a NaN is the canonical one (03:R59). -/
theorem canonLane_rneF32 (x : Ext) : canonLane .f32 (rneF32 x) = rneF32 x := by
  rw [canonLane_eq]
  split
  next h =>
    rw [isNan_rneF32_iff.mp h.2]
    rfl
  next => rfl

/-! ### The instructions -/

/-- A reduction's result, named by its value. -/
theorem vred_sends {d : BitVec 5} {l occ : Nat} {f : Tile → X} {r : X} {s : State} (hq : quiet s = true) (hu : unitFree s 7 = true)
    (hf : f (holdUnit (some 7) occ s.tl) = f s.tl) (hr : f s.tl = r) :
    ∃ t, vred d l occ f s = .next t ∧ Sends s t l 7 (.x d) (val64 r) := by
  obtain ⟨t, hnext, hsends, -⟩ := vred_runs d l occ f s hq hu hf
  exact ⟨t, hnext, hr ▸ hsends⟩

section
variable {s : State} (hq : quiet s = true) (hu : unitFree s 7 = true) (g : Guard) (d a : BitVec 5)
include hq hu

/-- A reduction by a tree over the enabled lanes. -/
theorem vredTree_sends (f : List (Option W32) → X) : ∃ t, vred d 6 1 (fun tl => f (laneOpts (effGuard tl g) (rv tl a))) s = .next t
    ∧ Sends s t 6 7 (.x d) (val64 (f (laneOpts (effGuard s.tl g) (rv s.tl a)))) :=
  vred_sends hq hu (by simp only [holdUnit_effGuard, holdUnit_rv]) rfl

/-- A reduction by an associative operation with its neutral element is the fold in rising order. -/
theorem vredFold_sends (ty : IntTy) {op : W32 → W32 → W32} {e : W32} (hassoc : ∀ a b c, op (op a b) c = op a (op b c))
    (he : ∀ a, op e a = a) :
    ∃ t, vred d 6 1 (fun tl => redResult (laneTyOf ty) ((redTree op (laneOpts (effGuard tl g) (rv tl a))).getD e)) s = .next t
      ∧ Sends s t 6 7 (.x d) (val64 (wideLane ty ((enabledLanes (effGuard s.tl g) (rv s.tl a)).foldl op e))) := by
  obtain ⟨t, hnext, hsends⟩ := vredTree_sends hq hu g d a (fun l => redResult (laneTyOf ty) ((redTree op l).getD e))
  rw [redTree_fold op hassoc e he _ (laneOpts_length _ _), laneOpts_some, redResult_int] at hsends
  exact ⟨t, hnext, hsends⟩

theorem vredSum_sends (ty : IntTy) : ∃ t, execVredSum g (laneTyOf ty) false d a s = .next t
    ∧ Sends s t 6 7 (.x d) (val64 (wideLane ty ((enabledLanes (effGuard s.tl g) (rv s.tl a)).foldl (· + ·) 0))) := by
  have hop : sumOp (laneTyOf ty) = (· + ·) := by cases ty <;> rfl
  rw [← hop]
  exact vredFold_sends hq hu g d a ty (by rw [hop]; exact BitVec.add_assoc) (by rw [hop]; exact fun _ => BitVec.zero_add _)

theorem vredSumSat_sends (ty : IntTy) : ∃ t, execVredSum g (laneTyOf ty) true d a s = .next t
    ∧ Sends s t 6 7 (.x d) (val64 (wideLane ty
      (clampLane ty ((enabledLanes (effGuard s.tl g) (rv s.tl a)).map (laneZ ty)).sum))) := by
  have hty : laneIntTy (laneTyOf ty) = ty := by cases ty <;> rfl
  obtain ⟨t, hnext, hsends⟩ := vredTree_sends hq hu g d a
    (fun l => redResult (laneTyOf ty) (satInt (laneIntTy (laneTyOf ty)) (laneSum (laneTyOf ty) l)))
  rw [hty, laneSum_eq, laneOpts_some, satInt_eq, redResult_int] at hsends
  exact ⟨t, hnext, hsends⟩

theorem vredMin_sends (ty : IntTy) : ∃ t, execVredMin g (laneTyOf ty) d a s = .next t
    ∧ Sends s t 6 7 (.x d) (val64 (wideLane ty
      ((enabledLanes (effGuard s.tl g) (rv s.tl a)).foldl (pick (laneZ ty)) (mostLane ty)))) := by
  have hempty : minEmpty (laneTyOf ty) = mostLane ty := by cases ty <;> rfl
  have h := vredFold_sends hq hu g d a ty (pick_assoc (laneZ ty))
    (pick_neutral (laneZ_injective ty) fun v => (laneZ_bounds ty v).2)
  rw [← hempty, ← minOp_int] at h
  rw [← hempty, ← minOp_int]
  exact h

theorem vredMax_sends (ty : IntTy) : ∃ t, execVredMax g (laneTyOf ty) d a s = .next t
    ∧ Sends s t 6 7 (.x d) (val64 (wideLane ty
      ((enabledLanes (effGuard s.tl g) (rv s.tl a)).foldl (pick (fun v => -laneZ ty v)) (leastLane ty)))) := by
  have hempty : maxEmpty (laneTyOf ty) = leastLane ty := by cases ty <;> rfl
  have h := vredFold_sends hq hu g d a ty (pick_assoc (fun v => -laneZ ty v))
    (pick_neutral (neg_injective.comp (laneZ_injective ty)) fun v => neg_le_neg (laneZ_bounds ty v).1)
  rw [← hempty, ← maxOp_int] at h
  rw [← hempty, ← maxOp_int]
  exact h

theorem vredAnd_sends : ∃ t, execVredAnd g d a s = .next t ∧ Sends s t 6 7 (.x d)
    (val64 (((enabledLanes (effGuard s.tl g) (rv s.tl a)).foldl (· &&& ·) 0xFFFFFFFF).setWidth 64)) :=
  vredFold_sends hq hu g d a .n32 BitVec.and_assoc fun _ => BitVec.allOnes_and

theorem vredOr_sends : ∃ t, execVredOr g d a s = .next t ∧ Sends s t 6 7 (.x d)
    (val64 (((enabledLanes (effGuard s.tl g) (rv s.tl a)).foldl (· ||| ·) 0).setWidth 64)) :=
  vredFold_sends hq hu g d a .n32 BitVec.or_assoc fun _ => BitVec.zero_or

theorem vredXor_sends : ∃ t, execVredXor g d a s = .next t ∧ Sends s t 6 7 (.x d)
    (val64 (((enabledLanes (effGuard s.tl g) (rv s.tl a)).foldl (· ^^^ ·) 0).setWidth 64)) :=
  vredFold_sends hq hu g d a .n32 BitVec.xor_assoc fun _ => BitVec.zero_xor

/-- The exact sum of the enabled lanes, twice its unit's occupancy. -/
theorem vredXsum_sends : ∃ t, execVredXsum g d a s = .next t ∧ tget 0 t.tl.units 7 = s.tl.abs + 2 ∧ Sends s t 12 7 (.x d)
    (val64 ((rneF32 (exactSum ((enabledLanes (effGuard s.tl g) (rv s.tl a)).map valF32))).setWidth 64)) := by
  obtain ⟨t, hnext, hsends, hunit⟩ := vred_runs d 12 2 (fun tl => redResult .f32 (rneF32 (exactSum
    ((laneOpts (effGuard tl g) (rv tl a)).filterMap (fun o => o.map valF32))))) s hq hu (by simp only [holdUnit_effGuard, holdUnit_rv])
  rw [filterMap_laneOpts] at hsends
  exact ⟨t, hnext, hunit, canonLane_rneF32 _ ▸ hsends⟩

/-- The least FP32 lane by a key, a NaN among the lanes giving the canonical NaN. -/
theorem vredPick_sends (key : W32 → Int) {e : W32} (he : isNan e = false) :
    let l := enabledLanes (effGuard s.tl g) (rv s.tl a)
    ∃ t, vred d 6 1 (fun tl => redResult .f32 ((redTree (nanPick key) (laneOpts (effGuard tl g) (rv tl a))).getD e)) s = .next t
      ∧ ∃ r : W32, Sends s t 6 7 (.x d) (val64 (r.setWidth 64)) ∧ (l = [] → r = e) ∧ ((∃ v ∈ l, isNan v = true) → r = 0x7FC00000)
        ∧ (l ≠ [] → (∀ v ∈ l, isNan v = false) → r ∈ l ∧ ∀ v ∈ l, key r ≤ key v) := by
  intro l
  obtain ⟨t, hnext, hsends⟩ := vredTree_sends hq hu g d a (fun l => redResult .f32 ((redTree (nanPick key) l).getD e))
  rw [redTree_fold1 (nanPick_assoc key) (laneOpts_length _ _), laneOpts_some] at hsends
  exact ⟨t, hnext, _, hsends, fold1_nanPick key he l⟩

/-- The FP32 sum through the levels of the tree. -/
theorem vredSumF32_sends : let level := treeLevel fAdd
    let p0 := fun i : Nat => if (effGuard s.tl g).getLsbD i then some (lane (rv s.tl a) i) else none
    ∃ t, execVredSum g .f32 false d a s = .next t
      ∧ Sends s t 6 7 (.x d) (val64 ((canonLane .f32 ((level (level (level (level (level (level p0))))) 0).getD 0)).setWidth 64)) := by
  obtain ⟨t, hnext, hsends⟩ := vredTree_sends hq hu g d a (fun l => redResult .f32 ((redTree fAdd l).getD 0))
  rw [laneOpts, redTree_levels] at hsends
  exact ⟨t, hnext, hsends⟩

/-- The winning pair, by a key that ranks the lanes. -/
theorem vredArg_sends (q : LaneTy) (nan : Int) {beyond : Int → Int → Bool} {key : W32 → Int}
    (hkey : ∀ u v, beyond (rankKey q nan v) (rankKey q nan u) = decide (key v < key u)) :
    ∃ t, vred d 6 1 (fun tl => argResult q nan beyond (laneOpts (effGuard tl g) (rv tl a))) s = .next t
      ∧ ∃ r : X, Sends s t 6 7 (.x d) (val64 r) ∧ (effGuard s.tl g = 0 → r = 0xFFFFFFFF)
        ∧ (effGuard s.tl g ≠ 0 → ∃ i, i < 64 ∧ (effGuard s.tl g).getLsbD i = true
          ∧ r = (if q = .f32 ∧ isNan (lane (rv s.tl a) i) = true then (0x7FC00000 : W32) else lane (rv s.tl a) i) ++ BitVec.ofNat 32 i
          ∧ ∀ k, k < 64 → (effGuard s.tl g).getLsbD k = true →
            decide (key (lane (rv s.tl a) k) < key (lane (rv s.tl a) i)) = false
              ∧ (k < i → decide (key (lane (rv s.tl a) i) < key (lane (rv s.tl a) k)) = true)) := by
  obtain ⟨t, hnext, hsends⟩ := vredTree_sends hq hu g d a (argResult q nan beyond)
  obtain ⟨hnone, hsome⟩ := argResult_spec q nan hkey (effGuard s.tl g) (rv s.tl a)
  refine ⟨t, hnext, _, hsends, hnone, fun hm => ?_⟩
  obtain ⟨i, hi, hbit, hr, hleast⟩ := hsome hm
  rw [canonLane_eq] at hr
  refine ⟨i, hi, hbit, hr, fun k hk hkbit => ?_⟩
  obtain ⟨hle, hlt⟩ := hleast k hk hkbit
  exact ⟨decide_eq_false (not_lt.mpr hle), fun hki => decide_eq_true (hlt hki)⟩

end

/-- Settles O34: integers by the tree as a fold (`redTree_fold`), the least and the greatest and the winning pairs by the first
lane of the least key (`foldl_pick_split`), the FP32 sum by the levels of the tree (`redTree_levels`). -/
theorem vectorReductions : Obligations.VectorReductions := by
  intro s g ty d a hq hu l lt ext least most
  refine ⟨?_, fun q => ?_, vredXsum_sends hq hu g d a, ?_, ?_⟩
  case refine_1 =>
    have hmax := vredMax_sends hq hu g d a ty
    rw [pick_neg] at hmax
    simp only [List.forall_mem_cons, List.not_mem_nil, false_implies, implies_true, and_true]
    exact ⟨vredSum_sends hq hu g d a ty, vredSumSat_sends hq hu g d a ty, vredMin_sends hq hu g d a ty, hmax,
      vredAnd_sends hq hu g d a, vredOr_sends hq hu g d a, vredXor_sends hq hu g d a⟩
  case refine_2 =>
    have hmax := vredArg_sends hq hu g d a q (2 ^ 40) (beyond := fun b a => decide (a < b)) (key := fun v => -rankKey q (2 ^ 40) v)
      (fun u v => by simp only [neg_lt_neg_iff])
    have hmin := vredArg_sends hq hu g d a q (-2 ^ 40) (beyond := fun b a => decide (b < a)) (key := rankKey q (-2 ^ 40)) (fun u v => rfl)
    simp only [neg_lt_neg_iff] at hmax
    simp only [List.forall_mem_cons, List.not_mem_nil, false_implies, implies_true, and_true]
    cases q <;> exact ⟨hmax, hmin⟩
  case refine_3 =>
    intro comb level p0 r
    obtain ⟨t, hnext, hsends⟩ := vredSumF32_sends hq hu g d a
    have hlevel : level = treeLevel fAdd := by
      funext p j
      change comb _ _ = combine fAdd _ _
      cases p (2 * j) <;> cases p (2 * j + 1) <;> rfl
    have hr : r = canonLane .f32 ((level (level (level (level (level (level p0))))) 0).getD 0) := by
      unfold r
      cases level (level (level (level (level (level p0))))) 0 with
      | none => rfl
      | some v => simp [canonLane_eq]
    rw [← hlevel] at hsends
    exact ⟨t, hnext, hr ▸ hsends⟩
  case refine_4 =>
    have hmin := vredPick_sends hq hu g d a fpKey (e := 0x7F800000) (by decide)
    have hmax := vredPick_sends hq hu g d a (fun v => -fpKey v) (e := 0xFF800000) (by decide)
    simp only [← fMax_eq, neg_le_neg_iff] at hmax
    simp only [List.forall_mem_cons, List.not_mem_nil, false_implies, implies_true, and_true, decide_eq_true_eq]
    exact ⟨hmin, hmax⟩

end Sys2Proof.Machine
end

section
/-! PROOFS. Scans (07:R152). -/

namespace Sys2Proof.Machine

/-! ### Prefixes of the enabled lanes -/

/-- The enabled lanes of the first n are what is there of them. -/
theorem take_laneOpts (m : X) (v : VReg) {n : Nat} (hn : n ≤ 64) :
    ((laneOpts m v).take n).reduceOption = ((List.range n).filter (fun k => m.getLsbD k)).map (lane v) := by
  rw [laneOpts, ← List.map_take, List.take_range, Nat.min_eq_left hn, reduceOption_map_if]

theorem getElem?_laneOpts {m : X} {i : Nat} (hi : i < 64) (hm : m.getLsbD i = true) (v : VReg) :
    (laneOpts m v)[i]? = some (some (lane v i)) := by
  simp [laneOpts, hi, hm]

/-- A fold that goes on from an accumulator, or begins with the first element. -/
def foldFrom (op : W32 → W32 → W32) : Option W32 → List W32 → W32
  | some x, l => l.foldl op x
  | none, l => l.tail.foldl op (l.headD 0)

theorem foldFrom_cons (op : W32 → W32 → W32) (acc : Option W32) (v : W32) (l : List W32) :
    foldFrom op acc (v :: l) = foldFrom op (some (match acc with | some x => op x v | none => v)) l := by
  cases acc <;> rfl

/-- A scan's entry for a lane that is there combines the lanes up to and with it. -/
theorem scanFrom_getD (op : W32 → W32 → W32) (acc : Option W32) {l : List (Option W32)} {i : Nat} {v : W32} (h : l[i]? = some (some v)) :
    (scanFrom op acc l).getD i 0 = foldFrom op acc ((l.take (i + 1)).reduceOption) := by
  induction l generalizing acc i with
  | nil => simp at h
  | cons o l ih =>
    cases i with
    | zero =>
      obtain rfl : o = some v := by simpa using h
      rw [List.take_succ_cons, List.take_zero, List.reduceOption_singleton]
      cases acc <;> rfl
    | succ i =>
      rw [List.getElem?_cons_succ] at h
      rw [List.take_succ_cons]
      cases o with
      | none => exact ih acc h
      | some w =>
        rw [List.reduceOption_cons_of_some, foldFrom_cons]
        exact ih _ h

/-- With SAT, the exact sum clamped. -/
theorem scanSat_getD (ty : IntTy) (acc : Int) {l : List (Option W32)} {i : Nat} {v : W32} (h : l[i]? = some (some v)) :
    (scanSat (laneTyOf ty) acc l).getD i 0 = clampLane ty (acc + (((l.take (i + 1)).reduceOption).map (laneZ ty)).sum) := by
  have hlane (v : W32) : laneInt (laneIntTy (laneTyOf ty)) v = laneZ ty v := by cases ty <;> rfl
  have hsat (z : Int) : satInt (laneIntTy (laneTyOf ty)) z = clampLane ty z := by cases ty <;> rfl
  induction l generalizing acc i with
  | nil => simp at h
  | cons o l ih =>
    cases i with
    | zero =>
      obtain rfl : o = some v := by simpa using h
      simp [scanSat, hlane, hsat]
    | succ i =>
      rw [List.getElem?_cons_succ] at h
      rw [List.take_succ_cons]
      cases o with
      | none => exact ih acc h
      | some w =>
        rw [List.reduceOption_cons_of_some, List.map_cons, List.sum_cons, ← Int.add_assoc, ← hlane w]
        exact ih _ h

/-! ### The combinations (07:R150) -/

/-- A lane's key in the order of its type. -/
def laneKey (t : LaneTy) (v : W32) : Int := match t with | .i32 => v.toInt | .n32 => v.toNat | .f32 => fpKey v

/-- An operation of two lanes, of which an FP32 NaN makes the result the canonical NaN. -/
def orNan (t : LaneTy) (op : W32 → W32 → W32) (u v : W32) : W32 :=
  if t = .f32 ∧ (isNan u = true ∨ isNan v = true) then 0x7FC00000 else op u v

theorem nanPick_eq (key : W32 → Int) : nanPick key = orNan .f32 (pick key) :=
  funext₂ fun u v => by simp [nanPick, orNan, canonNan]

theorem minOp_eq (t : LaneTy) : minOp t = orNan t (pick (laneKey t)) := by
  cases t with
  | i32 => exact (minOp_int .i32).trans (funext₂ fun u v => (if_neg (by simp)).symm)
  | n32 => exact (minOp_int .n32).trans (funext₂ fun u v => (if_neg (by simp)).symm)
  | f32 => exact nanPick_eq fpKey

theorem maxOp_eq (t : LaneTy) : maxOp t = orNan t (pick (fun v => -laneKey t v)) := by
  cases t with
  | i32 => exact (maxOp_int .i32).trans (funext₂ fun u v => (if_neg (by simp)).symm)
  | n32 => exact (maxOp_int .n32).trans (funext₂ fun u v => (if_neg (by simp)).symm)
  | f32 => exact fMax_eq.trans (nanPick_eq _)

/-! ### The instructions -/

/-- The enabled lanes up to and with lane i. -/
def lanesUpTo (m : X) (v : VReg) (i : Nat) : List W32 := ((List.range (i + 1)).filter (fun k => m.getLsbD k)).map (fun k => lane v k)

section
variable {s : State} (hq : quiet s = true) (hu : unitFree s 7 = true) (g : Guard) (d a : BitVec 5)
include hq hu

/-- A scan by an operation. -/
theorem vscanFold_sends (t : LaneTy) (op : W32 → W32 → W32) : let m := effGuard s.tl g
    ∃ u, vscan t g d a (scanFrom op none) s = .next u ∧ ∃ w, Sends s u 8 7 (.v d m) w
      ∧ ∀ i, i < 64 → m.getLsbD i = true → let l := lanesUpTo m (rv s.tl a) i
        lane w i = if t = .f32 ∧ isNan (l.tail.foldl op (l.headD 0)) = true then 0x7FC00000 else l.tail.foldl op (l.headD 0) := by
  intro m
  obtain ⟨u, hnext, hsends⟩ := vscan_runs t g d a (scanFrom op none) s hq hu
  refine ⟨u, hnext, _, hsends, fun i hi hm => ?_⟩
  intro l
  rw [lane_ofLanes _ _ hi, scanFrom_getD op none (getElem?_laneOpts hi hm _), take_laneOpts _ _ (by omega), canonLane_eq]
  rfl

/-- A scan with SAT. -/
theorem vscanSat_sends (ty : IntTy) : let m := effGuard s.tl g
    ∃ u, vscan (laneTyOf ty) g d a (scanSat (laneTyOf ty) 0) s = .next u ∧ ∃ w, Sends s u 8 7 (.v d m) w
      ∧ ∀ i, i < 64 → m.getLsbD i = true →
        lane w i = clampLane ty (((lanesUpTo m (rv s.tl a) i).map (laneZ ty)).sum) := by
  intro m
  have hcanon (v : W32) : canonLane (laneTyOf ty) v = v := by cases ty <;> rfl
  obtain ⟨u, hnext, hsends⟩ := vscan_runs (laneTyOf ty) g d a (scanSat (laneTyOf ty) 0) s hq hu
  refine ⟨u, hnext, _, hsends, fun i hi hm => ?_⟩
  rw [lane_ofLanes _ _ hi, scanSat_getD ty 0 (getElem?_laneOpts hi hm _), take_laneOpts _ _ (by omega), hcanon, Int.zero_add]
  rfl

end

/-- Settles O35: a scan's entry is the fold of the lanes up to and with it (`scanFrom_getD`, `scanSat_getD`). -/
theorem vectorScans : Obligations.VectorScans := by
  intro s g ty lt d a hq hu m upTo canon key fold noNan plus
  have hplus : sumOp lt = plus := by cases lt <;> rfl
  have hkey : laneKey lt = key := by cases lt <;> rfl
  have hmin : minOp lt = noNan (fun u v => if key v < key u then v else u) := by
    rw [minOp_eq, hkey]
    rfl
  have hmax : maxOp lt = noNan (fun u v => if key u < key v then v else u) := by
    rw [maxOp_eq, hkey, pick_neg]
    rfl
  have scan := fun op => vscanFold_sends hq hu g d a lt op
  intro e he
  simp only [List.mem_cons, List.not_mem_nil, or_false] at he
  rcases he with rfl | rfl | rfl | rfl
  · exact hplus ▸ scan (sumOp lt)
  · exact hmin ▸ scan (minOp lt)
  · exact hmax ▸ scan (maxOp lt)
  · exact vscanSat_sends hq hu g d a ty

end Sys2Proof.Machine
end

section
/-! PROOFS. Vector loads and stores of a range, and masks in memory: their bank uses (07:R154, R155, R159). -/

namespace Sys2Proof.Machine

/-! ### Issues that add bank uses -/

/-- An issue at a quiet slot that adds bank uses, and completes a scratchpad access but where a condition says that it has none. -/
theorem uses_runs {unit occ len k : Nat} {c17 : Option X} {l : List (Nat × BitVec 32 × JobOp)} {c : Prop} [Decidable c]
    {G : Tile → Tile} {s : State} (hq : quiet s = true) (hu : unitFree s unit = true) (h17 : c17 = none)
    (hG : let h := holdUnit (some unit) occ s.tl; G h = if c then addJobs unit l h else accessEvent k (addJobs unit l h)) :
    ∃ t, issue { unit := some unit, occ := occ, c17 := c17 } len (fun s => s.onTl G) s = .next t
      ∧ tget 0 t.tl.units unit = s.tl.abs + occ ∧ Uses s t unit l (if c then s.tl else accessed s.tl k) := by
  have hh := holdUnit_eq (some unit) occ s.tl
  dsimp only at hG
  refine ⟨_, issue_runs _ len G _ s hq (by simp [Plan.clear, h17]) rfl (by simpa using hu) (onTl_onTl ..), ?_, ?_⟩
  · rw [tl_onTl, endIssue_units, hG]
    split <;> simp [addJobs_eq, accessEvent, holdUnit]
  · refine uses_of s false len unit l (G (holdUnit (some unit) occ s.tl)) _ rfl ?_ ?_ _ ⟨(holdUnit (some unit) occ s.tl).units, ?_⟩ ?_
    · rw [hG]
      split <;> simp [addJobs_eq, accessEvent]
    · rw [hG]
      split <;> simp [addJobs_eq, accessEvent]
    · rw [hG]
      split <;> simp only [addJobs_eq, accessEvent, accessed, holdUnit_abs, holdUnit_order, holdUnit_bindNo, holdUnit_jobs] <;>
        (conv_lhs => rw [hh])
    · split <;> rfl

/-- As `uses_runs`, for a unit held one cycle. -/
theorem uses_gives {unit len k : Nat} {c17 : Option X} {l : List (Nat × BitVec 32 × JobOp)} {c : Prop} [Decidable c]
    {G : Tile → Tile} {s : State} (hq : quiet s = true) (hu : unitFree s unit = true) (h17 : c17 = none)
    (hG : let h := holdUnit (some unit) 1 s.tl; G h = if c then addJobs unit l h else accessEvent k (addJobs unit l h)) :
    ∃ t, issue { unit := some unit, c17 := c17 } len (fun s => s.onTl G) s = .next t
      ∧ Uses s t unit l (if c then s.tl else accessed s.tl k) := by
  obtain ⟨t, hnext, -, huses⟩ := uses_runs (len := len) hq hu h17 hG
  exact ⟨t, hnext, huses⟩

/-- An operand that is not permitted slips at a quiet slot. -/
theorem operand_slips {u occ : Nat} {c17 : Option X} {info : X} {s : State} (len : Nat) (eff : State → State) (hq : quiet s = true)
    (h : c17 = some info) : ∃ t, issue { unit := some u, occ := occ, c17 := c17 } len eff s = .next t ∧ Slips s t 0x17 info :=
  issue_slips _ len eff s _ _ (slotCause_c17 _ s info hq rfl rfl rfl rfl (fun h => absurd h Bool.false_ne_true) rfl rfl h)

/-! ### Ranges of elements (07:R154) -/

theorem elemSize_pos (ty : Ty) : 0 < elemSize ty := by cases ty <;> decide

/-- The check of a range of 64 elements. -/
theorem vmemBad_iff (a : X) (w : Nat) : vmemBad a w = false ↔ a.toNat % w = 0
    ∧ (a.toNat + 64 * w ≤ 0x100000 ∨ (0x100000 ≤ a.toNat ∧ a.toNat + 64 * w ≤ 0x110000)) := by
  simp only [vmemBad, inOneRegion, Bool.or_eq_false_iff, Bool.not_eq_false', Bool.or_eq_true, Bool.and_eq_true, decide_eq_true_eq,
    bne_eq_false_iff_eq]

theorem laneAddrs_eq (m : X) (f : Nat → Nat) : laneAddrs m f = (onLanes m).map (fun i => (i, f i)) := rfl

theorem isEmpty_laneAddrs (m : X) (f : Nat → Nat) : (laneAddrs m f).isEmpty = decide (onLanes m = []) := by
  rw [laneAddrs_eq, List.isEmpty_map]
  cases onLanes m <;> rfl

/-- Numbers of at least one byte have cells. -/
theorem isEmpty_flatten_cells {α : Type} (l : List α) (a v : α → Nat) {w : Nat} (hw : 0 < w) :
    ((l.map (fun i => cellsLE (a i) w (v i))).flatten).isEmpty = decide (l = []) := by
  obtain ⟨n, rfl⟩ := Nat.exists_eq_succ_of_ne_zero hw.ne'
  cases l <;> simp [cellsLE]

theorem vstCells_laneAddrs (v : VReg) (w : Nat) (m : X) (f : Nat → Nat) : vstCells v w (laneAddrs m f)
    = ((onLanes m).map (fun i => cellsLE (f i) w (lane v i).toNat)).flatten := by
  rw [vstCells, laneAddrs_eq, List.map_map]
  rfl

/-! ### The line of a block (07:R155) -/

/-- One byte's line is the one bank of its address. -/
theorem rangeBanks_byte (a : X) : rangeBanks a.toNat 1 = bankSet a := by
  have hline : bankOf (a.toNat / 64 * 64) = bankOf a.toNat := by
    have := Nat.mod_add_div a.toNat 64
    exact (bankOf_sameLine (n := 64) (by omega) (by omega) (by omega)).symm
  rw [← bankBit_bankOf, ← hline, rangeBanks, linesOf, Nat.add_sub_cancel, Nat.sub_self]
  exact BitVec.or_zero

theorem seBad_iff (ty : Ty) (m a : X) : seBad ty m a = false ↔ BlocksPermitted ty m a := by
  have hslots (n : Nat) : (seSlots m).any (fun b => decide (blocksPerLine ty ≤ n + b)) = false
      ↔ ∀ b, b < 4 → m.getLsbD (4 * b) = true → n + b < blocksPerLine ty := by
    simp [seSlots]
  unfold seBad sePos BlocksPermitted
  by_cases hpos : a.toNat % 64 % elemSize ty = 0 ∧ a.toNat % 64 / elemSize ty < blocksPerLine ty
  · simp [hpos, hslots]
  · simp only [Bool.and_eq_true, decide_eq_true_eq, hpos, if_false, Bool.or_true, Bool.true_eq_false, false_iff]
    exact fun h => hpos ⟨h.2.1, h.2.2.1⟩

section
variable {s : State} (hq : quiet s = true)
include hq

/-- VLD of a permitted range. -/
theorem vld_runs (g : Guard) {ty : Ty} (d a : BitVec 5) (imm : BitVec 32) (hse : ty.isSe = false) (hu : unitFree s 8 = true)
    (hok : vmemBad (vaddr s.tl a imm) (elemSize ty) = false) :
    let w := elemSize ty
    let at_ := vaddr s.tl a imm
    let m := effGuard s.tl g
    ∃ t, execVld g ty d a imm s = .next t ∧ Uses s t 8 [(1, rangeBanks at_.toNat (64 * w),
        .vload d w (laneSigned ty) ((onLanes m).map (fun i => (i, at_.toNat + w * i))) 2)]
      (if onLanes m = [] then s.tl else accessed s.tl 1) := by
  intro w at_ m
  unfold execVld
  simp only [hse, Bool.false_eq_true, if_false]
  refine uses_gives hq hu (by simp [hok]) ?_
  dsimp only
  rw [isEmpty_laneAddrs]
  simp only [decide_eq_true_eq]
  rfl

/-- VST of a permitted range. -/
theorem vst_runs (g : Guard) {ty : Ty} (d a : BitVec 5) (imm : BitVec 32) (hse : ty.isSe = false) (hu : unitFree s 8 = true)
    (hok : vmemBad (vaddr s.tl a imm) (elemSize ty) = false) :
    let w := elemSize ty
    let at_ := vaddr s.tl a imm
    let m := effGuard s.tl g
    ∃ t, execVst g ty d a imm s = .next t ∧ Uses s t 8 [(1, rangeBanks at_.toNat (64 * w), if onLanes m = [] then .idle else .writes
        ((onLanes m).map (fun i => cellsLE (at_.toNat + w * i) w (lane (rv s.tl d) i).toNat)).flatten)]
      (if onLanes m = [] then s.tl else accessed s.tl 1) := by
  intro w at_ m
  unfold execVst
  simp only [hse, Bool.false_eq_true, if_false]
  refine uses_gives hq hu (by simp [hok]) ?_
  dsimp only
  rw [holdUnit_rv, vstCells_laneAddrs, isEmpty_flatten_cells _ _ _ (elemSize_pos ty)]
  simp only [decide_eq_true_eq]
  rfl

theorem vld_slips (g : Guard) {ty : Ty} (d a : BitVec 5) (imm : BitVec 32) (hse : ty.isSe = false)
    (hbad : vmemBad (vaddr s.tl a imm) (elemSize ty) = true) :
    ∃ t, execVld g ty d a imm s = .next t ∧ Slips s t 0x17 (vaddr s.tl a imm) := by
  unfold execVld
  simp only [hse, Bool.false_eq_true, if_false]
  exact operand_slips 12 _ hq (if_pos hbad)

theorem vst_slips (g : Guard) {ty : Ty} (d a : BitVec 5) (imm : BitVec 32) (hse : ty.isSe = false)
    (hbad : vmemBad (vaddr s.tl a imm) (elemSize ty) = true) :
    ∃ t, execVst g ty d a imm s = .next t ∧ Slips s t 0x17 (vaddr s.tl a imm) := by
  unfold execVst
  simp only [hse, Bool.false_eq_true, if_false]
  exact operand_slips 12 _ hq (if_pos hbad)

/-! ### Shared-exponent blocks (07:R155) -/

/-- VLD of permitted blocks. -/
theorem vldSe_runs (g : Guard) {ty : Ty} (d a : BitVec 5) (imm : BitVec 32) (hse : ty.isSe = true) (hu : unitFree s 8 = true)
    (hok : seBad ty (effGuard s.tl g) (vaddr s.tl a imm) = false) :
    let w := elemSize ty
    let at_ := vaddr s.tl a imm
    let slots := seSlots (effGuard s.tl g)
    ∃ t, execVld g ty d a imm s = .next t ∧ Uses s t 8 [(1, bankSet at_, .vloadSe d w (slots.map (fun b => (b, at_.toNat + w * b))))]
      (if slots = [] then s.tl else accessed s.tl 1) := by
  intro w at_ slots
  unfold execVld
  simp only [hse, if_true]
  refine uses_gives hq hu (by simp [hok]) ?_
  dsimp only
  rw [List.isEmpty_map]
  simp only [List.isEmpty_iff, rangeBanks_byte]
  rfl

/-- VST of permitted blocks, with the zeros of the line's pad bytes. -/
theorem vstSe_runs (g : Guard) {ty : Ty} (d a : BitVec 5) (imm : BitVec 32) (hse : ty.isSe = true) (hu : unitFree s 8 = true)
    (hok : seBad ty (effGuard s.tl g) (vaddr s.tl a imm) = false) :
    let w := elemSize ty
    let at_ := vaddr s.tl a imm
    let slots := seSlots (effGuard s.tl g)
    ∃ t, execVst g ty d a imm s = .next t ∧ Uses s t 8 [(1, bankSet at_, if slots = [] then .idle else .writes
        ((slots.map (fun b => cellsLE (at_.toNat + w * b) w ((rv s.tl d).extractLsb' (128 * b) 128).toNat)).flatten
          ++ padCells ty (at_.toNat / 64 * 64)))]
      (if slots = [] then s.tl else accessed s.tl 1) := by
  intro w at_ slots
  unfold execVst
  simp only [hse, if_true]
  refine uses_gives hq hu (by simp [hok]) ?_
  dsimp only
  rw [holdUnit_rv, isEmpty_flatten_cells _ _ _ (elemSize_pos ty)]
  simp only [decide_eq_true_eq, rangeBanks_byte]
  rfl

theorem vldSe_slips (g : Guard) {ty : Ty} (d a : BitVec 5) (imm : BitVec 32) (hse : ty.isSe = true)
    (hbad : seBad ty (effGuard s.tl g) (vaddr s.tl a imm) = true) :
    ∃ t, execVld g ty d a imm s = .next t ∧ Slips s t 0x17 (vaddr s.tl a imm) := by
  unfold execVld
  simp only [hse, if_true]
  exact operand_slips 12 _ hq (if_pos hbad)

theorem vstSe_slips (g : Guard) {ty : Ty} (d a : BitVec 5) (imm : BitVec 32) (hse : ty.isSe = true)
    (hbad : seBad ty (effGuard s.tl g) (vaddr s.tl a imm) = true) :
    ∃ t, execVst g ty d a imm s = .next t ∧ Slips s t 0x17 (vaddr s.tl a imm) := by
  unfold execVst
  simp only [hse, if_true]
  exact operand_slips 12 _ hq (if_pos hbad)

/-! ### Masks in memory (07:R159) -/

/-- An access of a mask at a permitted address: enabled it uses its bank and completes, nullified it uses it for nothing. -/
theorem maskAccess_runs (g : Guard) {at_ : X} {op : Tile → JobOp} (hu : unitFree s 5 = true) (hok : PermitsAddr at_ 8)
    (hop : op (holdUnit (some 5) 1 s.tl) = op s.tl) :
    ∃ t, issue { unit := some 5, c17 := checkAddr at_ 8 } 12 (fun s => s.onTl (fun t =>
        if enabled t g then accessEvent 1 (addJob 1 5 (bankBit (bankOf at_.toNat)) (op t) t)
        else addJob 1 5 (bankBit (bankOf at_.toNat)) .idle t)) s = .next t
      ∧ IfEnabled s g (fun t => Uses s t 5 [(1, bankSet at_, op s.tl)] (accessed s.tl 1))
        (fun t => Uses s t 5 [(1, bankSet at_, .idle)] s.tl) t := by
  rw [issue_congr _ 12 _ (fun s' => s'.onTl (fun t => if enabled t g then accessEvent 1 (addJobs 5 [(1, bankSet at_, op s.tl)] t)
    else addJobs 5 [(1, bankSet at_, .idle)] t)) s]
  · exact issue_uses _ 12 g 5 1 _ _ s hq (by simp [Plan.clear, checkAddr_none _ _ hok]) rfl (by simpa using hu)
  · rw [← bankBit_bankOf]
    simp only [State.onTl, tl_setTl, hop]
    rfl

theorem vmaskLd_slips (g : Guard) (p : BitVec 3) (a : BitVec 5) (imm : BitVec 32) (hbad : ¬PermitsAddr (vaddr s.tl a imm) 8) :
    ∃ t, execVmaskLd g p a imm s = .next t ∧ Slips s t 0x17 (vaddr s.tl a imm) := by
  unfold execVmaskLd
  exact access_slips hq hbad 5 1 12 _

theorem vmaskSt_slips (g : Guard) (a : BitVec 5) (p : BitVec 3) (imm : BitVec 32) (hbad : ¬PermitsAddr (vaddr s.tl a imm) 8) :
    ∃ t, execVmaskSt g a p imm s = .next t ∧ Slips s t 0x17 (vaddr s.tl a imm) := by
  unfold execVmaskSt
  exact access_slips hq hbad 5 1 12 _

end

/-- Settles O36: each access by what its issue adds where its address is permitted, and by its slip where it is not. -/
theorem vectorRangeUses : Obligations.VectorRangeUses := by
  refine ⟨fun s g ty d a p imm hq => ?_, fun s g ty d a imm hq hu hse => ?_⟩
  · intro w at_ m ok u
    refine ⟨fun hse hu => ⟨fun h => vld_runs hq g d a imm hse hu ((vmemBad_iff _ _).mpr h),
      fun h => vst_runs hq g d a imm hse hu ((vmemBad_iff _ _).mpr h),
      fun h => ?_⟩, fun hu => ⟨fun h => ⟨?_, ?_⟩, fun h => ⟨vmaskLd_slips hq g p a imm h, vmaskSt_slips hq g a p imm h⟩⟩⟩
    · have hbad : vmemBad (vaddr s.tl a imm) (elemSize ty) = true := by
        rw [← Bool.not_eq_false, vmemBad_iff]
        exact h
      exact ⟨vld_slips hq g d a imm hse hbad, vst_slips hq g d a imm hse hbad⟩
    · exact maskAccess_runs hq g (op := fun _ => .maskLoad p at_.toNat) hu h rfl
    · exact maskAccess_runs hq g (op := fun t => .writes (cellsLE at_.toNat 8 (rg t p).toNat)) hu h rfl
  · intro w at_ m slots u pad
    refine ⟨fun h => ?_, fun h => ?_⟩
    · have hok := (seBad_iff _ _ _).mpr h
      exact ⟨vldSe_runs hq g d a imm hse hu hok, vstSe_runs hq g d a imm hse hu hok⟩
    · have hbad : seBad ty m (vaddr s.tl a imm) = true := by
        rw [← Bool.not_eq_false, seBad_iff]
        exact h
      exact ⟨vldSe_slips hq g d a imm hse hbad, vstSe_slips hq g d a imm hse hbad⟩

end Sys2Proof.Machine
end

section
/-! PROOFS. Lane-addressed accesses: their bank uses and their checks (07:R156-R158). -/

namespace Sys2Proof.Machine

/-! ### Held cycles -/

theorem heldUses_succ (banks : BitVec 32) (k n : Nat) : heldUses banks k (n + 1) = (k, banks, .idle) :: heldUses banks (k + 1) n := by
  rw [heldUses, List.range_succ_eq_map, List.map_cons, List.map_map, heldUses]
  refine congrArg _ (List.map_congr_left fun i _ => ?_)
  rw [Function.comp_apply, Nat.succ_eq_one_add, Nat.add_assoc]

theorem holdBanks_eq (banks : BitVec 32) (k n : Nat) (t : Tile) : holdBanks banks k n t = addJobs 8 (heldUses banks k n) t := by
  induction n generalizing k t with
  | zero => rfl
  | succ n ih => rw [holdBanks, ih, heldUses_succ, addJobs]

theorem addJobs_append (unit : Nat) (l m : List (Nat × BitVec 32 × JobOp)) (t : Tile) :
    addJobs unit (l ++ m) t = addJobs unit m (addJobs unit l t) := by
  induction l generalizing t with
  | nil => rfl
  | cons e r ih => exact ih _

/-! ### The checks of R156 -/

/-- A lane's address lies in the region of x[A] and is a multiple of the width. -/
def LaneGood (t : Tile) (a b : BitVec 5) (w i : Nat) : Prop := (gatherAddr t a b i).toNat ≤ 0x10FFFF
  ∧ ((gatherAddr t a b i).toNat < 0x100000 ↔ (rx t a).toNat < 0x100000) ∧ (gatherAddr t a b i).toNat % w = 0

theorem laneBad_iff (t : Tile) (a b : BitVec 5) (w i : Nat) :
    (!sameRegion (rx t a) (gatherAddr t a b i) || (gatherAddr t a b i).toNat % w != 0) = true ↔ ¬LaneGood t a b w i := by
  unfold LaneGood sameRegion
  rw [Bool.or_eq_true, Bool.not_eq_true', bne_iff_ne, ← Bool.not_eq_true, Bool.and_eq_true, decide_eq_true_iff, beq_iff_eq, decide_eq_decide]
  tauto

theorem gatherBad_region {t : Tile} {m : X} {a b : BitVec 5} {w : Nat} (h : 0x10FFFF < (rx t a).toNat) :
    gatherBad t m a b w = some (rx t a) := if_pos h

theorem gatherBad_none {t : Tile} {m : X} {a b : BitVec 5} {w : Nat} (h : (rx t a).toNat ≤ 0x10FFFF)
    (hgood : ∀ i ∈ onLanes m, LaneGood t a b w i) : gatherBad t m a b w = none := by
  rw [gatherBad, if_neg (not_lt.mpr h), Option.map_eq_none_iff, List.find?_eq_none]
  intro i hi
  rw [Bool.and_eq_true, laneBad_iff]
  exact fun hbad => hbad.2 (hgood i (List.mem_filter.mpr ⟨hi, hbad.1⟩))

/-- The lowest enabled lane that fails. -/
theorem gatherBad_lane {t : Tile} {m : X} {a b : BitVec 5} {w i : Nat} (h : (rx t a).toNat ≤ 0x10FFFF) (hi : i ∈ onLanes m)
    (hbad : ¬LaneGood t a b w i) (hlow : ∀ k ∈ onLanes m, k < i → LaneGood t a b w k) :
    gatherBad t m a b w = some (gatherAddr t a b i) := by
  obtain ⟨hlt, hbit⟩ := mem_onLanes.mp hi
  rw [gatherBad, if_neg (not_lt.mpr h)]
  refine congrArg (Option.map (gatherAddr t a b)) (List.find?_range_eq_some.mpr ⟨?_, List.mem_range.mpr hlt, fun k hk => ?_⟩)
  · rw [Bool.and_eq_true, laneBad_iff]
    exact ⟨hbit, hbad⟩
  · rw [Bool.not_eq_true', ← Bool.not_eq_true, Bool.and_eq_true, laneBad_iff]
    exact fun hk' => hk'.2 (hlow k (mem_onLanes.mpr ⟨hk.trans hlt, hk'.1⟩) hk)

/-! ### The instructions -/

theorem holdUnit_gatherAddr (u : Option Nat) (o : Nat) (t : Tile) (a b : BitVec 5) : gatherAddr (holdUnit u o t) a b = gatherAddr t a b := by
  funext i
  simp only [gatherAddr, vl, holdUnit_rx, holdUnit_rv]

section
variable {s : State} (hq : quiet s = true) (g : Guard) (d a b : BitVec 5)
include hq

/-- VGATHER where its addresses are permitted. -/
theorem vgather_runs {ty : Ty} (hu : unitFree s 8 = true) (hok : gatherBad s.tl (effGuard s.tl g) a b (elemSize ty) = none) :
    let m := effGuard s.tl g
    let banks := regionBanks (rx s.tl a)
    ∃ t, execVgather g ty d a b s = .next t ∧ tget 0 t.tl.units 8 = s.tl.abs + 16 ∧ Uses s t 8
      ((1, banks, .vload d (elemSize ty) (laneSigned ty) ((onLanes m).map (fun i => (i, (gatherAddr s.tl a b i).toNat))) 18)
        :: heldUses banks 2 15)
      (if m = 0 then s.tl else accessed s.tl 16) := by
  intro m banks
  refine uses_runs hq hu hok ?_
  dsimp only
  rw [holdUnit_gatherAddr, holdUnit_rx, holdBanks_eq]
  rfl

/-- VSCATTER where its addresses are permitted. -/
theorem vscatter_runs {ty : Ty} (hu : unitFree s 8 = true) (hok : gatherBad s.tl (effGuard s.tl g) a b (elemSize ty) = none) :
    let m := effGuard s.tl g
    let banks := regionBanks (rx s.tl a)
    ∃ t, execVscatter g ty d a b s = .next t ∧ tget 0 t.tl.units 8 = s.tl.abs + 16 ∧ Uses s t 8
      (heldUses banks 1 15 ++ [(16, banks, if m = 0 then .idle else .writes
        ((onLanes m).map (fun i => cellsLE (gatherAddr s.tl a b i).toNat (elemSize ty) (lane (rv s.tl d) i).toNat)).flatten)])
      (if m = 0 then s.tl else accessed s.tl 16) := by
  intro m banks
  refine uses_runs hq hu hok ?_
  dsimp only
  rw [holdUnit_gatherAddr, holdUnit_rx, holdUnit_rv, vstCells_laneAddrs, holdBanks_eq, addJobs_append]
  rfl

/-- VATOM where its addresses are permitted. -/
theorem vatom_runs (op : RmwOp) (it : IntTy) (c : BitVec 5) (hu : unitFree s 8 = true)
    (hok : gatherBad s.tl (effGuard s.tl g) a b 4 = none) :
    let m := effGuard s.tl g
    let banks := regionBanks (rx s.tl a)
    ∃ t, vatom op g it d a b c s = .next t ∧ tget 0 t.tl.units 8 = s.tl.abs + 16 ∧ Uses s t 8
      ((1, banks, .vatomRead d (intSigned it) op
        ((onLanes m).map (fun i => (i, (gatherAddr s.tl a b i).toNat, lane (rv s.tl c) i)))) :: heldUses banks 2 15)
      (if m = 0 then s.tl else accessed s.tl 16) := by
  intro m banks
  refine uses_runs hq hu hok ?_
  dsimp only
  rw [holdUnit_gatherAddr, holdUnit_rx, laneAddrs_eq, List.map_map, holdBanks_eq]
  simp only [vl, holdUnit_rv]
  rfl

theorem vgather_slips {ty : Ty} {info : X} (h : gatherBad s.tl (effGuard s.tl g) a b (elemSize ty) = some info) :
    ∃ t, execVgather g ty d a b s = .next t ∧ Slips s t 0x17 info := by
  unfold execVgather
  exact operand_slips 12 _ hq h

theorem vscatter_slips {ty : Ty} {info : X} (h : gatherBad s.tl (effGuard s.tl g) a b (elemSize ty) = some info) :
    ∃ t, execVscatter g ty d a b s = .next t ∧ Slips s t 0x17 info := by
  unfold execVscatter
  exact operand_slips 12 _ hq h

theorem vatom_slips (op : RmwOp) (it : IntTy) (c : BitVec 5) {info : X} (h : gatherBad s.tl (effGuard s.tl g) a b 4 = some info) :
    ∃ t, vatom op g it d a b c s = .next t ∧ Slips s t 0x17 info := by
  unfold vatom
  exact operand_slips 12 _ hq h

/-- Each of the lane-addressed instructions slips on the address that its checks find. -/
theorem laneAddressed_slips (ty : Ty) (it : IntTy) (c : BitVec 5) {info : X} :
    ∀ e ∈ [(Instr.vgather g ty d a b, elemSize ty), (.vscatter g ty d a b, elemSize ty), (.vatomAdd g it d a b c, 4),
        (.vatomMin g it d a b c, 4), (.vatomMax g it d a b c, 4), (.vatomXchg g it d a b c, 4)],
      gatherBad s.tl (effGuard s.tl g) a b e.2 = some info → Gives e.1 s (fun t => Slips s t 0x17 info) := by
  have atomic := fun op => vatom_slips hq g d a b op it c (info := info)
  simp only [List.forall_mem_cons, List.not_mem_nil, false_implies, implies_true, and_true]
  exact ⟨vgather_slips hq g d a b, vscatter_slips hq g d a b, atomic .add, atomic .min, atomic .max, atomic .xchg⟩

end

/-- Settles O37: the uses of a permitted access, and the address that the checks of R156 find (`gatherBad_region`, `gatherBad_lane`). -/
theorem laneAddressedUses : Obligations.LaneAddressedUses := by
  intro s g ty it d a b c hq hu m base at_ good banks u w sgn
  have hsgn : intSigned it = sgn := by cases it <;> rfl
  refine ⟨fun hbase hgood => ?_, fun hbase hgood e he => ?_, fun e he => ⟨fun h => ?_, fun i hi hbase hbad hlow => ?_⟩⟩
  · have hok := gatherBad_none hbase hgood
    exact ⟨vgather_runs hq g d a b hu hok, vscatter_runs hq g d a b hu hok⟩
  · have atomic := fun op => hsgn ▸ vatom_runs hq g d a b op it c hu (gatherBad_none hbase hgood)
    simp only [List.mem_cons, List.not_mem_nil, or_false] at he
    rcases he with rfl | rfl | rfl | rfl
    · exact atomic .add
    · exact atomic .min
    · exact atomic .max
    · exact atomic .xchg
  · exact laneAddressed_slips hq g d a b ty it c e he (gatherBad_region h)
  · exact laneAddressed_slips hq g d a b ty it c e he (gatherBad_lane hbase hi hbad hlow)

end Sys2Proof.Machine
end

section
/-! PROOFS. What vector reads and atomics move (07:R137, R154-R159; 06:R119). -/

namespace Sys2Proof.Machine

/-! ### Lanes of a result -/

/-- A number of at most four bytes in a lane, extended as its type says (07:R137). -/
theorem extends_extend32 (signed : Bool) {n : Nat} (v : Nat) (hn : n ≤ 4) : Extends signed n v (extend32 signed n v) := by
  unfold Extends extend32
  cases signed with
  | true => rw [if_pos rfl, if_pos rfl, BitVec.toInt_signExtend_of_le (by omega), BitVec.toInt_ofNat']
  | false =>
    have hbytes : v % 2 ^ (8 * n) < 2 ^ (8 * n) := Nat.mod_lt _ (Nat.two_pow_pos _)
    have hword : 2 ^ (8 * n) ≤ 2 ^ 32 := Nat.pow_le_pow_right (by decide) (by omega)
    rw [if_neg Bool.false_ne_true, if_neg Bool.false_ne_true, BitVec.toNat_ofNat]
    exact Nat.mod_eq_of_lt (Nat.lt_of_lt_of_le hbytes hword)

theorem getLsbD_laneMask (l : List Nat) {i : Nat} (hi : i < 64) : (laneMask l).getLsbD i = true ↔ i ∈ l := by
  induction l with
  | nil => simp [laneMask]
  | cons j l ih =>
    rw [laneMask, BitVec.getLsbD_or, Bool.or_eq_true, ih, List.mem_cons, BitVec.getLsbD_ofNat, decide_eq_true hi, Bool.true_and,
      Nat.testBit_two_pow, decide_eq_true_iff, eq_comm]

theorem tfind_ne_none {α : Type} {t : Table α} {k : Nat} {v : α} (hmem : (k, v) ∈ t) : tfind t k ≠ none := by
  induction t with
  | nil => simp at hmem
  | cons e t ih =>
    obtain ⟨j, w⟩ := e
    rw [tfind]
    split
    next => simp
    next hne => exact ih ((List.mem_cons.mp hmem).resolve_left fun heq => hne (Prod.mk.inj heq).1.symm)

/-- A key that a table lists with one value reads it. -/
theorem tfind_of_mem {α : Type} {t : Table α} {k : Nat} {v : α} (h : ∀ w, (k, w) ∈ t → w = v) (hmem : (k, v) ∈ t) :
    tfind t k = some v := by
  obtain ⟨w, hw⟩ := Option.ne_none_iff_exists'.mp (tfind_ne_none hmem)
  rw [hw, h w (mem_of_tfind hw)]

theorem lane_laneValues {l : Table W32} {i : Nat} (hi : i < 64) {v : W32} (h : ∀ w, (i, w) ∈ l → w = v) (hmem : (i, v) ∈ l) :
    lane (laneValues l) i = v := by
  rw [laneValues, lane_ofLanes _ _ hi, tfind_of_mem h hmem]
  rfl

/-- A lane of a list that names each lane once has its entry's value. -/
theorem lane_laneValues_map {α : Type} {l : List α} {n : α → Nat} {f : α → W32} (h : (l.map n).Nodup) {e : α} (he : e ∈ l)
    (hlt : n e < 64) : lane (laneValues (l.map (fun e => (n e, f e)))) (n e) = f e := by
  refine lane_laneValues hlt (fun w hw => ?_) (List.mem_map_of_mem (f := fun e => (n e, f e)) he)
  obtain ⟨e', he', heq⟩ := List.mem_map.mp hw
  obtain ⟨hn, rfl⟩ := Prod.mk.inj heq
  rw [List.inj_on_of_nodup_map h he' he hn]

theorem nodup_filter_map {α : Type} {l : List α} {f : α → Nat} (h : (l.map f).Nodup) (p : α → Bool) : ((l.filter p).map f).Nodup :=
  h.sublist (List.filter_sublist.map f)

theorem allCut_iff {α : Type} (all kept : List α) : allCut all kept = true ↔ all ≠ [] ∧ kept = [] := by
  simp [allCut]

/-! ### Vector reads (07:R154-R156, R159) -/

/-- The lanes that their banks serve. -/
def servedLanes (bad : BitVec 32) (lanes : List (Nat × Nat)) : List (Nat × Nat) := lanes.filter (fun l => !cutAt bad l.2)

theorem mem_servedLanes {bad : BitVec 32} {lanes : List (Nat × Nat)} {l : Nat × Nat} :
    l ∈ servedLanes bad lanes ↔ l ∈ lanes ∧ bad.getLsbD (bankOf l.2) = false := by
  simp [servedLanes, cutAt]

theorem runJob_vload {bad : BitVec 32} {j : Job} {d : BitVec 5} {w after : Nat} {sgn : Bool} {lanes : List (Nat × Nat)}
    (h : j.op = .vload d w sgn lanes after) (s : State) : runJob bad j s = if allCut lanes (servedLanes bad lanes) then s
      else s.onTl (vloadStep j d w sgn (servedLanes bad lanes) after) := by
  rw [runJob, h]
  rfl

/-- VLD's and VGATHER's read: the served lanes of a result. -/
theorem vloadStep_sends {s : State} {j : Job} {d : BitVec 5} {w after : Nat} {sgn : Bool} {kept : List (Nat × Nat)}
    (hnodup : (kept.map (fun l => l.1)).Nodup) (hlt : ∀ l ∈ kept, l.1 < 64) (hw : w ≤ 4) :
    let t := s.onTl (vloadStep j d w sgn kept after)
    ∃ m v, t.tl.pend = { due := s.tl.abs + after, order := j.order, unit := j.unit, dest := .v d m, val := v } :: s.tl.pend
      ∧ (∀ i, i < 64 → (m.getLsbD i = true ↔ ∃ l ∈ kept, l.1 = i))
      ∧ (∀ l ∈ kept, Extends sgn w (mreadLE s.tl.mem l.2 w) (lane v l.1)) ∧ SameBytes s t := by
  intro t
  refine ⟨laneMask (kept.map (fun l => l.1)), laneValues (kept.map (fun (i, a) => (i, extend32 sgn w (mreadLE s.tl.mem a w)))), ?_,
    fun i hi => ?_, fun l hl => ?_, sameBytes_of _ _ (by rw [tl_onTl]; rfl) rfl⟩
  · rw [tl_onTl]
    rfl
  · rw [getLsbD_laneMask _ hi, List.mem_map]
  · rw [lane_laneValues_map (n := fun l : Nat × Nat => l.1) (f := fun l => extend32 sgn w (mreadLE s.tl.mem l.2 w)) hnodup hl (hlt l hl)]
    exact extends_extend32 sgn _ hw

theorem runJob_vloadSe {bad : BitVec 32} {j : Job} {d : BitVec 5} {w : Nat} {slots : List (Nat × Nat)} (h : j.op = .vloadSe d w slots)
    (s : State) : runJob bad j s = if cutAny bad (slots.map (fun l => l.2)) then s else s.onTl (vloadSeStep j d w slots) := by
  rw [runJob, h]

theorem cutAny_iff (bad : BitVec 32) (slots : List (Nat × Nat)) :
    cutAny bad (slots.map (fun l => l.2)) = true ↔ ∃ l ∈ slots, bad.getLsbD (bankOf l.2) = true := by
  simp [cutAny, cutAt]

/-- The four lanes of each of a list of block slots. -/
def slotLanes (mem : Memory) (w : Nat) (slots : List (Nat × Nat)) : Table W32 := (slots.map (fun (b, a) => (List.range 4).map (fun k =>
  (4 * b + k, (BitVec.ofNat 32 (mreadLE mem a w / 2 ^ (32 * k)) : W32))))).flatten

theorem mem_slotLanes {mem : Memory} {w : Nat} {slots : List (Nat × Nat)} {i : Nat} {v : W32} : (i, v) ∈ slotLanes mem w slots
    ↔ ∃ l ∈ slots, l.1 = i / 4 ∧ v = BitVec.ofNat 32 (mreadLE mem l.2 w / 2 ^ (32 * (i % 4))) := by
  simp only [slotLanes, List.mem_flatten, List.mem_map, List.mem_range, exists_exists_and_eq_and, Prod.mk.injEq]
  constructor
  · rintro ⟨l, hl, k, hk, rfl, rfl⟩
    exact ⟨l, hl, by omega, by rw [show (4 * l.1 + k) % 4 = k by omega]⟩
  · rintro ⟨l, hl, hb, rfl⟩
    exact ⟨l, hl, i % 4, by omega, by omega, rfl⟩

/-- VLD's read of shared-exponent blocks: four lanes of each slot. -/
theorem vloadSeStep_sends {s : State} {j : Job} {d : BitVec 5} {w : Nat} {slots : List (Nat × Nat)}
    (hnodup : (slots.map (fun l => l.1)).Nodup) (hlt : ∀ l ∈ slots, l.1 < 4) : let t := s.onTl (vloadSeStep j d w slots)
    ∃ m v, t.tl.pend = { due := s.tl.abs + 2, order := j.order, unit := j.unit, dest := .v d m, val := v } :: s.tl.pend
      ∧ (∀ i, i < 64 → (m.getLsbD i = true ↔ ∃ l ∈ slots, l.1 = i / 4))
      ∧ (∀ l ∈ slots, ∀ k, k < 4 → lane v (4 * l.1 + k) = BitVec.ofNat 32 (mreadLE s.tl.mem l.2 w / 2 ^ (32 * k)))
      ∧ SameBytes s t := by
  intro t
  refine ⟨laneMask ((slotLanes s.tl.mem w slots).map (fun l => l.1)), laneValues (slotLanes s.tl.mem w slots), ?_, fun i hi => ?_,
    fun l hl k hk => ?_, sameBytes_of _ _ (by rw [tl_onTl]; rfl) rfl⟩
  · rw [tl_onTl]
    rfl
  · rw [getLsbD_laneMask _ hi, List.mem_map]
    constructor
    · rintro ⟨⟨i, v⟩, hmem, rfl⟩
      obtain ⟨l, hl, hb, -⟩ := mem_slotLanes.mp hmem
      exact ⟨l, hl, hb⟩
    · rintro ⟨l, hl, hb⟩
      exact ⟨(i, _), mem_slotLanes.mpr ⟨l, hl, hb, rfl⟩, rfl⟩
  · have hb := hlt l hl
    have hdiv : (4 * l.1 + k) / 4 = l.1 := by omega
    have hmod : (4 * l.1 + k) % 4 = k := by omega
    refine lane_laneValues (by omega) (fun v hv => ?_) (mem_slotLanes.mpr ⟨l, hl, hdiv.symm, by rw [hmod]⟩)
    obtain ⟨l', hl', hb', rfl⟩ := mem_slotLanes.mp hv
    rw [hmod, List.inj_on_of_nodup_map hnodup hl' hl (hb'.trans hdiv)]

theorem runJob_maskLoad {bad : BitVec 32} {j : Job} {p : BitVec 3} {addr : Nat} (h : j.op = .maskLoad p addr) (s : State) :
    runJob bad j s = if bad.getLsbD (bankOf addr) then s else s.onTl (fun t =>
      pushPend t.abs j (.g p (BitVec.allOnes 64)) (BitVec.ofNat 2048 (mreadLE t.mem addr 8)) t) := by
  rw [runJob, h]
  rfl

/-! ### Atomics (07:R157) -/

/-- The word of an address after the updates of some lanes, in their order. -/
def wordAfter (sgn : Bool) (op : RmwOp) (mem : Memory) (l : List (Nat × Nat × W32)) (a : Nat) : W32 :=
  (l.filter (fun e => e.2.1 == a)).foldl (fun v e => rmw op sgn v e.2.2 0) (BitVec.ofNat 32 (mreadLE mem a 4))

/-- A table holds the words after the updates of some lanes. -/
def Updated (sgn : Bool) (op : RmwOp) (mem : Memory) (t : Table W32) (l : List (Nat × Nat × W32)) : Prop :=
  ∀ a, (tfind t a).getD (BitVec.ofNat 32 (mreadLE mem a 4)) = wordAfter sgn op mem l a

theorem updated_nil (sgn : Bool) (op : RmwOp) (mem : Memory) : Updated sgn op mem [] [] := fun _ => rfl

theorem wordAfter_snoc (sgn : Bool) (op : RmwOp) (mem : Memory) (l : List (Nat × Nat × W32)) (e : Nat × Nat × W32) (a : Nat) :
    wordAfter sgn op mem (l ++ [e]) a
      = if e.2.1 = a then rmw op sgn (wordAfter sgn op mem l a) e.2.2 0 else wordAfter sgn op mem l a := by
  by_cases h : e.2.1 = a <;> simp [wordAfter, List.filter_append, h]

theorem updated_snoc {sgn : Bool} {op : RmwOp} {mem : Memory} {t : Table W32} {l : List (Nat × Nat × W32)} (h : Updated sgn op mem t l)
    (e : Nat × Nat × W32) :
    Updated sgn op mem ((e.2.1, rmw op sgn ((tfind t e.2.1).getD (BitVec.ofNat 32 (mreadLE mem e.2.1 4))) e.2.2 0) :: t) (l ++ [e]) := by
  intro a
  rw [wordAfter_snoc, tfind]
  split
  next heq => rw [heq, h a]; rfl
  next => exact h a

/-- The lanes' old values and the words after all of them (07:R157). -/
theorem vatomRun_spec {sgn : Bool} {op : RmwOp} {mem : Memory} {t : Table W32} {p : List (Nat × Nat × W32)} (h : Updated sgn op mem t p)
    (l : List (Nat × Nat × W32)) : let q := vatomRun sgn op mem t l
    q.1.map (fun e => e.1) = l.map (fun e => e.1)
      ∧ (∀ i e r, l = i ++ e :: r → (e.1, wordAfter sgn op mem (p ++ i) e.2.1) ∈ q.1)
      ∧ Updated sgn op mem q.2 (p ++ l) ∧ ∀ a, a ∈ q.2.map (fun e => e.1) ↔ a ∈ t.map (fun e => e.1) ∨ ∃ e ∈ l, e.2.1 = a := by
  induction l generalizing t p with
  | nil => exact ⟨rfl, fun i e r h => by simp at h, (List.append_nil p).symm ▸ h, by simp [vatomRun]⟩
  | cons e l ih =>
    obtain ⟨n, a, x⟩ := e
    obtain ⟨hlanes, hold, hupd, hkeys⟩ := ih (updated_snoc h (n, a, x))
    refine ⟨congrArg _ hlanes, fun i e r heq => ?_, ?_, fun b => ?_⟩
    · rw [vatomRun]
      cases i with
      | nil =>
        obtain ⟨rfl, rfl⟩ := List.cons.inj heq
        rw [List.append_nil, ← h a]
        exact List.mem_cons_self
      | cons f i =>
        obtain ⟨rfl, hl⟩ := List.cons.inj heq
        have hmem := hold i e r hl
        rw [List.append_assoc] at hmem
        exact List.mem_cons_of_mem _ hmem
    · rw [vatomRun]
      simpa using hupd
    · rw [vatomRun]
      refine (hkeys b).trans ?_
      simp [eq_comm, or_assoc, or_left_comm]

theorem mwrites_append (m : Memory) (l1 l2 : List Host.Cell) : mwrites m (l1 ++ l2) = mwrites (mwrites m l1) l2 := by
  induction l1 generalizing m with
  | nil => rfl
  | cons c l1 ih => exact ih _

/-- The writes of a table's words, the latest first in it. -/
def tableCells (t : Table W32) : List Host.Cell := (t.reverse.map (fun (a, v) => cellsLE a 4 v.toNat)).flatten

theorem mwrites_tableCells_cons (m : Memory) (a : Nat) (v : W32) (t : Table W32) :
    mwrites m (tableCells ((a, v) :: t)) = mwriteLE (mwrites m (tableCells t)) a 4 v.toNat := by
  rw [tableCells, List.reverse_cons, List.map_append, List.flatten_append, mwrites_append, ← tableCells, List.map_singleton,
    List.flatten_singleton, mwrites_cellsLE]

/-- Words written at their own addresses: an address of the table reads its latest word. -/
theorem mread_tableCells (m : Memory) {t : Table W32} (hal : ∀ a ∈ t.map (fun e => e.1), a % 4 = 0) {a : Nat} (ha : a % 4 = 0) {v : W32}
    (h : tfind t a = some v) {k : Nat} (hk : k < 4) : mread (mwrites m (tableCells t)) (a + k) = v.extractLsb' (8 * k) 8 := by
  induction t with
  | nil => simp [tfind] at h
  | cons e t ih =>
    obtain ⟨b, w⟩ := e
    obtain ⟨hb, ht⟩ := List.forall_mem_cons.mp hal
    rw [mwrites_tableCells_cons]
    rw [tfind] at h
    split at h
    next heq =>
      obtain rfl : w = v := by simpa using h
      rw [← heq, mread_mwriteLE_byte _ _ _ _ hk]
      refine BitVec.eq_of_toNat_eq ?_
      rw [BitVec.toNat_ofNat, BitVec.extractLsb'_toNat, Nat.shiftRight_eq_div_pow, show 256 = 2 ^ 8 by rfl, ← pow_mul]
    next hne =>
      rw [mread_mwriteLE_other _ _ _ (by simp only at hb; omega)]
      exact ih ht h

theorem mread_tableCells_other (m : Memory) {t : Table W32} {b : Nat} (h : ∀ a ∈ t.map (fun e => e.1), b < a ∨ a + 4 ≤ b) :
    mread (mwrites m (tableCells t)) b = mread m b := by
  induction t with
  | nil => rfl
  | cons e t ih =>
    obtain ⟨ha, ht⟩ := List.forall_mem_cons.mp h
    rw [mwrites_tableCells_cons, mread_mwriteLE_other _ _ _ ha, ih ht]

theorem runJob_vatomRead {bad : BitVec 32} {j : Job} {d : BitVec 5} {sgn : Bool} {op : RmwOp} {lanes : List (Nat × Nat × W32)}
    (h : j.op = .vatomRead d sgn op lanes) (s : State) : let kept := lanes.filter (fun l => !bad.getLsbD (bankOf l.2.1))
    runJob bad j s = if allCut lanes kept then s else s.onTl (vatomStep j d sgn op kept) := by
  rw [runJob, h]
  rfl

/-- VATOM's reads: the old values in flight, lane by lane. -/
theorem vatomStep_sends {s : State} {j : Job} {d : BitVec 5} {sgn : Bool} {op : RmwOp} {kept : List (Nat × Nat × W32)}
    (hnodup : (kept.map (fun l => l.1)).Nodup) (hlt : ∀ l ∈ kept, l.1 < 64) : let t := s.onTl (vatomStep j d sgn op kept)
    ∃ m v, t.tl.pend = { due := s.tl.abs + 18, order := j.order, unit := j.unit, dest := .v d m, val := v } :: s.tl.pend
      ∧ (∀ i, i < 64 → (m.getLsbD i = true ↔ ∃ l ∈ kept, l.1 = i))
      ∧ (∀ i e r, kept = i ++ e :: r → lane v e.1 = wordAfter sgn op s.tl.mem i e.2.1) ∧ SameBytes s t := by
  intro t
  obtain ⟨hlanes, hold, -, -⟩ := vatomRun_spec (updated_nil sgn op s.tl.mem) kept
  refine ⟨laneMask ((vatomRun sgn op s.tl.mem [] kept).1.map (fun l => l.1)), laneValues (vatomRun sgn op s.tl.mem [] kept).1, ?_,
    fun i hi => ?_, fun i e r heq => ?_, sameBytes_of _ _ (by rw [tl_onTl]; rfl) rfl⟩
  · rw [tl_onTl]
    rfl
  · rw [getLsbD_laneMask _ hi, hlanes, List.mem_map]
  · have hmem := hold i e r heq
    refine lane_laneValues (hlt e (by simp [heq])) (fun w hw => ?_) hmem
    exact (Prod.mk.inj (List.inj_on_of_nodup_map (hlanes ▸ hnodup) hw hmem rfl)).2

/-- VATOM's words, which its last reserved cycle writes. -/
theorem vatomStep_writes {s : State} {j q : Job} (d : BitVec 5) (sgn : Bool) (op : RmwOp) (kept : List (Nat × Nat × W32))
    (hq : q ∈ s.tl.jobs) (ho : q.order = j.order) (hc : q.cyc = s.tl.abs + 15) (hi : q.op = .idle) :
    ∃ cells, { q with op := .writes cells } ∈ (s.onTl (vatomStep j d sgn op kept)).tl.jobs
      ∧ ((∀ l ∈ kept, l.2.1 % 4 = 0) → ∀ l ∈ kept, ∀ k, k < 4 → mread (mwrites s.tl.mem cells) (l.2.1 + k)
        = (wordAfter sgn op s.tl.mem kept l.2.1).extractLsb' (8 * k) 8)
      ∧ ∀ b, (∀ l ∈ kept, b < l.2.1 ∨ l.2.1 + 4 ≤ b) → mread (mwrites s.tl.mem cells) b = mread s.tl.mem b := by
  obtain ⟨-, -, hupd, hkeys⟩ := vatomRun_spec (updated_nil sgn op s.tl.mem) kept
  have hkeys' : ∀ {P : Nat → Prop}, (∀ l ∈ kept, P l.2.1) → ∀ a ∈ (vatomRun sgn op s.tl.mem [] kept).2.map (fun e => e.1), P a := by
    intro P hP a ha
    obtain ⟨e, he, rfl⟩ := ((hkeys a).mp ha).resolve_left (by simp)
    exact hP e he
  refine ⟨tableCells (vatomRun sgn op s.tl.mem [] kept).2, ?_, fun hal l hl k hk => ?_, fun b hb => mread_tableCells_other _ (hkeys' hb)⟩
  · rw [tl_onTl]
    exact mem_fillJob hq ho hc hi
  · obtain ⟨e, he, heq⟩ := List.mem_map.mp ((hkeys l.2.1).mpr (.inr ⟨l, hl, rfl⟩))
    obtain ⟨v, hv⟩ := Option.ne_none_iff_exists'.mp (tfind_ne_none (show (l.2.1, e.2) ∈ (vatomRun sgn op s.tl.mem [] kept).2 from heq ▸ he))
    have hword := hupd l.2.1
    rw [hv, List.nil_append] at hword
    rw [← hword]
    exact mread_tableCells _ (hkeys' hal) (hal l hl) hv hk

/-- Settles O38: what each use's step sends, and that a use all of whose banks are lost gives nothing. -/
theorem vectorUsesMoveLanes : Obligations.VectorUsesMoveLanes := by
  unfold Obligations.VectorUsesMoveLanes
  refine ⟨?_, ?_, ?_, ?_, rmwGives_rmw⟩
  · intro s bad j d w after sgn lanes h hnodup hlt served hw
    refine ⟨fun hserved => ?_, fun hne hnone => ?_⟩
    · have hcut : ¬allCut lanes (servedLanes bad lanes) = true := fun hc => by
        obtain ⟨hne, hnil⟩ := (allCut_iff _ _).mp hc
        obtain ⟨l, hl⟩ := hserved.resolve_left hne
        exact List.not_mem_nil (hnil ▸ mem_servedLanes.mpr hl)
      rw [runJob_vload h, if_neg hcut]
      obtain ⟨m, v, hpend, hmask, hval, hsame⟩ := vloadStep_sends (s := s) (j := j) (d := d) (after := after) (sgn := sgn)
        (nodup_filter_map hnodup (fun l => !cutAt bad l.2)) (fun l hl => hlt l (List.mem_of_mem_filter hl)) hw
      exact ⟨m, v, hpend, fun i hi => (hmask i hi).trans (exists_congr fun l => and_congr_left' mem_servedLanes),
        fun l hl => hval l (mem_servedLanes.mpr hl), hsame⟩
    · have hcut := (allCut_iff _ _).mpr ⟨hne, List.eq_nil_iff_forall_not_mem.mpr fun l hl => hnone l (mem_servedLanes.mp hl)⟩
      rw [runJob_vload h, if_pos hcut]
  · intro s bad j d w slots h hnodup hlt
    refine ⟨fun hall => ?_, fun hbad => ?_⟩
    · have hcut : ¬cutAny bad (slots.map (fun l => l.2)) = true := fun hc => by
        obtain ⟨l, hl, hbad⟩ := (cutAny_iff _ _).mp hc
        exact Bool.false_ne_true ((hall l hl).symm.trans hbad)
      rw [runJob_vloadSe h, if_neg hcut]
      exact vloadSeStep_sends hnodup hlt
    · rw [runJob_vloadSe h, if_pos ((cutAny_iff _ _).mpr hbad)]
  · intro s bad j p addr h
    refine ⟨fun hok => ?_, fun hbad => ?_⟩
    · rw [runJob_maskLoad h, hok, if_neg Bool.false_ne_true]
      exact ⟨by rw [tl_onTl]; rfl, sameBytes_of _ _ (by rw [tl_onTl]; rfl) rfl⟩
    · rw [runJob_maskLoad h, if_pos hbad]
  · intro s bad j d sgn op lanes h hnodup hlt kept word upTo
    refine ⟨fun hserved => ?_, fun hne hnone => ?_⟩
    · have hcut : ¬allCut lanes kept = true := fun hc => by
        obtain ⟨hne, hnil⟩ := (allCut_iff _ _).mp hc
        exact hserved.elim hne (fun hk => hk hnil)
      rw [runJob_vatomRead h, if_neg hcut]
      obtain ⟨m, v, hpend, hmask, hval, hsame⟩ := vatomStep_sends (s := s) (j := j) (d := d) (sgn := sgn) (op := op)
        (nodup_filter_map hnodup (fun l => !bad.getLsbD (bankOf l.2.1))) (fun l hl => hlt l (List.mem_of_mem_filter hl))
      exact ⟨m, v, hpend, hmask, fun i e x r heq hx => hx ▸ hval i e r heq, hsame,
        fun q hq ho hc hi => vatomStep_writes d sgn op kept hq ho hc hi⟩
    · rw [runJob_vatomRead h, if_pos ((allCut_iff _ _).mpr ⟨hne, hnone⟩)]

end Sys2Proof.Machine
end

section
/-! PROOFS. SAMPLE (07:R161-R164). -/

namespace Sys2Proof.Machine

/-! ### The issue (07:R161) -/

/-- The use of the n-th group of the four passes. -/
def sampleUse (en : Bool) (a b v n : Nat) : Nat × BitVec 32 × JobOp :=
  (1 + n / sampleGroups v * (sampleGroups v + 4) + n % sampleGroups v, banksOf (sampleLines a b (n % sampleGroups v)),
    if en then .sampleRead (n / sampleGroups v) (n % sampleGroups v) else .idle)

theorem sampleJobs_eq (en : Bool) (a b v k n : Nat) (t : Tile) :
    sampleJobs en a b v k n t = addJobs 10 ((List.range' k n).map (sampleUse en a b v)) t := by
  induction n generalizing k t with
  | zero => rfl
  | succ n ih =>
    rw [sampleJobs, ih, List.range'_succ, List.map_cons]
    rfl

/-- Group k of pass q is one of the four passes' groups. -/
theorem sampleUse_mem (en : Bool) (a b v : Nat) {q k : Nat} (hq : q < 4) (hk : k < sampleGroups v) :
    (1 + q * (sampleGroups v + 4) + k, banksOf (sampleLines a b k), if en then JobOp.sampleRead q k else .idle)
      ∈ (List.range' 0 (4 * sampleGroups v)).map (sampleUse en a b v) := by
  have hpos : 0 < sampleGroups v := by omega
  have hdiv : (sampleGroups v * q + k) / sampleGroups v = q := by
    rw [Nat.mul_add_div hpos, Nat.div_eq_of_lt hk, Nat.add_zero]
  have hmod : (sampleGroups v * q + k) % sampleGroups v = k := by
    rw [Nat.mul_add_mod, Nat.mod_eq_of_lt hk]
  refine List.mem_map.mpr ⟨sampleGroups v * q + k, List.mem_range'_1.mpr ⟨Nat.zero_le _, ?_⟩, ?_⟩
  · have : sampleGroups v * q ≤ sampleGroups v * 3 := Nat.mul_le_mul_left _ (by omega)
    omega
  · rw [sampleUse, hdiv, hmod]

/-- What SAMPLE's issue does to its tile. -/
def sampleEffect (g : Guard) (d : BitVec 5) (gd : BitVec 3) (a b c : BitVec 5) (v : BitVec 32) (t : Tile) : Tile :=
  let xa := (rx t a).toNat
  let xb := (rx t b).toNat
  let gs := sampleGroups v.toNat
  let uses := (List.range' 0 (4 * gs)).map (sampleUse (enabled t g) xa xb v.toNat)
  if enabled t g then
    { accessEvent (4 * gs + 12) (addJobs 10 (uses ++ [(4 * gs + 23, 0, .sampleEnd)]) t) with
      samples := t.samples ++ [{ order := t.order, d := d, gd := gd, a := xa, b := xb, ctl := rv t c, v := v.toNat
                                 lines := [], changed := false, cancelled := false }] }
  else addJobs 10 uses t

theorem execSample_eq (g : Guard) (d : BitVec 5) (gd : BitVec 3) (a b c : BitVec 5) (v : BitVec 32) (s : State) :
    execSample g d gd a b c v s = issue { unit := some 10, occ := 4 * sampleGroups v.toNat + 16
                                          c17 := sampleBad (enabled s.tl g) (rx s.tl a) (rx s.tl b) v.toNat } 12
      (fun s => s.onTl (sampleEffect g d gd a b c v)) s := by
  unfold execSample
  simp only [sampleJobs_eq]
  refine congrArg (fun f => issue _ 12 (fun s => s.onTl f) s) (funext fun t => ?_)
  unfold sampleEffect
  simp only [addJobs_append]
  simp only [addJobs_eq]
  rfl

theorem sampleEffect_frame (g : Guard) (d : BitVec 5) (gd : BitVec 3) (a b c : BitVec 5) (v : BitVec 32) (t : Tile) :
    let u := sampleEffect g d gd a b c v t
    u.regs = t.regs ∧ u.mem = t.mem ∧ u.pend = t.pend ∧ u.units = t.units := by
  unfold sampleEffect
  cases enabled t g with
  | true => simp [addJobs_eq, accessEvent]
  | false => simp [addJobs_eq]

/-- The uses of SAMPLE's groups, and its end where it is enabled. -/
theorem sampleEffect_jobs (g : Guard) (d : BitVec 5) (gd : BitVec 3) (a b c : BitVec 5) (v : BitVec 32) (t : Tile) :
    let gs := sampleGroups v.toNat
    let job := fun e : Nat × BitVec 32 × JobOp => ({ cyc := t.abs + e.1, order := t.order, unit := 10, banks := e.2.1, op := e.2.2 } : Job)
    (∀ e ∈ (List.range' 0 (4 * gs)).map (sampleUse (enabled t g) (rx t a).toNat (rx t b).toNat v.toNat),
        job e ∈ (sampleEffect g d gd a b c v t).jobs)
      ∧ (enabled t g = true → job (4 * gs + 23, 0, .sampleEnd) ∈ (sampleEffect g d gd a b c v t).jobs
        ∧ (sampleEffect g d gd a b c v t).samples = t.samples ++ [{ order := t.order, d := d, gd := gd, a := (rx t a).toNat
                                                                    b := (rx t b).toNat, ctl := rv t c, v := v.toNat, lines := []
                                                                    changed := false, cancelled := false }]) := by
  intro gs job
  unfold sampleEffect
  cases hen : enabled t g with
  | true =>
    simp only [if_true, addJobs_eq, accessEvent, List.map_append]
    exact ⟨fun e he => List.mem_append_right _ (List.mem_append_left _ (List.mem_map_of_mem he)),
      fun _ => ⟨List.mem_append_right _ (List.mem_append_right _ List.mem_cons_self), trivial⟩⟩
  | false =>
    simp only [Bool.false_eq_true, if_false, addJobs_eq]
    exact ⟨fun e he => List.mem_append_right _ (List.mem_map_of_mem he), False.elim⟩

theorem endIssue_pend (j : Bool) (n : Nat) (t : Tile) : (endIssue j n t).pend = t.pend := by rw [endIssue_eq]
theorem endIssue_jobs (j : Bool) (n : Nat) (t : Tile) : (endIssue j n t).jobs = t.jobs := by rw [endIssue_eq]
theorem endIssue_samples (j : Bool) (n : Nat) (t : Tile) : (endIssue j n t).samples = t.samples := by rw [endIssue_eq]

/-- The limits of R161 on SAMPLE's vocabulary and on its two addresses. -/
def VocabularyOk (v : Nat) : Prop := 1 ≤ v ∧ v ≤ 262144
def LogitsOk (xa : X) (v : Nat) : Prop := xa.toNat % 256 = 0 ∧ xa.toNat + 256 * sampleGroups v ≤ 0x100000
def MasksOk (xb : X) (v : Nat) : Prop :=
  xb.toNat % 64 = 0 ∧ 0x100000 ≤ xb.toNat ∧ xb.toNat + 64 * ((v + 511) / 512) ≤ 0x110000

theorem vocabularyBad_iff (v : Nat) : (v == 0 || decide (262144 < v)) = true ↔ ¬VocabularyOk v := by
  unfold VocabularyOk
  rw [Bool.or_eq_true, beq_iff_eq, decide_eq_true_iff]
  omega

theorem logitsBad_iff (xa : X) (v : Nat) :
    (xa.toNat % 256 != 0 || decide (0x100000 < xa.toNat + 256 * sampleGroups v)) = true ↔ ¬LogitsOk xa v := by
  unfold LogitsOk
  rw [Bool.or_eq_true, bne_iff_ne, decide_eq_true_iff]
  omega

theorem masksBad_iff (xb : X) (v : Nat) : (xb.toNat % 64 != 0 || decide (xb.toNat < 0x100000)
    || decide (0x110000 < xb.toNat + 64 * ((v + 511) / 512))) = true ↔ ¬MasksOk xb v := by
  unfold MasksOk
  rw [Bool.or_eq_true, Bool.or_eq_true, bne_iff_ne, decide_eq_true_iff, decide_eq_true_iff]
  omega

theorem firstFail_cons (b : Bool) (x : X) (l : List (Bool × X)) : firstFail ((b, x) :: l) = if b then some x else firstFail l := by
  unfold firstFail
  cases b <;> rfl

theorem sampleBad_vocabulary {v : Nat} (h : ¬VocabularyOk v) (xa xb : X) : sampleBad true xa xb v = some (BitVec.ofNat 64 v) := by
  rw [sampleBad, firstFail_cons, Bool.true_and, if_pos ((vocabularyBad_iff v).mpr h)]

/-- With the vocabulary in range, or SAMPLE nullified, the checks are those of the addresses. -/
theorem sampleBad_addresses {en : Bool} {v : Nat} (h : VocabularyOk v ∨ en = false) (xa xb : X) [Decidable (LogitsOk xa v)]
    [Decidable (MasksOk xb v)] : sampleBad en xa xb v = if LogitsOk xa v then (if MasksOk xb v then none else some xb) else some xa := by
  have hv : ¬(en && (v == 0 || decide (262144 < v))) = true := by
    rw [Bool.and_eq_true, vocabularyBad_iff]
    rintro ⟨he, hbad⟩
    exact h.elim hbad (fun hf => Bool.false_ne_true (hf.symm.trans he))
  rw [sampleBad, firstFail_cons, if_neg hv, firstFail_cons, firstFail_cons]
  simp only [logitsBad_iff, masksBad_iff, ite_not]
  rfl

section
variable {en : Bool} {v : Nat} {xa xb : X} (h : VocabularyOk v ∨ en = false)
include h

theorem sampleBad_none (ha : LogitsOk xa v) (hb : MasksOk xb v) : sampleBad en xa xb v = none := by
  classical rw [sampleBad_addresses h, if_pos ha, if_pos hb]

theorem sampleBad_logits (ha : ¬LogitsOk xa v) : sampleBad en xa xb v = some xa := by
  classical rw [sampleBad_addresses h, if_neg ha]

theorem sampleBad_masks (ha : LogitsOk xa v) (hb : ¬MasksOk xb v) : sampleBad en xa xb v = some xb := by
  classical rw [sampleBad_addresses h, if_pos ha, if_neg hb]

end

section
variable {s : State} (hq : quiet s = true) (g : Guard) (d : BitVec 5) (gd : BitVec 3) (a b c : BitVec 5) (v : BitVec 32)
include hq

theorem sample_slips {info : X} (h : sampleBad (enabled s.tl g) (rx s.tl a) (rx s.tl b) v.toNat = some info) :
    ∃ t, execSample g d gd a b c v s = .next t ∧ Slips s t 0x17 info := by
  rw [execSample_eq]
  exact operand_slips 12 _ hq h

/-- SAMPLE with its operands in their limits. -/
theorem sample_runs (hu : unitFree s 10 = true) (h : sampleBad (enabled s.tl g) (rx s.tl a) (rx s.tl b) v.toNat = none) :
    let n := sampleGroups v.toNat
    let xa := (rx s.tl a).toNat
    let xb := (rx s.tl b).toNat
    ∃ t, execSample g d gd a b c v s = .next t ∧ tget 0 t.tl.units 10 = s.tl.abs + 4 * n + 16 ∧ t.tl.regs = s.tl.regs ∧ SameBytes s t
      ∧ OnlyTile s t ∧ t.tl.pend = s.tl.pend
      ∧ (∀ q k, q < 4 → k < n → { cyc := s.tl.abs + (1 + q * (n + 4) + k), order := s.tl.order, unit := 10
                                  banks := banksOf (sampleLines xa xb k)
                                  op := if enabled s.tl g then .sampleRead q k else .idle } ∈ t.tl.jobs)
      ∧ (enabled s.tl g = true →
          { cyc := s.tl.abs + (4 * n + 23), order := s.tl.order, unit := 10, banks := 0, op := .sampleEnd } ∈ t.tl.jobs
          ∧ t.tl.samples = s.tl.samples ++ [{ order := s.tl.order, d := d, gd := gd, a := xa, b := xb, ctl := rv s.tl c, v := v.toNat
                                              lines := [], changed := false, cancelled := false }]) := by
  intro n xa xb
  obtain ⟨hregs, hmem, hpend, hunits⟩ := sampleEffect_frame g d gd a b c v (holdUnit (some 10) (4 * n + 16) s.tl)
  obtain ⟨huses, hend⟩ := sampleEffect_jobs g d gd a b c v (holdUnit (some 10) (4 * n + 16) s.tl)
  simp only [holdUnit_enabled, holdUnit_rx, holdUnit_rv, holdUnit_abs, holdUnit_order] at huses hend
  have hframe := runs_frame s (fun t => endIssue false 12 (sampleEffect g d gd a b c v (holdUnit (some 10) (4 * n + 16) t)))
    (by rw [endIssue_mem]; exact hmem.trans (holdUnit_mem _ _ _))
  rw [execSample_eq]
  refine ⟨_, issue_runs _ 12 (sampleEffect g d gd a b c v) _ s hq (by simp [Plan.clear, h]) rfl (by simpa using hu) (onTl_onTl ..),
    ?_, ?_, hframe.1, hframe.2, ?_, ?_, ?_⟩
  · rw [tl_onTl, endIssue_units]
    exact (congrArg (fun u => tget 0 u 10) hunits).trans (by simp [holdUnit, Nat.add_assoc])
  · rw [tl_onTl, endIssue_regs]
    exact hregs.trans (holdUnit_regs _ _ _)
  · rw [tl_onTl, endIssue_pend]
    exact hpend.trans (holdUnit_pend _ _ _)
  · intro q k hq4 hk
    rw [tl_onTl, endIssue_jobs]
    exact huses _ (sampleUse_mem (enabled s.tl g) xa xb v.toNat hq4 hk)
  · intro hen
    rw [tl_onTl, endIssue_jobs, endIssue_samples]
    exact hend hen

end

end Sys2Proof.Machine
end

section
/-! PROOFS. Philox4x32-10 (07:R160). -/

namespace Sys2Proof.Machine

/-- The words before round r, its keys being the first ones plus r times their steps. -/
def philoxAt (x : W32 × W32 × W32 × W32) (k0 k1 : W32) : Nat → W32 × W32 × W32 × W32
  | 0 => x
  | r + 1 => philoxRound (philoxAt x k0 k1 r) (BitVec.ofNat 32 (k0.toNat + r * 0x9E3779B9)) (BitVec.ofNat 32 (k1.toNat + r * 0xBB67AE85))

theorem ofNat_key_succ (k : W32) (step r : Nat) :
    BitVec.ofNat 32 (k.toNat + r * step) + BitVec.ofNat 32 step = BitVec.ofNat 32 (k.toNat + (r + 1) * step) := by
  rw [Nat.succ_mul, ← Nat.add_assoc, BitVec.ofNat_add _ step]

theorem philoxRounds_philoxAt (x : W32 × W32 × W32 × W32) (k0 k1 : W32) (r n : Nat) :
    philoxRounds (philoxAt x k0 k1 r) (BitVec.ofNat 32 (k0.toNat + r * 0x9E3779B9)) (BitVec.ofNat 32 (k1.toNat + r * 0xBB67AE85)) n
      = philoxAt x k0 k1 (r + n) := by
  induction n generalizing r with
  | zero => rfl
  | succ n ih =>
    have hkeys := ih (r + 1)
    rw [← ofNat_key_succ k0, ← ofNat_key_succ k1, Nat.succ_add] at hkeys
    exact hkeys

/-- The upper and the lower word of a product of words. -/
theorem extract_mul_word {c : Nat} (hc : c < 2 ^ 32) (v : W32) :
    (BitVec.ofNat 64 c * v.setWidth 64).extractLsb' 32 32 = BitVec.ofNat 32 (c * v.toNat / 2 ^ 32)
      ∧ (BitVec.ofNat 64 c * v.setWidth 64).extractLsb' 0 32 = BitVec.ofNat 32 (c * v.toNat) := by
  have hprod : (BitVec.ofNat 64 c * v.setWidth 64).toNat = c * v.toNat := by
    have hlt : c * v.toNat < 2 ^ 32 * 2 ^ 32 := Nat.mul_lt_mul'' hc v.isLt
    rw [BitVec.toNat_mul, BitVec.toNat_ofNat, BitVec.toNat_setWidth, Nat.mod_eq_of_lt (by omega : c < 2 ^ 64),
      Nat.mod_eq_of_lt (by have := v.isLt; omega : v.toNat < 2 ^ 64), Nat.mod_eq_of_lt (by omega)]
  constructor
  · rw [BitVec.extractLsb', hprod, Nat.shiftRight_eq_div_pow]
  · rw [BitVec.extractLsb', hprod, Nat.shiftRight_zero]

theorem philoxGives_philox (c : BitVec 128) (k0 k1 : W32) : PhiloxGives c k0 k1 (philox c k0 k1) := by
  refine ⟨philoxAt (c.extractLsb' 0 32, c.extractLsb' 32 32, c.extractLsb' 64 32, c.extractLsb' 96 32) k0 k1, rfl, ?_, fun r _ => ?_⟩
  · have h := philoxRounds_philoxAt (c.extractLsb' 0 32, c.extractLsb' 32 32, c.extractLsb' 64 32, c.extractLsb' 96 32) k0 k1 0 10
    simp only [Nat.zero_mul, Nat.add_zero, Nat.zero_add, BitVec.ofNat_toNat, BitVec.setWidth_eq] at h
    exact h.symm
  · dsimp only
    rw [philoxAt]
    generalize philoxAt _ k0 k1 r = x
    obtain ⟨hp1, hp0⟩ := extract_mul_word (c := 0xD2511F53) (by decide) x.1
    obtain ⟨hq1, hq0⟩ := extract_mul_word (c := 0xCD9E8D57) (by decide) x.2.2.1
    rw [← hp1, ← hp0, ← hq1, ← hq0]
    rfl

end Sys2Proof.Machine
end

section
/-! PROOFS. The draw of SAMPLE: the largest weights, the running sums and the table of weights (07:R162, R163). -/

namespace Sys2Proof.Machine

/-! ### The k largest weights (07:R162) -/

/-- The order of weights with their indices: the larger weight first, the lower index first of equal ones. -/
def ranksBefore (e f : Nat × Nat) : Bool := decide (f.1 < e.1) || (e.1 == f.1 && decide (e.2 < f.2))

theorem ranksBefore_iff (e f : Nat × Nat) : ranksBefore e f = true ↔ f.1 < e.1 ∨ (e.1 = f.1 ∧ e.2 < f.2) := by
  simp [ranksBefore]

theorem topInsert_take (w i k : Nat) (l : List (Nat × Nat)) : (topInsert w i (l.take k)).take k = (topInsert w i l).take k := by
  induction l generalizing k with
  | nil => rw [List.take_nil]
  | cons e l ih =>
    cases k with
    | zero => rfl
    | succ k =>
      rw [List.take_succ_cons, topInsert, topInsert]
      split
      next =>
        cases k with
        | zero => rfl
        | succ k => simp [List.take_take]
      next => rw [List.take_succ_cons, List.take_succ_cons, ih]

/-- All the weights in the order of their ranks. -/
def ranked (l : List (Nat × Nat)) : List (Nat × Nat) := l.foldl (fun r e => topInsert e.1 e.2 r) []

theorem topK_eq_take (k : Nat) (l : List (Nat × Nat)) : topK k l = (ranked l).take k := by
  have hfold (r : List (Nat × Nat)) : l.foldl (fun r e => (topInsert e.1 e.2 r).take k) (r.take k)
      = (l.foldl (fun r e => topInsert e.1 e.2 r) r).take k := by
    induction l generalizing r with
    | nil => rfl
    | cons e l ih => rw [List.foldl_cons, topInsert_take, ih, List.foldl_cons]
  have h := hfold []
  rw [List.take_nil] at h
  exact h

theorem topInsert_perm (w i : Nat) (l : List (Nat × Nat)) : (topInsert w i l).Perm ((w, i) :: l) := by
  induction l with
  | nil => exact List.Perm.refl _
  | cons e l ih =>
    rw [topInsert]
    split
    next => exact List.Perm.refl _
    next => exact (ih.cons e).trans (List.Perm.swap (w, i) e l)

/-- A weight of the highest index so far goes to its rank. -/
theorem topInsert_sorted {w i : Nat} {l : List (Nat × Nat)} (h : l.Pairwise (fun e f => ranksBefore e f = true))
    (hi : ∀ e ∈ l, e.2 < i) : (topInsert w i l).Pairwise (fun e f => ranksBefore e f = true) := by
  induction l with
  | nil => exact List.pairwise_singleton _ _
  | cons e l ih =>
    obtain ⟨he, hl⟩ := List.pairwise_cons.mp h
    obtain ⟨hei, hli⟩ := List.forall_mem_cons.mp hi
    rw [topInsert]
    split
    next hlt =>
      refine List.pairwise_cons.mpr ⟨List.forall_mem_cons.mpr ⟨(ranksBefore_iff _ _).mpr (.inl hlt), fun f hf => ?_⟩, h⟩
      have hef := (ranksBefore_iff _ _).mp (he f hf)
      exact (ranksBefore_iff _ _).mpr (.inl (by dsimp only at hlt ⊢; omega))
    next hge =>
      refine List.pairwise_cons.mpr ⟨fun f hf => ?_, ih hl hli⟩
      rcases List.mem_cons.mp ((topInsert_perm w i l).mem_iff.mp hf) with rfl | hf
      · exact (ranksBefore_iff _ _).mpr (by dsimp only at hge hei ⊢; omega)
      · exact he f hf

/-- The ranked weights of a list with rising indices. -/
theorem ranked_spec {l : List (Nat × Nat)} (h : (l.map (fun e => e.2)).Pairwise (· < ·)) :
    (ranked l).Perm l ∧ (ranked l).Pairwise (fun e f => ranksBefore e f = true) := by
  induction l using List.reverseRecOn with
  | nil => exact ⟨List.Perm.refl _, List.Pairwise.nil⟩
  | append_singleton l e ih =>
    rw [List.map_append, List.pairwise_append] at h
    obtain ⟨hl, -, hlast⟩ := h
    obtain ⟨hperm, hsorted⟩ := ih hl
    rw [ranked, List.foldl_append, ← ranked]
    refine ⟨?_, topInsert_sorted hsorted fun f hf => ?_⟩
    · exact (topInsert_perm _ _ _).trans ((hperm.cons _).trans (List.perm_append_singleton _ _).symm)
    · exact hlast f.2 (List.mem_map_of_mem (hperm.mem_iff.mp hf)) e.2 (by simp)

theorem ranksBefore_irrefl (e : Nat × Nat) : ranksBefore e e = false := by
  simp [ranksBefore]

/-- An element stands among the first k of a ranked list when fewer than k rank before it. -/
theorem mem_take_ranked {l : List (Nat × Nat)} (h : l.Pairwise (fun e f => ranksBefore e f = true)) {e : Nat × Nat} (he : e ∈ l) (k : Nat) :
    e ∈ l.take k ↔ l.countP (fun f => ranksBefore f e) < k := by
  obtain ⟨l1, l2, rfl⟩ := List.append_of_mem he
  obtain ⟨-, h2, hcross⟩ := List.pairwise_append.mp h
  have hnot (f : Nat × Nat) (hf : f ∈ e :: l2) : ranksBefore f e = false := by
    rcases List.mem_cons.mp hf with rfl | hf
    · exact ranksBefore_irrefl _
    · have hef := (ranksBefore_iff _ _).mp (List.rel_of_pairwise_cons h2 hf)
      rw [← Bool.not_eq_true, ranksBefore_iff]
      omega
  have hcount : (l1 ++ e :: l2).countP (fun f => ranksBefore f e) = l1.length := by
    rw [List.countP_append, List.countP_eq_length.mpr (fun f hf => hcross f hf e List.mem_cons_self),
      List.countP_eq_zero.mpr (fun f hf => by rw [hnot f hf]; exact Bool.false_ne_true), Nat.add_zero]
  rw [hcount]
  constructor
  · intro hmem
    by_contra hk
    rw [List.take_append_of_le_length (by omega)] at hmem
    have hbefore := hcross e (List.mem_of_mem_take hmem) e List.mem_cons_self
    exact Bool.false_ne_true ((ranksBefore_irrefl e).symm.trans hbefore)
  · intro hk
    rw [List.take_append, List.mem_append]
    refine .inr ?_
    obtain ⟨n, hn⟩ := Nat.exists_eq_succ_of_ne_zero (n := k - l1.length) (by omega)
    rw [hn, List.take_succ_cons]
    exact List.mem_cons_self

/-- How many of n weights rank before the i-th. -/
def weightRank (w : Nat → Nat) (n i : Nat) : Nat :=
  (List.range n).countP (fun j => decide (w i < w j) || (w j == w i && decide (j < i)))

theorem zipIdx_map_range (w : Nat → Nat) (n : Nat) : ((List.range n).map w).zipIdx = (List.range n).map (fun i => (w i, i)) := by
  refine List.ext_getElem (by simp) fun i h1 h2 => ?_
  simp

theorem topK_contains (w : Nat → Nat) {n k i : Nat} (hi : i < n) :
    (topK k ((List.range n).map w).zipIdx).contains (w i, i) = true ↔ weightRank w n i < k := by
  have hidx : (((List.range n).map (fun i => (w i, i))).map (fun e => e.2)).Pairwise (· < ·) := by
    rw [List.map_map]
    exact (List.map_id _).symm ▸ List.pairwise_lt_range
  obtain ⟨hperm, hsorted⟩ := ranked_spec hidx
  have hmem : (w i, i) ∈ ranked ((List.range n).map (fun i => (w i, i))) :=
    hperm.mem_iff.mpr (List.mem_map_of_mem (f := fun i => (w i, i)) (List.mem_range.mpr hi))
  rw [List.contains_iff_mem, zipIdx_map_range, topK_eq_take, mem_take_ranked hsorted hmem, hperm.countP_eq, List.countP_map]
  rfl

/-! ### The first running sum beyond a target (07:R162) -/

theorem drawFrom_spec {target acc : Nat} (i : Nat) {l : List Nat} (hle : acc ≤ target) (hlt : target < acc + l.sum) :
    ∃ n, n < l.length ∧ drawFrom target acc i l = i + n ∧ acc + (l.take n).sum ≤ target ∧ target < acc + (l.take (n + 1)).sum := by
  induction l generalizing acc i with
  | nil => simp at hlt; omega
  | cons w l ih =>
    rw [drawFrom]
    split
    next h => exact ⟨0, Nat.succ_pos _, rfl, by simpa using hle, by simpa using h⟩
    next h =>
      obtain ⟨n, hn, hdraw, hlow, hhigh⟩ := ih (i + 1) (not_lt.mp h) (by rw [List.sum_cons] at hlt; omega)
      refine ⟨n + 1, Nat.succ_lt_succ hn, by omega, ?_, ?_⟩
      · rw [List.take_succ_cons, List.sum_cons]; omega
      · rw [List.take_succ_cons, List.sum_cons]; omega

/-! ### The table of weights (07:R163) -/

/-- The bitwise search of `weightFrom` keeps its bounds. -/
theorem weightFrom_spec {j r : Nat} (k : Nat) (hlow : (2 * r - 1) ^ 256 * 2 ^ j ≤ 2 ^ 8192)
    (hhigh : 2 ^ 8192 < (2 * (r + 2 ^ k) - 1) ^ 256 * 2 ^ j) :
    (2 * weightFrom j r k - 1) ^ 256 * 2 ^ j ≤ 2 ^ 8192 ∧ 2 ^ 8192 < (2 * weightFrom j r k + 1) ^ 256 * 2 ^ j := by
  induction k generalizing r with
  | zero => exact ⟨hlow, hhigh⟩
  | succ k ih =>
    rw [weightFrom]
    split
    next h => exact ih h (by rwa [Nat.add_assoc, ← Nat.two_mul, ← Nat.pow_succ'])
    next h => exact ih hlow (not_le.mp h)

theorem weightE_bounds (j : Nat) :
    (2 * weightE j - 1) ^ 256 * 2 ^ j ≤ 2 ^ 8192 ∧ 2 ^ 8192 < (2 * weightE j + 1) ^ 256 * 2 ^ j := by
  have htop : 2 ^ 8192 < (2 * (0 + 2 ^ 32) - 1) ^ 256 * 2 ^ j := calc
    2 ^ 8192 = (2 ^ 32) ^ 256 := by rw [← Nat.pow_mul]
    _ < (2 * (0 + 2 ^ 32) - 1) ^ 256 := Nat.pow_lt_pow_left (by decide) (by decide)
    _ ≤ (2 * (0 + 2 ^ 32) - 1) ^ 256 * 2 ^ j := Nat.le_mul_of_pos_right _ (Nat.two_pow_pos j)
  refine weightFrom_spec 32 ?_ htop
  rw [Nat.mul_zero, Nat.zero_sub, Nat.zero_pow (by decide), Nat.zero_mul]
  exact Nat.zero_le _

end Sys2Proof.Machine
end

section
/-! PROOFS. SAMPLE's results from the lines that it read (07:R162-R164). -/

namespace Sys2Proof.Machine

/-! ### The two results -/

/-- The results of a draw with given weights. -/
def drawResult (nan : Bool) (u : Nat) (ws : List Nat) : X × X :=
  let nanBit : X := if nan then 0x100000000 else 0
  if ws.sum = 0 then (0x2FFFFFFFF ||| nanBit, 0)
  else (BitVec.ofNat 64 (drawFrom (u * ws.sum / 2 ^ 64) 0 0 ws) ||| nanBit, BitVec.allOnes 64)

/-- NOLEGAL's x[D]. -/
theorem nolegal_fields (nan : Bool) : let q : X := 0x2FFFFFFFF ||| if nan then 0x100000000 else 0
    q.getLsbD 32 = nan ∧ q.extractLsb' 34 30 = 0 ∧ q.extractLsb' 0 32 = 0xFFFFFFFF ∧ q.getLsbD 33 = true := by
  cases nan <;> decide

/-- A drawn token's x[D]. -/
theorem token_fields (nan : Bool) {tok : Nat} (h : tok < 262144) : let q : X := BitVec.ofNat 64 tok ||| if nan then 0x100000000 else 0
    q.getLsbD 32 = nan ∧ q.extractLsb' 34 30 = 0 ∧ q.extractLsb' 0 32 = BitVec.ofNat 32 tok ∧ q.getLsbD 33 = false
      ∧ q.extractLsb' 33 31 = 0 := by
  intro q
  have hnan (i : Nat) : (if nan then 0x100000000 else 0 : X).getLsbD i = (nan && decide (i = 32)) := by
    cases nan with
    | true =>
      rw [if_pos rfl, Bool.true_and, show (0x100000000 : X) = BitVec.ofNat 64 (2 ^ 32) by rfl, BitVec.getLsbD_ofNat, Nat.testBit_two_pow]
      by_cases hi : i = 32
      · simp [hi]
      · simp [hi, Ne.symm hi]
    | false => simp
  have hhigh (i : Nat) (hi : 18 ≤ i) : tok.testBit i = false :=
    Nat.testBit_lt_two_pow (h.trans_le (Nat.pow_le_pow_right (n := 2) (by decide) hi))
  have hbit (i : Nat) : q.getLsbD i = (decide (i < 64) && tok.testBit i || nan && decide (i = 32)) := by
    rw [BitVec.getLsbD_or, hnan, BitVec.getLsbD_ofNat]
  have hpad (i : Nat) (hi : 33 ≤ i) : q.getLsbD i = false := by
    rw [hbit, hhigh i (by omega), decide_eq_false (by omega : ¬i = 32), Bool.and_false, Bool.and_false, Bool.or_false]
  refine ⟨?_, ?_, ?_, hpad 33 (by decide), ?_⟩
  · rw [hbit, hhigh 32 (by decide), decide_eq_true rfl, Bool.and_false, Bool.and_true, Bool.false_or]
  · refine BitVec.eq_of_getLsbD_eq fun i hi => ?_
    rw [BitVec.getLsbD_extractLsb', hpad _ (by omega), Bool.and_false]
    exact BitVec.getLsbD_zero.symm
  · refine BitVec.eq_of_getLsbD_eq fun i hi => ?_
    rw [BitVec.getLsbD_extractLsb', hbit, BitVec.getLsbD_ofNat, Nat.zero_add, decide_eq_false (by omega : ¬i = 32), Bool.and_false,
      Bool.or_false, decide_eq_true (by omega : i < 64), Bool.true_and]
  · refine BitVec.eq_of_getLsbD_eq fun i hi => ?_
    rw [BitVec.getLsbD_extractLsb', hpad _ (by omega), Bool.and_false]
    exact BitVec.getLsbD_zero.symm

/-- The sum of the first n weights. -/
def runningSum (v : Nat → Nat) (n : Nat) : Nat := ((List.range n).map v).sum

theorem sum_take_range (v : Nat → Nat) {n m : Nat} (h : n ≤ m) : (((List.range m).map v).take n).sum = runningSum v n := by
  rw [← List.map_take, List.take_range, Nat.min_eq_left h, runningSum]

/-- The results of a draw: NOLEGAL where every weight is 0, else the token of the first running sum beyond the target (07:R162). -/
theorem drawResult_spec (nan : Bool) (u : BitVec 64) (v : Nat → Nat) {n : Nat} (hn : n ≤ 262144) :
    let q := drawResult nan u.toNat ((List.range n).map v)
    q.1.getLsbD 32 = nan ∧ q.1.extractLsb' 34 30 = 0
      ∧ (runningSum v n = 0 → q.2 = 0 ∧ q.1.extractLsb' 0 32 = 0xFFFFFFFF ∧ q.1.getLsbD 33 = true)
      ∧ (runningSum v n ≠ 0 → q.2 = BitVec.allOnes 64 ∧ q.1.getLsbD 33 = false ∧ ∃ tok, tok < n
        ∧ q.1.extractLsb' 0 32 = BitVec.ofNat 32 tok ∧ runningSum v tok ≤ u.toNat * runningSum v n / 2 ^ 64
        ∧ u.toNat * runningSum v n / 2 ^ 64 < runningSum v (tok + 1)) := by
  intro q
  by_cases hsum : runningSum v n = 0
  · have hq : q = (0x2FFFFFFFF ||| if nan then 0x100000000 else 0, 0) := if_pos hsum
    obtain ⟨hnan, hpad, hlow, hbit⟩ := nolegal_fields nan
    rw [hq]
    exact ⟨hnan, hpad, fun _ => ⟨rfl, hlow, hbit⟩, fun h => absurd hsum h⟩
  · have hq : q = (BitVec.ofNat 64 (drawFrom (u.toNat * runningSum v n / 2 ^ 64) 0 0 ((List.range n).map v))
        ||| if nan then 0x100000000 else 0, BitVec.allOnes 64) := if_neg hsum
    have htarget : u.toNat * runningSum v n / 2 ^ 64 < runningSum v n := by
      rw [Nat.div_lt_iff_lt_mul (Nat.two_pow_pos 64), Nat.mul_comm]
      exact Nat.mul_lt_mul_of_pos_left u.isLt (Nat.pos_of_ne_zero hsum)
    obtain ⟨tok, htok, hdraw, hbelow, hbeyond⟩ := drawFrom_spec 0 (Nat.zero_le _)
      (show u.toNat * runningSum v n / 2 ^ 64 < 0 + ((List.range n).map v).sum by rwa [Nat.zero_add])
    rw [List.length_map, List.length_range] at htok
    rw [Nat.zero_add, sum_take_range v htok.le] at hbelow
    rw [Nat.zero_add, sum_take_range v htok] at hbeyond
    obtain ⟨hnan, hpad, hlow, hbit, -⟩ := token_fields nan (htok.trans_le hn)
    rw [hq, hdraw, Nat.zero_add]
    exact ⟨hnan, hpad, fun h => absurd h hsum, fun _ => ⟨rfl, hbit, tok, htok, hlow, hbelow, hbeyond⟩⟩

/-! ### The weights (07:R162) -/

/-- A logit times τ. -/
def scaledLogit (r : SampleRun) (i : Nat) : W32 := fMul (sampleLogit r i) (lane r.ctl 6)

/-- A logit that its mask lets count, and that is a number. -/
def legalLogit (r : SampleRun) (i : Nat) : Bool := sampleMask r i && !isNan (scaledLogit r i)

theorem legalLogit_iff (r : SampleRun) (i : Nat) : legalLogit r i = true ↔ sampleMask r i = true ∧ isNan (scaledLogit r i) = false := by
  rw [legalLogit, Bool.and_eq_true, Bool.not_eq_true']

/-- The greatest legal logit. -/
def greatestLogit (r : SampleRun) : W32 := (((List.range r.v).filter (legalLogit r)).map (scaledLogit r)).foldl fMax 0xFF800000

/-- The weights before the k largest are taken. -/
def firstWeight (r : SampleRun) (i : Nat) : Nat :=
  if legalLogit r i then sampleWeight ((List.range 256).map weightE) (greatestLogit r) (scaledLogit r i) else 0

/-- Keeping the k largest weights, or all with k = 0. -/
def keepLargest (k : Nat) (ws : List Nat) : List Nat :=
  if k = 0 then ws else ws.zipIdx.map (fun (w, i) => if (topK k ws.zipIdx).contains (w, i) then w else 0)

/-- A fold that skips the absent values of a list. -/
theorem foldl_reduceOption {α β : Type} {f : β → α → β} {g : β → Option α → β} (hsome : ∀ b x, g b (some x) = f b x)
    (hnone : ∀ b, g b none = b) (b : β) (l : List (Option α)) : l.foldl g b = l.reduceOption.foldl f b := by
  induction l generalizing b with
  | nil => rfl
  | cons o l ih =>
    cases o with
    | some a => rw [List.foldl_cons, hsome, ih, List.reduceOption_cons_of_some, List.foldl_cons]
    | none => rw [List.foldl_cons, hnone, ih, List.reduceOption_cons_of_none]

theorem sampleResult_eq (r : SampleRun) : let y := philox (r.ctl.extractLsb' 0 128) (lane r.ctl 4) (lane r.ctl 5)
    sampleResult r = drawResult ((List.range r.v).any (fun i => sampleMask r i && isNan (scaledLogit r i))) (y.2.1 ++ y.1).toNat
      (keepLargest (lane r.ctl 7).toNat ((List.range r.v).map (firstWeight r))) := by
  intro y
  have hgreatest : ((List.range r.v).map (fun i => if legalLogit r i then some (scaledLogit r i) else none)).foldl
      (fun a o => match o with | some x => fMax a x | none => a) 0xFF800000#32 = greatestLogit r := by
    rw [foldl_reduceOption (f := fMax) (fun _ _ => rfl) (fun _ => rfl), reduceOption_map_if]
    rfl
  have hlegal : (List.range r.v).map (fun i => if legalLogit r i then some (scaledLogit r i) else none)
      = ((List.range r.v).map (fun i => (sampleMask r i, scaledLogit r i))).map (fun (m, x) => if m && !isNan x then some x else none) := by
    rw [List.map_map]
    rfl
  have hany : ((List.range r.v).map (fun i => (sampleMask r i, scaledLogit r i))).any (fun (m, x) => m && isNan x)
      = (List.range r.v).any (fun i => sampleMask r i && isNan (scaledLogit r i)) := by
    rw [List.any_map]
    rfl
  have hweights : ((List.range r.v).map (fun i => if legalLogit r i then some (scaledLogit r i) else none)).map
      (fun o => match o with | some x => sampleWeight ((List.range 256).map weightE) (greatestLogit r) x | none => 0)
      = (List.range r.v).map (firstWeight r) := by
    rw [List.map_map]
    refine List.map_congr_left fun i _ => ?_
    rw [Function.comp_apply, firstWeight]
    cases legalLogit r i <;> rfl
  rw [← hany, ← hweights, ← hgreatest, hlegal]
  rfl

/-- Negative infinity is below every number of `.f32`. -/
theorem fpKey_negInf_le {v : W32} (h : isNan v = false) : fpKey 0xFF800000 ≤ fpKey v := by
  have hmag := mt (isNan_iff v).mpr (by rw [h]; exact Bool.false_ne_true)
  have hbot : fpKey 0xFF800000 = -1 - 0x7F800000 := by decide
  rw [hbot, fpKey_eq]
  split <;> omega

/-- The greatest legal logit, or negative infinity where none is. -/
theorem greatestLogit_eq {r : SampleRun} {m : W32} (hnone : (∀ i, i < r.v → legalLogit r i = false) → m = 0xFF800000)
    (hsome : ∀ i, i < r.v → legalLogit r i = true → (∃ i, i < r.v ∧ legalLogit r i = true ∧ scaledLogit r i = m)
      ∧ ∀ i, i < r.v → legalLogit r i = true → fpKey (scaledLogit r i) ≤ fpKey m) : greatestLogit r = m := by
  have hmem (v : W32) : v ∈ ((List.range r.v).filter (legalLogit r)).map (scaledLogit r)
      ↔ ∃ i, i < r.v ∧ legalLogit r i = true ∧ scaledLogit r i = v := by
    simp [and_assoc]
  have hnan (v : W32) (hv : v ∈ ((List.range r.v).filter (legalLogit r)).map (scaledLogit r)) : isNan v = false := by
    obtain ⟨i, -, hlegal, rfl⟩ := (hmem v).mp hv
    exact ((legalLogit_iff r i).mp hlegal).2
  rw [greatestLogit, fMax_eq, foldl_nanPick _ _ _ (List.forall_mem_cons.mpr ⟨by decide, hnan⟩)]
  obtain ⟨hin, hle⟩ := foldl_pick_least (fun v => -fpKey v) 0xFF800000 (((List.range r.v).filter (legalLogit r)).map (scaledLogit r))
  generalize List.foldl (pick fun v => -fpKey v) 0xFF800000 (((List.range r.v).filter (legalLogit r)).map (scaledLogit r)) = x at hin hle
  by_cases hex : ∃ i, i < r.v ∧ legalLogit r i = true
  · obtain ⟨i0, hi0, hl0⟩ := hex
    obtain ⟨⟨i, hi, hlegal, him⟩, hmax⟩ := hsome i0 hi0 hl0
    have hmx : fpKey m ≤ fpKey x := by
      have := hle m (List.mem_cons_of_mem _ ((hmem m).mpr ⟨i, hi, hlegal, him⟩))
      omega
    have hxm : fpKey x ≤ fpKey m := by
      rcases List.mem_cons.mp hin with rfl | hx
      · exact fpKey_negInf_le (hnan m ((hmem m).mpr ⟨i, hi, hlegal, him⟩))
      · obtain ⟨k, hk, hkl, rfl⟩ := (hmem x).mp hx
        exact hmax k hk hkl
    exact fpKey_injective (le_antisymm hxm hmx)
  · rcases List.mem_cons.mp hin with rfl | hx
    · exact (hnone fun i hi => Bool.eq_false_iff.mpr fun hl => hex ⟨i, hi, hl⟩).symm
    · obtain ⟨k, hk, hkl, -⟩ := (hmem x).mp hx
      exact absurd ⟨k, hk, hkl⟩ hex

/-- The steps of a distance. -/
theorem sampleStep_eq (t : W32) : sampleStep t = match valF32 t with
    | .fin false n e => min (if 0 ≤ e + 8 then n * 2 ^ (e + 8).toNat else n / 2 ^ (-(e + 8)).toNat) 65535
    | .fin true _ _ => 0
    | _ => 65535 := by
  unfold sampleStep
  cases valF32 t with
  | fin neg n e => cases neg <;> rfl
  | inf neg => rfl
  | nan => rfl

theorem keepLargest_map_range (w : Nat → Nat) (k n : Nat) : keepLargest k ((List.range n).map w)
    = (List.range n).map (fun i => if k = 0 ∨ weightRank w n i < k then w i else 0) := by
  unfold keepLargest
  split
  next hk => simp [hk]
  next hk =>
    refine List.ext_getElem (by simp) fun i h1 h2 => ?_
    have hi : i < n := by simpa using h2
    simp only [List.getElem_map, List.getElem_zipIdx, List.getElem_range, Nat.zero_add, topK_contains w hi, hk, false_or]

theorem getD_weightTable {i : Nat} (hi : i < 256) : ((List.range 256).map weightE).getD i 0 = weightE i := by
  rw [List.getD_eq_getElem _ _ (by simpa using hi), List.getElem_map, List.getElem_range]

/-- A legal logit's weight from its distance below the greatest one. -/
theorem firstWeight_eq (r : SampleRun) (i : Nat) :
    let step := sampleStep (fMul (if laneEq .f32 (scaledLogit r i) (greatestLogit r) then 0 else fSub (greatestLogit r) (scaledLogit r i)) 0x3FB8AA3B)
    firstWeight r i = if legalLogit r i = true ∧ scaledLogit r i ≠ 0xFF800000 then
        (if 32 ≤ step / 256 then 0 else weightE (step % 256) / 2 ^ (step / 256)) else 0 := by
  intro step
  unfold firstWeight
  by_cases hl : legalLogit r i = true
  · by_cases hi : scaledLogit r i = 0xFF800000
    · rw [if_pos hl, if_neg (fun h => h.2 hi), sampleWeight, if_pos hi]
    · rw [if_pos hl, if_pos ⟨hl, hi⟩, sampleWeight, if_neg hi, ← getD_weightTable (Nat.mod_lt step (by decide)), ← Nat.shiftRight_eq_div_pow]
  · rw [if_neg hl, if_neg (fun h => hl h.1)]

/-- R164's bounds of a result of changed lines. -/
theorem sampleOpen_spec (r : SampleRun) (f : BitVec 64) (h1 : 1 ≤ r.v) (h2 : r.v ≤ 262144) : let q := sampleOpen r f
    (q.2 = 0 ∧ q.1.extractLsb' 0 32 = 0xFFFFFFFF ∧ q.1.getLsbD 33 = true ∧ q.1.extractLsb' 34 30 = 0)
      ∨ (q.2 = BitVec.allOnes 64 ∧ q.1.extractLsb' 33 31 = 0 ∧ (q.1.extractLsb' 0 32).toNat < r.v) := by
  intro q
  by_cases hf : f.getLsbD 1 = true
  · have hq : q = (0x2FFFFFFFF ||| if f.getLsbD 0 then 0x100000000 else 0, 0) := if_pos hf
    obtain ⟨-, hpad, hlow, hbit⟩ := nolegal_fields (f.getLsbD 0)
    rw [hq]
    exact .inl ⟨rfl, hlow, hbit, hpad⟩
  · have hq : q = (BitVec.ofNat 64 (f.toNat / 4 % r.v) ||| if f.getLsbD 0 then 0x100000000 else 0, BitVec.allOnes 64) := if_neg hf
    have htok : f.toNat / 4 % r.v < r.v := Nat.mod_lt _ h1
    obtain ⟨-, -, hlow, -, hpad⟩ := token_fields (f.getLsbD 0) (htok.trans_le h2)
    rw [hq]
    refine .inr ⟨rfl, hpad, ?_⟩
    dsimp only
    rw [hlow, BitVec.toNat_ofNat, Nat.mod_eq_of_lt (by omega)]
    exact htok

/-- Settles O39: the issue, the draw from the lines read (`drawResult_spec`), the table of weights and the open result. -/
theorem samplesDrawLegalTokens : Obligations.SamplesDrawLegalTokens := by
  refine ⟨?_, ?_, fun j _ => weightE_bounds j, fun r f h1 h2 => sampleOpen_spec r f h1 h2⟩
  · intro s g d gd a b c v hq hu n xa xb inRange addrA addrB lines
    refine ⟨fun hv ha hb => ?_, fun hv hen => ?_, fun hv ha => ?_, fun hv ha hb => ?_⟩
    · exact sample_runs hq g d gd a b c v hu (sampleBad_none hv ha hb)
    · have hbad := sampleBad_vocabulary hv (rx s.tl a) (rx s.tl b)
      rw [← hen] at hbad
      have hslip := sample_slips hq g d gd a b c v hbad
      rwa [show BitVec.ofNat 64 v.toNat = v.setWidth 64 by simp] at hslip
    · exact sample_slips hq g d gd a b c v (sampleBad_logits hv ha)
    · exact sample_slips hq g d gd a b c v (sampleBad_masks hv ha hb)
  · intro r m w hv scaled legal steps k kept v upTo y q hnone hsome hw
    have hlegal (i : Nat) : legalLogit r i = true ↔ legal i := legalLogit_iff r i
    have hsteps (t : W32) : sampleStep t = steps t := sampleStep_eq t
    have hmax : greatestLogit r = m := greatestLogit_eq
      (fun h => hnone fun i hi hl => Bool.false_ne_true ((h i hi).symm.trans ((hlegal i).mpr hl))) (fun i hi hl => by
        simp only [hlegal]
        exact hsome ⟨i, hi, (hlegal i).mp hl⟩)
    have hweight : (List.range r.v).map (firstWeight r) = (List.range r.v).map w := List.map_congr_left fun i hi => by
      rw [hw i (List.mem_range.mp hi), firstWeight_eq, hmax]
      simp only [hlegal, hsteps]
      rfl
    have hq : q = drawResult ((List.range r.v).any (fun i => sampleMask r i && isNan (scaledLogit r i))) (y.2.1 ++ y.1).toNat
        ((List.range r.v).map v) := by
      have hres := sampleResult_eq r
      rw [hweight, keepLargest_map_range] at hres
      exact hres
    have hdraw := drawResult_spec ((List.range r.v).any (fun i => sampleMask r i && isNan (scaledLogit r i))) (y.2.1 ++ y.1) v hv
    rw [← hq] at hdraw
    obtain ⟨hnan, hpad, hzero, hpos⟩ := hdraw
    refine ⟨philoxGives_philox _ _ _, ?_, hpad, hzero, hpos⟩
    rw [hnan, List.any_eq_true]
    exact exists_congr fun i => and_congr List.mem_range (Bool.and_eq_true _ _ ▸ Iff.rfl)

end Sys2Proof.Machine
end

section
/-! PROOFS. Rounding a positive number: the magnitude below it, and what each mode takes (03:R60). -/

namespace Sys2Proof.Machine

/-! ### Rounding to an integer -/

/-- The integer part of m·2^e. -/
def floorMag (m : Nat) (e : Int) : Nat := roundMag .tz false m e

/-- The integer part of m·2^e, and the next integer where there is a rest. -/
def ceilMag (m : Nat) (e : Int) : Nat := if (m : ℚ) * 2 ^ e = floorMag m e then floorMag m e else floorMag m e + 1

/-- To nearest from the integer part: the even one of two (03:R60). -/
def NearFloor (t : ℚ) (n r : Nat) : Prop := 2 * t < 2 * n + 1 ∧ r = n ∨ 2 * n + 1 < 2 * t ∧ r = n + 1 ∨ 2 * t = 2 * n + 1 ∧ r = n + n % 2

theorem mul_zpow_natCast {m : Nat} {e : Int} (h : 0 ≤ e) : (m : ℚ) * 2 ^ e = (m * pow2 e : Nat) := by
  rw [Nat.cast_mul, pow2_cast h]

/-- A number with d fraction bits by its quotient and rest. -/
theorem shifted_eq (m d : Nat) : (m : ℚ) * 2 ^ (-(d : Int)) = (m / 2 ^ d : Nat) + (m % 2 ^ d : Nat) / 2 ^ d := by
  have hm : ((m % 2 ^ d : Nat) : ℚ) + (m / 2 ^ d : Nat) * 2 ^ d = m := by exact_mod_cast mod_add_div_mul m d
  rw [← hm, zpow_neg, zpow_natCast]
  field_simp
  ring

theorem floorMag_le (m : Nat) (e : Int) : (floorMag m e : ℚ) ≤ m * 2 ^ e ∧ (m : ℚ) * 2 ^ e < floorMag m e + 1 := by
  unfold floorMag roundMag
  split
  next h => rw [mul_zpow_natCast h]; exact ⟨le_rfl, lt_add_one _⟩
  next h =>
    obtain ⟨d, rfl⟩ : ∃ d : Nat, e = -(d : Int) := ⟨(-e).toNat, by omega⟩
    have hpos : (0 : ℚ) < 2 ^ d := by positivity
    have hrest : ((m % 2 ^ d : Nat) : ℚ) < 2 ^ d := by exact_mod_cast Nat.mod_lt m (Nat.two_pow_pos d)
    rw [neg_neg, Int.toNat_natCast, (roundShift_down _ _ _).1, shifted_eq]
    exact ⟨le_add_of_nonneg_right (by positivity), add_lt_add_right ((div_lt_one hpos).mpr hrest) _⟩

theorem roundMag_tz (neg : Bool) (m : Nat) (e : Int) : roundMag .tz neg m e = floorMag m e := by
  simp only [floorMag, roundMag, roundShift_down]

theorem roundMag_dn (m : Nat) (e : Int) : roundMag .dn false m e = floorMag m e := by
  simp only [floorMag, roundMag, (roundShift_down false m _).2.1, (roundShift_down false m _).1]

theorem roundMag_up (m : Nat) (e : Int) : roundMag .up false m e = ceilMag m e := by
  unfold ceilMag floorMag roundMag
  split
  next h => rw [if_pos (mul_zpow_natCast h)]
  next h =>
    obtain ⟨d, rfl⟩ : ∃ d : Nat, e = -(d : Int) := ⟨(-e).toNat, by omega⟩
    have hpos : (0 : ℚ) < 2 ^ d := by positivity
    rw [neg_neg, Int.toNat_natCast, (roundShift_down _ _ _).1, (roundShift_up _ _).1, ceilDiv_pow, shifted_eq]
    by_cases hr : m % 2 ^ d = 0
    · simp [hr]
    · have hne : ((m / 2 ^ d : Nat) : ℚ) + (m % 2 ^ d : Nat) / 2 ^ d ≠ (m / 2 ^ d : Nat) := by
        rw [Ne, add_eq_left, div_eq_zero_iff, Nat.cast_eq_zero]
        exact fun h => h.elim hr hpos.ne'
      rw [if_neg hr, if_neg hne]

theorem roundMag_ne_floor (neg : Bool) (m : Nat) (e : Int) : NearFloor (m * 2 ^ e) (floorMag m e) (roundMag .ne neg m e) := by
  unfold NearFloor floorMag roundMag
  split
  next h => rw [mul_zpow_natCast h]; exact .inl ⟨lt_add_one _, rfl⟩
  next h =>
    obtain ⟨d, rfl⟩ : ∃ d : Nat, e = -(d : Int) := ⟨(-e).toNat, by omega⟩
    have hpos : (0 : ℚ) < 2 ^ d := by positivity
    rw [neg_neg, Int.toNat_natCast, (roundShift_down _ _ _).1, shifted_eq, mul_add]
    have hlt : 2 * (((m % 2 ^ d : Nat) : ℚ) / 2 ^ d) < 1 ↔ 2 * (m % 2 ^ d) < 2 ^ d := by
      rw [← mul_div_assoc, div_lt_one hpos]; exact_mod_cast Iff.rfl
    have hgt : 1 < 2 * (((m % 2 ^ d : Nat) : ℚ) / 2 ^ d) ↔ 2 ^ d < 2 * (m % 2 ^ d) := by
      rw [← mul_div_assoc, one_lt_div hpos]; exact_mod_cast Iff.rfl
    have heq : 2 * (((m % 2 ^ d : Nat) : ℚ) / 2 ^ d) = 1 ↔ 2 * (m % 2 ^ d) = 2 ^ d := by
      rw [← mul_div_assoc, div_eq_one_iff_eq hpos.ne']; exact_mod_cast Iff.rfl
    rw [add_lt_add_iff_left, add_lt_add_iff_left, add_right_inj, hlt, hgt, heq]
    exact roundShift_ne neg m d

theorem ceilMag_eq_or (m : Nat) (e : Int) : (m : ℚ) * 2 ^ e = floorMag m e ∧ ceilMag m e = floorMag m e
    ∨ (floorMag m e : ℚ) < m * 2 ^ e ∧ ceilMag m e = floorMag m e + 1 := by
  by_cases h : (m : ℚ) * 2 ^ e = floorMag m e
  · exact .inl ⟨h, if_pos h⟩
  · exact .inr ⟨lt_of_le_of_ne (floorMag_le m e).1 (Ne.symm h), if_neg h⟩

/-- A mode seen from the other sign. -/
def flipRnd : Rnd → Rnd
  | .dn => .up
  | .up => .dn
  | .ne => .ne
  | .tz => .tz

theorem roundMag_flip (rnd : Rnd) (m : Nat) (e : Int) : roundMag rnd true m e = roundMag (flipRnd rnd) false m e := by
  cases rnd <;> simp [roundMag, roundShift, flipRnd]

/-! ### Rounding to a magnitude of a format -/

/-- The exponent of the last place that rounding into a format keeps. -/
def FloatFmt.unitExp (f : FloatFmt) (m : Nat) (e : Int) : Int := max (e + Nat.log2 m - f.mbits) (1 - f.bias - f.mbits)

/-- The magnitudes below those of a last place. -/
def FloatFmt.base (f : FloatFmt) (q : Int) : Nat := (q - (1 - f.bias - f.mbits)).toNat * 2 ^ f.mbits

theorem roundFin_pos {f : FloatFmt} {m : Nat} (hm : m ≠ 0) (rnd : Rnd) (neg : Bool) (e : Int) :
    let mag := roundMag rnd neg m (e - f.unitExp m e) + f.base (f.unitExp m e)
    roundFin f rnd neg m e = if f.maxFin < mag then overflowCode f rnd neg else signed f neg mag := if_neg hm

/-- The fields of a magnitude by its last place's exponent and the integer above it. -/
theorem exponent_base {f : FloatFmt} {q : Int} {n : Nat} (hq : 1 - f.bias - f.mbits ≤ q) (hn : n < 2 * 2 ^ f.mbits)
    (hnorm : q = 1 - f.bias - f.mbits ∨ 2 ^ f.mbits ≤ n) : f.exponent (n + f.base q) = q ∧ f.magVal (n + f.base q) = n * 2 ^ q := by
  have hpos := Nat.two_pow_pos f.mbits
  obtain ⟨j, hj⟩ : ∃ j, (q - (1 - f.bias - f.mbits)).toNat = j := ⟨_, rfl⟩
  have hexp : f.exponent (n + f.base q) = q := by
    rw [FloatFmt.exponent, FloatFmt.base, Nat.add_mul_div_right _ _ hpos, hj]
    rcases hnorm with rfl | hnorm
    · have hdiv : n / 2 ^ f.mbits < 2 := (Nat.div_lt_iff_lt_mul hpos).mpr hn
      omega
    · have hdiv : n / 2 ^ f.mbits = 1 := Nat.div_eq_of_lt_le (by omega) (by omega)
      omega
  refine ⟨hexp, ?_⟩
  have hsum := significand_add_exponent f (n + f.base q)
  rw [hexp, ← FloatFmt.base] at hsum
  rw [FloatFmt.magVal, hexp, Nat.add_right_cancel hsum]

/-- The integer part in units of the last place. -/
theorem floorMag_bounds {f : FloatFmt} {m : Nat} (hm : m ≠ 0) (e : Int) : let q := f.unitExp m e
    floorMag m (e - q) < 2 * 2 ^ f.mbits ∧ (q = 1 - f.bias - f.mbits ∨ 2 ^ f.mbits ≤ floorMag m (e - q)) := by
  intro q
  obtain ⟨hle, hlt⟩ := floorMag_le m (e - q)
  obtain ⟨hlow, hhigh⟩ := (Nat.log2_eq_iff hm).mp rfl
  have hlow' : (2 : ℚ) ^ (Nat.log2 m : Int) ≤ m := by rw [zpow_natCast]; exact_mod_cast hlow
  have hhigh' : (m : ℚ) < 2 ^ ((Nat.log2 m : Int) + 1) := by
    rw [show (Nat.log2 m : Int) + 1 = (Nat.log2 m + 1 : Nat) by push_cast; ring, zpow_natCast]
    exact_mod_cast hhigh
  constructor
  · have hq : e + Nat.log2 m - f.mbits ≤ q := le_max_left _ _
    have hbound : (floorMag m (e - q) : ℚ) < 2 ^ ((f.mbits : Int) + 1) := calc
      (floorMag m (e - q) : ℚ) ≤ m * 2 ^ (e - q) := hle
      _ < 2 ^ ((Nat.log2 m : Int) + 1) * 2 ^ (e - q) := mul_lt_mul_of_pos_right hhigh' (by positivity)
      _ = 2 ^ ((Nat.log2 m : Int) + 1 + (e - q)) := (zpow_add₀ two_ne_zero _ _).symm
      _ ≤ 2 ^ ((f.mbits : Int) + 1) := zpow_le_zpow_right₀ one_le_two (by omega)
    rw [show (f.mbits : Int) + 1 = (f.mbits + 1 : Nat) by push_cast; ring, zpow_natCast] at hbound
    rw [← Nat.pow_succ']
    exact_mod_cast hbound
  · rcases max_choice (e + Nat.log2 m - f.mbits) (1 - f.bias - f.mbits) with h | h
    · refine .inr ?_
      have hq : q = e + Nat.log2 m - f.mbits := h
      have hbound : (2 : ℚ) ^ (f.mbits : Int) < floorMag m (e - q) + 1 := calc
        (2 : ℚ) ^ (f.mbits : Int) = 2 ^ (Nat.log2 m : Int) * 2 ^ (e - q) := by rw [← zpow_add₀ two_ne_zero]; congr 1; omega
        _ ≤ m * 2 ^ (e - q) := mul_le_mul_of_nonneg_right hlow' (by positivity)
        _ < floorMag m (e - q) + 1 := hlt
      rw [zpow_natCast] at hbound
      exact Nat.lt_succ_iff.mp (by exact_mod_cast hbound)
    · exact .inl h

/-- The magnitude below m·2^e. -/
def FloatFmt.lower (f : FloatFmt) (m : Nat) (e : Int) : Nat := floorMag m (e - f.unitExp m e) + f.base (f.unitExp m e)

theorem exponent_lower (f : FloatFmt) {m : Nat} (hm : m ≠ 0) (e : Int) : f.exponent (f.lower m e) = f.unitExp m e := by
  obtain ⟨hlt, hnorm⟩ := floorMag_bounds (f := f) hm e
  exact (exponent_base (le_max_right _ _) hlt hnorm).1

theorem magVal_lower (f : FloatFmt) {m : Nat} (hm : m ≠ 0) (e : Int) :
    f.magVal (f.lower m e) = floorMag m (e - f.unitExp m e) * 2 ^ f.unitExp m e := by
  obtain ⟨hlt, hnorm⟩ := floorMag_bounds (f := f) hm e
  exact (exponent_base (le_max_right _ _) hlt hnorm).2

/-- The next magnitude's value. -/
theorem magVal_lower_succ (f : FloatFmt) {m : Nat} (hm : m ≠ 0) (e : Int) :
    f.magVal (f.lower m e + 1) = (floorMag m (e - f.unitExp m e) + 1) * 2 ^ f.unitExp m e := by
  rw [magVal_succ, magVal_lower f hm, exponent_lower f hm]
  ring

end Sys2Proof.Machine
end

section
/-! PROOFS. The nearest code to a number that is given by its bounds (03:R60, R61). -/

namespace Sys2Proof.Machine

/-! ### A number by its bounds -/

/-- What the bounds of a number keep: `below q` says that it is at most q, `above q` that it is at least q. -/
structure Cut (below above : ℚ → Prop) : Prop where
  below_mono : ∀ {a b}, below a → a ≤ b → below b
  above_mono : ∀ {a b}, above b → a ≤ b → above a
  order : ∀ {a b}, above a → below b → a ≤ b

theorem cut_rat (x : ℚ) : Cut (fun q => x ≤ q) (fun q => q ≤ x) := ⟨le_trans, fun h hab => hab.trans h, le_trans⟩

/-- The middle between a magnitude's value and the next one's. -/
def FloatFmt.mid (f : FloatFmt) (mag : Nat) : ℚ := (f.magVal mag + f.magVal (mag + 1)) / 2

/-- A positive number lies from magnitude lo to the next one, and `mag` is the nearer of the two, the even one in the middle. -/
structure NearMag (f : FloatFmt) (below above : ℚ → Prop) (lo mag : Nat) : Prop where
  lower : above (f.magVal lo)
  upper : below (f.magVal (lo + 1))
  near : below (f.mid lo) ∧ ¬above (f.mid lo) ∧ mag = lo ∨ above (f.mid lo) ∧ ¬below (f.mid lo) ∧ mag = lo + 1
    ∨ below (f.mid lo) ∧ above (f.mid lo) ∧ mag = lo + lo % 2

theorem mbits_pos : ∀ f ∈ floatFormats, 0 < f.mbits := by decide

theorem base_even {f : FloatFmt} (hf : f ∈ floatFormats) (q : Int) : f.base q % 2 = 0 := by
  obtain ⟨k, hk⟩ := Nat.exists_eq_succ_of_ne_zero (mbits_pos f hf).ne'
  rw [FloatFmt.base, hk, Nat.pow_succ, ← Nat.mul_assoc, Nat.mul_mod_left]

/-- The bounds agree with those of a rational on the halves of a last place. -/
def AgreeAt (below above : ℚ → Prop) (x : ℚ) (q : Int) : Prop :=
  ∀ k : Nat, (below (k * 2 ^ (q - 1)) ↔ x ≤ k * 2 ^ (q - 1)) ∧ (above (k * 2 ^ (q - 1)) ↔ k * 2 ^ (q - 1) ≤ x)

/-- Rounding m·2^e to nearest rounds every number whose bounds agree with its on the halves of the last place. -/
theorem nearMag_roundMag {f : FloatFmt} (hf : f ∈ floatFormats) {m : Nat} (hm : m ≠ 0) (neg : Bool) (e : Int)
    {below above : ℚ → Prop} (h : AgreeAt below above (m * 2 ^ e) (f.unitExp m e)) :
    NearMag f below above (f.lower m e) (roundMag .ne neg m (e - f.unitExp m e) + f.base (f.unitExp m e)) := by
  have hlo := magVal_lower f hm e
  have hhi := magVal_lower_succ f hm e
  have heven := base_even hf (f.unitExp m e)
  obtain ⟨hle, hlt⟩ := floorMag_le m (e - f.unitExp m e)
  have hnear := roundMag_ne_floor neg m (e - f.unitExp m e)
  have hlower : f.lower m e = floorMag m (e - f.unitExp m e) + f.base (f.unitExp m e) := rfl
  generalize f.unitExp m e = q at *
  generalize floorMag m (e - q) = n at *
  have hunit : (2 : ℚ) ^ q = 2 * 2 ^ (q - 1) := by rw [← zpow_one_add₀ two_ne_zero]; congr 1; omega
  have hpos : (0 : ℚ) < 2 ^ (q - 1) := by positivity
  have hx : (m : ℚ) * 2 ^ e = 2 * (m * 2 ^ (e - q)) * 2 ^ (q - 1) := by
    rw [mul_comm (2 : ℚ), mul_assoc, ← hunit, mul_assoc, ← zpow_add₀ two_ne_zero, sub_add_cancel]
  rw [hx] at h
  generalize (m : ℚ) * 2 ^ (e - q) = t at *
  have hlo' : f.magVal (f.lower m e) = (2 * n : Nat) * 2 ^ (q - 1) := by rw [hlo, hunit]; push_cast; ring
  have hhi' : f.magVal (f.lower m e + 1) = (2 * n + 2 : Nat) * 2 ^ (q - 1) := by rw [hhi, hunit]; push_cast; ring
  have hmid : f.mid (f.lower m e) = (2 * n + 1 : Nat) * 2 ^ (q - 1) := by rw [FloatFmt.mid, hlo', hhi']; push_cast; ring
  have hbelow (k : Nat) : below (k * 2 ^ (q - 1)) ↔ 2 * t ≤ k := (h k).1.trans (mul_le_mul_iff_left₀ hpos)
  have habove (k : Nat) : above (k * 2 ^ (q - 1)) ↔ k ≤ 2 * t := (h k).2.trans (mul_le_mul_iff_left₀ hpos)
  refine ⟨?_, ?_, ?_⟩
  · rw [hlo', habove]; push_cast; linarith
  · rw [hhi', hbelow]; push_cast; linarith
  · rw [hmid, hbelow, habove, hlower]
    push_cast
    rcases hnear with ⟨ht, hr⟩ | ⟨ht, hr⟩ | ⟨ht, hr⟩
    · exact .inl ⟨ht.le, not_le.mpr ht, by rw [hr]⟩
    · exact .inr (.inl ⟨ht.le, not_le.mpr ht, by rw [hr]; omega⟩)
    · exact .inr (.inr ⟨ht.le, ht.ge, by rw [hr]; omega⟩)

/-! ### Codes by sign and magnitude -/

theorem top_lt : ∀ f ∈ floatFormats, f.top < 2 ^ (f.width - 1) := by decide

theorem maxFin_lt {f : FloatFmt} (hf : f ∈ floatFormats) : f.maxFin < 2 ^ (f.width - 1) := (maxFin_le_top f hf).trans_lt (top_lt f hf)

/-- The sign and the magnitude of a code made of them. -/
theorem signed_parts (f : FloatFmt) (neg : Bool) {mag : Nat} (h : mag < 2 ^ (f.width - 1)) :
    f.magnitude (signed f neg mag) = mag ∧ f.signBit (signed f neg mag) = neg := by
  have hlt : signed f neg mag < 2 ^ f.width := by
    rw [two_pow_width, signed]
    split <;> omega
  rw [signBit_eq hlt, FloatFmt.magnitude, signed]
  cases neg with
  | true => simp [Nat.mod_eq_of_lt h]
  | false => simp [Nat.mod_eq_of_lt h, h]

theorem signed_mod_two {f : FloatFmt} (hf : f ∈ floatFormats) (neg : Bool) (mag : Nat) : signed f neg mag % 2 = mag % 2 := by
  have hbits := mbits_pos f hf
  obtain ⟨k, hk⟩ : ∃ k, f.width - 1 = k + 1 := ⟨f.width - 2, by rw [FloatFmt.width]; omega⟩
  rw [signed, hk, Nat.pow_succ]
  split <;> omega

/-- The value of a code that is a number. -/
theorem isNumber_signed {f : FloatFmt} (hf : f ∈ floatFormats) (neg : Bool) {mag : Nat} (h : mag ≤ f.maxFin) :
    IsNumber (decodeFloat f (signed f neg mag)) ((if neg then -1 else 1) * f.magVal mag) := by
  obtain ⟨hmag, hneg⟩ := signed_parts f neg (h.trans_lt (maxFin_lt hf))
  rw [isNumber_decodeFloat_iff hf, hmag, hneg]
  exact ⟨h, rfl⟩

/-- A value of a format is that of a magnitude, or the value below zero of one. -/
theorem number_eq {f : FloatFmt} (hf : f ∈ floatFormats) {d : Nat} {q : ℚ} (h : IsNumber (decodeFloat f d) q) :
    ∃ mag, mag ≤ f.maxFin ∧ (q = f.magVal mag ∨ q = -f.magVal mag) := by
  obtain ⟨hmag, hq⟩ := (isNumber_decodeFloat_iff hf d q).mp h
  refine ⟨f.magnitude d, hmag, ?_⟩
  rw [hq]
  split
  · exact .inr (by ring)
  · exact .inl (by ring)

/-! ### The nearest code -/

section
variable {f : FloatFmt} (hf : f ∈ floatFormats) {below above : ℚ → Prop} (hcut : Cut below above)
include hf hcut

/-- A magnitude that the adjacent middles enclose is the nearest code. -/
theorem nearest_of_adjacent {mag : Nat} (hmag : mag ≤ f.maxFin) (hzero : above 0)
    (hlow : ∀ k, k + 1 = mag → above (f.mid k) ∧ (below (f.mid k) → mag % 2 = 0))
    (hhigh : mag < f.maxFin → below (f.mid mag) ∧ (above (f.mid mag) → mag % 2 = 0)) :
    Nearest f below above (signed f false mag) := by
  have hmono := (magVal_strictMono f).monotone
  refine ⟨f.magVal mag, by simpa using isNumber_signed hf false hmag, fun d q hq => ?_⟩
  rw [signed_mod_two hf]
  obtain ⟨k, hk, hqk⟩ := number_eq hf hq
  have hqle : q ≤ f.magVal k := by
    rcases hqk with rfl | rfl
    · exact le_rfl
    · linarith [magVal_nonneg f k]
  constructor
  · intro hlt
    have hmk : mag < k := (magVal_strictMono f).lt_iff_lt.mp (hlt.trans_le hqle)
    obtain ⟨hb, ha⟩ := hhigh (hmk.trans_le hk)
    have hq' : q = f.magVal k := hqk.resolve_right fun hneg => by linarith [magVal_nonneg f k, magVal_nonneg f mag]
    have hmid : f.mid mag ≤ (f.magVal mag + q) / 2 := by
      rw [FloatFmt.mid, hq']
      linarith [hmono (Nat.succ_le_of_lt hmk)]
    exact ⟨hcut.below_mono hb hmid, fun h => ha (hcut.above_mono h hmid)⟩
  · intro hlt
    cases mag with
    | zero =>
      rw [magVal_zero] at hlt ⊢
      exact ⟨hcut.above_mono hzero (by linarith), fun _ => rfl⟩
    | succ n =>
      obtain ⟨ha, hb⟩ := hlow n rfl
      have hqn : q ≤ f.magVal n := by
        rcases hqk with rfl | rfl
        · exact hmono (Nat.lt_succ_iff.mp ((magVal_strictMono f).lt_iff_lt.mp hlt))
        · linarith [magVal_nonneg f k, magVal_nonneg f n]
      have hmid : (f.magVal (n + 1) + q) / 2 ≤ f.mid n := by
        rw [FloatFmt.mid]
        linarith
      exact ⟨hcut.above_mono ha hmid, fun h => hb (hcut.below_mono h hmid)⟩

variable {lo mag : Nat} (h : NearMag f below above lo mag)
include h

omit hf in
/-- The middle below magnitude lo lies below the number. -/
theorem mid_below {k : Nat} (hk : k < lo) : above (f.mid k) ∧ ¬below (f.mid k) := by
  have hlt : f.mid k < f.magVal lo := by
    rw [FloatFmt.mid]
    linarith [magVal_strictMono f (Nat.lt_succ_self k), (magVal_strictMono f).monotone (Nat.succ_le_of_lt hk)]
  exact ⟨hcut.above_mono h.lower hlt.le, fun hb => not_lt.mpr (hcut.order h.lower hb) hlt⟩

omit hf in
/-- The middle above the next magnitude lies above the number. -/
theorem mid_above {k : Nat} (hk : lo < k) : below (f.mid k) ∧ ¬above (f.mid k) := by
  have hlt : f.magVal (lo + 1) < f.mid k := by
    rw [FloatFmt.mid]
    linarith [magVal_strictMono f (Nat.lt_succ_self k), (magVal_strictMono f).monotone (Nat.succ_le_of_lt hk)]
  exact ⟨hcut.below_mono h.upper hlt.le, fun ha => not_lt.mpr (hcut.order ha h.upper) hlt⟩

omit hf in
/-- The middle below the magnitude that is taken. -/
theorem mid_below_nearMag {k : Nat} (hk : k < mag) : above (f.mid k) ∧ (below (f.mid k) → k + 1 = mag ∧ mag % 2 = 0) := by
  by_cases hlo : k < lo
  · obtain ⟨ha, hb⟩ := mid_below hcut h hlo
    exact ⟨ha, fun hb' => absurd hb' hb⟩
  · rcases h.near with ⟨-, -, hmag⟩ | ⟨ha, hb, hmag⟩ | ⟨-, ha, hmag⟩
    · omega
    · obtain rfl : k = lo := by omega
      exact ⟨ha, fun hb' => absurd hb' hb⟩
    · obtain rfl : k = lo := by omega
      exact ⟨ha, fun _ => by omega⟩

omit hf in
/-- The middle above the magnitude that is taken. -/
theorem mid_above_nearMag {k : Nat} (hk : mag ≤ k) : below (f.mid k) ∧ (above (f.mid k) → k = mag ∧ mag % 2 = 0) := by
  by_cases hlo : lo < k
  · obtain ⟨hb, ha⟩ := mid_above hcut h hlo
    exact ⟨hb, fun ha' => absurd ha' ha⟩
  · rcases h.near with ⟨hb, ha, hmag⟩ | ⟨-, -, hmag⟩ | ⟨hb, -, hmag⟩
    · obtain rfl : k = lo := by omega
      exact ⟨hb, fun ha' => absurd ha' ha⟩
    · omega
    · obtain rfl : k = lo := by omega
      exact ⟨hb, fun _ => by omega⟩

/-- The magnitude, or the largest finite one beyond it, is the nearest code. -/
theorem nearest_of_nearMag : Nearest f below above (signed f false (min mag f.maxFin)) := by
  have hzero : above 0 := hcut.above_mono h.lower (magVal_nonneg f lo)
  refine nearest_of_adjacent hf hcut (min_le_right _ _) hzero (fun k hk => ?_) (fun hlt => ?_)
  · obtain ⟨ha, hb⟩ := mid_below_nearMag hcut h (show k < mag by omega)
    exact ⟨ha, fun hb' => by have := hb hb'; omega⟩
  · obtain ⟨hb, ha⟩ := mid_above_nearMag hcut h (show mag ≤ min mag f.maxFin by omega)
    exact ⟨hb, fun ha' => by have := ha ha'; omega⟩

omit hf in
/-- The magnitude taken is beyond the largest finite one, an odd one, where the number is at least the middle above that. -/
theorem above_mid_maxFin_iff (hodd : f.maxFin % 2 = 1) : above (f.mid f.maxFin) ↔ f.maxFin < mag := by
  refine ⟨fun ha => ?_, fun hlt => (mid_below_nearMag hcut h hlt).1⟩
  by_contra hle
  have := (mid_above_nearMag hcut h (not_lt.mp hle)).2 ha
  omega

end

/-! ### Numbers below zero -/

theorem exists_neg_number {f : FloatFmt} (hf : f ∈ floatFormats) {d : Nat} {q : ℚ} (h : IsNumber (decodeFloat f d) q) :
    ∃ d', IsNumber (decodeFloat f d') (-q) := by
  obtain ⟨mag, hmag, rfl | rfl⟩ := number_eq hf h
  · exact ⟨_, by simpa using isNumber_signed hf true hmag⟩
  · exact ⟨_, by simpa using isNumber_signed hf false hmag⟩

theorem isNumber_unique {x : Ext} {p q : ℚ} (hp : IsNumber x p) (hq : IsNumber x q) : p = q := by
  obtain ⟨neg, m, e, rfl, rfl⟩ := hp
  obtain ⟨neg', m', e', heq, rfl⟩ := hq
  obtain ⟨rfl, rfl, rfl⟩ := Ext.fin.inj heq
  rfl

/-- The code of the other sign is the nearest to the number of the other sign. -/
theorem nearest_neg {f : FloatFmt} (hf : f ∈ floatFormats) {below above : ℚ → Prop} {mag : Nat} (hmag : mag ≤ f.maxFin)
    (h : Nearest f below above (signed f false mag)) : Nearest f (fun q => above (-q)) (fun q => below (-q)) (signed f true mag) := by
  obtain ⟨r, hr, hall⟩ := h
  have hr' := isNumber_unique hr (isNumber_signed hf false hmag)
  rw [if_neg Bool.false_ne_true, one_mul] at hr'
  refine ⟨-r, by simpa [hr'] using isNumber_signed hf true hmag, fun d q hq => ?_⟩
  obtain ⟨d', hd'⟩ := exists_neg_number hf hq
  obtain ⟨hhigh, hlow⟩ := hall d' (-q) hd'
  rw [signed_mod_two hf] at hhigh hlow ⊢
  beta_reduce
  rw [show -((-r + q) / 2) = (r + -q) / 2 by ring]
  exact ⟨fun hlt => hlow (by linarith), fun hlt => hhigh (by linarith)⟩

end Sys2Proof.Machine
end

section
/-! PROOFS. Rounding into a format in each mode (03:R60, R61). -/

namespace Sys2Proof.Machine

/-- The exponents of the largest finite magnitudes are one, and the largest of a format with infinities is odd. -/
theorem maxFin_facts : ∀ f ∈ floatFormats, 0 < f.maxFin ∧ f.exponent (f.maxFin - 1) = f.exponent f.maxFin
    ∧ (f.hasInf = true → f.maxFin % 2 = 1) := by decide

section
variable {f : FloatFmt} (hf : f ∈ floatFormats)
include hf

/-! ### The magnitudes that the modes take -/

/-- The magnitudes that the modes take for m·2^e before the format's limit. -/
structure ModeMags (f : FloatFmt) (x : ℚ) (mag : Rnd → Nat) : Prop where
  tz : ∀ k, f.magVal k ≤ x ↔ k ≤ mag .tz
  dn : mag .dn = mag .tz
  up : ∀ k, x ≤ f.magVal k ↔ mag .up ≤ k
  ne : ∃ lo, NearMag f (fun q => x ≤ q) (fun q => q ≤ x) lo (mag .ne)

omit hf in
theorem modeMags_zero : ModeMags f 0 (fun _ => 0) := by
  have hmono := magVal_strictMono f
  have hz := magVal_zero f
  have hone : 0 < f.magVal 1 := hz ▸ hmono Nat.zero_lt_one
  refine ⟨fun k => ?_, rfl, fun k => ?_, 0, ?_, ?_, .inl ⟨?_, ?_, rfl⟩⟩
  · conv_lhs => rw [← hz]
    exact hmono.le_iff_le
  · exact iff_of_true (magVal_nonneg f k) (Nat.zero_le k)
  · exact hz.le
  · exact hone.le
  · rw [FloatFmt.mid, hz]; linarith
  · rw [FloatFmt.mid, hz]; linarith

/-- The magnitudes for m·2^e from its last place. -/
theorem modeMags_pos {m : Nat} (hm : m ≠ 0) (e : Int) :
    ModeMags f (m * 2 ^ e) (fun rnd => roundMag rnd false m (e - f.unitExp m e) + f.base (f.unitExp m e)) := by
  have hmono := magVal_strictMono f
  have hlo := magVal_lower f hm e
  have hhi := magVal_lower_succ f hm e
  have hlower : f.lower m e = floorMag m (e - f.unitExp m e) + f.base (f.unitExp m e) := rfl
  obtain ⟨hle, hlt⟩ := floorMag_le m (e - f.unitExp m e)
  have hceil := ceilMag_eq_or m (e - f.unitExp m e)
  have hpos : (0 : ℚ) < 2 ^ f.unitExp m e := by positivity
  have hx : (m : ℚ) * 2 ^ e = m * 2 ^ (e - f.unitExp m e) * 2 ^ f.unitExp m e := by
    rw [mul_assoc, ← zpow_add₀ two_ne_zero, sub_add_cancel]
  have hle' : f.magVal (f.lower m e) ≤ m * 2 ^ e := by
    rw [hlo, hx]
    exact mul_le_mul_of_nonneg_right hle hpos.le
  have hlt' : (m : ℚ) * 2 ^ e < f.magVal (f.lower m e + 1) := by
    rw [hhi, hx]
    exact mul_lt_mul_of_pos_right hlt hpos
  refine ⟨fun k => ?_, ?_, fun k => ?_, _, nearMag_roundMag hf hm false e fun k => ⟨Iff.rfl, Iff.rfl⟩⟩
  · rw [roundMag_tz, ← hlower]
    exact ⟨fun h => Nat.lt_succ_iff.mp (hmono.lt_iff_lt.mp (h.trans_lt hlt')), fun h => (hmono.monotone h).trans hle'⟩
  · rw [roundMag_tz, roundMag_dn]
  · rw [roundMag_up]
    rcases hceil with ⟨heq, hc⟩ | ⟨hgt, hc⟩
    · have hxlo : (m : ℚ) * 2 ^ e = f.magVal (f.lower m e) := by rw [hlo, hx, heq]
      rw [hc, ← hlower, hxlo]
      exact hmono.le_iff_le
    · have hxlo : f.magVal (f.lower m e) < m * 2 ^ e := by
        rw [hlo, hx]
        exact mul_lt_mul_of_pos_right hgt hpos
      rw [hc, Nat.add_right_comm, ← hlower]
      exact ⟨fun h => hmono.lt_iff_lt.mp (hxlo.trans_le h), fun h => hlt'.le.trans (hmono.monotone h)⟩

theorem roundFin_mags (m : Nat) (e : Int) : ∃ mag : Rnd → Nat, ModeMags f (m * 2 ^ e) mag ∧ ∀ rnd,
    roundFin f rnd false m e = if f.maxFin < mag rnd then overflowCode f rnd false else signed f false (mag rnd) := by
  by_cases hm : m = 0
  · subst hm
    refine ⟨fun _ => 0, ?_, fun rnd => by simp [roundFin]⟩
    rw [Nat.cast_zero, zero_mul]
    exact modeMags_zero
  · exact ⟨_, modeMags_pos hf hm e, fun rnd => roundFin_pos hm rnd false e⟩

/-! ### Overflow (03:R61) -/

theorem isNumber_maxFin {mag : Nat} (h : mag ≤ f.maxFin) (q : ℚ) : IsNumber (decodeFloat f mag) q ↔ q = f.magVal mag := by
  have hnum := isNumber_signed hf false h
  rw [if_neg Bool.false_ne_true, one_mul, signed, if_neg Bool.false_ne_true, Nat.add_zero] at hnum
  exact ⟨fun hq => isNumber_unique hq hnum, fun hq => hq ▸ hnum⟩

/-- The limits of R61 by magnitudes' values. -/
def FloatFmt.Beyond (f : FloatFmt) : Rnd → ℚ → Prop
  | .ne, x => f.hasInf = true ∧ f.mid f.maxFin ≤ |x|
  | .tz, _ => False
  | .dn, x => x < -f.magVal f.maxFin
  | .up, x => f.magVal f.maxFin < x

theorem overflows_iff (rnd : Rnd) (x : ℚ) : Overflows f rnd x ↔ f.Beyond rnd x := by
  obtain ⟨hpos, hexp, -⟩ := maxFin_facts f hf
  unfold Overflows
  simp only [isNumber_maxFin hf le_rfl, isNumber_maxFin hf (Nat.sub_le _ _), exists_and_left, exists_eq_left]
  cases rnd with
  | ne =>
    have hstep := magVal_succ f (f.maxFin - 1)
    rw [Nat.sub_add_cancel hpos, hexp] at hstep
    have hmid : f.magVal f.maxFin + (f.magVal f.maxFin - f.magVal (f.maxFin - 1)) / 2 = f.mid f.maxFin := by
      rw [FloatFmt.mid, magVal_succ, hstep]
      ring
    rw [hmid, FloatFmt.Beyond]
  | tz => exact Iff.rfl
  | dn => exact Iff.rfl
  | up => exact Iff.rfl

/-! ### Rounding a number that is not negative -/

/-- The greatest code of those at most a number, of its sign or of the other. -/
theorem le_floor {x : ℚ} {lo : Nat} (hlo : ∀ k, f.magVal k ≤ x ↔ k ≤ lo) {d : Nat} {q : ℚ} (hq : IsNumber (decodeFloat f d) q)
    (hle : q ≤ x) : q ≤ f.magVal (min lo f.maxFin) := by
  obtain ⟨k, hk, rfl | rfl⟩ := number_eq hf hq
  · exact (magVal_strictMono f).monotone (le_min ((hlo k).mp hle) hk)
  · linarith [magVal_nonneg f k, magVal_nonneg f (min lo f.maxFin)]

theorem isNumber_pos {mag : Nat} (h : mag ≤ f.maxFin) : IsNumber (decodeFloat f (signed f false mag)) (f.magVal mag) := by
  simpa using isNumber_signed hf false h

/-- The floor's code is what rounding toward zero, or down, gives. -/
theorem roundsTo_floor {x : ℚ} (hx : 0 ≤ x) {lo : Nat} (hlo : ∀ k, f.magVal k ≤ x ↔ k ≤ lo) :
    RoundsTo f .tz x (signed f false (min lo f.maxFin)) ∧ RoundsTo f .dn x (signed f false (min lo f.maxFin)) := by
  have hnum := isNumber_pos hf (min_le_right lo f.maxFin)
  have hval : f.magVal (min lo f.maxFin) ≤ x := (hlo _).mpr (min_le_left _ _)
  have hnonneg := magVal_nonneg f (min lo f.maxFin)
  refine ⟨⟨_, hnum, ?_, fun d q hq hle => ?_⟩, ⟨_, hnum, hval, fun d q hq hle => le_floor hf hlo hq hle⟩⟩
  · beta_reduce
    rw [abs_of_nonneg hnonneg, abs_of_nonneg hx]
    exact hval
  · beta_reduce at hle ⊢
    rw [abs_of_nonneg hx] at hle
    rw [abs_of_nonneg hnonneg]
    rcases abs_choice q with h | h
    · rw [h] at hle ⊢
      exact le_floor hf hlo hq hle
    · obtain ⟨d', hd'⟩ := exists_neg_number hf hq
      rw [h] at hle ⊢
      exact le_floor hf hlo hd' hle

/-- The ceiling's code is what rounding up gives. -/
theorem roundsTo_ceil {x : ℚ} (hx : 0 ≤ x) {hi : Nat} (hhi : ∀ k, x ≤ f.magVal k ↔ hi ≤ k) (hmax : hi ≤ f.maxFin) :
    RoundsTo f .up x (signed f false hi) := by
  refine ⟨_, isNumber_pos hf hmax, (hhi hi).mpr le_rfl, fun d q hq hle => ?_⟩
  obtain ⟨k, -, rfl | rfl⟩ := number_eq hf hq
  · exact (magVal_strictMono f).monotone ((hhi k).mp hle)
  · have hk := magVal_nonneg f k
    have hx0 : x = 0 := by linarith
    have hzero : hi = 0 := Nat.le_zero.mp ((hhi 0).mp (by rw [magVal_zero, hx0]))
    rw [hzero, magVal_zero]
    linarith

/-- A magnitude with a sign is what a number rounds to: the limit's where the number is beyond the limit (03:R60, R61). -/
structure Rounded (f : FloatFmt) (rnd : Rnd) (x : ℚ) (neg : Bool) (mag : Nat) : Prop where
  le_top : mag ≤ f.top
  limit : Overflows f rnd x → mag = if f.hasInf then f.top else f.maxFin
  rounds : ¬Overflows f rnd x → RoundsTo f rnd x (signed f neg mag)

/-- The nearer magnitude, with the format's limit. -/
theorem rounded_of_nearMag {x : ℚ} (hx : 0 ≤ x) {lo mag : Nat} (hnear : NearMag f (fun q => x ≤ q) (fun q => q ≤ x) lo mag) :
    ∃ mag', Rounded f .ne x false mag'
      ∧ ∀ neg, (if f.maxFin < mag then overflowCode f .ne neg else signed f neg mag) = signed f neg mag' := by
  have htop := maxFin_le_top f hf
  obtain ⟨-, -, hodd⟩ := maxFin_facts f hf
  have hnearest := nearest_of_nearMag hf (cut_rat x) hnear
  have hover : Overflows f .ne x ↔ f.hasInf = true ∧ f.mid f.maxFin ≤ x := by rw [overflows_iff hf, FloatFmt.Beyond, abs_of_nonneg hx]
  cases hinf : f.hasInf with
  | true =>
    rw [hinf, above_mid_maxFin_iff (cut_rat x) hnear (hodd hinf)] at hover
    by_cases h : f.maxFin < mag
    · exact ⟨f.top, ⟨le_rfl, fun _ => by rw [hinf, if_pos rfl], fun hno => absurd (hover.mpr ⟨rfl, h⟩) hno⟩,
        fun neg => by rw [if_pos h, overflowCode, hinf]; rfl⟩
    · rw [min_eq_left (not_lt.mp h)] at hnearest
      exact ⟨mag, ⟨(not_lt.mp h).trans htop, fun hyes => absurd (hover.mp hyes).2 h, fun _ => hnearest⟩, fun neg => if_neg h⟩
  | false =>
    rw [hinf] at hover
    refine ⟨min mag f.maxFin, ⟨(min_le_right _ _).trans htop, fun h => absurd (hover.mp h).1 Bool.false_ne_true, fun _ => hnearest⟩,
      fun neg => ?_⟩
    split
    next h => rw [overflowCode, hinf, min_eq_right h.le]; rfl
    next h => rw [min_eq_left (not_lt.mp h)]

/-- Rounding a number that is not negative. -/
theorem roundFin_nonneg (rnd : Rnd) (m : Nat) (e : Int) :
    ∃ mag, Rounded f rnd (m * 2 ^ e) false mag ∧ roundFin f rnd false m e = signed f false mag := by
  obtain ⟨mag, hmags, hround⟩ := roundFin_mags hf m e
  have hx : (0 : ℚ) ≤ m * 2 ^ e := by positivity
  have hM := magVal_nonneg f f.maxFin
  have htop := maxFin_le_top f hf
  rw [hround]
  generalize (m : ℚ) * 2 ^ e = x at hmags hx
  have hover := overflows_iff hf rnd x
  cases rnd with
  | ne =>
    obtain ⟨lo, hnear⟩ := hmags.ne
    obtain ⟨mag', hrounded, hcode⟩ := rounded_of_nearMag hf hx hnear
    exact ⟨mag', hrounded, hcode false⟩
  | tz =>
    refine ⟨min (mag .tz) f.maxFin, ⟨(min_le_right _ _).trans htop, fun h => (hover.mp h).elim,
      fun _ => (roundsTo_floor hf hx hmags.tz).1⟩, ?_⟩
    split
    next h => rw [min_eq_right h.le, overflowCode]; split <;> rfl
    next h => rw [min_eq_left (not_lt.mp h)]
  | dn =>
    refine ⟨min (mag .tz) f.maxFin, ⟨(min_le_right _ _).trans htop, fun h => absurd (hover.mp h) (by rw [FloatFmt.Beyond]; linarith),
      fun _ => (roundsTo_floor hf hx hmags.tz).2⟩, ?_⟩
    rw [hmags.dn]
    split
    next h => rw [min_eq_right h.le, overflowCode]; split <;> rfl
    next h => rw [min_eq_left (not_lt.mp h)]
  | up =>
    rw [FloatFmt.Beyond, ← not_le, hmags.up, not_le] at hover
    by_cases h : f.maxFin < mag .up
    · refine ⟨if f.hasInf then f.top else f.maxFin, ⟨?_, fun _ => rfl, fun hno => absurd (hover.mpr h) hno⟩, ?_⟩
      · split
        · exact le_rfl
        · exact htop
      · rw [if_pos h, overflowCode]
        cases f.hasInf <;> rfl
    · exact ⟨mag .up, ⟨(not_lt.mp h).trans htop, fun hyes => absurd (hover.mp hyes) h,
        fun _ => roundsTo_ceil hf hx hmags.up (not_lt.mp h)⟩, if_neg h⟩

/-! ### Numbers of either sign -/

theorem mag_le_of_roundsTo {rnd : Rnd} {x : ℚ} {mag : Nat} (hmag : mag ≤ f.top) (h : RoundsTo f rnd x (signed f false mag)) :
    mag ≤ f.maxFin := by
  have hnum : ∃ r, IsNumber (decodeFloat f (signed f false mag)) r := by
    cases rnd with
    | ne => obtain ⟨r, hr, -⟩ := h; exact ⟨r, hr⟩
    | tz => obtain ⟨r, hr, -⟩ := h; exact ⟨r, hr⟩
    | dn => obtain ⟨r, hr, -⟩ := h; exact ⟨r, hr⟩
    | up => obtain ⟨r, hr, -⟩ := h; exact ⟨r, hr⟩
  obtain ⟨r, hr⟩ := hnum
  have hle := ((isNumber_decodeFloat_iff hf _ _).mp hr).1
  rwa [(signed_parts f false (hmag.trans_lt (top_lt f hf))).1] at hle

/-- The best code for a number, seen from the other sign. -/
theorem best_neg {mag : Nat} (hmag : mag ≤ f.maxFin) {ok ok' : ℚ → Prop} {worse worse' : ℚ → ℚ → Prop} (hok : ∀ q, ok' (-q) ↔ ok q)
    (hworse : ∀ q r, worse q r → worse' (-q) (-r))
    (h : ∃ r, IsNumber (decodeFloat f (signed f false mag)) r ∧ ok r ∧ ∀ d q, IsNumber (decodeFloat f d) q → ok q → worse q r) :
    ∃ r, IsNumber (decodeFloat f (signed f true mag)) r ∧ ok' r ∧ ∀ d q, IsNumber (decodeFloat f d) q → ok' q → worse' q r := by
  obtain ⟨r, hr, hokr, hbest⟩ := h
  have hr' := isNumber_unique hr (isNumber_pos hf hmag)
  refine ⟨-r, by simpa [hr'] using isNumber_signed hf true hmag, (hok r).mpr hokr, fun d q hq hokq => ?_⟩
  obtain ⟨d', hd'⟩ := exists_neg_number hf hq
  have hokq' : ok (-q) := by rwa [← hok, neg_neg]
  have := hworse _ _ (hbest d' (-q) hd' hokq')
  rwa [neg_neg] at this

theorem roundsTo_neg {rnd : Rnd} {x : ℚ} {mag : Nat} (hmag : mag ≤ f.top) (h : RoundsTo f rnd x (signed f false mag)) :
    RoundsTo f (flipRnd rnd) (-x) (signed f true mag) := by
  have hmax := mag_le_of_roundsTo hf hmag h
  cases rnd with
  | ne =>
    have hneg := nearest_neg hf hmax (show Nearest f (fun q => x ≤ q) (fun q => q ≤ x) (signed f false mag) from h)
    simp only [neg_le, le_neg] at hneg
    exact hneg
  | tz => exact best_neg hf hmax (by simp) (by simp) h
  | dn => exact best_neg hf hmax (by simp) (by simp) h
  | up => exact best_neg hf hmax (by simp) (by simp) h

theorem overflows_neg (rnd : Rnd) (x : ℚ) : Overflows f (flipRnd rnd) (-x) ↔ Overflows f rnd x := by
  rw [overflows_iff hf, overflows_iff hf]
  cases rnd <;> simp [FloatFmt.Beyond, flipRnd, lt_neg]

omit hf in
theorem roundFin_neg (rnd : Rnd) (m : Nat) (e : Int) :
    roundFin f (flipRnd rnd) true m e = roundFin f rnd false m e + 2 ^ (f.width - 1) := by
  have hsigned (mag : Nat) : signed f true mag = signed f false mag + 2 ^ (f.width - 1) := by simp [signed]
  have hover : overflowCode f (flipRnd rnd) true = overflowCode f rnd false + 2 ^ (f.width - 1) := by
    unfold overflowCode
    split
    · exact hsigned _
    · cases rnd <;> exact hsigned _
  have hflip : flipRnd (flipRnd rnd) = rnd := by cases rnd <;> rfl
  by_cases hm : m = 0
  · simp only [hm, roundFin, if_true]
    exact hsigned 0
  · rw [roundFin_pos hm, roundFin_pos hm, roundMag_flip, hflip]
    split
    · exact hover
    · exact hsigned _

theorem rounded_neg {rnd : Rnd} {x : ℚ} {mag : Nat} (h : Rounded f rnd x false mag) : Rounded f (flipRnd rnd) (-x) true mag := by
  refine ⟨h.le_top, fun ho => h.limit ((overflows_neg hf rnd x).mp ho), fun ho => ?_⟩
  exact roundsTo_neg hf h.le_top (h.rounds (mt (overflows_neg hf rnd x).mpr ho))

/-- Rounding into a format (03:R60, R61). -/
theorem roundFin_spec (rnd : Rnd) (neg : Bool) (m : Nat) (e : Int) :
    ∃ mag, Rounded f rnd ((if neg then -1 else 1) * m * 2 ^ e) neg mag ∧ roundFin f rnd neg m e = signed f neg mag := by
  cases neg with
  | false =>
    rw [if_neg Bool.false_ne_true, one_mul]
    exact roundFin_nonneg hf rnd m e
  | true =>
    have hflip : flipRnd (flipRnd rnd) = rnd := by cases rnd <;> rfl
    obtain ⟨mag, hrounded, hcode⟩ := roundFin_nonneg hf (flipRnd rnd) m e
    have hneg := rounded_neg hf hrounded
    have hcode' := roundFin_neg (f := f) (flipRnd rnd) m e
    rw [hflip] at hneg hcode'
    rw [if_pos rfl, neg_one_mul, neg_mul]
    exact ⟨mag, hneg, by rw [hcode', hcode]; simp [signed]⟩

end

end Sys2Proof.Machine
end

section
/-! PROOFS. Conversions (07:R147; 03:R55, R61). -/

namespace Sys2Proof.Machine

/-! ### Rounding into an integer -/

theorem ceilMag_bounds (m : Nat) (e : Int) : (m : ℚ) * 2 ^ e ≤ ceilMag m e ∧ (ceilMag m e : ℚ) - 1 < m * 2 ^ e := by
  obtain ⟨hle, hlt⟩ := floorMag_le m e
  rcases ceilMag_eq_or m e with ⟨heq, hc⟩ | ⟨hgt, hc⟩
  · rw [hc]
    exact ⟨heq.le, by rw [heq]; linarith⟩
  · rw [hc]
    push_cast
    exact ⟨hlt.le, by linarith⟩

/-- The integer of a sign and a magnitude. -/
def signedInt (neg : Bool) (r : Nat) : Int := if neg then -r else r

theorem roundsToInt_ne_neg {x : ℚ} {y : Int} (h : RoundsToInt .ne x y) : RoundsToInt .ne (-x) (-y) := by
  obtain ⟨hnear, heven⟩ := h
  have habs : |-x - (-y : Int)| = |x - y| := by
    rw [← abs_neg]
    congr 1
    push_cast
    ring
  refine ⟨habs ▸ hnear, fun htie => ?_⟩
  have := heven (habs ▸ htie)
  omega

/-- The rounded magnitude with its sign is what the number rounds to. -/
theorem roundsToInt_roundMag (rnd : Rnd) (neg : Bool) (m : Nat) (e : Int) :
    RoundsToInt rnd ((if neg then -1 else 1) * m * 2 ^ e) (signedInt neg (roundMag rnd neg m e)) := by
  have hx : (0 : ℚ) ≤ m * 2 ^ e := by positivity
  obtain ⟨hle, hlt⟩ := floorMag_le m e
  obtain ⟨hup, hdn⟩ := ceilMag_bounds m e
  cases rnd with
  | ne =>
    cases neg with
    | false => simpa [signedInt] using roundMag_ne false m e
    | true => simpa [signedInt] using roundsToInt_ne_neg (roundMag_ne true m e)
  | tz =>
    rw [roundMag_tz]
    cases neg with
    | false => simpa [signedInt, RoundsToInt, abs_of_nonneg hx] using ⟨hle, hlt, by positivity⟩
    | true => simpa [signedInt, RoundsToInt, abs_of_nonneg hx] using ⟨hle, hlt, by positivity⟩
  | dn =>
    cases neg with
    | false => rw [roundMag_dn]; simpa [signedInt, RoundsToInt] using ⟨hle, hlt⟩
    | true =>
      rw [roundMag_flip, flipRnd, roundMag_up]
      simp only [signedInt, RoundsToInt, if_true]
      push_cast
      constructor <;> linarith
  | up =>
    cases neg with
    | false => rw [roundMag_up]; simpa [signedInt, RoundsToInt] using ⟨hdn, hup⟩
    | true =>
      rw [roundMag_flip, flipRnd, roundMag_dn]
      simp only [signedInt, RoundsToInt, if_true]
      push_cast
      constructor <;> linarith

/-! ### Integers in lanes (07:R137; 03:R55) -/

/-- The least and the greatest value of an integer type of n bits. -/
def intLeast (sgn : Bool) (n : Nat) : Int := if sgn then -2 ^ (n - 1) else 0
def intMost (sgn : Bool) (n : Nat) : Int := if sgn then 2 ^ (n - 1) - 1 else 2 ^ n - 1

/-- A code of n bits holds an integer in two's complement. -/
def CodesInt (sgn : Bool) (n code : Nat) (z : Int) : Prop := intLeast sgn n ≤ z ∧ z ≤ intMost sgn n
  ∧ ((code : Int) = z ∨ sgn = true ∧ (code : Int) = z + 2 ^ n)

theorem extend32_codesInt {sgn : Bool} {b code : Nat} {z : Int} (hpos : 0 < b) (hb : b ≤ 4) (h : CodesInt sgn (8 * b) code z) :
    extend32 sgn b code = BitVec.ofInt 32 z := by
  obtain ⟨hleast, hmost, hcode⟩ := h
  unfold extend32
  cases sgn with
  | true =>
    rw [intLeast, if_pos rfl] at hleast
    rw [intMost, if_pos rfl] at hmost
    have hhalf : (2 : Int) ^ (8 * b) = 2 * 2 ^ (8 * b - 1) := by rw [← pow_succ']; congr 1; omega
    have hword : (2 : Int) ^ (8 * b - 1) ≤ 2 ^ 31 := pow_le_pow_right₀ (by decide) (by omega)
    have hmod : (code : Int).bmod (2 ^ (8 * b)) = z := by
      have hz : z.bmod (2 ^ (8 * b)) = z := Int.bmod_eq_of_le (by push_cast; omega) (by push_cast; omega)
      rcases hcode with hc | ⟨-, hc⟩
      · rw [hc, hz]
      · rw [hc, show (2 : Int) ^ (8 * b) = (2 ^ (8 * b) : Nat) by push_cast; rfl, Int.add_bmod_right, hz]
    refine BitVec.eq_of_toInt_eq ?_
    rw [if_pos rfl, BitVec.toInt_signExtend_of_le (by omega), BitVec.toInt_ofNat', hmod, BitVec.toInt_ofInt,
      Int.bmod_eq_of_le (by norm_num; omega) (by norm_num; omega)]
  | false =>
    rw [intLeast, if_neg Bool.false_ne_true] at hleast
    rw [intMost, if_neg Bool.false_ne_true] at hmost
    have hc : (code : Int) = z := hcode.resolve_right fun h => Bool.false_ne_true h.1
    have hlt : code < 2 ^ (8 * b) := by
      have : (code : Int) < (2 ^ (8 * b) : Nat) := by push_cast; omega
      exact_mod_cast this
    rw [if_neg Bool.false_ne_true, Nat.mod_eq_of_lt hlt, ← hc, BitVec.ofInt_natCast]

theorem intLeast_le (sgn : Bool) (n : Nat) : intLeast sgn n ≤ intMost sgn n := by
  have h1 : (0 : Int) < 2 ^ (n - 1) := by positivity
  have h2 : (0 : Int) < 2 ^ n := by positivity
  unfold intLeast intMost
  split <;> omega

/-- Rounding into an integer clamps what the number rounds to. -/
theorem roundToInt_codes (sgn : Bool) {n : Nat} (hn : 0 < n) (rnd : Rnd) (neg : Bool) (m : Nat) (e : Int) :
    CodesInt sgn n (roundToInt sgn n rnd (.fin neg m e))
      (max (intLeast sgn n) (min (signedInt neg (roundMag rnd neg m e)) (intMost sgn n))) := by
  have hle := intLeast_le sgn n
  have hhalf : 2 ^ n = 2 * 2 ^ (n - 1) := by rw [← Nat.pow_succ']; congr 1; omega
  have hhalf' : (2 : Int) ^ n = 2 * 2 ^ (n - 1) := by exact_mod_cast hhalf
  have hcast : ((2 ^ (n - 1) : Nat) : Int) = 2 ^ (n - 1) := by push_cast; rfl
  have hpos := Nat.two_pow_pos (n - 1)
  refine ⟨le_max_left _ _, max_le hle (min_le_right _ _), ?_⟩
  rw [roundToInt]
  generalize roundMag rnd neg m e = r
  simp only [intLeast, intMost, signedInt, hhalf', hhalf] at hle ⊢
  generalize (2 : Int) ^ (n - 1) = H at *
  generalize 2 ^ (n - 1) = h at *
  cases neg <;> cases sgn <;> simp only [if_true, if_false, Bool.false_eq_true, false_and, or_false, true_and]
  · omega
  · omega
  · omega
  · split
    next => omega
    next hr =>
      rcases Nat.eq_zero_or_pos r with rfl | hr0
      · simp; omega
      · rw [Nat.mod_eq_of_lt (by omega)]; omega

/-- The integer types of VCVT with their limits. -/
theorem intTypes : ∀ e ∈ ([(.i8, -(2 ^ 7), 2 ^ 7 - 1), (.i16, -(2 ^ 15), 2 ^ 15 - 1), (.i32, -(2 ^ 31), 2 ^ 31 - 1), (.n8, 0, 2 ^ 8 - 1),
    (.n16, 0, 2 ^ 16 - 1), (.n32, 0, 2 ^ 32 - 1)] : List (Ty × Int × Int)),
    Ty.float e.1 = none ∧ e.1 ≠ .e2m1 ∧ elemBits e.1 = 8 * (elemBits e.1 / 8) ∧ 0 < elemBits e.1 / 8 ∧ elemBits e.1 / 8 ≤ 4
      ∧ e.2.1 = intLeast (laneSigned e.1) (elemBits e.1) ∧ e.2.2 = intMost (laneSigned e.1) (elemBits e.1) := by decide

/-! ### The lanes of VCVT (07:R147) -/

/-- The value that a lane of VCVT reads. -/
def readLane (ta : Ty) (v : W32) : Ext := elemValue ta (v.toNat % 2 ^ elemBits ta)

theorem convert_int {td : Ty} (hfloat : Ty.float td = none) (h2 : td ≠ .e2m1) (hbits : elemBits td = 8 * (elemBits td / 8))
    (hpos : 0 < elemBits td / 8) (hle : elemBits td / 8 ≤ 4) (ta : Ty) (rnd : Rnd) (v : W32) {z : Int}
    (h : CodesInt (laneSigned td) (elemBits td) (roundToInt (laneSigned td) (elemBits td) rnd (readLane ta v)) z) :
    convert td ta rnd v = BitVec.ofInt 32 z := by
  have hround : elemRound td rnd (readLane ta v) = roundToInt (laneSigned td) (elemBits td) rnd (readLane ta v) := by
    rw [elemRound, hfloat]
  have hconv : convert td ta rnd v = placeLane td (elemRound td rnd (readLane ta v)) := if_neg h2
  rw [hbits] at h
  rw [hconv, hround, placeLane, hbits]
  simp only [Nat.mul_div_cancel_left (elemBits td / 8) (by decide : 0 < 8)]
  exact extend32_codesInt hpos hle h

theorem codesInt_special (sgn : Bool) {n : Nat} (hn : 0 < n) (rnd : Rnd) : CodesInt sgn n (roundToInt sgn n rnd .nan) 0
    ∧ CodesInt sgn n (roundToInt sgn n rnd (.inf false)) (intMost sgn n)
    ∧ CodesInt sgn n (roundToInt sgn n rnd (.inf true)) (intLeast sgn n) := by
  have hhalf : 2 ^ n = 2 * 2 ^ (n - 1) := by rw [← Nat.pow_succ']; congr 1; omega
  have hhalf' : (2 : Int) ^ n = 2 * 2 ^ (n - 1) := by exact_mod_cast hhalf
  have hcast : ((2 ^ (n - 1) : Nat) : Int) = 2 ^ (n - 1) := by push_cast; rfl
  have hpos := Nat.two_pow_pos (n - 1)
  simp only [CodesInt, roundToInt, intLeast, intMost, hhalf', hhalf]
  generalize (2 : Int) ^ (n - 1) = H at *
  generalize 2 ^ (n - 1) = h at *
  cases sgn with
  | true => simp only [if_true, if_false, Bool.false_eq_true, true_and]; omega
  | false => simp only [if_true, if_false, Bool.false_eq_true]; omega

/-- VCVT into an integer type. -/
theorem convert_intType {td : Ty} (hfloat : Ty.float td = none) (h2 : td ≠ .e2m1) (hbits : elemBits td = 8 * (elemBits td / 8))
    (hpos : 0 < elemBits td / 8) (hle : elemBits td / 8 ≤ 4) (ta : Ty) (rnd : Rnd) (v : W32) :
    let x := readLane ta v
    let c := convert td ta rnd v
    let least := intLeast (laneSigned td) (elemBits td)
    let most := intMost (laneSigned td) (elemBits td)
    (x = .nan → c = 0) ∧ (x = .inf false → c = BitVec.ofInt 32 most) ∧ (x = .inf true → c = BitVec.ofInt 32 least)
      ∧ ∀ p : ℚ, IsNumber x p → ∃ y, RoundsToInt rnd p y ∧ c = BitVec.ofInt 32 (max least (min y most)) := by
  intro x c least most
  have hconv {z : Int} (h : CodesInt (laneSigned td) (elemBits td) (roundToInt (laneSigned td) (elemBits td) rnd x) z) :
      c = BitVec.ofInt 32 z := convert_int hfloat h2 hbits hpos hle ta rnd v h
  obtain ⟨hnan, hinf, hminf⟩ := codesInt_special (laneSigned td) (n := elemBits td) (by omega) rnd
  refine ⟨fun hx => ?_, fun hx => ?_, fun hx => ?_, fun p hp => ?_⟩
  · exact hconv (z := 0) (hx ▸ hnan)
  · exact hconv (hx ▸ hinf)
  · exact hconv (hx ▸ hminf)
  · obtain ⟨neg, m, e, hx, rfl⟩ := hp
    exact ⟨_, roundsToInt_roundMag rnd neg m e, hconv (hx ▸ roundToInt_codes (laneSigned td) (by omega) rnd neg m e)⟩

/-- The float types of VCVT with their formats and the codes of what is no number. -/
def floatTypes : List (Ty × FloatFmt × W32 × W32 × W32) :=
  [(.f32, f32, 0x7FC00000, 0x7F800000, 0xFF800000), (.f16, f16, 0x7E00, 0x7C00, 0xFC00), (.bf16, bf16, 0x7FC0, 0x7F80, 0xFF80),
    (.e4m3, e4m3, 0x7F, 0x7F, 0x7F), (.e5m2, e5m2, 0x7E, 0x7C, 0xFC), (.e2m1, e2m1, 0x0, 0x7, 0xF)]

theorem floatTypes_facts : ∀ e ∈ floatTypes, Ty.float e.1 = some e.2.1 ∧ e.2.1 ∈ floatFormats ∧ e.2.1.width ≤ 32
    ∧ (e.1 = .e2m1 ∧ e.2.1.width = 4 ∨ e.1 ≠ .e2m1 ∧ laneSigned e.1 = false ∧ e.2.1.width = 8 * (elemBits e.1 / 8)) := by decide

/-- What rounding gives for NaN and the infinities. -/
theorem floatTypes_special : ∀ e ∈ floatTypes, ∀ neg, roundFloat e.2.1 .ne .nan = e.2.2.1.toNat ∧ e.2.2.1.toNat < 2 ^ e.2.1.width
    ∧ roundFloat e.2.1 .ne (.inf neg) = (if neg then e.2.2.2.2 else e.2.2.2.1).toNat
    ∧ (if neg then e.2.2.2.2 else e.2.2.2.1).toNat < 2 ^ e.2.1.width := by decide

/-- VCVT into a float type gives the code that rounding gives. -/
theorem convert_float {e : Ty × FloatFmt × W32 × W32 × W32} (he : e ∈ floatTypes) (ta : Ty) (rnd : Rnd) (v : W32)
    (hcode : roundFloat e.2.1 rnd (readLane ta v) < 2 ^ e.2.1.width) :
    (convert e.1 ta rnd v).toNat = roundFloat e.2.1 rnd (readLane ta v) := by
  obtain ⟨hfloat, -, hwidth, hplace⟩ := floatTypes_facts e he
  have hround : elemRound e.1 rnd (readLane ta v) = roundFloat e.2.1 rnd (readLane ta v) := by rw [elemRound, hfloat]
  have hword := Nat.pow_le_pow_right (n := 2) (by decide) hwidth
  rcases hplace with ⟨h2, h4⟩ | ⟨h2, hsgn, hbits⟩
  · have hconv : convert e.1 ta rnd v = BitVec.ofNat 32 (elemRound e.1 rnd (readLane ta v) % 16) := if_pos h2
    rw [h4, show 2 ^ 4 = 16 by rfl] at hcode
    rw [hconv, hround, Nat.mod_eq_of_lt hcode, BitVec.toNat_ofNat, Nat.mod_eq_of_lt (by omega)]
  · have hconv : convert e.1 ta rnd v = placeLane e.1 (elemRound e.1 rnd (readLane ta v)) := if_neg h2
    rw [hconv, hround, placeLane, hsgn, extend32, if_neg Bool.false_ne_true, ← hbits, Nat.mod_eq_of_lt hcode, BitVec.toNat_ofNat,
      Nat.mod_eq_of_lt (hcode.trans_le hword)]

theorem signed_lt {f : FloatFmt} (neg : Bool) {mag : Nat} (h : mag < 2 ^ (f.width - 1)) : signed f neg mag < 2 ^ f.width := by
  rw [two_pow_width, signed]
  split <;> omega

/-- VCVT into a float type. -/
theorem convert_floatType {e : Ty × FloatFmt × W32 × W32 × W32} (he : e ∈ floatTypes) (ta : Ty) (rnd : Rnd) (v : W32) :
    let x := readLane ta v
    let f := e.2.1
    let c := convert e.1 ta rnd v
    c.toNat < 2 ^ f.width ∧ (x = .nan → c = e.2.2.1) ∧ (x = .inf false → c = e.2.2.2.1) ∧ (x = .inf true → c = e.2.2.2.2)
      ∧ ∀ neg m k, x = .fin neg m k → ∀ p : ℚ, IsNumber x p → c.getLsbD (f.width - 1) = neg
        ∧ (Overflows f rnd p → c.toNat % 2 ^ (f.width - 1) = if f.hasInf then f.top else f.maxFin)
        ∧ (¬Overflows f rnd p → RoundsTo f rnd p c.toNat) := by
  intro x f c
  have hspecial := floatTypes_special e he
  obtain ⟨-, hf, -⟩ := floatTypes_facts e he
  have hconv := convert_float he ta rnd v
  have hinf {neg : Bool} (hx : x = .inf neg) : c = if neg then e.2.2.2.2 else e.2.2.2.1 := by
    obtain ⟨-, -, hcode, hlt⟩ := hspecial neg
    have hround : roundFloat f rnd x = (if neg then e.2.2.2.2 else e.2.2.2.1).toNat := by rw [hx]; exact hcode
    exact BitVec.eq_of_toNat_eq ((hconv (hround.trans_lt hlt)).trans hround)
  have hnan (hx : x = .nan) : c = e.2.2.1 := by
    obtain ⟨hcode, hlt, -⟩ := hspecial false
    have hround : roundFloat f rnd x = e.2.2.1.toNat := by rw [hx]; exact hcode
    exact BitVec.eq_of_toNat_eq ((hconv (hround.trans_lt hlt)).trans hround)
  have hfin {neg : Bool} {m : Nat} {k : Int} (hx : x = .fin neg m k) : c.toNat = roundFin f rnd neg m k := by
    obtain ⟨mag, hrounded, hcode⟩ := roundFin_spec hf rnd neg m k
    have hround : roundFloat f rnd x = roundFin f rnd neg m k := by rw [hx]; rfl
    refine (hconv (hround.trans_lt ?_)).trans hround
    rw [hcode]
    exact signed_lt neg (hrounded.le_top.trans_lt (top_lt f hf))
  refine ⟨?_, hnan, hinf, hinf, fun neg m k hx p hp => ?_⟩
  · cases hx : x with
    | nan => rw [hnan hx]; exact (hspecial false).2.1
    | inf neg => rw [hinf hx]; exact (hspecial neg).2.2.2
    | fin neg m k =>
      obtain ⟨mag, hrounded, hcode⟩ := roundFin_spec hf rnd neg m k
      rw [hfin hx, hcode]
      exact signed_lt neg (hrounded.le_top.trans_lt (top_lt f hf))
  · obtain ⟨mag, hrounded, hcode⟩ := roundFin_spec hf rnd neg m k
    obtain ⟨hmag, hsign⟩ := signed_parts f neg (hrounded.le_top.trans_lt (top_lt f hf))
    obtain rfl := isNumber_unique (show IsNumber (.fin neg m k) p from hx ▸ hp) (isNumber_fin neg m k)
    refine ⟨?_, fun h => ?_, fun h => ?_⟩
    · rw [BitVec.getLsbD, Nat.testBit_eq_decide_div_mod_eq, hfin hx, hcode]
      exact hsign
    · rw [hfin hx, hcode, ← hrounded.limit h]
      exact hmag
    · rw [hfin hx, hcode]
      exact hrounded.rounds h

end Sys2Proof.Machine
end

section
/-! PROOFS. FP32 quotients and square roots: rounding a number from a value with a sticky last bit (07:R142, R143). -/

namespace Sys2Proof.Machine

/-! ### A sticky last bit -/

/-- A number from n units to n + 1, the sticky bit saying whether it is more than n. -/
structure Sticky (below above : ℚ → Prop) (n : Nat) (noRest : Prop) (u : ℚ) : Prop where
  lower : above (n * u)
  upper : below ((n + 1 : Nat) * u)
  beyond : ¬above ((n + 1 : Nat) * u)
  tight : below (n * u) ↔ noRest

/-- On the halves of a last place of at least two units, the number lies as the value with the sticky bit does. -/
theorem agreeAt_sticky {below above : ℚ → Prop} (hcut : Cut below above) {n : Nat} {p : Prop} [Decidable p] {k q : Int}
    (h : Sticky below above n p (2 ^ (k + 1))) (hq : k + 1 ≤ q - 1) :
    AgreeAt below above ((2 * n + (if p then 0 else 1) : Nat) * 2 ^ k) q := by
  intro j
  obtain ⟨i, hi⟩ : ∃ i : Nat, (j : ℚ) * 2 ^ (q - 1) = i * 2 ^ (k + 1) := by
    obtain ⟨d, hd⟩ := Int.eq_ofNat_of_zero_le (show 0 ≤ q - 1 - (k + 1) by omega)
    refine ⟨j * 2 ^ d, ?_⟩
    rw [show q - 1 = (d : Int) + (k + 1) by omega, zpow_add₀ two_ne_zero, zpow_natCast]
    push_cast
    ring
  have hpos : (0 : ℚ) < 2 ^ k := by positivity
  have hunit : (2 : ℚ) ^ (k + 1) = 2 * 2 ^ k := by rw [zpow_add_one₀ two_ne_zero, mul_comm]
  have hmono {a b : Nat} (hab : a ≤ b) : (a : ℚ) * 2 ^ (k + 1) ≤ b * 2 ^ (k + 1) :=
    mul_le_mul_of_nonneg_right (by exact_mod_cast hab) (by positivity)
  have hlt {a b : Nat} (hab : a < b) : (a : ℚ) * 2 ^ (k + 1) < b * 2 ^ (k + 1) :=
    mul_lt_mul_of_pos_right (by exact_mod_cast hab) (by positivity)
  have hi' : (i : ℚ) * 2 ^ (k + 1) = (2 * i : Nat) * 2 ^ k := by rw [hunit]; push_cast; ring
  have hb : below (i * 2 ^ (k + 1)) ↔ 2 * n + (if p then 0 else 1) ≤ 2 * i := by
    rcases Nat.lt_trichotomy i n with hin | rfl | hin
    · exact iff_of_false (fun hb => not_le.mpr (hlt hin) (hcut.order h.lower hb)) (by omega)
    · rw [h.tight]
      split
      next hp => exact iff_of_true hp (by omega)
      next hp => exact iff_of_false hp (by omega)
    · exact iff_of_true (hcut.below_mono h.upper (hmono hin)) (by split <;> omega)
  have ha : above (i * 2 ^ (k + 1)) ↔ 2 * i ≤ 2 * n + (if p then 0 else 1) := by
    by_cases hin : i ≤ n
    · exact iff_of_true (hcut.above_mono h.lower (hmono hin)) (by omega)
    · exact iff_of_false (fun ha => h.beyond (hcut.above_mono ha (hmono (by omega)))) (by split <;> omega)
  rw [hi, hb, ha, hi', mul_le_mul_iff_left₀ hpos, mul_le_mul_iff_left₀ hpos, Nat.cast_le, Nat.cast_le]
  exact ⟨Iff.rfl, Iff.rfl⟩

/-- Rounding a value with a sticky bit rounds the number that it stands for, where the value has more bits than the format. -/
theorem nearMag_sticky {f : FloatFmt} (hf : f ∈ floatFormats) {below above : ℚ → Prop} (hcut : Cut below above) {n : Nat} {p : Prop}
    [Decidable p] {k : Int} (h : Sticky below above n p (2 ^ (k + 1))) (hbits : 2 ^ (f.mbits + 1) ≤ n) (neg : Bool) :
    ∃ lo mag, NearMag f below above lo mag ∧ roundFin f .ne neg (2 * n + (if p then 0 else 1)) k
      = if f.maxFin < mag then overflowCode f .ne neg else signed f neg mag := by
  have hm : 2 * n + (if p then 0 else 1) ≠ 0 := by
    have := Nat.two_pow_pos (f.mbits + 1)
    omega
  have hlog : f.mbits + 2 ≤ Nat.log2 (2 * n + (if p then 0 else 1)) := by
    rw [Nat.le_log2 hm, Nat.pow_succ]
    omega
  have hq : k + 1 ≤ f.unitExp (2 * n + (if p then 0 else 1)) k - 1 := by
    have : k + Nat.log2 (2 * n + (if p then 0 else 1)) - f.mbits ≤ f.unitExp (2 * n + (if p then 0 else 1)) k := le_max_left _ _
    omega
  exact ⟨_, _, nearMag_roundMag hf hm neg k (agreeAt_sticky hcut h hq), roundFin_pos hm .ne neg k⟩

/-! ### Quotients (07:R142) -/

/-- A quotient's integer part in units of 2^(e − f − k) and its rest. -/
theorem sticky_quotient {m n : Nat} (hn : n ≠ 0) (e f : Int) (k : Nat) : let y : ℚ := m * 2 ^ e / (n * 2 ^ f)
    Sticky (fun q => y ≤ q) (fun q => q ≤ y) (m * 2 ^ k / n) (m * 2 ^ k % n = 0) (2 ^ (e - f - k)) := by
  intro y
  have hpos : (0 : ℚ) < 2 ^ (e - f - k) := by positivity
  have hn' : (0 : ℚ) < n := by exact_mod_cast Nat.pos_of_ne_zero hn
  have hy : y = (m * 2 ^ k : Nat) / n * 2 ^ (e - f - k) := by
    simp only [y]
    rw [zpow_sub₀ two_ne_zero, zpow_sub₀ two_ne_zero, zpow_natCast]
    push_cast
    field_simp
  have hdiv := Nat.div_add_mod (m * 2 ^ k) n
  have hmod := Nat.mod_lt (m * 2 ^ k) (Nat.pos_of_ne_zero hn)
  generalize m * 2 ^ k = a at *
  have hle (i : Nat) : y ≤ i * 2 ^ (e - f - k) ↔ a ≤ i * n := by
    rw [hy, mul_le_mul_iff_left₀ hpos, div_le_iff₀ hn']
    exact_mod_cast Iff.rfl
  have hge (i : Nat) : i * 2 ^ (e - f - k) ≤ y ↔ i * n ≤ a := by
    rw [hy, mul_le_mul_iff_left₀ hpos, le_div_iff₀ hn']
    exact_mod_cast Iff.rfl
  have hmul : a / n * n ≤ a := Nat.div_mul_le_self a n
  refine ⟨(hge _).mpr hmul, (hle _).mpr ?_, fun h => ?_, (hle _).trans ?_⟩
  · rw [Nat.succ_mul, Nat.mul_comm]; omega
  · have := (hge _).mp h
    rw [Nat.succ_mul, Nat.mul_comm] at this
    omega
  · rw [Nat.mul_comm]; omega

end Sys2Proof.Machine
end

section
/-! PROOFS. FP32 quotients (07:R142, R143). -/

namespace Sys2Proof.Machine

/-! ### What a lane holds -/

/-- An infinity's lane, of either sign. -/
def InfLane (v : W32) : Prop := v.extractLsb' 0 31 = 0x7F800000

theorem infLane_iff (v : W32) : InfLane v ↔ laneMag v = 0x7F800000 := by
  rw [InfLane, BitVec.toNat_eq, BitVec.extractLsb'_toNat, Nat.shiftRight_zero]
  rfl

theorem signBit_lane (v : W32) : f32.signBit v.toNat = v.getLsbD 31 := by
  rw [signBit_eq v.isLt, sign_lane]
  rfl

theorem valF32_inf {v : W32} (h : InfLane v) : valF32 v = .inf (v.getLsbD 31) := by
  rw [← signBit_lane]
  exact decodeFloat_inf rfl ((infLane_iff v).mp h)

theorem valF32_nan {v : W32} (h : isNan v = true) : valF32 v = .nan := (valF32_eq_nan_iff v).mpr h

/-- A lane that is no NaN and no infinity holds a number of its sign. -/
theorem valF32_number {v : W32} (hnan : isNan v = false) (hinf : ¬InfLane v) : ∃ m e, valF32 v = .fin (v.getLsbD 31) m e := by
  rw [← signBit_lane]
  refine ⟨_, _, decodeFloat_number (f := f32) ?_ ?_⟩
  · intro h
    exact Bool.false_ne_true (hnan.symm.trans ((isNan_iff v).mpr h))
  · exact fun h => hinf ((infLane_iff v).mpr h.2)

theorem valF32_fin_sign {v : W32} {neg : Bool} {m : Nat} {e : Int} (h : valF32 v = .fin neg m e) : v.getLsbD 31 = neg := by
  have hnan : isNan v = false := by
    rw [← Bool.not_eq_true, ← valF32_eq_nan_iff, h]
    exact Ext.noConfusion
  have hinf : ¬InfLane v := fun hi => by rw [valF32_inf hi] at h; exact Ext.noConfusion h
  obtain ⟨m', e', h'⟩ := valF32_number hnan hinf
  rw [h] at h'
  exact (Ext.fin.inj h').1.symm

theorem rneF32_special (neg : Bool) : rneF32 .nan = 0x7FC00000 ∧ rneF32 (.inf neg) = (if neg then 0xFF800000 else 0x7F800000)
    ∧ rneF32 (.fin neg 0 0) = if neg then 0x80000000 else 0 := by
  cases neg <;> decide

/-- The lane of a sign and a magnitude that a number rounds to. -/
theorem lane_rounded {p : ℚ} {neg : Bool} {mag : Nat} (h : Rounded f32 .ne p neg mag) : let r : W32 := BitVec.ofNat 32 (signed f32 neg mag)
    r.getLsbD 31 = neg ∧ (Overflows f32 .ne p → r.extractLsb' 0 31 = 0x7F800000) ∧ (¬Overflows f32 .ne p → RoundsTo f32 .ne p r.toNat) := by
  intro r
  have hlt : mag < 2 ^ 31 := h.le_top.trans_lt (top_lt f32 (by decide))
  obtain ⟨hsign, hmag⟩ := lane_signed neg hlt
  refine ⟨hsign, fun ho => (infLane_iff r).mpr (hmag.trans (h.limit ho)), fun ho => ?_⟩
  have hcode : r.toNat = signed f32 neg mag := by
    rw [BitVec.toNat_ofNat]
    exact Nat.mod_eq_of_lt (signed_lt (f := f32) neg hlt)
  rw [hcode]
  exact h.rounds ho

/-! ### Quotients of numbers -/

/-- The quotient's integer part keeps more bits than FP32. -/
theorem quotient_bits {m n : Nat} (hm : m ≠ 0) (hn : n ≠ 0) : 2 ^ (f32.mbits + 1) ≤ m * 2 ^ (Nat.log2 n + 40) / n := by
  have hlt : n < 2 ^ (Nat.log2 n + 1) := ((Nat.log2_eq_iff hn).mp rfl).2
  rw [Nat.le_div_iff_mul_le (Nat.pos_of_ne_zero hn)]
  calc 2 ^ (f32.mbits + 1) * n ≤ 2 ^ 24 * 2 ^ (Nat.log2 n + 1) := Nat.mul_le_mul_left _ hlt.le
    _ = 2 ^ (Nat.log2 n + 25) := by rw [← pow_add]; congr 1; omega
    _ ≤ 2 ^ (Nat.log2 n + 40) := Nat.pow_le_pow_right (by decide) (by omega)
    _ ≤ m * 2 ^ (Nat.log2 n + 40) := Nat.le_mul_of_pos_left _ (Nat.pos_of_ne_zero hm)

theorem rneF32_quotExt {m n : Nat} (hm : m ≠ 0) (hn : n ≠ 0) (neg : Bool) (e f : Int) : ∃ mag,
    Rounded f32 .ne ((if neg then -1 else 1) * (m * 2 ^ e / (n * 2 ^ f))) neg mag
      ∧ rneF32 (quotExt neg m e n f) = BitVec.ofNat 32 (signed f32 neg mag) := by
  have hf : f32 ∈ floatFormats := by decide
  have hnonneg : (0 : ℚ) ≤ m * 2 ^ e / (n * 2 ^ f) := by positivity
  have hunit : e - f - ((Nat.log2 n + 40 : Nat) : Int) = e - f - (Nat.log2 n + 40 : Nat) - 1 + 1 := by omega
  have hsticky := sticky_quotient (m := m) hn e f (Nat.log2 n + 40)
  rw [hunit] at hsticky
  obtain ⟨lo, mag, hnear, hround⟩ := nearMag_sticky hf (cut_rat _) hsticky (quotient_bits hm hn) neg
  obtain ⟨mag', hrounded, hcode⟩ := rounded_of_nearMag hf hnonneg hnear
  refine ⟨mag', ?_, congrArg (BitVec.ofNat 32) (hround.trans (hcode neg))⟩
  cases neg with
  | false => rwa [if_neg Bool.false_ne_true, one_mul]
  | true =>
    rw [if_pos rfl, neg_one_mul]
    exact rounded_neg hf hrounded

/-- The quotient of two numbers. -/
theorem fDiv_numbers {x y : W32} {p q : ℚ} (hp : IsNumber (valF32 x) p) (hq : IsNumber (valF32 y) q) :
    let r := fDiv x y
    let neg := x.getLsbD 31 != y.getLsbD 31
    (q ≠ 0 → r.getLsbD 31 = neg ∧ (Overflows f32 .ne (p / q) → r.extractLsb' 0 31 = 0x7F800000)
      ∧ (¬Overflows f32 .ne (p / q) → RoundsTo f32 .ne (p / q) r.toNat))
    ∧ (q = 0 → p ≠ 0 → r = if neg then 0xFF800000 else 0x7F800000) ∧ (q = 0 → p = 0 → r = 0x7FC00000) := by
  intro r neg
  obtain ⟨sx, m, e, hx, rfl⟩ := hp
  obtain ⟨sy, n, f, hy, rfl⟩ := hq
  have hneg : neg = (sx != sy) := by simp only [neg, valF32_fin_sign hx, valF32_fin_sign hy]
  have hr : r = rneF32 (if n = 0 then (if m = 0 then .nan else .inf neg) else if m = 0 then .fin neg 0 0 else quotExt neg m e n f) := by
    simp only [r, fDiv, hx, hy, hneg]
  have hzero (s : Bool) (k : Nat) (i : Int) : (if s then -1 else 1 : ℚ) * k * 2 ^ i = 0 ↔ k = 0 := by
    have h2 : (2 : ℚ) ^ i ≠ 0 := by positivity
    cases s <;> simp [h2]
  obtain ⟨hnan, hinf, hfin⟩ := rneF32_special neg
  rw [hzero, Ne, hzero, Ne, hzero, hr]
  refine ⟨fun hn => ?_, fun hn hm => ?_, fun hn hm => ?_⟩
  · rw [if_neg hn]
    have hquot : (if sx then -1 else 1 : ℚ) * m * 2 ^ e / ((if sy then -1 else 1) * n * 2 ^ f)
        = (if neg then -1 else 1) * (m * 2 ^ e / (n * 2 ^ f)) := by
      rw [hneg]
      cases sx <;> cases sy <;> simp [neg_div, div_neg]
    rw [hquot]
    by_cases hm : m = 0
    · rw [if_pos hm, hm]
      obtain ⟨mag, hrounded, hcode⟩ := roundFin_spec (f := f32) (by decide) .ne neg 0 0
      have hlane := lane_rounded hrounded
      rw [← hcode, Nat.cast_zero, mul_zero, zero_mul] at hlane
      rw [Nat.cast_zero, zero_mul, zero_div, mul_zero]
      exact hlane
    · rw [if_neg hm]
      obtain ⟨mag, hrounded, hcode⟩ := rneF32_quotExt hm hn neg e f
      rw [hcode]
      exact lane_rounded hrounded
  · rw [if_pos hn, if_neg hm, hinf]
  · rw [if_pos hn, if_pos hm, hnan]

/-! ### Quotients of what is no number (07:R143) -/

theorem fDiv_special (x y : W32) : let neg := x.getLsbD 31 != y.getLsbD 31
    (isNan x = true ∨ isNan y = true ∨ InfLane x ∧ InfLane y → fDiv x y = 0x7FC00000)
    ∧ (InfLane x → isNan y = false → ¬InfLane y → fDiv x y = if neg then 0xFF800000 else 0x7F800000)
    ∧ (isNan x = false → ¬InfLane x → InfLane y → fDiv x y = if neg then 0x80000000 else 0) := by
  intro neg
  obtain ⟨hnan, hinf, hfin⟩ := rneF32_special neg
  refine ⟨?_, fun hx hy hy' => ?_, fun hx hx' hy => ?_⟩
  · rintro (h | h | ⟨hx, hy⟩)
    · rw [fDiv, valF32_nan h]
      exact hnan
    · rw [fDiv, valF32_nan h]
      cases valF32 x <;> exact hnan
    · rw [fDiv, valF32_inf hx, valF32_inf hy]
      exact hnan
  · obtain ⟨m, e, hv⟩ := valF32_number hy hy'
    rw [fDiv, valF32_inf hx, hv]
    exact hinf
  · obtain ⟨m, e, hv⟩ := valF32_number hx hx'
    rw [fDiv, valF32_inf hy, hv]
    exact hfin

end Sys2Proof.Machine
end

section
/-! PROOFS. FP32 square roots (07:R142, R143). -/

namespace Sys2Proof.Machine

/-! ### The integer square root -/

/-- The bitwise search keeps its bounds. -/
theorem isqrtFrom_spec {x r : Nat} (k : Nat) (hlow : r * r ≤ x) (hhigh : x < (r + 2 ^ k) * (r + 2 ^ k)) :
    isqrtFrom x r k * isqrtFrom x r k ≤ x ∧ x < (isqrtFrom x r k + 1) * (isqrtFrom x r k + 1) := by
  induction k generalizing r with
  | zero => exact ⟨hlow, hhigh⟩
  | succ k ih =>
    rw [isqrtFrom]
    split
    next h => exact ih h (by rwa [Nat.add_assoc, ← Nat.two_mul, ← Nat.pow_succ'])
    next h => exact ih hlow (not_le.mp h)

theorem isqrt_bounds {x : Nat} (hx : x ≠ 0) : let r := isqrtFrom x 0 (Nat.log2 x / 2 + 1)
    r * r ≤ x ∧ x < (r + 1) * (r + 1) := by
  refine isqrtFrom_spec _ (Nat.zero_le x) ?_
  calc x < 2 ^ (Nat.log2 x + 1) := ((Nat.log2_eq_iff hx).mp rfl).2
    _ ≤ 2 ^ (Nat.log2 x / 2 + 1 + (Nat.log2 x / 2 + 1)) := Nat.pow_le_pow_right (by decide) (by omega)
    _ = (0 + 2 ^ (Nat.log2 x / 2 + 1)) * (0 + 2 ^ (Nat.log2 x / 2 + 1)) := by rw [pow_add, Nat.zero_add]

/-! ### A square root by its bounds -/

/-- The square root of p is at most q. -/
def RootBelow (p q : ℚ) : Prop := 0 ≤ q ∧ p ≤ q * q
/-- The square root of p is at least q. -/
def RootAbove (p q : ℚ) : Prop := q < 0 ∨ q * q ≤ p

theorem cut_root (p : ℚ) : Cut (RootBelow p) (RootAbove p) where
  below_mono := by
    rintro a b ⟨ha, hp⟩ hab
    exact ⟨ha.trans hab, hp.trans (mul_self_le_mul_self ha hab)⟩
  above_mono := by
    rintro a b hb hab
    by_cases ha : a < 0
    · exact .inl ha
    · have hsq := mul_self_le_mul_self (not_lt.mp ha) hab
      exact .inr (hsq.trans (hb.resolve_left (by linarith)))
  order := by
    rintro a b ha ⟨hb, hp⟩
    rcases ha with ha | ha
    · linarith
    · exact abs_le_of_sq_le_sq' (by nlinarith) hb |>.2

/-- A square root's integer part in units of 2^h and its rest. -/
theorem sticky_root {x : Nat} (hx : x ≠ 0) (h : Int) : let r := isqrtFrom x 0 (Nat.log2 x / 2 + 1)
    Sticky (RootBelow (x * (2 ^ h * 2 ^ h))) (RootAbove (x * (2 ^ h * 2 ^ h))) r (r * r = x) (2 ^ h) := by
  intro r
  obtain ⟨hle, hlt⟩ := isqrt_bounds hx
  have hpos : (0 : ℚ) < 2 ^ h * 2 ^ h := by positivity
  have hnonneg (i : Nat) : (0 : ℚ) ≤ i * 2 ^ h := by positivity
  have hsq (i : Nat) : (i : ℚ) * 2 ^ h * (i * 2 ^ h) = (i * i : Nat) * (2 ^ h * 2 ^ h) := by push_cast; ring
  have hbelow (i : Nat) : RootBelow (x * (2 ^ h * 2 ^ h)) (i * 2 ^ h) ↔ x ≤ i * i := by
    rw [RootBelow, and_iff_right (hnonneg i), hsq, mul_le_mul_iff_left₀ hpos, Nat.cast_le]
  have habove (i : Nat) : RootAbove (x * (2 ^ h * 2 ^ h)) (i * 2 ^ h) ↔ i * i ≤ x := by
    rw [RootAbove, or_iff_right (not_lt.mpr (hnonneg i)), hsq, mul_le_mul_iff_left₀ hpos, Nat.cast_le]
  exact ⟨(habove r).mpr hle, (hbelow (r + 1)).mpr hlt.le, fun ha => not_le.mpr hlt ((habove (r + 1)).mp ha),
    (hbelow r).trans ⟨fun h => le_antisymm hle h, fun h => h.ge⟩⟩

/-- The integer root of a number of at least 64 bits keeps more bits than FP32. -/
theorem root_bits {x : Nat} (hx : 2 ^ 64 ≤ x) : 2 ^ (f32.mbits + 1) ≤ isqrtFrom x 0 (Nat.log2 x / 2 + 1) := by
  obtain ⟨-, hlt⟩ := isqrt_bounds (x := x) (by omega)
  by_contra hsmall
  have hle : isqrtFrom x 0 (Nat.log2 x / 2 + 1) + 1 ≤ 2 ^ 24 := not_le.mp hsmall
  have := Nat.mul_le_mul hle hle
  omega

/-! ### Square roots of numbers -/

theorem one_lt_maxFin : (1 : ℚ) < f32.magVal f32.maxFin := by
  have hone : f32.magVal 0x3F800000 = 1 := by
    have hsig : f32.significand 0x3F800000 = 2 ^ 23 := by decide
    have hexp : f32.exponent 0x3F800000 = -23 := by decide
    rw [FloatFmt.magVal, hsig, hexp]
    norm_num
  rw [← hone]
  exact magVal_strictMono f32 (by decide)

/-- A number of FP32 is less than the square of the middle beyond the largest. -/
theorem not_rootAbove_mid {v : W32} {p : ℚ} (hp : IsNumber (valF32 v) p) : ¬RootAbove p (f32.mid f32.maxFin) := by
  obtain ⟨mag, hmag, hval⟩ := number_eq (f := f32) (by decide) hp
  have hM := one_lt_maxFin
  have hle := (magVal_strictMono f32).monotone hmag
  have hmid : f32.magVal f32.maxFin < f32.mid f32.maxFin := by
    rw [FloatFmt.mid]
    linarith [magVal_strictMono f32 (Nat.lt_succ_self f32.maxFin)]
  have hp' : p ≤ f32.magVal f32.maxFin := by
    rcases hval with rfl | rfl
    · exact hle
    · linarith [magVal_nonneg f32 mag]
  rintro (h | h)
  · linarith
  · nlinarith

theorem sqrtExt_nearest {m : Nat} (hm : m ≠ 0) (e : Int) (hp : ∃ v : W32, IsNumber (valF32 v) (m * 2 ^ e)) : ∃ mag,
    mag ≤ f32.maxFin ∧ rneF32 (sqrtExt m e) = BitVec.ofNat 32 (signed f32 false mag)
      ∧ Nearest f32 (RootBelow (m * 2 ^ e)) (RootAbove (m * 2 ^ e)) (signed f32 false mag) := by
  obtain ⟨v, hv⟩ := hp
  obtain ⟨s, hs, hs64⟩ : ∃ s : Nat, (if (e - 64) % 2 = 0 then 64 else 65) = s ∧ (64 ≤ s ∧ (e - s) % 2 = 0) := by
    refine ⟨_, rfl, ?_⟩
    split <;> omega
  obtain ⟨h64, heven⟩ := hs64
  have hx : 2 ^ 64 ≤ m * 2 ^ s := (Nat.pow_le_pow_right (by decide) h64).trans (Nat.le_mul_of_pos_left _ (Nat.pos_of_ne_zero hm))
  have hp : (m : ℚ) * 2 ^ e = (m * 2 ^ s : Nat) * (2 ^ ((e - s) / 2) * 2 ^ ((e - s) / 2)) := by
    rw [← zpow_add₀ two_ne_zero, show (e - s) / 2 + (e - s) / 2 = e - s by omega, Nat.cast_mul, Nat.cast_pow, Nat.cast_ofNat,
      ← zpow_natCast, mul_assoc, ← zpow_add₀ two_ne_zero]
    congr 2
    omega
  have hsticky := sticky_root (x := m * 2 ^ s) (by omega) ((e - s) / 2)
  rw [← hp, show (e - s) / 2 = (e - s) / 2 - 1 + 1 by omega] at hsticky
  obtain ⟨lo, mag, hnear, hround⟩ := nearMag_sticky (f := f32) (by decide) (cut_root _) hsticky (root_bits hx) false
  have hmax : mag ≤ f32.maxFin := by
    by_contra hbig
    exact not_rootAbove_mid hv ((above_mid_maxFin_iff (cut_root _) hnear (by decide)).mpr (not_le.mp hbig))
  have hnearest := nearest_of_nearMag (f := f32) (by decide) (cut_root _) hnear
  rw [min_eq_left hmax] at hnearest
  rw [if_neg (not_lt.mpr hmax)] at hround
  refine ⟨mag, hmax, ?_, hnearest⟩
  rw [← hround, sqrtExt, hs]
  rfl

theorem fSqrt_positive {x : W32} {p : ℚ} (hp : IsNumber (valF32 x) p) (hpos : 0 < p) :
    (fSqrt x).getLsbD 31 = false ∧ Nearest f32 (RootBelow p) (RootAbove p) (fSqrt x).toNat := by
  obtain ⟨neg, m, e, hx, heq⟩ := hp
  have hpow : (0 : ℚ) < 2 ^ e := by positivity
  have hneg : neg = false := by
    rw [← Bool.not_eq_true]
    rintro rfl
    have : (0 : ℚ) ≤ m * 2 ^ e := by positivity
    rw [if_pos rfl, neg_one_mul, neg_mul] at heq
    linarith
  have hm : m ≠ 0 := by
    rintro rfl
    simp [heq] at hpos
  rw [hneg, if_neg Bool.false_ne_true, one_mul] at heq
  rw [hneg] at hx
  rw [heq]
  obtain ⟨mag, hmag, hcode, hnearest⟩ := sqrtExt_nearest hm e ⟨x, false, m, e, hx, by simp⟩
  have hlt : mag < 2 ^ 31 := hmag.trans_lt (maxFin_lt (f := f32) (by decide))
  have hr : fSqrt x = BitVec.ofNat 32 (signed f32 false mag) := by
    rw [← hcode, fSqrt, hx]
    simp only [if_neg hm, Bool.false_eq_true, if_false]
  have hnat : (fSqrt x).toNat = signed f32 false mag := by
    rw [hr, BitVec.toNat_ofNat]
    exact Nat.mod_eq_of_lt (signed_lt (f := f32) false hlt)
  rw [hnat, hr]
  exact ⟨(lane_signed false hlt).1, hnearest⟩

theorem fSqrt_negative {x : W32} {p : ℚ} (hp : IsNumber (valF32 x) p) (hneg : p < 0) : fSqrt x = 0x7FC00000 := by
  obtain ⟨neg, m, e, hx, heq⟩ := hp
  have hm : m ≠ 0 := by
    rintro rfl
    simp [heq] at hneg
  cases neg with
  | false =>
    have : (0 : ℚ) ≤ m * 2 ^ e := by positivity
    rw [if_neg Bool.false_ne_true, one_mul] at heq
    linarith
  | true =>
    rw [fSqrt, hx]
    simp only [if_neg hm, if_true]
    exact (rneF32_special true).1

theorem fSqrt_special (x : W32) : (x ∈ [0, 0x80000000, 0x7F800000] → fSqrt x = x)
    ∧ (isNan x = true ∨ x = 0xFF800000 → fSqrt x = 0x7FC00000) := by
  refine ⟨fun h => ?_, ?_⟩
  · simp only [List.mem_cons, List.not_mem_nil, or_false] at h
    rcases h with rfl | rfl | rfl
    · rw [fSqrt, show valF32 0 = .fin false 0 (-149) by decide]
      exact (rneF32_special false).2.2
    · rw [fSqrt, show valF32 0x80000000 = .fin true 0 (-149) by decide]
      exact (rneF32_special true).2.2
    · rw [fSqrt, show valF32 0x7F800000 = .inf false by decide]
      exact (rneF32_special false).2.1
  · rintro (h | rfl)
    · rw [fSqrt, valF32_nan h]
      exact (rneF32_special false).1
    · rw [fSqrt, show valF32 0xFF800000 = .inf true by decide]
      exact (rneF32_special false).1

end Sys2Proof.Machine
end

section
/-! PROOFS. The float lanes of the vector unit (07:R142-R144, R147, R148, R160). -/

namespace Sys2Proof.Machine

/-! ### Packing blocks (07:R148) -/

theorem getLsbD_slotLanes {b : Nat} (hb : b < 4) (i : Nat) : (BitVec.ofNat 64 (15 * 2 ^ (4 * b))).getLsbD i = decide (i / 4 = b) := by
  rw [BitVec.getLsbD_ofNat, Nat.testBit_mul_two_pow, show 15 = 2 ^ 4 - 1 by rfl, Nat.testBit_two_pow_sub_one, ← Bool.decide_and,
    ← Bool.decide_and, decide_eq_decide]
  omega

/-- The lanes of a list of slots whose bit 4b is set. -/
theorem getLsbD_foldl_slots (m : X) {l : List Nat} (hl : ∀ b ∈ l, b < 4) (r : X) (i : Nat) :
    (l.foldl (fun r b => if m.getLsbD (4 * b) then r ||| BitVec.ofNat 64 (15 * 2 ^ (4 * b)) else r) r).getLsbD i
      = (r.getLsbD i || l.any (fun b => m.getLsbD (4 * b) && decide (i / 4 = b))) := by
  induction l generalizing r with
  | nil => simp
  | cons b l ih =>
    obtain ⟨hb, hl'⟩ := List.forall_mem_cons.mp hl
    rw [List.foldl_cons, ih hl', List.any_cons]
    cases m.getLsbD (4 * b) with
    | true => rw [if_pos rfl, BitVec.getLsbD_or, getLsbD_slotLanes hb, Bool.true_and, Bool.or_assoc]
    | false => rw [if_neg Bool.false_ne_true, Bool.false_and, Bool.false_or]

theorem slotMask_bits (m : X) (i : Nat) : (slotMask m).getLsbD i = (decide (i < 16) && m.getLsbD (4 * (i / 4))) := by
  rw [slotMask, getLsbD_foldl_slots m (fun b hb => List.mem_range.mp hb), show (0 : X).getLsbD i = false from BitVec.getLsbD_zero,
    Bool.false_or, Bool.eq_iff_iff,
    List.any_eq_true, Bool.and_eq_true, decide_eq_true_iff]
  simp only [List.mem_range, Bool.and_eq_true, decide_eq_true_iff]
  constructor
  · rintro ⟨b, hb, hbit, rfl⟩
    exact ⟨by omega, hbit⟩
  · rintro ⟨hi, hbit⟩
    exact ⟨i / 4, by omega, hbit, rfl⟩

/-- A lane of a slot. -/
theorem slot_digit (v : VReg) (b : Nat) {k : Nat} (hk : k < 4) :
    (v.extractLsb' (128 * b) 128).toNat / 2 ^ (32 * k) % 2 ^ 32 = (lane v (4 * b + k)).toNat := by
  rw [lane, BitVec.extractLsb'_toNat, BitVec.extractLsb'_toNat, Nat.shiftRight_eq_div_pow, Nat.shiftRight_eq_div_pow,
    show 32 * (4 * b + k) = 128 * b + 32 * k by ring, pow_add, ← Nat.div_div_eq_div_mul]
  exact mod_pow_field _ (by omega)

/-- The four lanes of a number of 16 bytes. -/
theorem slot_ofLanes {n : Nat → Nat} (hn : ∀ b, n b < 2 ^ 128) {b : Nat} (hb : b < 4) :
    ((ofLanes (fun i => BitVec.ofNat 32 (n (i / 4) / 2 ^ (32 * (i % 4))))).extractLsb' (128 * b) 128).toNat = n b := by
  have hdigit {k : Nat} (hk : k < 4) : ((ofLanes (fun i => BitVec.ofNat 32 (n (i / 4) / 2 ^ (32 * (i % 4))))).extractLsb' (128 * b) 128).toNat
      / 2 ^ (32 * k) % 2 ^ 32 = n b / 2 ^ (32 * k) % 2 ^ 32 := by
    rw [slot_digit _ b hk, lane_ofLanes _ _ (by omega), BitVec.toNat_ofNat, show (4 * b + k) / 4 = b by omega,
      show (4 * b + k) % 4 = k by omega]
  have hlt := ((ofLanes (fun i => BitVec.ofNat 32 (n (i / 4) / 2 ^ (32 * (i % 4))))).extractLsb' (128 * b) 128).isLt
  have h0 := hdigit (k := 0) (by decide)
  have h1 := hdigit (k := 1) (by decide)
  have h2 := hdigit (k := 2) (by decide)
  have h3 := hdigit (k := 3) (by decide)
  have hnb := hn b
  generalize ((ofLanes (fun i => BitVec.ofNat 32 (n (i / 4) / 2 ^ (32 * (i % 4))))).extractLsb' (128 * b) 128).toNat = x at *
  omega

theorem seEncode_lt (t : SeTy) {xs : List Ext} (hlen : xs.length = 16) : seEncode t xs < 2 ^ 128 := by
  by_cases h : ∃ v ∈ xs, v.isFin = false
  · rw [seEncode_special t h]
    decide
  · have hnumber (i : Nat) : ∃ p, i < 16 → IsNumber (xs.getD i .nan) p := by
      by_cases hi : i < xs.length
      · cases hx : xs[i] with
        | fin neg m e => exact ⟨_, fun _ => by rw [List.getD_eq_getElem _ _ hi, hx]; exact isNumber_fin neg m e⟩
        | inf neg => exact absurd ⟨xs[i], List.getElem_mem hi, by rw [hx]; rfl⟩ h
        | nan => exact absurd ⟨xs[i], List.getElem_mem hi, by rw [hx]; rfl⟩ h
      · exact ⟨0, fun hi' => absurd (hlen ▸ hi') hi⟩
    choose v hv using hnumber
    have hwidth : seWidth t ≤ 7 := by cases t <;> decide
    exact (seEncode_fields (t := t) hlen hv).1.trans_le (Nat.pow_le_pow_right (by decide) (by omega))

section
variable {s : State} (hq : quiet s = true) (g : Guard)
include hq

/-- VPACKSE: the blocks of the slots whose guard bit is set. -/
theorem vpackse_sends (se : SeTy) (d a : BitVec 5) (hu : unitFree s 7 = true) : ∃ t, execVpackse g se d a s = .next t ∧ ∃ m w,
    Sends s t 4 7 (.v d m) w ∧ (∀ i, m.getLsbD i = (decide (i < 16) && (effGuard s.tl g).getLsbD (4 * (i / 4))))
      ∧ ∀ b, b < 4 → (w.extractLsb' (128 * b) 128).toNat
        = seEncode se ((List.range 16).map (fun k => valF32 (lane (rv s.tl a) (16 * b + k)))) := by
  obtain ⟨t, hnext, hsends, -⟩ := send_runs { unit := some 7 } 12 4 7 (fun t => .v d (slotMask (effGuard t g)))
    (fun tl => ofLanes (fun i => BitVec.ofNat 32 (seEncode se ((List.range 16).map (fun k => valF32 (vl tl a (16 * (i / 4) + k))))
      / 2 ^ (32 * (i % 4))))) s hq (clear_unit _ _ s) rfl (by simpa using hu) (by simp only [holdUnit_effGuard]) (by simp only [vl, holdUnit_rv])
  refine ⟨t, hnext, _, _, hsends, slotMask_bits _, fun b hb => ?_⟩
  exact slot_ofLanes (n := fun b => seEncode se ((List.range 16).map (fun k => valF32 (vl s.tl a (16 * b + k)))))
    (fun b => seEncode_lt se (by simp)) hb

end

/-! ### The lane-wise instructions -/

section
variable {s : State} (hq : quiet s = true) (g : Guard) (d a b : BitVec 5)
include hq

/-- A lane-wise instruction of one source register. -/
theorem oneSource_runs (unit l occ : Nat) (f : W32 → W32) (hu : unitFree s unit = true) :
    ∃ t, lanewise unit l occ g d (fun t i => f (vl t a i)) s = .next t
      ∧ Sends s t l unit (.v d (effGuard s.tl g)) (ofLanes (fun i => f (lane (rv s.tl a) i))) ∧ tget 0 t.tl.units unit = s.tl.abs + occ :=
  lanewise_runs unit l occ g d (fun t i => f (vl t a i)) s hq hu (by simp only [vl, holdUnit_rv])

/-- A lane-wise instruction of two source registers. -/
theorem twoSource_runs (unit l occ : Nat) (f : W32 → W32 → W32) (hu : unitFree s unit = true) :
    ∃ t, lanewise unit l occ g d (fun t i => f (vl t a i) (vl t b i)) s = .next t
      ∧ Sends s t l unit (.v d (effGuard s.tl g)) (ofLanes (fun i => f (lane (rv s.tl a) i) (lane (rv s.tl b) i)))
      ∧ tget 0 t.tl.units unit = s.tl.abs + occ :=
  lanewise_runs unit l occ g d (fun t i => f (vl t a i) (vl t b i)) s hq hu (by simp only [vl, holdUnit_rv])

theorem vfma_runs (c : BitVec 5) (hu : unitFree s 6 = true) : ∃ t, execVfma g d a b c s = .next t
    ∧ Sends s t 5 6 (.v d (effGuard s.tl g)) (ofLanes (fun i => fMa (lane (rv s.tl a) i) (lane (rv s.tl b) i) (lane (rv s.tl c) i)))
    ∧ tget 0 t.tl.units 6 = s.tl.abs + 1 :=
  lanewise_runs 6 5 1 g d (fun t i => fMa (vl t a i) (vl t b i) (vl t c i)) s hq hu (by simp only [vl, holdUnit_rv])

theorem vunpackse_runs (se : SeTy) (hu : unitFree s 7 = true) : ∃ t, execVunpackse g se d a s = .next t
    ∧ Sends s t 4 7 (.v d (effGuard s.tl g)) (ofLanes (fun i => rneF32 (seDecode se (slotNat (rv s.tl a) (i / 16)) (i % 16))))
    ∧ tget 0 t.tl.units 7 = s.tl.abs + 1 :=
  lanewise_runs 7 4 1 g d (fun tl i => rneF32 (seDecode se (slotNat (rv tl a) (i / 16)) (i % 16))) s hq hu (by simp only [holdUnit_rv])

omit hq in
theorem pickWord_eq (y : W32 × W32 × W32 × W32) (j : BitVec 2) :
    pickWord y j.toNat = if j = 0 then y.1 else if j = 1 then y.2.1 else if j = 2 then y.2.2.1 else y.2.2.2 := by
  have hj : j = 0 ∨ j = 1 ∨ j = 2 ∨ j = 3 := by bv_omega
  rcases hj with rfl | rfl | rfl | rfl <;> rfl

theorem philox_runs (j : BitVec 2) (hu : unitFree s 9 = true) : ∃ t, execPhilox g d a j s = .next t
    ∧ Sends s t 8 9 (.v d (effGuard s.tl g)) (ofLanes (fun i =>
      let w := philox ((rv s.tl a).extractLsb' 0 128 + BitVec.ofNat 128 i) (lane (rv s.tl a) 4) (lane (rv s.tl a) 5)
      if j = 0 then w.1 else if j = 1 then w.2.1 else if j = 2 then w.2.2.1 else w.2.2.2))
    ∧ tget 0 t.tl.units 9 = s.tl.abs + 1 := by
  dsimp only
  simp only [← pickWord_eq]
  exact lanewise_runs 9 8 1 g d (fun t i => pickWord (philox (philoxBase (rv t a) + BitVec.ofNat 128 i) (lane (rv t a) 4) (lane (rv t a) 5)) j.toNat)
    s hq hu (by simp only [holdUnit_rv])

end

/-- Settles O31: the lane-wise issues, blocks by their slots, quotients and roots from values with a sticky bit (`nearMag_sticky`),
conversions by `roundFin_spec` and `roundsToInt_roundMag`. -/
theorem vectorFloatLanes : Obligations.VectorFloatLanes := by
  refine ⟨?_, philoxGives_philox, fun s g se d a hq hu => vpackse_sends hq g se d a hu, fun x y p q hp hq => fDiv_numbers hp hq,
    fun x y => fDiv_special x y, fun x => ⟨fun p hp hpos => fSqrt_positive hp hpos, fun p hp hneg => fSqrt_negative hp hneg,
      (fSqrt_special x).1, (fSqrt_special x).2⟩, fun ta rnd v _ => ⟨fun e he => ?_, fun e he => ?_⟩⟩
  · intro s g d a b c td ta rnd se j hq x y z
    simp only [List.forall_mem_cons, List.not_mem_nil, false_implies, implies_true, and_true]
    exact ⟨(twoSource_runs hq g d a b 6 4 1 fAdd :), (twoSource_runs hq g d a b 6 4 1 fSub :), (twoSource_runs hq g d a b 6 4 1 fMul :),
      vfma_runs hq g d a b c, (twoSource_runs hq g d a b 6 4 1 fMin :), (twoSource_runs hq g d a b 6 4 1 fMax :),
      (oneSource_runs hq g d a 6 4 1 fAbs :), (oneSource_runs hq g d a 6 4 1 fNeg :), (twoSource_runs hq g d a b 6 16 8 fDiv :),
      (oneSource_runs hq g d a 6 16 8 fSqrt :), (oneSource_runs hq g d a 6 12 4 fExp2 :), (oneSource_runs hq g d a 6 12 4 fLog2 :),
      (oneSource_runs hq g d a 7 3 1 (convert td ta rnd) :), vunpackse_runs hq g d a se, philox_runs hq g d a j⟩
  · exact convert_floatType he ta rnd v
  · obtain ⟨hfloat, h2, hbits, hpos, hle, hleast, hmost⟩ := intTypes e he
    have hconv := convert_intType hfloat h2 hbits hpos hle ta rnd v
    rw [← hleast, ← hmost] at hconv
    exact hconv

end Sys2Proof.Machine
end
